-- ==== Sys2Proof/Word.lean ====
section
/-! DEFINITION. The words the device's registers and structures are made of (R7, R89, R93). -/

namespace Sys2Proof

/-- Eight bits: the unit of every structure in device and host memory (R7). -/
abbrev Byte := BitVec 8

/-- One register word of the control window; one sequencer instruction (R87). -/
abbrev Word := BitVec 32

/-- A scalar register, a tile tag, a glaze, a counter (R87, R147, R152). -/
abbrev DWord := BitVec 64

/-- A 64-byte command, byte k in bits [8k+7:8k] (R93). -/
abbrev CmdWord := BitVec 512

end Sys2Proof
end

