-- ==== Sys2Proof/Machine/Bits.lean ====
section
/-! DEFINITION. Bit fields, sign extension and little-endian byte lists: the helpers every layout of the spec is read with (R7). -/

namespace Sys2Proof.Machine

/-- Bits [hi:lo] of a number. -/
def bitsOf (v hi lo : Nat) : Nat := v / 2 ^ lo % 2 ^ (hi + 1 - lo)

/-- Bit `k` of a number. -/
def bitOf (v k : Nat) : Bool := v / 2 ^ k % 2 == 1

/-- `v` with bits [hi:lo] replaced by `x` (its low bits). -/
def setBits (v hi lo x : Nat) : Nat :=
  v - 2 ^ lo * bitsOf v hi lo + 2 ^ lo * (x % 2 ^ (hi + 1 - lo))

/-- The signed value of an `n`-bit field. -/
def signed (n v : Nat) : Int :=
  let u := v % 2 ^ n
  if u < 2 ^ (n - 1) then (u : Int) else (u : Int) - 2 ^ n

/-- An integer as an `n`-bit two's complement field. -/
def unsignedOf (n : Nat) (i : Int) : Nat := (i % (2 ^ n : Int)).toNat

/-- An integer held between two bounds. -/
def clampInt (lo hi i : Int) : Int := if i < lo then lo else if hi < i then hi else i

/-- 1 for true, 0 for false: a one-bit field. -/
def b2n (b : Bool) : Nat := if b then 1 else 0

/-- The 64-bit sign extension of a 16-bit immediate (R89). -/
def sext16 (v : BitVec 16) : DWord := v.signExtend 64

/-- The 64-bit zero extension of a 16-bit immediate (R89). -/
def zext16 (v : BitVec 16) : DWord := v.zeroExtend 64

/-- `n` bytes of a number, least significant first (R7). -/
def bytesLE : Nat → Nat → List Byte
  | 0, _ => []
  | n + 1, v => BitVec.ofNat 8 v :: bytesLE n (v / 256)

/-- The number a little-endian byte list spells (R7). -/
def numLE : List Byte → Nat
  | [] => 0
  | b :: t => b.toNat + 256 * numLE t

/-- Little-endian number of `n` bytes at offset `o` of a byte list; bytes beyond its end are zero. -/
def numAt (l : List Byte) (o n : Nat) : Nat := numLE ((l.drop o).take n)

/-- A byte list with the bytes of `w` written from offset `o`; nothing is written beyond its end. -/
def patchAt (l : List Byte) (o : Nat) (w : List Byte) : List Byte :=
  (l.take o ++ w ++ l.drop (o + w.length)).take l.length

/-- A byte list cut or padded with zeros to `n` bytes. -/
def padTo (n : Nat) (l : List Byte) : List Byte :=
  (l ++ List.replicate (n - l.length) 0).take n

/-- ceil (a / b). -/
def ceilDiv (a b : Nat) : Nat := (a + b - 1) / b

/-- `f` folded over 0, 1, ..., n-1 in that order. -/
def foldUpto {σ : Type} (f : σ → Nat → σ) : Nat → σ → σ
  | 0, s => s
  | n + 1, s => f (foldUpto f n s) n

end Sys2Proof.Machine

namespace Sys2Proof
open Sys2Proof.Machine

/-- `u8` field of a 64-byte command at byte offset `o` (R93). -/
def CmdWord.u8 (c : CmdWord) (o : Nat) : Nat := bitsOf c.toNat (8 * o + 7) (8 * o)

/-- `u16` field of a 64-byte command. -/
def CmdWord.u16 (c : CmdWord) (o : Nat) : Nat := bitsOf c.toNat (8 * o + 15) (8 * o)

/-- `u32` field of a 64-byte command. -/
def CmdWord.u32 (c : CmdWord) (o : Nat) : Nat := bitsOf c.toNat (8 * o + 31) (8 * o)

/-- `u64` field of a 64-byte command. -/
def CmdWord.u64 (c : CmdWord) (o : Nat) : Nat := bitsOf c.toNat (8 * o + 63) (8 * o)

end Sys2Proof
end

