-- ==== Sys2Proof/Machine/SMap.lean ====
section
/-! DEFINITION. Sparse maps: the one form in which the model holds anything addressed by a number (memory, register words,
tile metadata, table entries). A map is a list of key and value pairs, keys strictly rising, and no entry equal to what an
unlisted key reads as, so that equal contents are equal data. -/

namespace Sys2Proof.Machine

/-- A sparse map from numbers; what an unlisted key reads as is an argument of every operation. -/
abbrev SMap (α : Type) := List (Nat × α)

/-- What the map holds at a key; `d` says what an unlisted key reads as. -/
def SMap.get {α : Type} (d : Nat → α) : SMap α → Nat → α
  | [], k => d k
  | (j, v) :: t, k => if j = k then v else SMap.get d t k

/-- The map without an entry at a key. -/
def SMap.erase {α : Type} (m : SMap α) (k : Nat) : SMap α := m.filter fun e => e.1 != k

/-- An entry put before the first greater key. -/
def SMap.place {α : Type} (k : Nat) (v : α) : SMap α → SMap α
  | [] => [(k, v)]
  | (j, w) :: t => if k < j then (k, v) :: (j, w) :: t else (j, w) :: SMap.place k v t

/-- The map with the entry `(k, v)` in its place, and no other at `k`. -/
def SMap.insert {α : Type} (m : SMap α) (k : Nat) (v : α) : SMap α := SMap.place k v (SMap.erase m k)

/-- The map with `v` at `k`, in canonical form: writing what an unlisted key reads as removes the entry. -/
def SMap.set {α : Type} [DecidableEq α] (d : Nat → α) (m : SMap α) (k : Nat) (v : α) : SMap α :=
  if v = d k then SMap.erase m k else SMap.insert m k v

/-- Keys strictly rising above `lo`, and no entry equal to the default. -/
def SMap.wfAbove {α : Type} [DecidableEq α] (d : Nat → α) : Nat → SMap α → Bool
  | _, [] => true
  | lo, (j, v) :: t => decide (lo ≤ j) && decide (v ≠ d j) && SMap.wfAbove d (j + 1) t

/-- The canonical form of a sparse map. -/
def SMap.wf {α : Type} [DecidableEq α] (d : Nat → α) (m : SMap α) : Bool := SMap.wfAbove d 0 m

/-- The map with every key from `lo` up to but not including `hi` back at what an unlisted key reads as. -/
def SMap.clearRange {α : Type} (m : SMap α) (lo hi : Nat) : SMap α :=
  m.filter fun e => e.1 < lo || hi ≤ e.1

/-- The map with every key that `p` picks back at what an unlisted key reads as. -/
def SMap.clearIf {α : Type} (m : SMap α) (p : Nat → Bool) : SMap α :=
  m.filter fun e => !p e.1

end Sys2Proof.Machine
end

