-- ==== Sys2Proof/Syntax.lean ====
section
/-! DEFINITION. The commands of the device: one constructor per row of the table of operations and events, with the row's operands
(which core, which command, what arrives, what is written). -/

namespace Sys2Proof

/-- A channel context anywhere in the installation: package, core, context (R161). -/
structure CtxId where
  pkg  : Nat
  core : Nat
  ctx  : Nat
  deriving DecidableEq, Repr

/-- A record on its way from a send context (R166 to R171): its header's fields, its metadata records and payload bytes,
how many of its packets have arrived, and whether the sender cut it short (R184). -/
structure ChnRecord where
  dst       : CtxId
  src       : CtxId
  typ       : Nat
  isSealed  : Bool
  request   : Bool
  epoch     : Nat
  units     : Nat
  ntiles    : Nat
  len       : Nat
  msgSeq    : Nat
  tide      : Nat
  pcrc      : DWord
  metas     : List (DWord × DWord)
  payload   : List Byte
  arrived   : Nat
  cut       : Bool
  deriving DecidableEq, Repr

/-- A packet of a lane's virtual channel (R413): its header's fields and its payload. -/
structure LanePkt where
  ptype    : Nat
  isSealed : Bool
  resp     : Bool
  lepoch   : Nat
  dstPkg   : Nat
  dst      : Nat
  src      : Nat
  aux      : Nat
  payload  : List Byte
  deriving DecidableEq, Repr

/-- Where something arrives from: an item on its way inside the package, or the head of a lane's virtual channel. -/
inductive From where
  | mesh (index : Nat)
  | lane (port vc : Nat)
  deriving DecidableEq, Repr

/-- A part of a micro-batch (R297, R304): its header's fields, the link epoch at the push, its number and first data tile, and
its tiles with their metadata. -/
structure PipPart where
  mbSeq    : Nat
  step     : Nat
  index    : Nat
  cls      : Nat
  infer    : Bool
  isSealed : Bool
  vtag     : Nat
  epoch    : Nat
  part     : Nat
  offset   : Nat
  tiles    : List (List Byte × DWord × DWord)
  deriving DecidableEq, Repr

/-- What travels between cores, engines and packages. -/
inductive Pkt where
  | chn (r : ChnRecord)
  /-- A write acknowledgement: its status, the receiver's epoch, RX_OPEN (R171, R178), and the link epoch of the packet it
  answers (R415). -/
  | chnAck (dst src : CtxId) (status epoch : Nat) (rxOpen : Bool) (lepoch : Nat)
  | chnCredit (dst src : CtxId) (units : Nat)
  | openNotice (dst src : CtxId) (epoch ringUnits : Nat)
  | closedNotice (dst src : CtxId) (epoch : Nat)
  /-- A part on its way to a local RX end; its acknowledgement and a HEAD notice on their way to a local TX end. -/
  | pipPart (link : Nat) (p : PipPart)
  | pipAck (link mbSeq part status epoch : Nat)
  | pipHead (link head epoch : Nat)
  deriving DecidableEq, Repr

/-- What the sensors read at a tide tick (R367, R518 to R520): hottest junction by regulator domain; hottest DRAM junction by stack
with the die that has it; the cluster domains whose timing monitors report margin; VMAIN power in W and current in A. What is
absent reads as before. -/
structure TickEnv where
  temps  : List (Nat × Nat)
  drams  : List (Nat × Nat × Nat)
  margin : List Nat
  power  : Nat
  amps   : Nat
  deriving DecidableEq, Repr

/-- A frame as it is sent (R408): FTYPE, REPLAY, NAK, VC, FIRST, SEQ, ACK, CVC, CRED, and the bytes of its payload that are not
zero padding. -/
structure Frame where
  ftype    : Nat
  isReplay : Bool
  nak      : Bool
  vc       : Nat
  first    : Nat
  seq      : Nat
  ack      : Nat
  cvc      : Nat
  cred     : Nat
  payload  : List Byte
  deriving DecidableEq, Repr

/-- How a codeword arrived (R406, R407): whether its frame is intact, and the symbols FEC corrected, by lane of the port. -/
structure Codeword where
  intact : Bool
  fixed  : List (Nat × Nat)
  deriving DecidableEq, Repr

/-- A training block (R427): its lane, STATE, REQ by tap, QUAL; and whether this end's receiver of the lane is qualified and its
polarity inverted. -/
structure TrainBlock where
  lane     : Nat
  state    : Nat
  req      : Nat
  qual     : Bool
  own      : Bool
  inverted : Bool
  deriving DecidableEq, Repr

/-- Where the answer to a kiln's fetch or write-back comes from: the head of a lane's virtual channel, or the host window, by the
number of the fetch. -/
inductive FetchFrom where
  | lane (port vc : Nat)
  | host (id : Nat)
  deriving DecidableEq, Repr

/-- Where a collective packet comes from: the head of a lane's virtual channel, or this package's own operation: its engine,
polder and number, and the bucket tile. -/
inductive ColFrom where
  | lane (port vc : Nat)
  | own (ce polder op tile : Nat)
  deriving DecidableEq, Repr

/-- What a registry load has read: nothing, the home in host memory, or the tiles that a peer's answers brought. -/
inductive LoadResult where
  | failed
  | host
  | tiles (l : List (List Byte × DWord × DWord))
  deriving DecidableEq, Repr

/-- Where a security request comes from (R491, R507, R511): a SECURITY descriptor of a polder, or its manifests on the side-band
port. -/
inductive SecFrom where
  | host (polder : Nat)
  | sideBand (manifests : List Byte)
  deriving DecidableEq, Repr

/-- The commands. Each constructor is one row of spec/opcode_table.json, a step that is whole and indivisible. -/
inductive Instr where
  /-- TIDE_TICK (R189): what the sensors read -/
  | tideTick (env : TickEnv)
  /-- LOAD (R191) -/
  | loadArm
  /-- TIDE_LOAD (R507) -/
  | tideLoad (seconds : Nat)
  /-- TMARK_EDGE (R193): the TREF phase at the edge -/
  | tmarkEdge (phase : Nat)
  /-- TMARK_MISSING (R193) -/
  | tmarkMissing
  /-- TREF_LOST (R195) -/
  | trefLost
  /-- TREF_RETURN (R195) -/
  | trefReturn
  /-- SYNC_EXCHANGE (R197): the TREF phase -/
  | syncExchange (phase : Nat)
  /-- TIME_REQ (R436): the port, the frame, its codeword state, the phase and the turnaround -/
  | timeReq (port : Nat) (f : Frame) (w : Codeword) (phase : Nat) (turn : Nat)
  /-- TIME_RESP (R198): the port, the frame, its codeword state and the phase -/
  | timeResp (port : Nat) (f : Frame) (w : Codeword) (phase : Nat)
  /-- SYNC_MISS (R201): the TREF phase -/
  | syncMiss (phase : Nat)
  /-- TMARK_PULSE_END (R202) -/
  | tmarkPulseEnd
  /-- WHEEL_RUN (R224) -/
  | wheelRun (polder : Nat)
  /-- WHEEL_STOP (R567) -/
  | wheelStop (polder : Nat)
  /-- WHL_TBL_DATA_READ (R210) -/
  | whlTblDataRead
  /-- WHL_TBL_DATA_WRITE (R210) -/
  | whlTblDataWrite (value : Word)
  /-- TURN_START (R216) -/
  | turnStart (polder : Nat)
  /-- SLOT_START (R217): the TREF phase at its start -/
  | slotStart (core : Nat) (phase : Nat)
  /-- SLOT_END (R218): the TREF phase at its end -/
  | slotEnd (core : Nat) (phase : Nat)
  /-- GUARD_EXPIRY (R220) -/
  | guardExpiry (polder : Nat)
  /-- SQ_SAMPLE (R221) -/
  | sqSample
  /-- NOP (R89) -/
  | nop (core : Nat)
  /-- ADD (R89) -/
  | add (core : Nat)
  /-- SUB (R89) -/
  | sub (core : Nat)
  /-- MUL (R89) -/
  | mul (core : Nat)
  /-- AND (R89) -/
  | andOp (core : Nat)
  /-- OR (R89) -/
  | orOp (core : Nat)
  /-- XOR (R89) -/
  | xorOp (core : Nat)
  /-- SHL (R89) -/
  | shl (core : Nat)
  /-- SHR (R89) -/
  | shr (core : Nat)
  /-- SRA (R89) -/
  | sra (core : Nat)
  /-- SLT (R89) -/
  | slt (core : Nat)
  /-- SLTU (R89) -/
  | sltu (core : Nat)
  /-- ADDI (R89) -/
  | addi (core : Nat)
  /-- ANDI (R89) -/
  | andi (core : Nat)
  /-- ORI (R89) -/
  | ori (core : Nat)
  /-- XORI (R89) -/
  | xori (core : Nat)
  /-- SHLI (R89) -/
  | shli (core : Nat)
  /-- SHRI (R89) -/
  | shri (core : Nat)
  /-- LUI (R89) -/
  | lui (core : Nat)
  /-- LD (R89) -/
  | ld (core : Nat)
  /-- LDW (R89) -/
  | ldw (core : Nat)
  /-- ST (R89) -/
  | st (core : Nat)
  /-- STW (R89) -/
  | stw (core : Nat)
  /-- BEQ (R89) -/
  | beq (core : Nat)
  /-- BNE (R89) -/
  | bne (core : Nat)
  /-- BLT (R89) -/
  | blt (core : Nat)
  /-- BGE (R89) -/
  | bge (core : Nat)
  /-- JAL (R89) -/
  | jal (core : Nat)
  /-- JR (R89) -/
  | jr (core : Nat)
  /-- CMDW (R89) -/
  | cmdw (core : Nat)
  /-- ISSUE (R89) -/
  | issue (core : Nat)
  /-- LIST (R98) -/
  | listCmd (core : Nat)
  /-- WAITC (R89) -/
  | waitc (core : Nat)
  /-- POLLC (R89) -/
  | pollc (core : Nat)
  /-- FENCE (R91) -/
  | fence (core : Nat)
  /-- WAITS (R219) -/
  | waits (core : Nat)
  /-- RDT (R89) -/
  | rdt (core : Nat)
  /-- HALT (R89) -/
  | haltOp (core : Nat)
  /-- SCOREBOARD_ACCEPT (R102) -/
  | scoreboardAccept (core : Nat)
  /-- MATMUL (R115) -/
  | matmul (core : Nat) (seq : Nat)
  /-- MATW (R243) -/
  | matw (core : Nat) (seq : Nat)
  /-- MDUMP (R136) -/
  | mdump (core : Nat) (seq : Nat)
  /-- VSTREAM (R118) -/
  | vstream (core : Nat) (seq : Nat)
  /-- VEXT (R96) -/
  | vext (core : Nat) (seq : Nat)
  /-- VROLL (R127) -/
  | vroll (core : Nat) (seq : Nat)
  /-- XMOVE (R129): tiles: how many of its tiles the engine moves at most in this step -/
  | xmove (core : Nat) (seq : Nat) (tiles : Nat)
  /-- XATOM (R385) -/
  | xatom (core : Nat) (seq : Nat)
  /-- XFILL (R132) -/
  | xfill (core : Nat) (seq : Nat)
  /-- MSEND (R169) -/
  | msend (core : Nat) (seq : Nat)
  /-- MRECV (R172) -/
  | mrecv (core : Nat) (seq : Nat)
  /-- MFLUSH (R184) -/
  | mflush (core : Nat) (seq : Nat)
  /-- QPUSH (R304) -/
  | qpush (core : Nat) (seq : Nat)
  /-- TAKE (R306) -/
  | take (core : Nat) (seq : Nat)
  /-- INJECT (R307) -/
  | inject (core : Nat) (seq : Nat)
  /-- RELEASE (R308) -/
  | release (core : Nat) (seq : Nat)
  /-- RESERVED_OPCODE (R95) -/
  | reservedOpcode (core : Nat) (seq : Nat)
  /-- COMMAND_COMPLETION (R104) -/
  | commandCompletion (core : Nat) (seq : Nat)
  /-- CORE_ABANDON (R143) -/
  | coreAbandon (core : Nat)
  /-- STEP_ENTRY_RESTART (R143) -/
  | stepEntryRestart (core : Nat)
  /-- CORE_RESET (R144) -/
  | coreReset (core : Nat)
  /-- SSTEP (R140) -/
  | sstep (core : Nat)
  /-- HALT_REQUEST (R140) -/
  | haltRequest (core : Nat)
  /-- RESUME (R140) -/
  | resumeCore (core : Nat)
  /-- CORE_RUN (R223) -/
  | coreRun (core : Nat)
  /-- DBG_ACC_SEL (R137): the word written to CORE_DBG_ACC_SEL -/
  | dbgAccSel (core : Nat) (value : Word)
  /-- ACC_SNAPSHOT_READY (R137) -/
  | accSnapshotReady (core : Nat)
  /-- CORE_DBG_XREG_WRITE (R139): which half of X[n] is written, and with what -/
  | coreDbgXregWrite (core : Nat) (n : Nat) (high : Bool) (value : Word)
  /-- APERTURE_READ (R34): the offset in BAR 2, the bytes and the request -/
  | apertureRead (off : Nat) (n : Nat) (id : Nat)
  /-- APERTURE_WRITE (R142): the offset in BAR 2, the bytes, and the fuse blocks as above -/
  | apertureWrite (off : Nat) (data : List Byte) (blocks : List (Nat × List Byte))
  /-- CHN_DATA (R170): from which item on its way, or which lane virtual channel -/
  | chnData (src : From)
  /-- CHN_ACK (R171): from which item on its way, or which lane virtual channel -/
  | chnAck (src : From)
  /-- CHN_CREDIT (R174): from which item on its way, or which lane virtual channel -/
  | chnCredit (src : From)
  /-- OPEN_NOTICE (R181): from which item on its way, or which lane virtual channel -/
  | openNotice (src : From)
  /-- CLOSED_NOTICE (R180): from which item on its way, or which lane virtual channel -/
  | closedNotice (src : From)
  /-- CTX_OPEN (R181): on the context CHN_CTX_SEL selects -/
  | ctxOpen (core : Nat)
  /-- CTX_CLOSE (R179): on the context CHN_CTX_SEL selects -/
  | ctxClose (core : Nat)
  /-- REPLY_TIMEOUT (R185): the send context -/
  | replyTimeout (core : Nat) (ctx : Nat)
  /-- RING_POLL (R266) -/
  | ringPoll (mf : Nat) (polder : Nat)
  /-- MFE_SLICE_END (R260) -/
  | mfeSliceEnd (mf : Nat)
  /-- POSITION_FILLED (R280): the sample by its ring index -/
  | positionFilled (mf : Nat) (polder : Nat) (idx : Nat)
  /-- LANDING_WRITE (R279): the sample by its ring index, its map entry, and which tile of that -/
  | landingWrite (mf : Nat) (polder : Nat) (idx : Nat) (entry : Nat) (tile : Nat)
  /-- TOK_LOAD (R274) -/
  | tokLoad (mf : Nat)
  /-- MFE_RUN (R278) -/
  | mfeRun (mf : Nat) (polder : Nat)
  /-- MARK (R285) -/
  | mark (mf : Nat) (polder : Nat)
  /-- REWIND (R285) -/
  | rewind (mf : Nat) (polder : Nat)
  /-- LINK_OPEN (R292) -/
  | linkOpen (link : Nat)
  /-- LINK_CLOSE (R292) -/
  | linkClose (link : Nat)
  /-- PIP_OPEN (R292) -/
  | pipOpen (port : Nat) (vc : Nat)
  /-- PIP_OPEN_RETRY (R292) -/
  | pipOpenRetry (link : Nat)
  /-- PIP_PART (R297): where it comes from, and whether a lane packet is the last of its part -/
  | pipPart (src : From) (last : Bool)
  /-- PIP_ACK (R304) -/
  | pipAck (src : From)
  /-- PIP_HEAD (R296) -/
  | pipHead (src : From)
  /-- GROUP_INIT (R316) -/
  | groupInit (group : Nat) (number : Word)
  /-- PIP_ABANDON (R326) -/
  | pipAbandon (polder : Nat)
  /-- DELIVERY (R332): the collective engine, the polder, the operation and the bucket tile -/
  | delivery (ce : Nat) (polder : Nat) (op : Nat) (index : Nat)
  /-- FETCH_REQ (R473): the port and the virtual channel -/
  | fetchReq (port : Nat) (vc : Nat)
  /-- FETCH_DATA (R347): where the answer comes from -/
  | fetchData (src : FetchFrom)
  /-- FETCH_TIMEOUT (R349): the number of the fetch -/
  | fetchTimeout (id : Nat)
  /-- WB_DATA (R473): the port and the virtual channel -/
  | wbData (port : Nat) (vc : Nat)
  /-- WB_ACK (R473): where the answer comes from -/
  | wbAck (src : FetchFrom)
  /-- ROOT_COMPUTATION (R353): the kiln, the layer and the block -/
  | rootComputation (kiln : Nat) (layer : Nat) (block : Nat)
  /-- TBL_LOAD (R340) -/
  | tblLoad
  /-- WEIR_REFILL (R376) -/
  | weirRefill
  /-- THROTTLE_RISE (R519): the cluster domain -/
  | throttleRise (dom : Nat)
  /-- CURRENT_LIMIT (R520) -/
  | currentLimit
  /-- APPLY (R398): the stack -/
  | applyRepair (stack : Nat)
  /-- MARGIN_START (R399): the stack -/
  | marginStart (stack : Nat)
  /-- MARGIN_DONE (R399): the stack and the bit errors seen -/
  | marginDone (stack : Nat) (errors : Nat)
  /-- WIPE (R401): the mask of polders -/
  | wipe (polders : Nat)
  /-- WIPE_DONE (R400): the channels, as stack × 32 + channel -/
  | wipeDone (chans : List Nat)
  /-- PIN (R396): the entry -/
  | pinEntry (index : Nat)
  /-- UNPIN (R396): the entry -/
  | unpinEntry (index : Nat)
  /-- EVICT (R396): the entry -/
  | evictEntry (index : Nat)
  /-- REG_LOAD (R393): the entry -/
  | regLoad (index : Nat)
  /-- REG_LOAD_COMPLETE (R394): the entry and what was read -/
  | regLoadComplete (index : Nat) (r : LoadResult)
  /-- DATA_FRAME (R419) -/
  | dataFrame (port : Nat) (f : Frame) (w : Codeword)
  /-- IDLE_FRAME (R409) -/
  | idleFrame (port : Nat) (f : Frame) (w : Codeword)
  /-- CAPS (R429) -/
  | capsFrame (port : Nat) (f : Frame) (w : Codeword)
  /-- CREDIT_INIT (R423) -/
  | creditInit (port : Nat) (f : Frame) (w : Codeword)
  /-- VC_STATUS (R425) -/
  | vcStatus (port : Nat) (f : Frame) (w : Codeword)
  /-- REQ (R433) -/
  | reqFrame (port : Nat) (f : Frame) (w : Codeword)
  /-- REQ_ACK (R433) -/
  | reqAckFrame (port : Nat) (f : Frame) (w : Codeword)
  /-- CTRL_BAD (R409) -/
  | ctrlBad (port : Nat) (w : Codeword)
  /-- TRAINING_BLOCK (R427) -/
  | trainingBlock (port : Nat) (b : TrainBlock)
  /-- ACK_TIMEOUT (R420) -/
  | ackTimeout (port : Nat)
  /-- NAK_REPEAT (R419) -/
  | nakRepeat (port : Nat)
  /-- REPLAY_BOUND (R421) -/
  | replayBound (port : Nat)
  /-- LEAK_TIMER (R425) -/
  | leakTimer (port : Nat) (vc : Nat)
  /-- TRAINING_LIMIT (R426) -/
  | trainingLimit (port : Nat)
  /-- RETRAIN_LIMIT (R434) -/
  | retrainLimit (port : Nat)
  /-- REQ_TIMEOUT (R433) -/
  | reqTimeout (port : Nat)
  /-- PORT_ENABLE (R426) -/
  | portEnable (port : Nat)
  /-- PORT_RESET (R430) -/
  | portReset (port : Nat)
  /-- PORT_DOWN (R434) -/
  | portDown (port : Nat)
  /-- PORT_RETRAIN (R433) -/
  | portRetrain (port : Nat)
  /-- EXPORT (R438): the port and the virtual channel -/
  | exportPkt (port : Nat) (vc : Nat)
  /-- EXPORT_DRAIN (R437): the polder -/
  | exportDrain (polder : Nat)
  /-- CULVERT_BEAT (R441): the culvert, the direction, the sequence number, the CRC check and whether a packet ends -/
  | culvertBeat (culv : Nat) (dir : Nat) (seq : Nat) (intact : Bool) (last : Bool)
  /-- CULVERT_REPLAY_BOUND (R441): the culvert -/
  | culvertReplayBound (culv : Nat)
  /-- CULVERT_RECOVERY_LIMIT (R445): the culvert -/
  | culvertRecoveryLimit (culv : Nat)
  /-- REJOIN (R446): the culvert -/
  | rejoin (culv : Nat)
  /-- CONTRIBUTION_PULL (R458): the collective engine, the polder, the operation and the pull list entry -/
  | contributionPull (ce : Nat) (polder : Nat) (op : Nat) (entry : Nat)
  /-- RED_PART (R460): the port and the virtual channel -/
  | redPart (port : Nat) (vc : Nat)
  /-- RED_RESULT (R462): the port and the virtual channel -/
  | redResult (port : Nat) (vc : Nat)
  /-- DIGEST (R465): where the record comes from -/
  | digestRec (src : ColFrom)
  /-- GATHER_DATA (R468): where the tile comes from -/
  | gatherData (src : ColFrom)
  /-- PERM_DATA (R470): where the tile comes from -/
  | permData (src : ColFrom)
  /-- PERM_ACK (R470): the port and the virtual channel -/
  | permAck (port : Nat) (vc : Nat)
  /-- INSTALL (R512): the polder -/
  | installJob (polder : Nat)
  /-- INSTALL_SECTIONS_DONE (R512): the polder -/
  | installSectionsDone (polder : Nat)
  /-- RETIRE (R512): the polder -/
  | retire (polder : Nat)
  /-- RESHARD (R471): the polder -/
  | reshard (polder : Nat)
  /-- ATTEST (R496): the polder -/
  | attest (polder : Nat)
  /-- KEY_IMPORT (R498): the polder -/
  | keyImport (polder : Nat)
  /-- KEY_CLEAR (R499): the polder -/
  | keyClear (polder : Nat)
  /-- TAKE_OWNERSHIP (R491): where it comes from, and the fuse blocks as the warm reset reads them -/
  | takeOwnership (src : SecFrom) (blocks : List (Nat × List Byte))
  /-- REPLACE_KEYS (R491): as above -/
  | replaceKeys (src : SecFrom) (blocks : List (Nat × List Byte))
  /-- LC_RELEASE (R491): as above -/
  | lcRelease (src : SecFrom) (blocks : List (Nat × List Byte))
  /-- ENTER_RMA (R491): as above -/
  | enterRma (src : SecFrom) (blocks : List (Nat × List Byte))
  /-- ALLOW_ROLLBACK (R487): where it comes from -/
  | allowRollback (src : SecFrom)
  /-- COMMIT_SVN (R487) -/
  | commitSvn
  /-- FIRMWARE_UPDATE (R487): the bundle that the update transfers -/
  | firmwareUpdate (bundle : List Byte)
  /-- PLDM_MONITORING (R507): the request, and whether it retrieves the platform events -/
  | pldmMonitoring (request : List Byte) (events : Bool)
  /-- GET_VERSION (R507): the request -/
  | getVersion (request : List Byte)
  /-- GET_CAPABILITIES (R507): the request -/
  | getCapabilities (request : List Byte)
  /-- NEGOTIATE_ALGORITHMS (R508): the request -/
  | negotiateAlgorithms (request : List Byte)
  /-- GET_DIGESTS (R507): the request -/
  | getDigests (request : List Byte)
  /-- GET_CERTIFICATE (R508): the request -/
  | getCertificate (request : List Byte)
  /-- CHALLENGE (R508): the request -/
  | challenge (request : List Byte)
  /-- GET_MEASUREMENTS (R508): the request, the index it names and its nonce -/
  | getMeasurements (request : List Byte) (index : Nat) (nonce : List Byte)
  /-- CHUNK_GET (R507): the request -/
  | chunkGet (request : List Byte)
  /-- PRESENCE_LATCH (R490) -/
  | presenceLatch
  /-- PRESENCE_EXPIRY (R490) -/
  | presenceExpiry
  /-- RECOVERY_BOOT (R488) -/
  | recoveryBoot
  /-- RING_ENABLE (R506): the ring -/
  | ringEnable (ring : Nat)
  /-- BAR_RESIZE (R509): log2 of the size -/
  | barResize (log2 : Nat)
  /-- PCIE_CONFIG_REQUEST (R554): the offset, the bytes read, the bytes written, none for a read, and the request -/
  | pcieConfigRequest (off : Nat) (n : Nat) (data : List Byte) (id : Nat)
  /-- PERST (R554) -/
  | perst
  /-- BYPASS (R555) -/
  | jtagBypass
  /-- IDCODE (R555) -/
  | jtagIdcode
  /-- SAMPLE_PRELOAD (R555): the levels of the lands and the values shifted in -/
  | jtagSamplePreload (levels : List Bool) (values : List Bool)
  /-- EXTEST (R555): as above -/
  | jtagExtest (levels : List Bool) (values : List Bool)
  /-- CLAMP (R555) -/
  | jtagClamp
  /-- HIGHZ (R555) -/
  | jtagHighz
  /-- CWACC (R555): the offset, the value of a write, and the fuse blocks as for REGISTER_WRITE -/
  | jtagCwacc (off : Nat) (value : Option Word) (blocks : List (Nat × List Byte))
  /-- ENTDAA (R555): the address assigned -/
  | entdaa (addr : Nat)
  /-- SETDASA (R555): the static address named, and the address assigned -/
  | setdasa (static : Nat) (addr : Nat)
  /-- VAUX_GOOD (R522): the straps SB_SEL and SB_ADDR -/
  | vauxGood (sel : Bool) (addr : Nat)
  /-- PWRGOOD_RISE (R515): the fuse blocks, as the paths to the dies answer -/
  | pwrgoodRise (blocks : List (Nat × List Byte))
  /-- PWRGOOD_FALL (R515) -/
  | pwrgoodFall
  /-- RESET_ASSERT (R530) -/
  | resetAssert
  /-- RESET_RELEASE (R554): the fuse blocks, as the paths to the dies answer -/
  | resetRelease (blocks : List (Nat × List Byte))
  /-- COLD_RESET (R530): the fuse blocks, as the paths to the dies answer -/
  | coldReset (blocks : List (Nat × List Byte))
  /-- WARM_RESET (R530): the fuse blocks, as the paths to the dies answer -/
  | warmReset (blocks : List (Nat × List Byte))
  /-- DIE_RESET (R532): the die and its identity record as read again -/
  | dieReset (die : Nat) (record : List Byte)
  /-- POLDER_RESET (R530): the polder -/
  | polderReset (polder : Nat)
  /-- DIE_CLOCK_LOSS (R532): the die -/
  | dieClockLoss (die : Nat)
  /-- DIE_CLOCK_RETURN (R532): the die and its identity record as read again -/
  | dieClockReturn (die : Nat) (record : List Byte)
  /-- DIE_CLOCK_TIMEOUT (R532): the die -/
  | dieClockTimeout (die : Nat)
  /-- WATCHDOG_EXPIRY (R534): the polder -/
  | watchdogExpiry (polder : Nat)
  /-- RECOV_ABANDON (R536): the polder -/
  | recovAbandon (polder : Nat)
  /-- RECOV_RESTORE (R537): the polder -/
  | recovRestore (polder : Nat)
  /-- SNAP (R83) -/
  | snap
  /-- COUNTER_CLEAR (R83): the offset of the counter register -/
  | counterClear (off : Nat)
  /-- REGISTER_WRITE (R11): the offset, the value and, where the write resets the package, the fuse blocks -/
  | registerWrite (off : Nat) (value : Word) (blocks : List (Nat × List Byte))
  /-- VAUX_LOSS (R515) -/
  | vauxLoss
  /-- RESERVED_SEQUENCER_OPCODE (R90) -/
  | reservedSequencerOpcode (core : Nat)
  /-- CULVERT_TRAINING_END (R443): the culvert, the failing wires of each direction, the wire epochs of both ends -/
  | culvertTrainingEnd (culv : Nat) (bad0 : Nat) (bad1 : Nat) (own : Nat) (recorded : Nat)
  /-- TIMING_MONITOR_WARNING (R518): the cluster domain -/
  | timingMonitorWarning (dom : Nat)
  /-- PERST_RELEASE (R553) -/
  | perstRelease
  deriving DecidableEq, Repr

end Sys2Proof
end

