-- ==== Sys2Proof/Decode.lean ====
section
/-! DEFINITION. The decoder of table words. spec/opcode_table.json gives no row any bits: a command comes from outside with its
operands, not as a word, so no word spells one. -/

namespace Sys2Proof

/-- The command that an `nbits`-bit word spells by the table's bits. -/
def decodeTableWord (_nbits _w : Nat) : Option Instr := none

end Sys2Proof
end

