-- ==== Sys2Proof/Config.lean ====
section
/-! DEFINITION. What the spec leaves open, and the standards it names without restating them, as constants without a body: nothing
in Lean can evaluate them, and a claim that mentions them holds whatever they are. Each is named in the assumption log. -/

namespace Sys2Proof.Config

/-- The n-th free value: a natural number of which nothing is known. State.free counts how many a run has used (log 1). -/
opaque freeNat : Nat → Nat

/-- AES-256-GCM-SIV (RFC 8452): sealing under key, nonce, AAD and plaintext answers the ciphertext with its 16-byte tag; opening
answers the plaintext, or nothing when the tag does not match (log 19). -/
opaque aeadSeal (key nonce aad plain : List Byte) : List Byte
opaque aeadOpen (key nonce aad sealed : List Byte) : Option (List Byte)

/-- How a decoded picture gives its colours: one grey channel, luma with two colour differences, red with green and blue, or an
index into a palette of 8-bit red, green and blue. -/
inductive Colours where
  | grey | ycc | rgb
  | indexed (palette : List (Nat × Nat × Nat))
  deriving DecidableEq, Repr, Inhabited

/-- What a decoder finds in a bitstream (R262 to R264, R271, R272, R276). -/
structure MediaInfo where
  /-- The bytes given hold the headers. -/
  header  : Bool
  /-- They break their standard, its own checks of cyclic codes aside. -/
  broken  : Bool
  /-- The coding form. JPEG: 0 baseline, 1 progressive Huffman. PNG: 0 one picture, 1 an animation. AV1: 0 low-overhead OBUs without
  large-scale tiles. HEVC: 0 Annex B bytes without extensions. FLAC: 0 a native stream. Opus: 0 Ogg with channel mapping family 0.
  Other numbers: a form that R262 does not list. -/
  form    : Nat
  width   : Nat
  height  : Nat
  /-- Components of a picture, channels of a sound. -/
  comps   : Nat
  /-- Bits of a sample. -/
  bits    : Nat
  /-- 0 4:4:4, 1 4:2:2, 2 4:2:0; other numbers: other layouts. -/
  chroma  : Nat
  /-- AV1: 0 Main. HEVC: 1 Main, 2 Main 10. -/
  profile : Nat
  /-- Ten times the level, and whether the tier is High. -/
  level   : Nat
  high    : Bool
  /-- It begins at a random-access point. -/
  entry   : Bool
  colours : Colours
  /-- The matrix coefficients' code in ITU-T H.273, 2 where none are signalled, and whether samples use the full range. -/
  matrix  : Nat
  full    : Bool
  /-- Frames of a video, samples of each channel of a sound, and the sound's rate in Hz. -/
  frames  : Nat
  rate    : Nat
  grain   : Bool
  /-- The frames of a FLAC stream: first byte and length of each. -/
  parts   : List (Nat × Nat)
  deriving DecidableEq, Repr, Inhabited

/-- The decoders of R262, by sample KIND and source bytes: JPEG, PNG, AV1, HEVC, FLAC, Opus (log 27). -/
opaque mediaInfo (kind : Nat) (src : List Byte) : MediaInfo

/-- One sample of a decoded picture, in display order, at the full resolution, before colour conversion (log 27). -/
opaque pixel (kind : Nat) (src : List Byte) (frame comp x y : Nat) : Nat

/-- Colour conversion by matrix coefficients that are no matrix of luma weights: the three samples, the code and the depth give a
channel (R271 step 1, log 27). -/
opaque colour (matrix depth : Nat) (a b c : Nat) (chan : Nat) : Rat

/-- Sample `n` of a channel of a decoded sound, as a signed integer (R272 step 1, log 27). -/
opaque soundPoint (kind : Nat) (src : List Byte) (n chan : Nat) : Int

/-- The polyphase filter from one rate to another in Hz: its taps, its delay and how many samples come of `n` (R272 step 1, log 27).
Its stopband attenuation is at least 80 dB. -/
opaque resampleTaps (source target : Nat) : List Rat
opaque resampleDelay (source target : Nat) : Nat
opaque resampleLen (source target n : Nat) : Nat

/-- A code point's general category in Unicode 15.1.0, as far as R273 asks. -/
inductive Category where
  | letter | mark | number | other
  deriving DecidableEq, Repr, Inhabited

/-- The character data of Unicode 15.1.0 (R262, R273, log 28): general category, combining class, the full canonical or compatibility
decomposition of a code point that has one, and the primary composite of two. -/
opaque category : Nat → Category
opaque combining : Nat → Nat
opaque decomposition (compat : Bool) (c : Nat) : Option (List Nat)
opaque composite (a b : Nat) : Option Nat

/-- Exponent bits beyond 8 and significant bits beyond 16 of the kiln's datapath (R339, log 34). -/
opaque kilnExtra : Nat × Nat

/-- The power of two that a product of two matrices of the matrix rule is accumulated at (R353, log 35). -/
opaque productSigma : List (List Rat) → List (List Rat) → Int

/-- The bits of a result that R338 does not state, the same for equal operands on every kiln (R76, log 1): a quotient by zero and a
root of a negative value, by which it is, signs and magnitudes, none for an infinity. -/
opaque kilnOpen : Nat → Bool × Option Rat → Bool × Option Rat → Nat

/-- The bits of σ after a norm of zero (R356, log 36). -/
opaque kilnSigma : Nat

/-- The mesh and culvert phases that a configuration image reserves to media front-ends (R261): links by die, stop and direction, each
with its phases. No field of the image is given for them (log 31). -/
opaque imagePhases : List (BitVec 8) → List ((Nat × Nat × Nat) × Nat)

/-- MGT_PART_VARIANT.PART_SUFFIX of this part, two BCD digits (R563, log 41). -/
opaque partSuffix : Nat

/-! Cryptography (R484 to R501, R508), by the standards that the spec names (log 38). -/

/-- AES-256-GCM opened under key, IV and AAD: the plaintext, or nothing when the tag, the last 16 bytes, does not match. -/
opaque gcmOpen (key iv aad sealed : List Byte) : Option (List Byte)

/-- SHA-384. -/
opaque sha384 : List Byte → List Byte

/-- Whether the RSASSA-PSS and the SLH-DSA signature of a message verify under a key set. -/
opaque signed (keys msg rsa slh : List Byte) : Bool × Bool

/-- The public keys of a Quobriak signing pair; the device's identity public keys, RSA then SLH-DSA, and its signatures under
them; its certificate chain. -/
opaque quobriakKey : Nat → List Byte
opaque identityKeys : List Byte
opaque identitySign : List Byte → List Byte × List Byte
opaque certChain : List Byte

/-- The ephemeral pairs made from a random value: encapsulation key and P-384 point; decapsulation and the x-coordinate of the
ECDH result; HKDF-SHA-384 for "G960 key release". -/
opaque kemPublic : Nat → List Byte
opaque ecdhPublic : Nat → List Byte
opaque kemOpen : Nat → List Byte → List Byte
opaque ecdhShared : Nat → List Byte → List Byte
opaque keyRelease (kem ecdh salt : List Byte) : List Byte

/-- The answers that other standards give (R507, R508, R554, log 39): an SPDM response to a request after the messages before it,
with a measurement value; PLDM sensor data, none for a sensor that is unavailable, with the dies that failed and their codes; a read of the PCIe configuration space after the writes made to it. -/
opaque spdmAnswer (before : List (List Byte)) (request value : List Byte) : List Byte
opaque pldmAnswer (request : List Byte) (readings : List (Option Nat)) (failed : List (Nat × Nat)) : List Byte
opaque pcieRead (writes : List (Nat × List Byte)) (off n : Nat) : List Byte

end Sys2Proof.Config
end

