-- ==== Sys2Proof/Machine/Num.lean ====
section
/-! DEFINITION. The number formats of R37, exact values, rounding to nearest even (R49), saturation (R50), the special
values of R40 and R41, and conversion between patterns and values. Values are exact rationals with a sign of their own,
so that signed zeros are kept (R39). -/

namespace Sys2Proof.Machine

/-- A value of a floating format: NaN, a signed infinity, or a sign with an exact magnitude (R37, R39). -/
inductive FV where
  | nan
  | inf (neg : Bool)
  | fin (neg : Bool) (mag : Rat)
  deriving DecidableEq, Repr

/-- 2^k for any integer k. -/
def pow2 (k : Int) : Rat := if 0 ≤ k then (2 ^ k.toNat : Nat) else 1 / ((2 ^ (-k).toNat : Nat) : Rat)

/-- floor (log2 q) of a positive rational. -/
def floorLog2 (q : Rat) : Int :=
  let k : Int := (Nat.log2 q.num.toNat : Int) - (Nat.log2 q.den : Int)
  if pow2 k ≤ q then k else k - 1

/-- ceil (log2 q) of a positive rational. -/
def ceilLog2 (q : Rat) : Int :=
  let k := floorLog2 q
  if pow2 k = q then k else k + 1

/-- A non-negative rational rounded to the nearest integer, ties to even. -/
def roundEvenNat (q : Rat) : Nat :=
  let n := q.num.toNat
  let f := n / q.den
  let r := n % q.den
  if 2 * r < q.den then f else if q.den < 2 * r then f + 1 else f + f % 2

/-- A magnitude rounded to nearest even with `m` mantissa bits and smallest normal exponent `emin`, as if there were no
upper exponent limit (R49, R50). -/
def roundMag (m : Nat) (emin : Int) (x : Rat) : Rat :=
  if x = 0 then 0 else
    let u := pow2 (max (floorLog2 x) emin - m)
    (roundEvenNat (x / u) : Rat) * u

/-- How a floating format spends its all-ones exponent (R37). -/
inductive SpecialKind where
  | ieee    -- infinities and NaN
  | e4m3    -- only S.1111.111 is NaN, no infinity
  | finite  -- every pattern is a finite number
  deriving DecidableEq, Repr

/-- The parameters of a floating format (R37). -/
structure FpFmt where
  ebits : Nat
  mbits : Nat
  bias  : Nat
  kind  : SpecialKind
  deriving DecidableEq, Repr

/-- binary16 (R37 code 0x1). -/
def fmtB16 : FpFmt := ⟨5, 10, 15, .ieee⟩

/-- bfloat16 (R37 code 0x0). -/
def fmtBf16 : FpFmt := ⟨8, 7, 127, .ieee⟩

/-- The stage value of the vector engine: 8-bit exponent with bias 127, 10-bit mantissa (R117). -/
def fmtStage : FpFmt := ⟨8, 10, 127, .ieee⟩

/-- The element type of each floating format code (R37); S16 stores binary16 patterns, MX codes their element type. -/
def fmtOfCode : Nat → Option FpFmt
  | 0x0 => some fmtBf16
  | 0x1 | 0x2 => some fmtB16
  | 0x3 | 0x5 => some ⟨4, 3, 7, .e4m3⟩
  | 0x4 | 0x6 => some ⟨5, 2, 15, .ieee⟩
  | 0x7 => some ⟨3, 2, 3, .finite⟩
  | 0x8 => some ⟨2, 3, 1, .finite⟩
  | 0x9 => some ⟨2, 1, 1, .finite⟩
  | _ => none

/-- Smallest normal exponent. -/
def FpFmt.emin (f : FpFmt) : Int := 1 - (f.bias : Int)

/-- Largest finite magnitude (R37). -/
def FpFmt.maxFinite (f : FpFmt) : Rat :=
  match f.kind with
  | .ieee => (2 - pow2 (-(f.mbits : Int))) * pow2 ((2 ^ f.ebits : Nat) - 2 - f.bias)
  | .e4m3 => 448
  | .finite => (2 - pow2 (-(f.mbits : Int))) * pow2 ((2 ^ f.ebits : Nat) - 1 - f.bias)

/-- The value of a pattern, subnormals kept (R38). -/
def FpFmt.decode (f : FpFmt) (w : Nat) : FV :=
  let s := bitOf w (f.ebits + f.mbits)
  let e := bitsOf w (f.ebits + f.mbits - 1) f.mbits
  let m := w % 2 ^ f.mbits
  let top := 2 ^ f.ebits - 1
  if f.kind = .ieee ∧ e = top then (if m = 0 then .inf s else .nan)
  else if f.kind = .e4m3 ∧ e = top ∧ m = 2 ^ f.mbits - 1 then .nan
  else if e = 0 then .fin s ((m : Rat) * pow2 (f.emin - f.mbits))
  else .fin s (((2 ^ f.mbits + m : Nat) : Rat) * pow2 ((e : Int) - f.bias - f.mbits))

/-- The canonical NaN (R40). -/
def FpFmt.nanPattern (f : FpFmt) : Nat :=
  match f.kind with
  | .ieee => (2 ^ f.ebits - 1) * 2 ^ f.mbits + 2 ^ (f.mbits - 1)
  | .e4m3 => 0x7F
  | .finite => 0

/-- The pattern of a value the format holds exactly. -/
def FpFmt.encode (f : FpFmt) (v : FV) : Nat :=
  let sgn (s : Bool) := b2n s * 2 ^ (f.ebits + f.mbits)
  match v with
  | .nan => f.nanPattern
  | .inf s => sgn s + (2 ^ f.ebits - 1) * 2 ^ f.mbits
  | .fin s x =>
    if x = 0 then sgn s
    else
      let e := floorLog2 x
      if e < f.emin then sgn s + (x / pow2 (f.emin - f.mbits)).num.toNat
      else sgn s + (e + f.bias).toNat * 2 ^ f.mbits + ((x / pow2 (e - f.mbits)).num.toNat - 2 ^ f.mbits)

/-- Rounding of an arithmetic result: a rounded magnitude beyond the largest finite value is an infinity (R51, R117). -/
def FpFmt.roundOp (f : FpFmt) : FV → FV
  | .fin s x =>
    let r := roundMag f.mbits f.emin x
    if f.maxFinite < r then .inf s else .fin s r
  | v => v

/-- What a conversion did beside giving a value: the events R82 counts. -/
structure ConvFlags where
  ovf : Bool := false
  unf : Bool := false
  nan : Bool := false
  deriving DecidableEq, Repr

/-- Conversion into a floating format, which rounds and then saturates (R50), with the special values of R41. -/
def FpFmt.convert (f : FpFmt) : FV → FV × ConvFlags
  | .nan => (.nan, ⟨false, false, true⟩)
  | .inf s => if f.kind = .ieee then (.inf s, {}) else (.fin s f.maxFinite, ⟨true, false, false⟩)
  | .fin s x =>
    let r := roundMag f.mbits f.emin x
    if f.maxFinite < r then (.fin s f.maxFinite, ⟨true, false, false⟩)
    else (.fin s r, ⟨false, r = 0 ∧ x ≠ 0, false⟩)

/-- Conversion into INT8 (R41, R50). -/
def convertInt8 : FV → Nat × ConvFlags
  | .nan => (0, ⟨false, false, true⟩)
  | .inf true => (0x80, ⟨true, false, false⟩)
  | .inf false => (0x7F, ⟨true, false, false⟩)
  | .fin s x =>
    let r := roundEvenNat x
    if s then (if 128 < r then (0x80, ⟨true, false, false⟩) else ((256 - r) % 256, ⟨false, r = 0 ∧ x ≠ 0, false⟩))
    else (if 127 < r then (0x7F, ⟨true, false, false⟩) else (r, ⟨false, r = 0 ∧ x ≠ 0, false⟩))

/-- The sign of a value; a NaN carries none. -/
def FV.isNeg : FV → Bool
  | .nan => false
  | .inf s => s
  | .fin s _ => s

def FV.isFinite : FV → Bool
  | .fin _ _ => true
  | _ => false

def FV.isInf : FV → Bool
  | .inf _ => true
  | _ => false

/-- The exact number of a finite value; 0 for the others, whose callers test them first. -/
def FV.toRat : FV → Rat
  | .fin true x => -x
  | .fin false x => x
  | _ => 0

/-- The exact magnitude of a finite value, 0 for the others. -/
def FV.mag : FV → Rat
  | .fin _ x => x
  | _ => 0

/-- A number as a value; an exact zero is +0. -/
def FV.ofRat (q : Rat) : FV := if q < 0 then .fin true (-q) else .fin false q

def FV.neg : FV → FV
  | .nan => .nan
  | .inf s => .inf (!s)
  | .fin s x => .fin (!s) x

def FV.abs : FV → FV
  | .nan => .nan
  | .inf _ => .inf false
  | .fin _ x => .fin false x

/-- The exact sum; a zero sum of opposite signs is +0, of two -0 is -0 (R39). -/
def FV.add : FV → FV → FV
  | .nan, _ => .nan
  | _, .nan => .nan
  | .inf s, .inf t => if s = t then .inf s else .nan
  | .inf s, .fin _ _ => .inf s
  | .fin _ _, .inf t => .inf t
  | .fin s x, .fin t y =>
    if x = 0 ∧ y = 0 then .fin (s && t) 0
    else FV.ofRat ((FV.fin s x).toRat + (FV.fin t y).toRat)

def FV.sub (a b : FV) : FV := a.add b.neg

/-- The exact product. -/
def FV.mul : FV → FV → FV
  | .nan, _ => .nan
  | _, .nan => .nan
  | .inf s, .inf t => .inf (s != t)
  | .inf s, .fin t y => if y = 0 then .nan else .inf (s != t)
  | .fin s x, .inf t => if x = 0 then .nan else .inf (s != t)
  | .fin s x, .fin t y => .fin (s != t) (x * y)

/-- Multiplication by 2^k, exact (R46). -/
def FV.scale (k : Int) : FV → FV
  | .fin s x => .fin s (x * pow2 k)
  | v => v

/-- `a < b` on numbers and infinities; false when either is a NaN. -/
def FV.lt : FV → FV → Bool
  | .nan, _ => false
  | _, .nan => false
  | .inf s, .inf t => s && !t
  | .inf s, .fin _ _ => s
  | .fin _ _, .inf t => !t
  | .fin s x, .fin t y => (FV.fin s x).toRat < (FV.fin t y).toRat

/-- Equality of numbers and infinities, +0 and -0 equal; false when either is a NaN. -/
def FV.eq (a b : FV) : Bool :=
  match a, b with
  | .nan, _ => false
  | _, .nan => false
  | _, _ => !a.lt b && !b.lt a

/-! ### Elements in a tile (R42, R43) -/

/-- Rows and columns of a tile by format code (R42). -/
def tileShape : Nat → Nat × Nat
  | 0x3 | 0x4 | 0xA | 0x5 | 0x6 | 0x7 | 0x8 => (32, 64)
  | 0x9 => (32, 128)
  | 0xB => (16, 32)
  | _ => (32, 32)

/-- Bits per stored element by format code (R42, R43). -/
def elemBits : Nat → Nat
  | 0x3 | 0x4 | 0x5 | 0x6 | 0xA => 8
  | 0x7 | 0x8 => 6
  | 0x9 => 4
  | 0xB => 32
  | _ => 16

def isMx (code : Nat) : Bool := decide (5 ≤ code) && decide (code ≤ 9)

def fmtReserved (code : Nat) : Bool := decide (0xC ≤ code)

/-- The stored pattern of element (i, j) of a tile's bytes. Elements follow one another without gaps: element e of a
format of b bits lies at bits [b(e+1)-1 : be] of the tile read as one little-endian number, which is R42 for whole
bytes and R43 for the packed formats. -/
def elemPattern (code : Nat) (data : List Byte) (i j : Nat) : Nat :=
  let b := elemBits code
  let e := i * (tileShape code).2 + j
  let o := e * b / 8
  numAt data o 5 / 2 ^ (e * b % 8) % 2 ^ b

/-- The value of an E8M0 block scale byte; 0xFF marks the block as NaN (R37). -/
def e8m0 (b : Nat) : Option Int := if b = 0xFF then none else some ((b : Int) - 127)

/-- The stored value of a pattern, before any scale. -/
def storedValue (code w : Nat) : FV :=
  if code = 0xA then
    let v := signed 8 w
    FV.ofRat v
  else if code = 0xB then (fmtB16.decode (w % 65536)).add (fmtB16.decode (w / 65536))
  else match fmtOfCode code with
    | some f => f.decode w
    | none => .nan

/-- The true value: stored × 2^s, times the block scale for an MX element (R46, R564). -/
def trueValue (code : Nat) (s : Int) (blk : Nat) (w : Nat) : FV :=
  let v := (storedValue code w).scale s
  if isMx code then
    match e8m0 blk with
    | none => .nan
    | some e => v.scale e
  else v

/-- `n` elements of `b` bits packed from the least significant end into bytes (R42, R43). -/
def packElems (b : Nat) (ws : List Nat) : Nat :=
  match ws with
  | [] => 0
  | w :: t => w % 2 ^ b + 2 ^ b * packElems b t

/-- The 2,048 bytes of a tile that holds the given patterns; bytes the format leaves unused are zero (R42). -/
def packTile (code : Nat) (ws : List Nat) : List Byte := bytesLE 2048 (packElems (elemBits code) ws)

/-- floor (log2 a) - 14 held to -128..127, and 0 for an all-zero block: the scale an engine gives an S16 tile (R47). A tile whose
only non-zero values are infinities and NaNs has no largest finite magnitude and is taken as all-zero: DESIGN CHOICE (log 103). -/
def s16Scale (a : Rat) : Int := if a = 0 then 0 else clampInt (-128) 127 (floorLog2 a - 14)

/-- The largest exponent of an MX element type (R48). -/
def mxEmax : Nat → Int
  | 0x5 => 8
  | 0x6 => 15
  | 0x7 => 4
  | 0x8 => 2
  | _ => 2

/-- The block scale byte of a block without NaN whose largest finite magnitude is `a` (R48). A block whose only non-zero values are
infinities is taken as all-zero: DESIGN CHOICE (log 103). -/
def mxScaleByte (code : Nat) (a : Rat) : Nat :=
  if a = 0 then 0x7F else (clampInt 0 0xFE (floorLog2 a - mxEmax code + 127)).toNat

/-- The largest finite magnitude of a list of values. -/
def maxMag (l : List FV) : Rat := l.foldl (fun m v => max m v.mag) 0

/-- One converted tile: its bytes, the block scales of an MX tile, the scale of an S16 tile, and what R82 counts. -/
structure TileEnc where
  data   : List Byte
  scales : List Nat
  s      : Int
  ovf    : Nat
  unf    : Nat
  nan    : Nat
  deriving DecidableEq, Repr

def countFlag (p : ConvFlags → Bool) (l : List (Nat × ConvFlags)) : Nat := (l.filter fun e => p e.2).length

/-- One element converted into a format without block scales; `v` is the true value divided by 2^s. -/
def encodeElem (code : Nat) (v : FV) : Nat × ConvFlags :=
  if code = 0xA then convertInt8 v
  else if code = 0xB then
    let (h, fl) := fmtB16.convert v
    let l := match h with
      | .fin _ _ => if fl.ovf then FV.fin false 0 else (fmtB16.roundOp (v.sub h))
      | _ => .fin false 0
    (fmtB16.encode h + 65536 * fmtB16.encode l, fl)
  else match fmtOfCode code with
    | some f => let (r, fl) := f.convert v; (f.encode r, fl)
    | none => (0, {})

/-- One MX element at a given block scale: saturating, never a NaN or infinity pattern (R48, R564). -/
def encodeMxElem (code : Nat) (e : Int) (v : FV) : Nat × ConvFlags :=
  match fmtOfCode code with
  | some f =>
    match v.scale (-e) with
    | .inf s => (f.encode (.fin s f.maxFinite), ⟨true, false, false⟩)
    | w => let (r, fl) := f.convert w; (f.encode r, fl)
  | none => (0, {})

/-- One block of 32 elements with the block scale R48 gives it; a NaN makes the whole block NaN (R41, R564). In such a block the NaNs
are counted, and neither an overflow nor an underflow is: DESIGN CHOICE (log 104). -/
def encodeMxBlock (code : Nat) (vs : List FV) : Nat × List (Nat × ConvFlags) :=
  if vs.any (· == FV.nan) then (0xFF, vs.map fun v => (0, ⟨false, false, v == FV.nan⟩))
  else
    let b := mxScaleByte code (maxMag vs)
    (b, vs.map (encodeMxElem code ((b : Int) - 127)))

/-- A list cut into blocks of `k`; `n` bounds the number of blocks. -/
def chunks {α : Type} (k : Nat) : Nat → List α → List (List α)
  | 0, _ => []
  | n + 1, l => l.take k :: chunks k n (l.drop k)

/-- The output conversion of a whole tile (R47 to R50): `vs` are the true values in row-major order, `sOut` the scale of a
format that takes its scale from outside. `kept` gives the pattern of a NaN that is copied and not produced (R40, R229). -/
def encodeTileKeep (code : Nat) (sOut : Int) (vs : List FV) (kept : List (Option Nat)) : TileEnc :=
  if isMx code then
    let (r, c) := tileShape code
    let blocks := (chunks 32 (r * c / 32) (vs.map (FV.scale (-sOut)))).map (encodeMxBlock code)
    let els := blocks.flatMap (·.2)
    ⟨packTile code (els.map (·.1)), blocks.map (·.1), sOut,
      countFlag (·.ovf) els, countFlag (·.unf) els, countFlag (·.nan) els⟩
  else
    let s := if code = 0x2 then s16Scale (maxMag vs) else sOut
    let els := vs.map fun v => encodeElem code (v.scale (-s))
    ⟨packTile code ((els.zip (List.range els.length)).map fun e => (kept.getD e.2 none).getD e.1.1), [], s,
      countFlag (·.ovf) els, countFlag (·.unf) els, countFlag (·.nan) els⟩

/-- The output conversion of a tile of which every NaN is produced. -/
def encodeTile (code : Nat) (sOut : Int) (vs : List FV) : TileEnc := encodeTileKeep code sOut vs []

/-- A magnitude rounded towards +∞ to bfloat16, as a pattern (R66). -/
def bf16Up (x : Rat) : Nat :=
  if x = 0 then 0 else
    let e := max (floorLog2 x) fmtBf16.emin
    let u := pow2 (e - 7)
    let n := ceilDiv (x / u).num.toNat (x / u).den
    let r := (n : Rat) * u
    if fmtBf16.maxFinite < r then 0x7F80 else fmtBf16.encode (.fin false r)

end Sys2Proof.Machine
end

