-- ==== Sys2Proof/Machine/Pair.lean ====
section
/-! DEFINITION. Compensated pairs (R51 to R53), the product split and overflow replay of one output element (R54 to R59),
one-pass statistics (R77 to R81, R565), scale records (R65 to R67) and the kiln's stochastic rounding (R74, R75). -/

namespace Sys2Proof.Machine

/-- An accumulator pair as it is stored: two binary16 words; `clamped` once R58 has fixed it for the rest of its chain;
`lost` once its element has lost a product (R54, R59, R82). -/
structure AccPair where
  hi      : BitVec 16
  lo      : BitVec 16
  clamped : Bool
  lost    : Bool
  deriving DecidableEq, Repr

/-- The zero pair. -/
def AccPair.zero : AccPair := ⟨0, 0, false, false⟩

/-- A pair while it is being worked on: its words as values, and the sign of the first operation that overflowed (R53). -/
structure PairV where
  hi  : FV
  lo  : FV
  ovf : Option Bool
  deriving DecidableEq, Repr

def AccPair.load (p : AccPair) : PairV := ⟨fmtB16.decode p.hi.toNat, fmtB16.decode p.lo.toNat, none⟩

/-- Whether a pair is NaN: either word is (R37). -/
def PairV.isNan (v : PairV) : Bool := v.hi == .nan || v.lo == .nan

/-- The words an engine writes for a pair; a NaN takes the canonical pattern, whose lo is zero (R40). -/
def PairV.words (v : PairV) : BitVec 16 × BitVec 16 :=
  if v.isNan then (0x7E00#16, 0#16)
  else (BitVec.ofNat 16 (fmtB16.encode v.hi), BitVec.ofNat 16 (fmtB16.encode v.lo))

def PairV.zero : PairV := ⟨.fin false 0, .fin false 0, none⟩

/-- The number the pair holds (R51). -/
def PairV.value (v : PairV) : FV := v.hi.add v.lo

/-- One binary16 addition; an infinite result from finite operands is an overflow with the result's sign (R51, R53). -/
def add16 (a b : FV) (o : Option Bool) : FV × Option Bool :=
  let r := fmtB16.roundOp (a.add b)
  (r, if o.isNone && a.isFinite && b.isFinite && r.isInf then some r.isNeg else o)

def sub16 (a b : FV) (o : Option Bool) : FV × Option Bool := add16 a b.neg o

/-- two_sum of R51: the rounded sum and its error. -/
def twoSum (a b : FV) (o : Option Bool) : FV × FV × Option Bool :=
  let (t, o) := add16 a b o
  let (z, o) := sub16 t a o
  let (tz, o) := sub16 t z o
  let (e1, o) := sub16 a tz o
  let (e2, o) := sub16 b z o
  let (err, o) := add16 e1 e2 o
  (t, err, o)

/-- pair_add of R51. -/
def pairAdd (p : PairV) (x : FV) : PairV :=
  let (hi, err, o) := twoSum p.hi x p.ovf
  let (lo, o) := add16 p.lo err o
  ⟨hi, lo, o⟩

/-- renorm of R51. -/
def renorm (p : PairV) : PairV :=
  let (t, o) := add16 p.hi p.lo p.ovf
  let (d, o) := sub16 t p.hi o
  let (lo, o) := sub16 p.lo d o
  ⟨t, lo, o⟩

/-- A value split into two binary16 words (R54). A value beyond the range of binary16 splits into an infinity, which
R53 takes as an overflow. DEDUCED (log 9). -/
def split16 (v : FV) : FV × FV :=
  let hi := fmtB16.roundOp v
  match hi with
  | .fin _ _ => (hi, fmtB16.roundOp (v.sub hi))
  | _ => (hi, .fin false 0)

/-- A split value added to a pair, hi and then lo (R54); an overflow of the split is one of the pair. -/
def addSplit (p : PairV) (v : FV) : PairV :=
  let (h, l) := split16 v
  let o := if p.ovf.isNone && v.isFinite && h.isInf then some h.isNeg else p.ovf
  pairAdd (pairAdd { p with ovf := o } h) l

/-- Whether a non-zero product is lost entirely (R54). -/
def lostSplit (v : FV) : Bool :=
  let (h, l) := split16 v
  v.isFinite && v.mag ≠ 0 && h.isFinite && h.mag = 0 && l.mag = 0

/-- The pair R58 and R81 put in an overflowing one's place. -/
def clampPair (neg : Bool) : PairV := ⟨.fin neg 65504, .fin false 0, none⟩

/-- Values added to a pair as split products, with renorm after every 16 calls of pair_add, which is every 8 values
(R52). `clamp` is the saturating pass of R58: the first overflow fixes the pair. The result tells whether it was fixed
and whether a product was lost. `calls` counts values since the last renorm. -/
def accumulate (clamp : Bool) : List FV → PairV → Nat → Bool → PairV × Bool × Bool
  | [], p, _, lost => (p, false, lost)
  | v :: vs, p, n, lost =>
    let q := addSplit p v
    let q := if n % 8 = 7 then renorm q else q
    let lost := lost || lostSplit v
    match q.ovf with
    | some s =>
      if clamp then (clampPair s, true, lost || vs.any lostSplit)
      else (q, false, lost || vs.any lostSplit)
    | none => accumulate clamp vs q (n + 1) lost

/-- One element of one pass of a matrix command: the carried pair, the scaled products in order, whether the pass
saturates. Answers the new pair and whether the pass must be discarded (R57, R58). -/
def passElem (saturating : Bool) (start : AccPair) (prods : List FV) : AccPair × Bool :=
  if start.clamped then ({ start with lost := start.lost || prods.any lostSplit }, false)
  else
    let (p, fixed, lost) := accumulate saturating prods start.load 0 start.lost
    let (h, l) := p.words
    (⟨h, l, fixed, lost⟩, p.ovf.isSome)

/-- A carried pair multiplied by 2^-4 for a replay; a word that falls below 2^-24 is a loss (R57, R59). A clamped pair keeps its
value for the rest of the chain (R58). -/
def shrinkPair (p : AccPair) : AccPair :=
  if p.clamped then p else
  let f (w : BitVec 16) : FV × Bool :=
    let v := (fmtB16.decode w.toNat).scale (-4)
    let r := fmtB16.roundOp v
    (r, r.isFinite && decide (r.mag ≠ v.mag))
  let (h, a) := f p.hi
  let (l, b) := f p.lo
  ⟨BitVec.ofNat 16 (fmtB16.encode h), BitVec.ofNat 16 (fmtB16.encode l), p.clamped, p.lost || a || b⟩

/-- A pair renormalised before it is written out (R52); `true` when that overflowed. -/
def renormStored (p : AccPair) : AccPair × Bool :=
  if p.clamped then (p, false)
  else
    let q := renorm p.load
    match q.ovf with
    | some _ => (p, true)
    | none => let (h, l) := q.words; ({ p with hi := h, lo := l }, false)

/-! ### Sums of the vector engine and of the shared cache (R77, R81) -/

/-- A pair under R81, the values added so far, whether an overflow has clamped it, after which it stays fixed, and whether a value
was lost entirely (R54). -/
structure StatPair where
  p     : PairV
  calls : Nat
  sat   : Bool
  lost  : Bool
  deriving DecidableEq, Repr

def StatPair.zero : StatPair := ⟨PairV.zero, 0, false, false⟩

/-- One value added, with the clamp of R81 and the renorm of R52. Every value enters split, in two calls of pair_add, so that renorm
follows every eighth value; the spec does not say that the values of a row sum, which are no products, are split: DESIGN CHOICE
(log 102). -/
def StatPair.add (s : StatPair) (v : FV) : StatPair :=
  let lost := s.lost || lostSplit v
  if s.sat then { s with lost := lost }
  else
    let q := addSplit s.p v
    let q := if s.calls % 8 = 7 then renorm q else q
    match q.ovf with
    | some n => ⟨clampPair n, s.calls + 1, true, lost⟩
    | none => ⟨q, s.calls + 1, false, lost⟩

/-- The pair as it is written out: renormalised (R52), clamped when that overflows (R81). -/
def StatPair.out (s : StatPair) : StatPair :=
  if s.sat then s
  else
    let q := renorm s.p
    match q.ovf with
    | some n => { s with p := clampPair n, sat := true }
    | none => { s with p := q }

/-- The four bytes of a pair: hi, then lo (R42). -/
def PairV.bytes (v : PairV) : List Byte := bytesLE 2 v.words.1.toNat ++ bytesLE 2 v.words.2.toNat

/-- WELFORD's state per column (R78). -/
structure Welford where
  n    : Nat
  mean : StatPair
  m2   : StatPair
  deriving DecidableEq, Repr

def Welford.zero : Welford := ⟨0, StatPair.zero, StatPair.zero⟩

/-- The exact quotient of a value by a positive count. -/
def FV.divNat (v : FV) (n : Nat) : FV :=
  match v with
  | .fin s x => .fin s (x / n)
  | w => w

/-- One value of R78: d and d2 are exact, the quotient and the product are split and added. -/
def Welford.add (w : Welford) (x : FV) : Welford :=
  let n := w.n + 1
  let d := x.sub w.mean.p.value
  let mean := w.mean.add (d.divNat n)
  let d2 := x.sub mean.p.value
  ⟨n, mean, w.m2.add (d.mul d2)⟩

/-- CEXP, COUNT_HI and COUNT_LO of a count (R565): the smallest exponent for which the count's nearest binary16 value
is finite. -/
def countFields (n : Nat) : Nat → Nat → Nat × FV × FV
  | 0, e => (e, .fin false 0, .fin false 0)
  | fuel + 1, e =>
    let v := (FV.ofRat n).scale (-(e : Int))
    let (h, l) := split16 v
    if h.isFinite then (e, h, l) else countFields n fuel (e + 1)

/-- A statistics record (R79): mean and variance as pairs, count, SCALE, SAT, NAN. UNBIASED is no engine's to set (R565). -/
structure StatRec where
  mean  : PairV
  var   : PairV
  n     : Nat
  scale : Int
  sat   : Bool
  nan   : Bool
  deriving DecidableEq, Repr

/-- The pair of the two binary16 words that a value splits into (R54). -/
def splitPair (v : FV) : PairV := let (h, l) := split16 v; ⟨h, l, none⟩

/-- The 16 bytes of a record; VAR is the population variance, UNBIASED 0 (R79, R565). -/
def StatRec.bytes (r : StatRec) : List Byte :=
  let (ce, ch, cl) := countFields r.n 64 0
  let isNan := r.nan || r.mean.isNan || r.var.isNan
  r.mean.bytes ++ r.var.bytes ++ (PairV.mk ch cl none).bytes ++
    bytesLE 1 ce ++ bytesLE 1 (unsignedOf 8 r.scale) ++ bytesLE 1 (b2n r.sat + 2 * b2n isNan) ++ [0]

/-- The record that 16 bytes spell; UNBIASED does not matter to R80 (R565). -/
def StatRec.read (b : List Byte) : StatRec :=
  let pair (o : Nat) : PairV := ⟨fmtB16.decode (numAt b o 2), fmtB16.decode (numAt b (o + 2) 2), none⟩
  let count := (pair 8).value.toRat * pow2 (signed 8 (numAt b 0xC 1))
  ⟨pair 0, pair 4, count.floor.toNat, signed 8 (numAt b 0xD 1), bitOf (numAt b 0xE 1) 0, bitOf (numAt b 0xE 1) 1⟩

/-- What WELFORD's state of a column comes to (R78, R79). Of a column without values no variance is stated; the engine never makes
one, since NTILES is not 0. -/
def Welford.record (w : Welford) (sigma : Int) : StatRec :=
  let mean := w.mean.out
  let m2 := w.m2.out
  ⟨mean.p, if w.n = 0 then PairV.zero else splitPair (m2.p.value.divNat w.n), w.n, sigma, mean.sat || m2.sat, false⟩

/-- The binary16 quotient na / n of R80; of no values at all the spec states none: free. -/
def countShare (na n free : Nat) : FV :=
  if n = 0 then fmtB16.decode (free % 65536) else fmtB16.roundOp (.fin false ((na : Rat) / n))

/-- Two statistics records combined (R80, R565): the one with the smaller SCALE is brought to the larger one exactly, products are
exact and enter their sum as split values, as in R78, and a pair that would overflow clamps (R81). -/
def StatRec.combine (a b : StatRec) (free : Nat) : StatRec :=
  let sc := max a.scale b.scale
  let n := a.n + b.n
  let fa := countShare a.n n free
  let fb := countShare b.n n (free / 65536)
  let meanOf (r : StatRec) : FV := r.mean.value.scale (r.scale - sc)
  let varOf (r : StatRec) : FV := r.var.value.scale (2 * (r.scale - sc))
  let d := (meanOf b).sub (meanOf a)
  let sum (l : List FV) : StatPair := (l.foldl StatPair.add StatPair.zero).out
  let mean := sum [meanOf a, d.mul fb]
  let var := sum [fa.mul (varOf a), fb.mul (varOf b), ((d.mul d).mul fa).mul fb]
  ⟨mean.p, var.p, n, sc, a.sat || b.sat || mean.sat || var.sat, a.nan || b.nan⟩

/-! ### Scale records (R65 to R67) -/

/-- A scale record's fields (R65). -/
structure SRec where
  hist      : List Nat
  curAmax   : Nat
  head      : Nat
  count     : Nat
  fmt       : Nat
  margin    : Int
  scale     : Int
  scaleInit : Int
  flags     : Nat
  step      : Nat
  rest      : List Byte
  deriving DecidableEq, Repr

/-- The record that 64 bytes spell. -/
def SRec.read (b : List Byte) : SRec :=
  { hist := (List.range 16).map fun i => numAt b (2 * i) 2
    curAmax := numAt b 0x20 4, head := numAt b 0x24 1, count := numAt b 0x25 1, fmt := numAt b 0x26 1
    margin := signed 8 (numAt b 0x27 1), scale := signed 8 (numAt b 0x28 1)
    scaleInit := signed 8 (numAt b 0x29 1), flags := numAt b 0x2A 2, step := numAt b 0x2C 4
    rest := (b.drop 0x30).take 16 }

/-- The 64 bytes of a record. -/
def SRec.write (r : SRec) : List Byte :=
  (r.hist.flatMap (bytesLE 2)) ++ bytesLE 4 r.curAmax ++ bytesLE 1 r.head ++ bytesLE 1 r.count ++ bytesLE 1 r.fmt ++
    bytesLE 1 (unsignedOf 8 r.margin) ++ bytesLE 1 (unsignedOf 8 r.scale) ++ bytesLE 1 (unsignedOf 8 r.scaleInit) ++
    bytesLE 2 r.flags ++ bytesLE 4 r.step ++ r.rest

/-- The largest valid history entry: the COUNT newest, counted back from HEAD (R65, R67). -/
def SRec.histMax (r : SRec) : Nat :=
  (List.range (min r.count 16)).foldl (fun m i => max m (r.hist.getD ((r.head + 16 - i) % 16) 0)) 0

/-- Whether the record holds no history (R55). -/
def SRec.noHistory (r : SRec) : Bool := r.count == 0 || r.histMax == 0

/-- FMTMAX of R67, for the formats whose scale the rollover sets. -/
def fmtMax : Nat → Option Rat
  | 0x1 => some 65504
  | 0x3 => some 448
  | 0x4 => some 57344
  | 0xA => some 127
  | _ => none

/-- rollover of R67, into step `n`. An infinite maximum takes the largest scale. DEDUCED (log 10). -/
def SRec.rollover (r : SRec) (n : Nat) : SRec :=
  let head := (r.head + 1) % 16
  let r := { r with head := head, hist := r.hist.set head (r.curAmax % 65536), count := min (r.count + 1) 16,
                    curAmax := 0, step := n }
  if bitOf r.flags 0 then r
  else match fmtMax r.fmt with
    | none => r
    | some m =>
      match fmtBf16.decode r.histMax with
      | .fin _ a =>
        if a = 0 then { r with scale := r.scaleInit }
        else { r with scale := clampInt (-128) 127 (ceilLog2 (a / m) + r.margin) }
      | _ => { r with scale := 127 }

/-- The starting σ of SIGMA_AUTO from two records and the chain's reduction length (R55), or `none` when a record holds
no history. An infinite maximum takes the largest σ. DEDUCED (log 10). -/
def sigmaAuto (a b : SRec) (k : Nat) : Option Int :=
  if a.noHistory || b.noHistory then none
  else match fmtBf16.decode a.histMax, fmtBf16.decode b.histMax with
    | .fin _ x, .fin _ y => some (clampInt (-128) 127 (ceilLog2 (x * y * k) - 15))
    | _, _ => some 127

/-! ### Stochastic rounding (R73 to R75) -/

/-- The rotation amounts of R74. -/
def srRot : List Nat := [13, 29, 41, 7, 53, 19, 37, 23, 47, 11]

/-- sr_bits of R74. -/
def srBits (seed : DWord) (step : Nat) (addr : Nat) (idx : Nat) : Nat :=
  let k1 := seed ^^^ 0x9E3779B97F4A7C15#64
  let x0 : DWord := BitVec.ofNat 64 addr
  let x1 : DWord := (BitVec.ofNat 64 step <<< (32 : Nat)) ||| BitVec.ofNat 64 idx
  let r := foldUpto (fun (x : DWord × DWord) i =>
    let a := x.1 + x.2 + (if i % 2 = 0 then seed else k1) + BitVec.ofNat 64 i
    (a, (x.2.rotateLeft (srRot.getD i 0)) ^^^ a)) 10 (x0, x1)
  ((r.1 ^^^ r.2) >>> (48 : Nat)).toNat

/-- round_sr of R75 into bfloat16 or binary16; `true` when the result was held at the largest finite value. -/
def roundSr (f : FpFmt) (v : FV) (rnd : Nat) : FV × Bool :=
  match v with
  | .fin s x =>
    if x = 0 then (v, false)
    else
      let u := pow2 (max (floorLog2 x) f.emin - f.mbits)
      let q := x / u
      let n := q.num.toNat / q.den
      let frac := q - n
      let sixteen := ((frac * 65536).num.toNat / (frac * 65536).den)
      let r : Rat := if frac = 0 then n * u else if rnd < sixteen then ((n + 1 : Nat) : Rat) * u else n * u
      if f.maxFinite < r then (.fin s f.maxFinite, true) else (.fin s r, false)
  | w => (w, false)

/-! ### Cyclic checks (R24, R152) -/

/-- One byte of a most-significant-bit-first CRC-64 with the ECMA-182 polynomial. -/
def crc64Byte (c : DWord) (b : Byte) : DWord :=
  foldUpto (fun (c : DWord) _ =>
    if c.msb then (c <<< (1 : Nat)) ^^^ 0x42F0E1EBA9EA3693#64 else c <<< (1 : Nat)) 8
    (c ^^^ (b.zeroExtend 64 <<< (56 : Nat)))

/-- The CRC of R152. -/
def crc64 (l : List Byte) : DWord :=
  (l.foldl crc64Byte 0xFFFFFFFFFFFFFFFF#64) ^^^ 0xFFFFFFFFFFFFFFFF#64

/-- The glaze of a tile: data bytes, then the tag's bytes (R152). -/
def glazeOf (data : List Byte) (tag : DWord) : DWord := crc64 (data ++ bytesLE 8 tag.toNat)

/-- One byte of a reflected CRC-32C. -/
def crc32cByte (c : Word) (b : Byte) : Word :=
  foldUpto (fun (c : Word) _ =>
    if c.getLsbD 0 then (c >>> (1 : Nat)) ^^^ 0x82F63B78#32 else c >>> (1 : Nat)) 8 (c ^^^ b.zeroExtend 32)

/-- CRC-32 of a PNG chunk (ISO/IEC 15948), and CRC-16 of a FLAC frame (RFC 9639), which R264 has checked. -/
def crc32Png (l : List Byte) : Word :=
  (l.foldl (fun (c : Word) b => foldUpto (fun (c : Word) _ =>
    if c.getLsbD 0 then (c >>> (1 : Nat)) ^^^ 0xEDB88320#32 else c >>> (1 : Nat)) 8 (c ^^^ b.zeroExtend 32)) 0xFFFFFFFF#32) ^^^
    0xFFFFFFFF#32

def crc16Flac (l : List Byte) : BitVec 16 :=
  l.foldl (fun (c : BitVec 16) b => foldUpto (fun (c : BitVec 16) _ =>
    if c.msb then (c <<< (1 : Nat)) ^^^ 0x8005#16 else c <<< (1 : Nat)) 8 (c ^^^ BitVec.ofNat 16 (256 * b.toNat))) 0#16

/-- CRC-32C, with the initial value, reflection and final XOR of that name's usual definition. PRESUMED (log 11). -/
def crc32c (l : List Byte) : Word := (l.foldl crc32cByte 0xFFFFFFFF#32) ^^^ 0xFFFFFFFF#32

end Sys2Proof.Machine
end

