-- ==== Sys2Proof/Machine/RegMap.lean ====
section
/-! DEFINITION. The register map: every register of the control window as the spec's tables give it (offset, width, fields, access,
reset value), what an unwritten register word reads as, and one name per field the model uses. -/

namespace Sys2Proof.Machine

/-- Register access kinds (R9, R11). -/
inductive Acc where
  | ro | rw | w1c | wo | rwl
  deriving DecidableEq, Repr

/-- A field of a register: bits [hi:lo], access, reset value. -/
structure RegField where
  hi    : Nat
  lo    : Nat
  acc   : Acc
  reset : Nat
  deriving DecidableEq, Repr

/-- A register or an array of registers: name, offset of its first word, array strides and counts from the widest stride
down, how many 32-bit words it has, and its fields; bits of no field are reserved (R9). -/
structure RegDef where
  name   : String
  base   : Nat
  dims   : List (Nat × Nat)
  words  : Nat
  fields : List RegField
  deriving DecidableEq, Repr

/-- One field of one register: the register's offset, its 32-bit words, bits [hi:lo]. -/
structure FieldRef where
  off  : Nat
  words : Nat
  hi   : Nat
  lo   : Nat
  deriving DecidableEq, Repr

/-- Where an offset lies within an array of registers: the distance left after the array strides, if every index is in
range. -/
def locate : Nat → List (Nat × Nat) → Option Nat
  | r, [] => some r
  | r, (st, n) :: t => if r / st < n then locate (r % st) t else none

/-- Which word of a register an offset names: 0 the low word, 1 the high word of a 64-bit register. -/
def RegDef.wordOf (d : RegDef) (off : Nat) : Option Nat :=
  if off < d.base then none
  else match locate (off - d.base) d.dims with
    | some r => if r % 4 = 0 ∧ r / 4 < d.words then some (r / 4) else none
    | none => none

/-- The register and word an offset names in a table. -/
def findReg (off : Nat) : List RegDef → Option (RegDef × Nat)
  | [] => none
  | d :: t => match d.wordOf off with
    | some w => some (d, w)
    | none => findReg off t

/-- The reset value of a whole register. -/
def RegDef.resetValue (d : RegDef) : Nat := d.fields.foldl (fun v f => v + f.reset * 2 ^ f.lo) 0

def winRegs01a : List RegDef := [
  ⟨"MGT_PKG_SERIAL", 0x100, [], 2, [⟨63, 0, .ro, 0x0⟩]⟩,
  ⟨"MGT_IDENT_DONE", 0x108, [], 1, [⟨1, 1, .ro, 0x0⟩, ⟨0, 0, .ro, 0x0⟩]⟩,
  ⟨"MGT_PART_VARIANT", 0x10C, [], 1, [⟨15, 8, .ro, 0x0⟩, ⟨7, 4, .ro, 0x0⟩, ⟨3, 0, .ro, 0x0⟩]⟩,
  ⟨"MGT_DIE_STATUS", 0x110, [(0x4, 23)], 1, [⟨23, 16, .ro, 0x0⟩, ⟨15, 12, .ro, 0x0⟩, ⟨11, 9, .ro, 0x0⟩, ⟨8, 8, .ro, 0x0⟩, ⟨0, 0, .ro, 0x0⟩]⟩,
  ⟨"MGT_APERTURE_BASE", 0x180, [], 2, [⟨43, 30, .rw, 0x0⟩]⟩]

def winRegs02a : List RegDef := [
  ⟨"TEL_RANGE_CTL", 0x901000, [], 1, [⟨11, 8, .rw, 0xF⟩, ⟨3, 2, .ro, 0x0⟩, ⟨1, 1, .wo, 0x0⟩, ⟨0, 0, .wo, 0x0⟩]⟩,
  ⟨"TEL_RANGE_SNAP_TIDE", 0x901008, [], 2, [⟨47, 0, .ro, 0x0⟩]⟩,
  ⟨"TEL_ACC_REPLAY", 0x901040, [(0x8, 3)], 2, [⟨63, 0, .ro, 0x0⟩]⟩,
  ⟨"TEL_ACC_SAT", 0x901058, [], 2, [⟨63, 0, .ro, 0x0⟩]⟩,
  ⟨"TEL_ACC_TILES", 0x901060, [], 2, [⟨63, 0, .ro, 0x0⟩]⟩,
  ⟨"TEL_RANGE_TOTAL", 0x901100, [(0x20, 12)], 2, [⟨63, 0, .ro, 0x0⟩]⟩,
  ⟨"TEL_RANGE_OVF", 0x901108, [(0x20, 12)], 2, [⟨63, 0, .ro, 0x0⟩]⟩,
  ⟨"TEL_RANGE_UNF", 0x901110, [(0x20, 12)], 2, [⟨63, 0, .ro, 0x0⟩]⟩,
  ⟨"TEL_RANGE_NAN", 0x901118, [(0x20, 12)], 2, [⟨63, 0, .ro, 0x0⟩]⟩]

def winRegs04a : List RegDef := [
  ⟨"MGT_HOST_TAG_BASE", 0x188, [], 2, [⟨42, 12, .rw, 0x0⟩]⟩]

def winRegs05a : List RegDef := [
  ⟨"WHL_TIDE", 0x100000, [], 2, [⟨57, 48, .ro, 0x0⟩, ⟨47, 0, .ro, 0x0⟩]⟩,
  ⟨"WHL_TIDE_LOAD", 0x100008, [], 1, [⟨31, 0, .rw, 0x0⟩]⟩,
  ⟨"WHL_TIME_CTL", 0x10000C, [], 1, [⟨15, 12, .ro, 0x0⟩, ⟨11, 10, .ro, 0x2⟩, ⟨9, 9, .ro, 0x0⟩, ⟨8, 8, .ro, 0x0⟩, ⟨1, 1, .ro, 0x0⟩, ⟨0, 0, .wo, 0x0⟩]⟩,
  ⟨"WHL_TIME_STATUS", 0x100010, [], 1, [⟨11, 8, .ro, 0x0⟩, ⟨7, 7, .w1c, 0x0⟩, ⟨6, 6, .ro, 0x0⟩, ⟨5, 5, .ro, 0x0⟩, ⟨4, 4, .ro, 0x0⟩, ⟨3, 3, .ro, 0x0⟩, ⟨2, 2, .ro, 0x0⟩, ⟨1, 1, .ro, 0x0⟩]⟩,
  ⟨"WHL_SYNC_OFFSET", 0x100014, [], 1, [⟨31, 0, .ro, 0x0⟩]⟩,
  ⟨"WHL_SYNC_DELAY", 0x100018, [], 1, [⟨31, 0, .ro, 0x0⟩]⟩,
  ⟨"WHL_SYNC_BOUND", 0x10001C, [], 1, [⟨31, 0, .ro, 0x0⟩]⟩,
  ⟨"WHL_CNT_TMARK_ADJUST", 0x100040, [], 2, [⟨63, 0, .ro, 0x0⟩]⟩,
  ⟨"WHL_CNT_TMARK_BAD", 0x100048, [], 2, [⟨63, 0, .ro, 0x0⟩]⟩,
  ⟨"WHL_CNT_REALIGN", 0x100050, [], 2, [⟨63, 0, .ro, 0x0⟩]⟩,
  ⟨"WHL_CNT_TREF_LOSS", 0x100058, [], 2, [⟨63, 0, .ro, 0x0⟩]⟩,
  ⟨"WHL_CNT_SYNC_EXCH", 0x100060, [], 2, [⟨63, 0, .ro, 0x0⟩]⟩,
  ⟨"WHL_CNT_SYNC_MISS", 0x100068, [], 2, [⟨63, 0, .ro, 0x0⟩]⟩,
  ⟨"WHL_POLDER_CTL", 0x101000, [(0x200, 8)], 1, [⟨1, 1, .rwl, 0x0⟩, ⟨0, 0, .rw, 0x0⟩]⟩,
  ⟨"WHL_POLDER_STATUS", 0x101008, [(0x200, 8)], 1, [⟨31, 28, .ro, 0x0⟩, ⟨27, 14, .ro, 0x0⟩, ⟨13, 8, .ro, 0x0⟩, ⟨0, 0, .ro, 0x0⟩]⟩,
  ⟨"WHL_TURN", 0x101010, [(0x200, 8)], 2, [⟨63, 0, .ro, 0x0⟩]⟩,
  ⟨"WHL_TURN_NOMINAL", 0x101018, [(0x200, 8)], 2, [⟨63, 0, .ro, 0x0⟩]⟩,
  ⟨"WHL_TURN_START", 0x101020, [(0x200, 8)], 2, [⟨63, 0, .ro, 0x0⟩]⟩,
  ⟨"WHL_PLAN", 0x101080, [(0x200, 8), (0x8, 16)], 2, [⟨47, 36, .rw, 0x0⟩, ⟨34, 32, .rw, 0x0⟩, ⟨31, 16, .rw, 0x0⟩, ⟨15, 0, .rw, 0x0⟩]⟩,
  ⟨"WHL_CNT_TURNS", 0x101100, [(0x200, 8)], 2, [⟨63, 0, .ro, 0x0⟩]⟩]

def winRegs05b : List RegDef := [
  ⟨"WHL_CNT_SLIPPED", 0x101108, [(0x200, 8)], 2, [⟨63, 0, .ro, 0x0⟩]⟩,
  ⟨"WHL_CNT_SLIP_TICKS", 0x101110, [(0x200, 8)], 2, [⟨63, 0, .ro, 0x0⟩]⟩,
  ⟨"WHL_CNT_MAX_SLIP", 0x101118, [(0x200, 8)], 2, [⟨63, 0, .ro, 0x0⟩]⟩,
  ⟨"WHL_CNT_OVERRUN", 0x101120, [(0x200, 8)], 2, [⟨63, 0, .ro, 0x0⟩]⟩,
  ⟨"WHL_CNT_OVERRUN_EIGHTHS", 0x101128, [(0x200, 8)], 2, [⟨63, 0, .ro, 0x0⟩]⟩,
  ⟨"WHL_CNT_GUARD_ABANDON", 0x101130, [(0x200, 8)], 2, [⟨63, 0, .ro, 0x0⟩]⟩,
  ⟨"WHL_CNT_HANDOVER", 0x101138, [(0x200, 8)], 2, [⟨63, 0, .ro, 0x0⟩]⟩,
  ⟨"WHL_CNT_IDLE_SEL", 0x101140, [(0x200, 8)], 2, [⟨63, 0, .ro, 0x0⟩]⟩,
  ⟨"WHL_OVERRUN_LAST", 0x101180, [(0x200, 8)], 2, [⟨63, 63, .w1c, 0x0⟩, ⟨44, 32, .ro, 0x0⟩, ⟨27, 16, .ro, 0x0⟩, ⟨15, 0, .ro, 0x0⟩]⟩,
  ⟨"WHL_GROUP_SEL", 0x104000, [(0x8, 256)], 2, [⟨37, 32, .ro, 0x0⟩, ⟨23, 16, .rw, 0x0⟩, ⟨15, 14, .rw, 0x0⟩, ⟨11, 6, .rw, 0x0⟩, ⟨5, 0, .rw, 0x0⟩]⟩,
  ⟨"WHL_TBL_ADDR", 0x108000, [], 2, [⟨45, 44, .rw, 0x0⟩, ⟨43, 31, .rw, 0x0⟩, ⟨19, 0, .rw, 0x0⟩]⟩,
  ⟨"WHL_TBL_DATA", 0x108008, [], 1, [⟨31, 0, .rw, 0x0⟩]⟩]

def winRegs07a : List RegDef := [
  ⟨"MFE_SHARE", 0x700000, [(0x10000, 4)], 2, [⟨63, 0, .rwl, 0xFFFFFFFFFFFFFFFF⟩]⟩,
  ⟨"MFE_TOK_BASE", 0x700008, [(0x10000, 4)], 2, [⟨43, 0, .rw, 0x0⟩]⟩,
  ⟨"MFE_TOK_CTL", 0x700010, [(0x10000, 4)], 1, [⟨21, 3, .ro, 0x0⟩, ⟨2, 1, .ro, 0x0⟩, ⟨0, 0, .wo, 0x0⟩]⟩,
  ⟨"MFE_PCTL", 0x701000, [(0x10000, 4), (0x1000, 8)], 1, [⟨15, 10, .ro, 0x0⟩, ⟨9, 8, .ro, 0x0⟩, ⟨2, 2, .wo, 0x0⟩, ⟨1, 1, .wo, 0x0⟩, ⟨0, 0, .rw, 0x0⟩]⟩,
  ⟨"MFE_RING_BASE", 0x701008, [(0x10000, 4), (0x1000, 8)], 2, [⟨43, 0, .rw, 0x0⟩]⟩,
  ⟨"MFE_CLASS_BASE", 0x701010, [(0x10000, 4), (0x1000, 8)], 2, [⟨43, 0, .rw, 0x0⟩]⟩,
  ⟨"MFE_PROFILE_BASE", 0x701018, [(0x10000, 4), (0x1000, 8)], 2, [⟨43, 0, .rw, 0x0⟩]⟩,
  ⟨"MFE_RING_CFG", 0x701020, [(0x10000, 4), (0x1000, 8)], 1, [⟨4, 0, .rw, 0x4⟩]⟩,
  ⟨"MFE_RING_IDX", 0x701028, [(0x10000, 4), (0x1000, 8)], 2, [⟨63, 32, .ro, 0x0⟩, ⟨31, 0, .ro, 0x0⟩]⟩,
  ⟨"MFE_FETCH_CHANS", 0x701030, [(0x10000, 4), (0x1000, 8), (0x4, 4)], 1, [⟨31, 0, .rwl, 0x0⟩]⟩,
  ⟨"MFE_CLASS_READY", 0x701040, [(0x10000, 4), (0x1000, 8)], 2, [⟨63, 0, .ro, 0x0⟩]⟩,
  ⟨"MFE_ERR_LAST", 0x701048, [(0x10000, 4), (0x1000, 8)], 2, [⟨63, 63, .w1c, 0x0⟩, ⟨47, 32, .ro, 0x0⟩, ⟨31, 0, .ro, 0x0⟩]⟩,
  ⟨"MFE_CNT_LANDED", 0x701100, [(0x10000, 4), (0x1000, 8)], 2, [⟨63, 0, .ro, 0x0⟩]⟩,
  ⟨"MFE_CNT_FAILED", 0x701108, [(0x10000, 4), (0x1000, 8)], 2, [⟨63, 0, .ro, 0x0⟩]⟩,
  ⟨"MFE_CNT_SETS", 0x701110, [(0x10000, 4), (0x1000, 8)], 2, [⟨63, 0, .ro, 0x0⟩]⟩,
  ⟨"MFE_CNT_SETS_DISCARDED", 0x701118, [(0x10000, 4), (0x1000, 8)], 2, [⟨63, 0, .ro, 0x0⟩]⟩,
  ⟨"MFE_CNT_TILES", 0x701120, [(0x10000, 4), (0x1000, 8)], 2, [⟨63, 0, .ro, 0x0⟩]⟩,
  ⟨"MFE_CNT_OUT_WAIT", 0x701128, [(0x10000, 4), (0x1000, 8)], 2, [⟨63, 0, .ro, 0x0⟩]⟩,
  ⟨"MFE_CNT_BLOCKED", 0x701130, [(0x10000, 4), (0x1000, 8)], 2, [⟨63, 0, .ro, 0x0⟩]⟩]

def winRegs08a : List RegDef := [
  ⟨"PIP_GROUP_CFG", 0x600000, [(0x100, 256)], 1, [⟨31, 16, .rw, 0x0⟩, ⟨7, 6, .rw, 0x0⟩, ⟨5, 5, .rw, 0x0⟩, ⟨4, 4, .rw, 0x0⟩, ⟨3, 1, .rw, 0x0⟩, ⟨0, 0, .rw, 0x0⟩]⟩,
  ⟨"PIP_GROUP_MB", 0x600004, [(0x100, 256)], 1, [⟨28, 16, .rw, 0x0⟩, ⟨15, 0, .rw, 0x0⟩]⟩,
  ⟨"PIP_GROUP_SHERDS", 0x600008, [(0x100, 256)], 1, [⟨15, 0, .rw, 0x0⟩]⟩,
  ⟨"PIP_GROUP_STATUS", 0x60000C, [(0x100, 256)], 1, [⟨14, 14, .ro, 0x0⟩, ⟨13, 12, .ro, 0x0⟩, ⟨11, 7, .ro, 0x0⟩, ⟨6, 0, .ro, 0x0⟩]⟩,
  ⟨"PIP_GROUP_INIT", 0x600010, [(0x100, 256)], 1, [⟨31, 0, .wo, 0x0⟩]⟩,
  ⟨"PIP_GROUP_CLUSTERS", 0x600020, [(0x100, 256), (0x4, 8)], 1, [⟨31, 0, .rw, 0x0⟩]⟩,
  ⟨"PIP_VER", 0x600040, [(0x100, 256), (0x8, 4)], 2, [⟨63, 32, .ro, 0x0⟩, ⟨31, 24, .ro, 0x0⟩, ⟨23, 20, .ro, 0x0⟩, ⟨19, 8, .ro, 0xFFF⟩, ⟨2, 0, .ro, 0x0⟩]⟩,
  ⟨"PIP_AREA_OFF", 0x600060, [(0x100, 256), (0x8, 5)], 2, [⟨43, 0, .rw, 0x0⟩]⟩,
  ⟨"PIP_CNT_BIND", 0x600090, [(0x100, 256)], 2, [⟨63, 0, .ro, 0x0⟩]⟩,
  ⟨"PIP_CNT_RELEASE", 0x600098, [(0x100, 256)], 2, [⟨63, 0, .ro, 0x0⟩]⟩,
  ⟨"PIP_CNT_STASH_WAIT", 0x6000A0, [(0x100, 256)], 2, [⟨63, 0, .ro, 0x0⟩]⟩,
  ⟨"PIP_CNT_VER_WAIT", 0x6000A8, [(0x100, 256)], 2, [⟨63, 0, .ro, 0x0⟩]⟩,
  ⟨"PIP_CNT_SLOT_WAIT", 0x6000B0, [(0x100, 256)], 2, [⟨63, 0, .ro, 0x0⟩]⟩,
  ⟨"PIP_CNT_COMMIT", 0x6000B8, [(0x100, 256)], 2, [⟨63, 0, .ro, 0x0⟩]⟩,
  ⟨"PIP_CNT_RETIRE", 0x6000C0, [(0x100, 256)], 2, [⟨63, 0, .ro, 0x0⟩]⟩,
  ⟨"PIP_CNT_FLOW_WAIT", 0x6000C8, [(0x100, 256)], 2, [⟨63, 0, .ro, 0x0⟩]⟩,
  ⟨"PIP_CNT_ABANDON_REL", 0x6000D0, [(0x100, 256)], 2, [⟨63, 0, .ro, 0x0⟩]⟩,
  ⟨"PIP_LINK_DESC", 0x610000, [(0x40, 512), (0x4, 8)], 1, [⟨31, 0, .rw, 0x0⟩]⟩,
  ⟨"PIP_LINK_STATE", 0x610020, [(0x40, 512)], 1, [⟨31, 16, .ro, 0x0⟩, ⟨4, 4, .ro, 0x0⟩, ⟨3, 2, .ro, 0x0⟩, ⟨1, 0, .ro, 0x0⟩]⟩,
  ⟨"PIP_LINK_HEAD", 0x610024, [(0x40, 512)], 1, [⟨31, 0, .ro, 0x0⟩]⟩]

def winRegs08b : List RegDef := [
  ⟨"PIP_LINK_READY", 0x610028, [(0x40, 512)], 1, [⟨14, 14, .ro, 0x0⟩, ⟨13, 8, .ro, 0x0⟩, ⟨6, 0, .ro, 0x0⟩]⟩,
  ⟨"PIP_LINK_CMD", 0x61002C, [(0x40, 512)], 1, [⟨1, 1, .wo, 0x0⟩, ⟨0, 0, .wo, 0x0⟩]⟩,
  ⟨"PIP_CNT_ENTRIES", 0x610030, [(0x40, 512)], 2, [⟨63, 0, .ro, 0x0⟩]⟩,
  ⟨"PIP_CNT_STALE", 0x610038, [(0x40, 512)], 2, [⟨63, 0, .ro, 0x0⟩]⟩,
  ⟨"PIP_POLDER_CTL", 0x620000, [(0x40, 8)], 1, [⟨1, 1, .wo, 0x0⟩, ⟨0, 0, .wo, 0x0⟩]⟩,
  ⟨"PIP_POLDER_ABANDON_STEP", 0x620004, [(0x40, 8)], 1, [⟨31, 0, .rw, 0x0⟩]⟩,
  ⟨"PIP_POLDER_NORETURN", 0x620008, [(0x40, 8)], 1, [⟨31, 0, .ro, 0xFFFFFFFF⟩]⟩]

def winRegs09a : List RegDef := [
  ⟨"KLN_TBL_VERSION", 0x410000, [], 1, [⟨15, 8, .rwl, 0x2⟩, ⟨7, 0, .ro, 0x2⟩]⟩,
  ⟨"KLN_TBL_BASE", 0x410008, [], 2, [⟨43, 0, .rw, 0x0⟩]⟩,
  ⟨"KLN_TBL_CTL", 0x410010, [], 1, [⟨13, 8, .ro, 0x0⟩, ⟨3, 2, .ro, 0x0⟩, ⟨0, 0, .wo, 0x0⟩]⟩,
  ⟨"KLN_TBL_USED", 0x410018, [], 2, [⟨63, 0, .ro, 0x0⟩]⟩,
  ⟨"KLN_NORMS_BASE", 0x410020, [], 2, [⟨43, 0, .rw, 0x0⟩]⟩,
  ⟨"KLN_NORMS_CFG", 0x410028, [], 1, [⟨4, 0, .rw, 0x8⟩]⟩,
  ⟨"KLN_NORMS_IDX", 0x410030, [], 2, [⟨63, 32, .ro, 0x0⟩, ⟨31, 0, .rw, 0x0⟩]⟩,
  ⟨"KLN_ERR_LAST", 0x410038, [], 2, [⟨63, 63, .w1c, 0x0⟩, ⟨59, 56, .ro, 0x0⟩, ⟨55, 40, .ro, 0x0⟩, ⟨39, 20, .ro, 0x0⟩, ⟨15, 0, .ro, 0x0⟩]⟩,
  ⟨"KLN_PRECOND_STALE", 0x410040, [], 1, [⟨31, 31, .w1c, 0x0⟩, ⟨15, 0, .ro, 0x0⟩]⟩,
  ⟨"KLN_CNT_NORMS_DROP", 0x410048, [], 2, [⟨63, 0, .ro, 0x0⟩]⟩,
  ⟨"KLN_LDESC_BASE", 0x400000, [(0x1000, 16)], 2, [⟨43, 0, .rw, 0x0⟩]⟩,
  ⟨"KLN_WORK_BASE", 0x400008, [(0x1000, 16)], 2, [⟨43, 0, .rw, 0x0⟩]⟩,
  ⟨"KLN_STATUS", 0x400010, [(0x1000, 16)], 1, [⟨20, 8, .ro, 0x0⟩, ⟨4, 4, .ro, 0x0⟩, ⟨3, 3, .ro, 0x0⟩, ⟨2, 2, .ro, 0x0⟩, ⟨1, 1, .ro, 0x0⟩, ⟨0, 0, .ro, 0x0⟩]⟩,
  ⟨"KLN_CTL", 0x400014, [(0x1000, 16)], 1, [⟨0, 0, .wo, 0x0⟩]⟩,
  ⟨"KLN_BASIN_SHARE", 0x400040, [(0x1000, 16), (0x4, 8)], 1, [⟨25, 13, .rwl, 0x0⟩, ⟨12, 0, .rwl, 0x0⟩]⟩,
  ⟨"KLN_EXPORT_BASE", 0x400080, [(0x1000, 16), (0x20, 8)], 2, [⟨43, 0, .rw, 0x0⟩]⟩,
  ⟨"KLN_EXPORT_CFG", 0x400088, [(0x1000, 16), (0x20, 8)], 1, [⟨6, 6, .rw, 0x0⟩, ⟨5, 5, .rw, 0x0⟩, ⟨4, 0, .rw, 0x4⟩]⟩,
  ⟨"KLN_EXPORT_IDX", 0x400090, [(0x1000, 16), (0x20, 8)], 2, [⟨63, 32, .ro, 0x0⟩, ⟨31, 0, .rw, 0x0⟩]⟩,
  ⟨"KLN_CNT_TILES", 0x400200, [(0x1000, 16)], 2, [⟨63, 0, .ro, 0x0⟩]⟩,
  ⟨"KLN_CNT_DISCARD", 0x400208, [(0x1000, 16)], 2, [⟨63, 0, .ro, 0x0⟩]⟩]

def winRegs09b : List RegDef := [
  ⟨"KLN_CNT_STALE", 0x400210, [(0x1000, 16)], 2, [⟨63, 0, .ro, 0x0⟩]⟩,
  ⟨"KLN_CNT_REFUSED", 0x400218, [(0x1000, 16)], 2, [⟨63, 0, .ro, 0x0⟩]⟩,
  ⟨"KLN_CNT_PARKED", 0x400220, [(0x1000, 16)], 2, [⟨63, 0, .ro, 0x0⟩]⟩,
  ⟨"KLN_CNT_FETCH", 0x400228, [(0x1000, 16)], 2, [⟨63, 0, .ro, 0x0⟩]⟩,
  ⟨"KLN_CNT_FETCH_FAIL", 0x400230, [(0x1000, 16)], 2, [⟨63, 0, .ro, 0x0⟩]⟩,
  ⟨"KLN_CNT_BASIN_FULL", 0x400238, [(0x1000, 16)], 2, [⟨63, 0, .ro, 0x0⟩]⟩,
  ⟨"KLN_CNT_NONFINITE", 0x400240, [(0x1000, 16)], 2, [⟨63, 0, .ro, 0x0⟩]⟩,
  ⟨"KLN_CNT_QOVF", 0x400248, [(0x1000, 16)], 2, [⟨63, 0, .ro, 0x0⟩]⟩,
  ⟨"KLN_CNT_FIRINGS", 0x400250, [(0x1000, 16)], 2, [⟨63, 0, .ro, 0x0⟩]⟩,
  ⟨"KLN_CNT_NEWTON", 0x400258, [(0x1000, 16)], 2, [⟨63, 0, .ro, 0x0⟩]⟩,
  ⟨"KLN_CNT_NEWTON_DAMPED", 0x400260, [(0x1000, 16)], 2, [⟨63, 0, .ro, 0x0⟩]⟩,
  ⟨"KLN_CNT_NEWTON_FAIL", 0x400268, [(0x1000, 16)], 2, [⟨63, 0, .ro, 0x0⟩]⟩,
  ⟨"KLN_CNT_FALLBACK", 0x400270, [(0x1000, 16)], 2, [⟨63, 0, .ro, 0x0⟩]⟩,
  ⟨"KLN_CNT_EXPORT_WAIT", 0x400278, [(0x1000, 16)], 2, [⟨63, 0, .ro, 0x0⟩]⟩,
  ⟨"KLN_CNT_EXPORT_UNITS", 0x400280, [(0x1000, 16)], 2, [⟨63, 0, .ro, 0x0⟩]⟩]

def winRegs10a : List RegDef := [
  ⟨"MEM_CHAN_OWNER", 0x500000, [(0x1000, 16), (0x4, 4)], 1, [⟨31, 0, .rwl, 0xFFFFFFFF⟩]⟩,
  ⟨"MEM_WAYS", 0x500020, [(0x1000, 16), (0x4, 8)], 1, [⟨15, 0, .rwl, 0x0⟩]⟩,
  ⟨"MEM_WEIR", 0x500100, [(0x1000, 16), (0x10, 9), (0x4, 3)], 1, [⟨28, 16, .rwl, 0x0⟩, ⟨8, 0, .rwl, 0x0⟩]⟩,
  ⟨"MEM_STACK_STATUS", 0x500200, [(0x1000, 16)], 1, [⟨23, 16, .ro, 0x0⟩, ⟨15, 12, .ro, 0x0⟩, ⟨11, 10, .ro, 0x0⟩, ⟨2, 2, .ro, 0x0⟩, ⟨1, 1, .ro, 0x0⟩, ⟨0, 0, .ro, 0x0⟩]⟩,
  ⟨"MEM_REPAIR_ENTRY", 0x500210, [(0x1000, 16)], 1, [⟨31, 0, .rw, 0x0⟩]⟩,
  ⟨"MEM_REPAIR_CTL", 0x500214, [(0x1000, 16)], 1, [⟨31, 16, .ro, 0x0⟩, ⟨3, 2, .ro, 0x0⟩, ⟨0, 0, .wo, 0x0⟩]⟩,
  ⟨"MEM_MARGIN_CTL", 0x500220, [(0x1000, 16)], 1, [⟨31, 31, .wo, 0x0⟩, ⟨24, 24, .rw, 0x0⟩, ⟨23, 21, .rw, 0x0⟩, ⟨20, 13, .rw, 0x0⟩, ⟨12, 5, .rw, 0x0⟩, ⟨4, 0, .rw, 0x0⟩]⟩,
  ⟨"MEM_MARGIN_RESULT", 0x500228, [(0x1000, 16)], 2, [⟨63, 63, .ro, 0x0⟩, ⟨62, 62, .ro, 0x0⟩, ⟨31, 0, .ro, 0x0⟩]⟩,
  ⟨"MEM_DIKE_LAST", 0x500240, [(0x1000, 16)], 2, [⟨63, 63, .w1c, 0x0⟩, ⟨59, 56, .ro, 0x0⟩, ⟨55, 52, .ro, 0x0⟩, ⟨51, 48, .ro, 0x0⟩, ⟨43, 0, .ro, 0x0⟩]⟩,
  ⟨"MEM_CNT_CTL", 0x5002F8, [(0x1000, 16)], 1, [⟨0, 0, .wo, 0x0⟩]⟩,
  ⟨"MEM_CNT_HIT", 0x500300, [(0x1000, 16)], 2, [⟨63, 0, .ro, 0x0⟩]⟩,
  ⟨"MEM_CNT_MISS", 0x500308, [(0x1000, 16)], 2, [⟨63, 0, .ro, 0x0⟩]⟩,
  ⟨"MEM_CNT_SHORT", 0x500310, [(0x1000, 16)], 2, [⟨63, 0, .ro, 0x0⟩]⟩,
  ⟨"MEM_CNT_NOALLOC", 0x500318, [(0x1000, 16)], 2, [⟨63, 0, .ro, 0x0⟩]⟩,
  ⟨"MEM_CNT_DEFERRED", 0x500320, [(0x1000, 16)], 2, [⟨63, 0, .ro, 0x0⟩]⟩,
  ⟨"MEM_CNT_ATOM_ELEM", 0x500328, [(0x1000, 16)], 2, [⟨63, 0, .ro, 0x0⟩]⟩,
  ⟨"MEM_CNT_ATOM_SAT", 0x500330, [(0x1000, 16)], 2, [⟨63, 0, .ro, 0x0⟩]⟩,
  ⟨"MEM_CNT_DIKE", 0x500338, [(0x1000, 16)], 2, [⟨63, 0, .ro, 0x0⟩]⟩,
  ⟨"MEM_CNT_ECC_CORR", 0x500340, [(0x1000, 16)], 2, [⟨63, 0, .ro, 0x0⟩]⟩,
  ⟨"MEM_CNT_ECC_UNCORR", 0x500348, [(0x1000, 16)], 2, [⟨63, 0, .ro, 0x0⟩]⟩]

def winRegs10b : List RegDef := [
  ⟨"MEM_CNT_REFRESH_HOT", 0x500350, [(0x1000, 16)], 2, [⟨63, 0, .ro, 0x0⟩]⟩,
  ⟨"MEM_CNT_WEIR_WAIT", 0x500380, [(0x1000, 16), (0x8, 9)], 2, [⟨63, 0, .ro, 0x0⟩]⟩,
  ⟨"MEM_WIPE_CTL", 0x510000, [], 1, [⟨7, 0, .wo, 0x0⟩]⟩,
  ⟨"MEM_WIPE_STATUS", 0x510004, [], 1, [⟨23, 16, .w1c, 0x0⟩, ⟨15, 0, .ro, 0x0⟩]⟩,
  ⟨"MEM_REG_BASE", 0x510008, [], 2, [⟨43, 0, .rwl, 0x0⟩]⟩,
  ⟨"MEM_REG_CMD", 0x510010, [], 1, [⟨10, 8, .wo, 0x0⟩, ⟨7, 0, .wo, 0x0⟩]⟩,
  ⟨"MEM_REG_STATUS", 0x510014, [], 1, [⟨15, 8, .ro, 0x0⟩, ⟨3, 0, .ro, 0x0⟩]⟩,
  ⟨"MEM_REG_BUDGET", 0x510040, [(0x8, 8)], 2, [⟨39, 32, .rwl, 0x0⟩, ⟨31, 0, .rwl, 0x0⟩]⟩,
  ⟨"MEM_REG_USED", 0x510080, [(0x8, 8)], 2, [⟨39, 32, .ro, 0x0⟩, ⟨31, 0, .ro, 0x0⟩]⟩,
  ⟨"MEM_CNT_DIKE_LANE", 0x5100C0, [], 2, [⟨63, 0, .ro, 0x0⟩]⟩,
  ⟨"MEM_CNT_REG_LOAD", 0x5100C8, [], 2, [⟨63, 0, .ro, 0x0⟩]⟩,
  ⟨"MEM_CNT_REG_EVICT", 0x5100D0, [], 2, [⟨63, 0, .ro, 0x0⟩]⟩,
  ⟨"MEM_CNT_REG_FAIL", 0x5100D8, [], 2, [⟨63, 0, .ro, 0x0⟩]⟩]

def winRegs11a : List RegDef := [
  ⟨"LNK_VERSION", 0x200000, [], 1, [⟨15, 8, .rwl, 0xC⟩, ⟨7, 0, .ro, 0xC⟩]⟩,
  ⟨"LNK_EXPORT_CFG", 0x200040, [(0x8, 8)], 1, [⟨11, 8, .rwl, 0x0⟩, ⟨7, 4, .rwl, 0x0⟩, ⟨1, 0, .rwl, 0x0⟩]⟩,
  ⟨"LNK_EXPORT_HOST", 0x200080, [], 2, [⟨49, 44, .rwl, 0x10⟩, ⟨43, 0, .rwl, 0x0⟩]⟩,
  ⟨"LNK_EXPORT_HOST_IDX", 0x200088, [], 2, [⟨63, 32, .ro, 0x0⟩, ⟨31, 0, .rw, 0x0⟩]⟩,
  ⟨"LNK_PORT_CFG", 0x201000, [(0x400, 16)], 1, [⟨6, 5, .rwl, 0x3⟩, ⟨4, 4, .rwl, 0x0⟩, ⟨2, 0, .rwl, 0x0⟩]⟩,
  ⟨"LNK_PORT_CTL", 0x201004, [(0x400, 16)], 1, [⟨4, 4, .wo, 0x0⟩, ⟨3, 3, .wo, 0x0⟩, ⟨2, 2, .wo, 0x0⟩, ⟨1, 1, .wo, 0x0⟩, ⟨0, 0, .wo, 0x0⟩]⟩,
  ⟨"LNK_PORT_STATUS", 0x201008, [(0x400, 16)], 1, [⟨27, 24, .ro, 0x0⟩, ⟨23, 22, .ro, 0x0⟩, ⟨21, 21, .ro, 0x0⟩, ⟨20, 20, .ro, 0x0⟩, ⟨19, 16, .ro, 0x0⟩, ⟨15, 8, .ro, 0x0⟩, ⟨7, 4, .ro, 0x0⟩, ⟨3, 0, .ro, 0x0⟩]⟩,
  ⟨"LNK_PORT_EPOCH", 0x20100C, [(0x400, 16)], 1, [⟨31, 24, .ro, 0xFF⟩, ⟨23, 16, .ro, 0x0⟩, ⟨15, 0, .ro, 0x0⟩]⟩,
  ⟨"LNK_PEER_SERIAL", 0x201010, [(0x400, 16)], 2, [⟨63, 0, .ro, 0x0⟩]⟩,
  ⟨"LNK_PEER", 0x201018, [(0x400, 16)], 1, [⟨31, 18, .ro, 0x0⟩, ⟨17, 4, .ro, 0x0⟩, ⟨3, 0, .ro, 0x0⟩]⟩,
  ⟨"LNK_DOWN_CFG", 0x201020, [(0x400, 16)], 1, [⟨15, 8, .rw, 0x10⟩, ⟨4, 0, .rw, 0x14⟩]⟩,
  ⟨"LNK_DOWN_LAST", 0x201028, [(0x400, 16)], 2, [⟨63, 63, .w1c, 0x0⟩, ⟨59, 56, .ro, 0x0⟩, ⟨47, 0, .ro, 0x0⟩]⟩,
  ⟨"LNK_SINK_BASE", 0x201030, [(0x400, 16)], 2, [⟨49, 44, .rwl, 0x10⟩, ⟨43, 0, .rwl, 0x0⟩]⟩,
  ⟨"LNK_SINK_IDX", 0x201038, [(0x400, 16)], 2, [⟨63, 32, .ro, 0x0⟩, ⟨31, 0, .rw, 0x0⟩]⟩,
  ⟨"LNK_VC_CFG", 0x201100, [(0x400, 16), (0x10, 16)], 1, [⟨19, 16, .rwl, 0xF⟩, ⟨15, 0, .rwl, 0x0⟩]⟩,
  ⟨"LNK_VC_BUF", 0x201104, [(0x400, 16), (0x10, 16)], 1, [⟨14, 0, .rwl, 0x0⟩]⟩,
  ⟨"LNK_VC_STATE", 0x201108, [(0x400, 16), (0x10, 16)], 1, [⟨31, 31, .ro, 0x0⟩, ⟨30, 16, .ro, 0x0⟩, ⟨15, 15, .ro, 0x0⟩, ⟨14, 0, .ro, 0x0⟩]⟩,
  ⟨"LNK_CNT_FRAMES_TX", 0x201200, [(0x400, 16)], 2, [⟨63, 0, .ro, 0x0⟩]⟩,
  ⟨"LNK_CNT_FRAMES_RX", 0x201208, [(0x400, 16)], 2, [⟨63, 0, .ro, 0x0⟩]⟩,
  ⟨"LNK_CNT_CORRECTED", 0x201210, [(0x400, 16)], 2, [⟨63, 0, .ro, 0x0⟩]⟩]

def winRegs11b : List RegDef := [
  ⟨"LNK_CNT_UNCORR", 0x201218, [(0x400, 16)], 2, [⟨63, 0, .ro, 0x0⟩]⟩,
  ⟨"LNK_CNT_REPLAY", 0x201220, [(0x400, 16)], 2, [⟨63, 0, .ro, 0x0⟩]⟩,
  ⟨"LNK_CNT_REPLAY_BOUND", 0x201228, [(0x400, 16)], 2, [⟨63, 0, .ro, 0x0⟩]⟩,
  ⟨"LNK_CNT_RETRAIN", 0x201230, [(0x400, 16)], 2, [⟨63, 0, .ro, 0x0⟩]⟩,
  ⟨"LNK_CNT_LEAK_RETRAIN", 0x201238, [(0x400, 16)], 2, [⟨63, 0, .ro, 0x0⟩]⟩,
  ⟨"LNK_CNT_DOWN", 0x201240, [(0x400, 16)], 2, [⟨63, 0, .ro, 0x0⟩]⟩,
  ⟨"LNK_CNT_STALE_EPOCH", 0x201248, [(0x400, 16)], 2, [⟨63, 0, .ro, 0x0⟩]⟩,
  ⟨"LNK_CNT_MISROUTE", 0x201250, [(0x400, 16)], 2, [⟨63, 0, .ro, 0x0⟩]⟩,
  ⟨"LNK_CNT_DROP_ROLE", 0x201258, [(0x400, 16)], 2, [⟨63, 0, .ro, 0x0⟩]⟩,
  ⟨"LNK_CNT_CTRL_BAD", 0x201260, [(0x400, 16)], 2, [⟨63, 0, .ro, 0x0⟩]⟩,
  ⟨"LNK_CNT_EXPORT_DUP", 0x201268, [(0x400, 16)], 2, [⟨63, 0, .ro, 0x0⟩]⟩,
  ⟨"LNK_LANE_STATUS", 0x208000, [(0x4, 128)], 1, [⟨31, 16, .ro, 0x0⟩, ⟨3, 3, .ro, 0x0⟩, ⟨2, 2, .ro, 0x0⟩, ⟨1, 1, .ro, 0x0⟩, ⟨0, 0, .ro, 0x0⟩]⟩,
  ⟨"LNK_CULV_STATUS", 0x209000, [(0x40, 8)], 1, [⟨31, 24, .ro, 0xFF⟩, ⟨23, 16, .ro, 0x0⟩, ⟨15, 8, .ro, 0x0⟩, ⟨6, 5, .ro, 0x0⟩, ⟨4, 4, .ro, 0x0⟩, ⟨3, 3, .ro, 0x0⟩, ⟨2, 0, .ro, 0x0⟩]⟩,
  ⟨"LNK_CULV_CTL", 0x209004, [(0x40, 8)], 1, [⟨1, 1, .wo, 0x0⟩, ⟨0, 0, .wo, 0x0⟩]⟩,
  ⟨"LNK_CNT_CULV_CRC", 0x209010, [(0x40, 8)], 2, [⟨63, 0, .ro, 0x0⟩]⟩,
  ⟨"LNK_CNT_CULV_REPLAY", 0x209018, [(0x40, 8)], 2, [⟨63, 0, .ro, 0x0⟩]⟩,
  ⟨"LNK_CNT_CULV_RETRAIN", 0x209020, [(0x40, 8)], 2, [⟨63, 0, .ro, 0x0⟩]⟩,
  ⟨"LNK_CNT_CULV_QUAR", 0x209028, [(0x40, 8)], 2, [⟨63, 0, .ro, 0x0⟩]⟩,
  ⟨"LNK_CNT_CULV_SYNTH", 0x209030, [(0x40, 8)], 2, [⟨63, 0, .ro, 0x0⟩]⟩]

def winRegs12a : List RegDef := [
  ⟨"COL_OP_SEL", 0x300000, [(0x8000, 2)], 1, [⟨13, 11, .rw, 0x0⟩, ⟨10, 0, .rw, 0x0⟩]⟩,
  ⟨"COL_OP_STATE", 0x300008, [(0x8000, 2)], 2, [⟨63, 32, .ro, 0x0⟩, ⟨31, 16, .ro, 0x0⟩, ⟨2, 0, .ro, 0x0⟩]⟩,
  ⟨"COL_DIGEST_LAST", 0x300010, [(0x8000, 2)], 2, [⟨63, 63, .w1c, 0x0⟩, ⟨55, 48, .ro, 0x0⟩, ⟨47, 40, .ro, 0x0⟩, ⟨39, 32, .ro, 0x0⟩, ⟨31, 0, .ro, 0x0⟩]⟩,
  ⟨"COL_ERR_LAST", 0x300018, [(0x8000, 2)], 2, [⟨63, 63, .w1c, 0x0⟩, ⟨47, 45, .ro, 0x0⟩, ⟨44, 34, .ro, 0x0⟩, ⟨15, 0, .ro, 0x0⟩]⟩,
  ⟨"COL_CTL", 0x300020, [(0x8000, 2)], 1, [⟨0, 0, .wo, 0x0⟩]⟩,
  ⟨"COL_OP_BASE", 0x300400, [(0x8000, 2), (0x40, 8)], 2, [⟨43, 0, .rw, 0x0⟩]⟩,
  ⟨"COL_OP_COUNT", 0x300408, [(0x8000, 2), (0x40, 8)], 1, [⟨10, 0, .rw, 0x0⟩]⟩,
  ⟨"COL_SHARE", 0x30040C, [(0x8000, 2), (0x40, 8)], 1, [⟨28, 16, .rwl, 0x0⟩, ⟨13, 0, .rwl, 0x0⟩]⟩,
  ⟨"COL_SERVICE", 0x300410, [(0x8000, 2), (0x40, 8)], 1, [⟨13, 0, .rwl, 0x0⟩]⟩,
  ⟨"COL_CNT_PULLED", 0x300100, [(0x8000, 2)], 2, [⟨63, 0, .ro, 0x0⟩]⟩,
  ⟨"COL_CNT_PULL_AGAIN", 0x300108, [(0x8000, 2)], 2, [⟨63, 0, .ro, 0x0⟩]⟩,
  ⟨"COL_CNT_DELIVERED", 0x300110, [(0x8000, 2)], 2, [⟨63, 0, .ro, 0x0⟩]⟩,
  ⟨"COL_CNT_STALE", 0x300118, [(0x8000, 2)], 2, [⟨63, 0, .ro, 0x0⟩]⟩,
  ⟨"COL_CNT_CONTRIB_FULL", 0x300120, [(0x8000, 2)], 2, [⟨63, 0, .ro, 0x0⟩]⟩,
  ⟨"COL_CNT_DIGEST", 0x300128, [(0x8000, 2)], 2, [⟨63, 0, .ro, 0x0⟩]⟩,
  ⟨"COL_CNT_MISMATCH", 0x300130, [(0x8000, 2)], 2, [⟨63, 0, .ro, 0x0⟩]⟩,
  ⟨"COL_CNT_REPAIR_TILES", 0x300138, [(0x8000, 2)], 2, [⟨63, 0, .ro, 0x0⟩]⟩,
  ⟨"COL_CNT_FETCH", 0x300140, [(0x8000, 2)], 2, [⟨63, 0, .ro, 0x0⟩]⟩]

def winRegs13a : List RegDef := [
  ⟨"MGT_STATUS", 0x0, [], 1, [⟨10, 3, .ro, 0x0⟩, ⟨2, 2, .ro, 0x0⟩, ⟨1, 1, .ro, 0x0⟩, ⟨0, 0, .ro, 0x0⟩]⟩,
  ⟨"MGT_JD_VERSION", 0x4, [], 1, [⟨15, 8, .rwl, 0xC⟩, ⟨7, 0, .ro, 0xC⟩]⟩,
  ⟨"MGT_SQ_BASE", 0x8, [], 2, [⟨43, 0, .rw, 0x0⟩]⟩,
  ⟨"MGT_CQ_BASE", 0x20, [], 2, [⟨43, 0, .rw, 0x0⟩]⟩,
  ⟨"MGT_TRACE_BASE", 0x38, [], 2, [⟨43, 0, .rw, 0x0⟩]⟩,
  ⟨"MGT_SQ_CFG", 0x10, [], 1, [⟨13, 8, .rw, 0x0⟩, ⟨7, 7, .rw, 0x0⟩, ⟨4, 0, .rw, 0x8⟩]⟩,
  ⟨"MGT_CQ_CFG", 0x28, [], 1, [⟨13, 8, .rw, 0x0⟩, ⟨7, 7, .rw, 0x0⟩, ⟨4, 0, .rw, 0x8⟩]⟩,
  ⟨"MGT_TRACE_CTL", 0x40, [], 1, [⟨13, 8, .rw, 0x0⟩, ⟨7, 7, .rw, 0x0⟩, ⟨4, 0, .rw, 0x8⟩]⟩,
  ⟨"MGT_SQ_IDX", 0x18, [], 2, [⟨63, 32, .ro, 0x0⟩, ⟨31, 0, .ro, 0x0⟩]⟩,
  ⟨"MGT_CQ_IDX", 0x30, [], 2, [⟨63, 32, .ro, 0x0⟩, ⟨31, 0, .rw, 0x0⟩]⟩,
  ⟨"MGT_TRACE_IDX", 0x48, [], 2, [⟨63, 32, .ro, 0x0⟩, ⟨31, 0, .rw, 0x0⟩]⟩,
  ⟨"MGT_CNT_SAMPLES", 0x80, [], 2, [⟨63, 0, .ro, 0x0⟩]⟩,
  ⟨"MGT_CNT_ACCEPTED", 0x88, [], 2, [⟨63, 0, .ro, 0x0⟩]⟩,
  ⟨"MGT_CNT_REFUSED", 0x90, [], 2, [⟨63, 0, .ro, 0x0⟩]⟩,
  ⟨"MGT_CNT_TRACE_DROP", 0x98, [], 2, [⟨63, 0, .ro, 0x0⟩]⟩,
  ⟨"SEC_STATUS", 0x800000, [], 1, [⟨7, 7, .ro, 0x0⟩, ⟨6, 6, .ro, 0x0⟩, ⟨5, 5, .ro, 0x0⟩, ⟨4, 4, .ro, 0x0⟩, ⟨3, 3, .ro, 0x0⟩, ⟨2, 0, .ro, 0x0⟩]⟩,
  ⟨"SEC_BOOT_STATUS", 0x800004, [], 1, [⟨15, 8, .ro, 0x0⟩, ⟨7, 0, .ro, 0x0⟩]⟩,
  ⟨"SEC_SVN", 0x800008, [], 1, [⟨31, 30, .ro, 0x0⟩, ⟨29, 24, .ro, 0x0⟩, ⟨23, 16, .ro, 0x0⟩, ⟨7, 0, .ro, 0x0⟩]⟩,
  ⟨"SEC_CTL", 0x80000C, [], 1, [⟨0, 0, .wo, 0x0⟩]⟩,
  ⟨"SEC_LC_NONCE", 0x800010, [(0x4, 8)], 1, [⟨31, 0, .ro, 0x0⟩]⟩]

def winRegs13b : List RegDef := [
  ⟨"SEC_KEYS", 0x800040, [(0x4, 8)], 1, [⟨6, 6, .ro, 0x0⟩, ⟨5, 5, .ro, 0x0⟩, ⟨4, 0, .ro, 0x0⟩]⟩,
  ⟨"SEC_CNT_SAGGAR_READ", 0x800100, [], 2, [⟨63, 0, .ro, 0x0⟩]⟩,
  ⟨"SEC_CNT_SAGGAR_WRITE", 0x800108, [], 2, [⟨63, 0, .ro, 0x0⟩]⟩,
  ⟨"SEC_CNT_LANE_AUTH", 0x800110, [], 2, [⟨63, 0, .ro, 0x0⟩]⟩,
  ⟨"SEC_CNT_AUTH_FAIL", 0x800118, [], 2, [⟨63, 0, .ro, 0x0⟩]⟩,
  ⟨"SEC_CNT_PRESENCE", 0x800120, [], 2, [⟨63, 0, .ro, 0x0⟩]⟩,
  ⟨"SEC_SAGGAR", 0x801000, [(0x10, 64)], 4, [⟨127, 96, .ro, 0x0⟩, ⟨95, 64, .ro, 0x0⟩, ⟨63, 32, .ro, 0x0⟩, ⟨31, 16, .ro, 0x0⟩, ⟨15, 8, .ro, 0x0⟩, ⟨7, 5, .ro, 0x0⟩, ⟨1, 1, .ro, 0x0⟩, ⟨0, 0, .ro, 0x0⟩]⟩]

def winRegs14a : List RegDef := [
  ⟨"PWR_STATUS", 0xA00000, [], 1, [⟨31, 20, .ro, 0x0⟩, ⟨19, 10, .ro, 0x0⟩, ⟨3, 3, .ro, 0x0⟩, ⟨2, 2, .ro, 0x0⟩, ⟨1, 1, .ro, 0x0⟩, ⟨0, 0, .ro, 0x0⟩]⟩,
  ⟨"PWR_LIMIT", 0xA00004, [], 1, [⟨18, 16, .rwl, 0x7⟩, ⟨11, 0, .rwl, 0xAF0⟩]⟩,
  ⟨"PWR_RESET_CTL", 0xA00008, [], 1, [⟨15, 8, .wo, 0x0⟩, ⟨2, 0, .wo, 0x0⟩]⟩,
  ⟨"PWR_STEP_WDOG", 0xA00010, [(0x4, 8)], 1, [⟨15, 0, .rwl, 0x0⟩]⟩,
  ⟨"PWR_RECOV_CTL", 0xA00040, [(0x10, 8)], 2, [⟨63, 32, .rw, 0x0⟩, ⟨7, 4, .rwl, 0x3⟩, ⟨3, 3, .rwl, 0x0⟩, ⟨2, 2, .wo, 0x0⟩, ⟨0, 0, .wo, 0x0⟩]⟩,
  ⟨"PWR_RECOV_STATUS", 0xA00048, [(0x10, 8)], 2, [⟨63, 32, .ro, 0x0⟩, ⟨31, 24, .ro, 0x0⟩, ⟨15, 8, .ro, 0x0⟩, ⟨2, 2, .ro, 0x0⟩, ⟨1, 1, .ro, 0x0⟩]⟩,
  ⟨"PWR_DOM", 0xA01000, [(0x4, 288)], 1, [⟨31, 24, .ro, 0x0⟩, ⟨23, 16, .ro, 0x0⟩, ⟨10, 8, .ro, 0x0⟩, ⟨7, 4, .ro, 0x0⟩, ⟨1, 1, .ro, 0x0⟩, ⟨0, 0, .ro, 0x0⟩]⟩,
  ⟨"PWR_CNT_THERM_CD", 0xA00100, [], 2, [⟨63, 0, .ro, 0x0⟩]⟩,
  ⟨"PWR_CNT_THERM_DRAM", 0xA00108, [], 2, [⟨63, 0, .ro, 0x0⟩]⟩,
  ⟨"PWR_CNT_POWER", 0xA00110, [], 2, [⟨63, 0, .ro, 0x0⟩]⟩,
  ⟨"PWR_CNT_CURR_LIMIT", 0xA00118, [], 2, [⟨63, 0, .ro, 0x0⟩]⟩,
  ⟨"PWR_CNT_WDOG", 0xA00120, [], 2, [⟨63, 0, .ro, 0x0⟩]⟩,
  ⟨"CFG_STATUS", 0xB00000, [], 1, [⟨23, 20, .ro, 0x0⟩, ⟨19, 16, .ro, 0x0⟩, ⟨8, 8, .ro, 0x0⟩, ⟨5, 4, .ro, 0x3⟩, ⟨3, 3, .ro, 0x0⟩, ⟨2, 2, .ro, 0x0⟩, ⟨1, 1, .ro, 0x0⟩, ⟨0, 0, .ro, 0x0⟩]⟩,
  ⟨"CFG_VERSION", 0xB00004, [], 1, [⟨15, 8, .ro, 0x0⟩, ⟨7, 0, .ro, 0x6⟩]⟩,
  ⟨"CFG_IMAGE_SEQ", 0xB00008, [], 1, [⟨31, 0, .ro, 0x0⟩]⟩,
  ⟨"CFG_CONFLICT", 0xB00010, [], 2, [⟨47, 40, .ro, 0x0⟩, ⟨39, 32, .ro, 0x0⟩, ⟨31, 28, .ro, 0x0⟩, ⟨15, 0, .ro, 0x0⟩]⟩,
  ⟨"CFG_CNT_WINDOW_DROP", 0xB00020, [], 2, [⟨63, 0, .ro, 0x0⟩]⟩]

/-- The registers below the core control pages, chapter by chapter. -/
def winRegs : List RegDef :=
  winRegs01a ++
  winRegs02a ++
  winRegs04a ++
  winRegs05a ++
  winRegs05b ++
  winRegs07a ++
  winRegs08a ++
  winRegs08b ++
  winRegs09a ++
  winRegs09b ++
  winRegs10a ++
  winRegs10b ++
  winRegs11a ++
  winRegs11b ++
  winRegs12a ++
  winRegs13a ++
  winRegs13b ++
  winRegs14a

def pageRegs03a : List RegDef := [
  ⟨"CORE_IDENT", 0x0, [], 1, [⟨19, 16, .ro, 0xF⟩, ⟨12, 0, .ro, 0x0⟩]⟩,
  ⟨"CORE_CTL", 0x4, [], 1, [⟨5, 5, .wo, 0x0⟩, ⟨4, 4, .wo, 0x0⟩, ⟨3, 3, .wo, 0x0⟩, ⟨2, 2, .rw, 0x0⟩, ⟨1, 1, .rw, 0x0⟩, ⟨0, 0, .rw, 0x0⟩]⟩,
  ⟨"CORE_STATUS", 0x8, [], 1, [⟨29, 24, .ro, 0x0⟩, ⟨23, 17, .ro, 0x0⟩, ⟨16, 13, .ro, 0x0⟩, ⟨7, 4, .ro, 0xF⟩, ⟨3, 3, .ro, 0x0⟩, ⟨2, 2, .ro, 0x0⟩, ⟨1, 1, .ro, 0x1⟩, ⟨0, 0, .ro, 0x0⟩]⟩,
  ⟨"CORE_FAULT", 0xC, [], 1, [⟨28, 16, .ro, 0x0⟩, ⟨3, 0, .ro, 0x0⟩]⟩,
  ⟨"CORE_PC", 0x10, [], 1, [⟨12, 0, .rw, 0x0⟩]⟩,
  ⟨"CORE_PC_START", 0x14, [], 1, [⟨12, 0, .rw, 0x0⟩]⟩,
  ⟨"CORE_STEP_ENTRY", 0x18, [], 1, [⟨12, 0, .rw, 0x0⟩]⟩,
  ⟨"CORE_CL_VERSION", 0x20, [], 1, [⟨15, 8, .rwl, 0xC⟩, ⟨7, 0, .ro, 0xC⟩]⟩,
  ⟨"CORE_CRING", 0x24, [], 1, [⟨15, 8, .ro, 0x0⟩, ⟨7, 0, .ro, 0x0⟩]⟩,
  ⟨"CORE_SEQ", 0x28, [], 1, [⟨31, 16, .ro, 0x0⟩, ⟨15, 0, .ro, 0x0⟩]⟩,
  ⟨"CORE_CNT_CTL", 0xF8, [], 1, [⟨0, 0, .wo, 0x0⟩]⟩,
  ⟨"CORE_CNT_ISSUED", 0x100, [], 2, [⟨63, 0, .ro, 0x0⟩]⟩,
  ⟨"CORE_CNT_COMPLETED", 0x108, [], 2, [⟨63, 0, .ro, 0x0⟩]⟩,
  ⟨"CORE_CNT_ERRORS", 0x110, [], 2, [⟨63, 0, .ro, 0x0⟩]⟩,
  ⟨"CORE_CNT_STALL_INPUT", 0x118, [], 2, [⟨63, 0, .ro, 0x0⟩]⟩,
  ⟨"CORE_CNT_STALL_OWNED", 0x120, [], 2, [⟨63, 0, .ro, 0x0⟩]⟩,
  ⟨"CORE_CNT_QFULL", 0x128, [], 2, [⟨63, 0, .ro, 0x0⟩]⟩,
  ⟨"CORE_CNT_CRING_FULL", 0x130, [], 2, [⟨63, 0, .ro, 0x0⟩]⟩,
  ⟨"CORE_CNT_FTQ_FULL", 0x138, [], 2, [⟨63, 0, .ro, 0x0⟩]⟩,
  ⟨"CORE_CNT_PASS_DISCARD", 0x140, [], 2, [⟨63, 0, .ro, 0x0⟩]⟩]

def pageRegs03b : List RegDef := [
  ⟨"CORE_CNT_EXT_DROP", 0x148, [], 2, [⟨63, 0, .ro, 0x0⟩]⟩,
  ⟨"CORE_CNT_BUSY", 0x150, [(0x8, 4)], 2, [⟨63, 0, .ro, 0x0⟩]⟩,
  ⟨"CORE_DBG_ACC_SEL", 0x200, [], 1, [⟨6, 2, .rw, 0x0⟩, ⟨1, 0, .rw, 0x0⟩]⟩,
  ⟨"CORE_DBG_ACC_STAT", 0x204, [], 1, [⟨15, 8, .ro, 0x0⟩, ⟨4, 3, .ro, 0x0⟩, ⟨2, 2, .ro, 0x0⟩, ⟨1, 1, .ro, 0x0⟩, ⟨0, 0, .ro, 0x0⟩]⟩,
  ⟨"CORE_DBG_XREG", 0x300, [(0x8, 32)], 2, [⟨63, 0, .rw, 0x0⟩]⟩,
  ⟨"CORE_DBG_ACC_DATA", 0x400, [(0x4, 32)], 1, [⟨31, 16, .ro, 0x0⟩, ⟨15, 0, .ro, 0x0⟩]⟩]

def pageRegs04a : List RegDef := [
  ⟨"CHN_CTX_SEL", 0x800, [], 1, [⟨6, 0, .rw, 0x0⟩]⟩,
  ⟨"CHN_CTX_DESC", 0x820, [(0x4, 8)], 1, [⟨31, 0, .rw, 0x0⟩]⟩,
  ⟨"CHN_CTX_STATE", 0x840, [], 1, [⟨27, 16, .ro, 0x0⟩, ⟨15, 8, .ro, 0x0⟩, ⟨4, 4, .ro, 0x0⟩, ⟨3, 3, .ro, 0x0⟩, ⟨1, 0, .ro, 0x0⟩]⟩,
  ⟨"CHN_CTX_PTR", 0x844, [], 1, [⟨27, 16, .ro, 0x0⟩, ⟨11, 0, .ro, 0x0⟩]⟩,
  ⟨"CHN_CTX_EPOCH", 0x848, [], 1, [⟨15, 0, .ro, 0x0⟩]⟩,
  ⟨"CHN_CTX_CMD", 0x84C, [], 1, [⟨1, 1, .wo, 0x0⟩, ⟨0, 0, .wo, 0x0⟩]⟩,
  ⟨"CHN_OPEN_MAP", 0x860, [(0x4, 4)], 1, [⟨31, 0, .ro, 0x0⟩]⟩,
  ⟨"CHN_GLAZE_LAST", 0x880, [], 1, [⟨31, 31, .w1c, 0x0⟩, ⟨11, 10, .ro, 0x0⟩, ⟨7, 0, .ro, 0x0⟩]⟩,
  ⟨"CHN_GLAZE_ORIGIN", 0x888, [], 2, [⟨63, 63, .ro, 0x0⟩, ⟨43, 0, .ro, 0x0⟩]⟩,
  ⟨"CHN_CNT_CTL", 0x8F8, [], 1, [⟨0, 0, .wo, 0x0⟩]⟩,
  ⟨"CHN_CNT_MSG_SENT", 0x900, [], 2, [⟨63, 0, .ro, 0x0⟩]⟩,
  ⟨"CHN_CNT_MSG_RECV", 0x908, [], 2, [⟨63, 0, .ro, 0x0⟩]⟩,
  ⟨"CHN_CNT_UNITS_SENT", 0x910, [], 2, [⟨63, 0, .ro, 0x0⟩]⟩,
  ⟨"CHN_CNT_PADS", 0x918, [], 2, [⟨63, 0, .ro, 0x0⟩]⟩,
  ⟨"CHN_CNT_STALE_DROP", 0x920, [], 2, [⟨63, 0, .ro, 0x0⟩]⟩,
  ⟨"CHN_CNT_CLOSED", 0x928, [], 2, [⟨63, 0, .ro, 0x0⟩]⟩,
  ⟨"CHN_CNT_TIMEOUT", 0x930, [], 2, [⟨63, 0, .ro, 0x0⟩]⟩,
  ⟨"CHN_CNT_CREDIT_WAIT", 0x938, [], 2, [⟨63, 0, .ro, 0x0⟩]⟩,
  ⟨"CHN_CNT_RECV_WAIT", 0x940, [], 2, [⟨63, 0, .ro, 0x0⟩]⟩,
  ⟨"CHN_CNT_FLUSH_UNITS", 0x948, [], 2, [⟨63, 0, .ro, 0x0⟩]⟩]

def pageRegs04b : List RegDef := [
  ⟨"CHN_CNT_GLAZE_FAIL", 0x950, [], 2, [⟨63, 0, .ro, 0x0⟩]⟩,
  ⟨"CHN_CNT_CORRUPT", 0x958, [], 2, [⟨63, 0, .ro, 0x0⟩]⟩]

/-- The registers of a core control page, by page offset (CORE and CHN). -/
def pageRegs : List RegDef :=
  pageRegs03a ++
  pageRegs03b ++
  pageRegs04a ++
  pageRegs04b

/-- What an unwritten word of the control window below the core pages reads as: the reset value its table gives, 0 for a reserved
offset (R9). -/
def winReset (off : Nat) : Word :=
  match findReg off winRegs with
  | some (d, w) => BitVec.ofNat 32 (d.resetValue / 2 ^ (32 * w))
  | none => 0

/-- What an unwritten word of a core control page reads as. -/
def pageReset (off : Nat) : Word :=
  match findReg off pageRegs with
  | some (d, w) => BitVec.ofNat 32 (d.resetValue / 2 ^ (32 * w))
  | none => 0

/-- The number that the `n` words of a register from offset `o` spell, low word first. -/
def wordsGet (d : Nat → Word) (m : SMap Word) (o : Nat) : Nat → Nat
  | 0 => 0
  | n + 1 => wordsGet d m o n + 2 ^ (32 * n) * (m.get d (o + 4 * n)).toNat

/-- A register file with the `n` words of a register from offset `o` set to a number. -/
def wordsSet (d : Nat → Word) (m : SMap Word) (o : Nat) (v : Nat) (n : Nat) : SMap Word :=
  foldUpto (fun m k => m.set d (o + 4 * k) (BitVec.ofNat 32 (v / 2 ^ (32 * k)))) n m

/-- The number a register file holds in a field; `d` gives unwritten words. -/
def fieldGet (d : Nat → Word) (m : SMap Word) (f : FieldRef) : Nat := bitsOf (wordsGet d m f.off f.words) f.hi f.lo

/-- A register file with a field set. -/
def fieldSet (d : Nat → Word) (m : SMap Word) (f : FieldRef) (x : Nat) : SMap Word :=
  wordsSet d m f.off (setBits (wordsGet d m f.off f.words) f.hi f.lo x) f.words

end Sys2Proof.Machine

/-! One name per field: the block, register and field names of the spec's tables. Core page fields carry page offsets. -/
namespace Sys2Proof.Machine.Reg

def MGT_PKG_SERIAL_SERIAL : FieldRef := ⟨0x100, 2, 63, 0⟩
def MGT_IDENT_DONE_FAIL : FieldRef := ⟨0x108, 1, 1, 1⟩
def MGT_IDENT_DONE_DONE : FieldRef := ⟨0x108, 1, 0, 0⟩
def MGT_PART_VARIANT_PART_SUFFIX : FieldRef := ⟨0x10C, 1, 15, 8⟩
def MGT_PART_VARIANT_SILICON_REV : FieldRef := ⟨0x10C, 1, 7, 4⟩
def MGT_PART_VARIANT_IO1_KIND : FieldRef := ⟨0x10C, 1, 3, 0⟩
def MGT_DIE_STATUS_SLOT (n : Nat) : FieldRef := ⟨0x110 + 0x4 * n, 1, 23, 16⟩
def MGT_DIE_STATUS_KIND (n : Nat) : FieldRef := ⟨0x110 + 0x4 * n, 1, 15, 12⟩
def MGT_DIE_STATUS_ERR (n : Nat) : FieldRef := ⟨0x110 + 0x4 * n, 1, 11, 9⟩
def MGT_DIE_STATUS_QUARANTINE (n : Nat) : FieldRef := ⟨0x110 + 0x4 * n, 1, 8, 8⟩
def MGT_DIE_STATUS_ID_OK (n : Nat) : FieldRef := ⟨0x110 + 0x4 * n, 1, 0, 0⟩
def MGT_APERTURE_BASE_BASE : FieldRef := ⟨0x180, 2, 43, 30⟩
def TEL_RANGE_CTL_POLDER : FieldRef := ⟨0x901000, 1, 11, 8⟩
def TEL_RANGE_CTL_MODE : FieldRef := ⟨0x901000, 1, 3, 2⟩
def TEL_RANGE_CTL_CLEAR : FieldRef := ⟨0x901000, 1, 1, 1⟩
def TEL_RANGE_CTL_SNAP : FieldRef := ⟨0x901000, 1, 0, 0⟩
def TEL_RANGE_SNAP_TIDE_TIDE : FieldRef := ⟨0x901008, 2, 47, 0⟩
def TEL_ACC_REPLAY_COUNT (n : Nat) : FieldRef := ⟨0x901040 + 0x8 * n, 2, 63, 0⟩
def TEL_ACC_SAT_COUNT : FieldRef := ⟨0x901058, 2, 63, 0⟩
def TEL_ACC_TILES_COUNT : FieldRef := ⟨0x901060, 2, 63, 0⟩
def TEL_RANGE_TOTAL_COUNT (f : Nat) : FieldRef := ⟨0x901100 + 0x20 * f, 2, 63, 0⟩
def TEL_RANGE_OVF_COUNT (f : Nat) : FieldRef := ⟨0x901108 + 0x20 * f, 2, 63, 0⟩
def TEL_RANGE_UNF_COUNT (f : Nat) : FieldRef := ⟨0x901110 + 0x20 * f, 2, 63, 0⟩
def TEL_RANGE_NAN_COUNT (f : Nat) : FieldRef := ⟨0x901118 + 0x20 * f, 2, 63, 0⟩
def CORE_IDENT_POLDER : FieldRef := ⟨0x0, 1, 19, 16⟩
def CORE_IDENT_CORE_ID : FieldRef := ⟨0x0, 1, 12, 0⟩
def CORE_CTL_ABANDON : FieldRef := ⟨0x4, 1, 5, 5⟩
def CORE_CTL_SSTEP : FieldRef := ⟨0x4, 1, 4, 4⟩
def CORE_CTL_RESET : FieldRef := ⟨0x4, 1, 3, 3⟩
def CORE_CTL_DEBUG : FieldRef := ⟨0x4, 1, 2, 2⟩
def CORE_CTL_HALT : FieldRef := ⟨0x4, 1, 1, 1⟩
def CORE_CTL_RUN : FieldRef := ⟨0x4, 1, 0, 0⟩
def CORE_STATUS_INFLIGHT : FieldRef := ⟨0x8, 1, 29, 24⟩
def CORE_STATUS_SB_USED : FieldRef := ⟨0x8, 1, 23, 17⟩
def CORE_STATUS_FTQ_USED : FieldRef := ⟨0x8, 1, 16, 13⟩
def CORE_STATUS_QUEUE_EMPTY : FieldRef := ⟨0x8, 1, 7, 4⟩
def CORE_STATUS_LIST_ACTIVE : FieldRef := ⟨0x8, 1, 3, 3⟩
def CORE_STATUS_WAITING : FieldRef := ⟨0x8, 1, 2, 2⟩
def CORE_STATUS_HALTED : FieldRef := ⟨0x8, 1, 1, 1⟩
def CORE_STATUS_FAULT : FieldRef := ⟨0x8, 1, 0, 0⟩
def CORE_FAULT_FAULT_PC : FieldRef := ⟨0xC, 1, 28, 16⟩
def CORE_FAULT_CODE : FieldRef := ⟨0xC, 1, 3, 0⟩
def CORE_PC_PC : FieldRef := ⟨0x10, 1, 12, 0⟩
def CORE_PC_START_PC : FieldRef := ⟨0x14, 1, 12, 0⟩
def CORE_STEP_ENTRY_PC : FieldRef := ⟨0x18, 1, 12, 0⟩
def CORE_CL_VERSION_ALLOWED : FieldRef := ⟨0x20, 1, 15, 8⟩
def CORE_CL_VERSION_SUPPORTED : FieldRef := ⟨0x20, 1, 7, 0⟩
def CORE_CRING_TAIL : FieldRef := ⟨0x24, 1, 15, 8⟩
def CORE_CRING_HEAD : FieldRef := ⟨0x24, 1, 7, 0⟩
def CORE_SEQ_NEXT : FieldRef := ⟨0x28, 1, 31, 16⟩
def CORE_SEQ_OLDEST_OPEN : FieldRef := ⟨0x28, 1, 15, 0⟩
def CORE_CNT_CTL_CLEAR : FieldRef := ⟨0xF8, 1, 0, 0⟩
def CORE_CNT_ISSUED_COUNT : FieldRef := ⟨0x100, 2, 63, 0⟩
def CORE_CNT_COMPLETED_COUNT : FieldRef := ⟨0x108, 2, 63, 0⟩
def CORE_CNT_ERRORS_COUNT : FieldRef := ⟨0x110, 2, 63, 0⟩
def CORE_CNT_STALL_INPUT_COUNT : FieldRef := ⟨0x118, 2, 63, 0⟩
def CORE_CNT_STALL_OWNED_COUNT : FieldRef := ⟨0x120, 2, 63, 0⟩
def CORE_CNT_QFULL_COUNT : FieldRef := ⟨0x128, 2, 63, 0⟩
def CORE_CNT_CRING_FULL_COUNT : FieldRef := ⟨0x130, 2, 63, 0⟩
def CORE_CNT_FTQ_FULL_COUNT : FieldRef := ⟨0x138, 2, 63, 0⟩
def CORE_CNT_PASS_DISCARD_COUNT : FieldRef := ⟨0x140, 2, 63, 0⟩
def CORE_CNT_EXT_DROP_COUNT : FieldRef := ⟨0x148, 2, 63, 0⟩
def CORE_CNT_BUSY_COUNT (e : Nat) : FieldRef := ⟨0x150 + 0x8 * e, 2, 63, 0⟩
def CORE_DBG_ACC_SEL_ROW : FieldRef := ⟨0x200, 1, 6, 2⟩
def CORE_DBG_ACC_SEL_BANK : FieldRef := ⟨0x200, 1, 1, 0⟩
def CORE_DBG_ACC_STAT_SIGMA : FieldRef := ⟨0x204, 1, 15, 8⟩
def CORE_DBG_ACC_STAT_PASS : FieldRef := ⟨0x204, 1, 4, 3⟩
def CORE_DBG_ACC_STAT_SEALED : FieldRef := ⟨0x204, 1, 2, 2⟩
def CORE_DBG_ACC_STAT_IDLE : FieldRef := ⟨0x204, 1, 1, 1⟩
def CORE_DBG_ACC_STAT_VALID : FieldRef := ⟨0x204, 1, 0, 0⟩
def CORE_DBG_XREG_VALUE (n : Nat) : FieldRef := ⟨0x300 + 0x8 * n, 2, 63, 0⟩
def CORE_DBG_ACC_DATA_LO (j : Nat) : FieldRef := ⟨0x400 + 0x4 * j, 1, 31, 16⟩
def CORE_DBG_ACC_DATA_HI (j : Nat) : FieldRef := ⟨0x400 + 0x4 * j, 1, 15, 0⟩
def MGT_HOST_TAG_BASE_BASE : FieldRef := ⟨0x188, 2, 42, 12⟩
def CHN_CTX_SEL_CTX : FieldRef := ⟨0x800, 1, 6, 0⟩
def CHN_CTX_DESC_WORD (w : Nat) : FieldRef := ⟨0x820 + 0x4 * w, 1, 31, 0⟩
def CHN_CTX_STATE_CREDITS : FieldRef := ⟨0x840, 1, 27, 16⟩
def CHN_CTX_STATE_OUTSTANDING : FieldRef := ⟨0x840, 1, 15, 8⟩
def CHN_CTX_STATE_TIMED_OUT : FieldRef := ⟨0x840, 1, 4, 4⟩
def CHN_CTX_STATE_WAITING : FieldRef := ⟨0x840, 1, 3, 3⟩
def CHN_CTX_STATE_STATE : FieldRef := ⟨0x840, 1, 1, 0⟩
def CHN_CTX_PTR_FILL : FieldRef := ⟨0x844, 1, 27, 16⟩
def CHN_CTX_PTR_PTR : FieldRef := ⟨0x844, 1, 11, 0⟩
def CHN_CTX_EPOCH_EPOCH : FieldRef := ⟨0x848, 1, 15, 0⟩
def CHN_CTX_CMD_OPEN : FieldRef := ⟨0x84C, 1, 1, 1⟩
def CHN_CTX_CMD_CLOSE : FieldRef := ⟨0x84C, 1, 0, 0⟩
def CHN_OPEN_MAP_OPEN (j : Nat) : FieldRef := ⟨0x860 + 0x4 * j, 1, 31, 0⟩
def CHN_GLAZE_LAST_VALID : FieldRef := ⟨0x880, 1, 31, 31⟩
def CHN_GLAZE_LAST_ENGINE : FieldRef := ⟨0x880, 1, 11, 10⟩
def CHN_GLAZE_LAST_TILE : FieldRef := ⟨0x880, 1, 7, 0⟩
def CHN_GLAZE_ORIGIN_ORIGIN_VALID : FieldRef := ⟨0x888, 2, 63, 63⟩
def CHN_GLAZE_ORIGIN_ADDR : FieldRef := ⟨0x888, 2, 43, 0⟩
def CHN_CNT_CTL_CLEAR : FieldRef := ⟨0x8F8, 1, 0, 0⟩
def CHN_CNT_MSG_SENT_COUNT : FieldRef := ⟨0x900, 2, 63, 0⟩
def CHN_CNT_MSG_RECV_COUNT : FieldRef := ⟨0x908, 2, 63, 0⟩
def CHN_CNT_UNITS_SENT_COUNT : FieldRef := ⟨0x910, 2, 63, 0⟩
def CHN_CNT_PADS_COUNT : FieldRef := ⟨0x918, 2, 63, 0⟩
def CHN_CNT_STALE_DROP_COUNT : FieldRef := ⟨0x920, 2, 63, 0⟩
def CHN_CNT_CLOSED_COUNT : FieldRef := ⟨0x928, 2, 63, 0⟩
def CHN_CNT_TIMEOUT_COUNT : FieldRef := ⟨0x930, 2, 63, 0⟩
def CHN_CNT_CREDIT_WAIT_COUNT : FieldRef := ⟨0x938, 2, 63, 0⟩
def CHN_CNT_RECV_WAIT_COUNT : FieldRef := ⟨0x940, 2, 63, 0⟩
def CHN_CNT_FLUSH_UNITS_COUNT : FieldRef := ⟨0x948, 2, 63, 0⟩
def CHN_CNT_GLAZE_FAIL_COUNT : FieldRef := ⟨0x950, 2, 63, 0⟩
def CHN_CNT_CORRUPT_COUNT : FieldRef := ⟨0x958, 2, 63, 0⟩
def WHL_TIDE_PHASE : FieldRef := ⟨0x100000, 2, 57, 48⟩
def WHL_TIDE_COUNT : FieldRef := ⟨0x100000, 2, 47, 0⟩
def WHL_TIDE_LOAD_SECONDS : FieldRef := ⟨0x100008, 1, 31, 0⟩
def WHL_TIME_CTL_PARENT : FieldRef := ⟨0x10000C, 1, 15, 12⟩
def WHL_TIME_CTL_INTERVAL : FieldRef := ⟨0x10000C, 1, 11, 10⟩
def WHL_TIME_CTL_MASTER : FieldRef := ⟨0x10000C, 1, 9, 9⟩
def WHL_TIME_CTL_TMARK_OUT : FieldRef := ⟨0x10000C, 1, 8, 8⟩
def WHL_TIME_CTL_MODE : FieldRef := ⟨0x10000C, 1, 1, 1⟩
def WHL_TIME_CTL_LOAD : FieldRef := ⟨0x10000C, 1, 0, 0⟩
def WHL_TIME_STATUS_HOPS : FieldRef := ⟨0x100010, 1, 11, 8⟩
def WHL_TIME_STATUS_LOAD_REFUSED : FieldRef := ⟨0x100010, 1, 7, 7⟩
def WHL_TIME_STATUS_LOAD_PENDING : FieldRef := ⟨0x100010, 1, 6, 6⟩
def WHL_TIME_STATUS_SYNC_LOST : FieldRef := ⟨0x100010, 1, 5, 5⟩
def WHL_TIME_STATUS_LOCKED : FieldRef := ⟨0x100010, 1, 4, 4⟩
def WHL_TIME_STATUS_TMARK_MISSING : FieldRef := ⟨0x100010, 1, 3, 3⟩
def WHL_TIME_STATUS_TMARK_FAULT : FieldRef := ⟨0x100010, 1, 2, 2⟩
def WHL_TIME_STATUS_TREF_LOST : FieldRef := ⟨0x100010, 1, 1, 1⟩
def WHL_SYNC_OFFSET_VALUE : FieldRef := ⟨0x100014, 1, 31, 0⟩
def WHL_SYNC_DELAY_VALUE : FieldRef := ⟨0x100018, 1, 31, 0⟩
def WHL_SYNC_BOUND_VALUE : FieldRef := ⟨0x10001C, 1, 31, 0⟩
def WHL_CNT_TMARK_ADJUST_COUNT : FieldRef := ⟨0x100040, 2, 63, 0⟩
def WHL_CNT_TMARK_BAD_COUNT : FieldRef := ⟨0x100048, 2, 63, 0⟩
def WHL_CNT_REALIGN_COUNT : FieldRef := ⟨0x100050, 2, 63, 0⟩
def WHL_CNT_TREF_LOSS_COUNT : FieldRef := ⟨0x100058, 2, 63, 0⟩
def WHL_CNT_SYNC_EXCH_COUNT : FieldRef := ⟨0x100060, 2, 63, 0⟩
def WHL_CNT_SYNC_MISS_COUNT : FieldRef := ⟨0x100068, 2, 63, 0⟩
def WHL_POLDER_CTL_ANCHOR (p : Nat) : FieldRef := ⟨0x101000 + 0x200 * p, 1, 1, 1⟩
def WHL_POLDER_CTL_RUN (p : Nat) : FieldRef := ⟨0x101000 + 0x200 * p, 1, 0, 0⟩
def WHL_POLDER_STATUS_ERR (p : Nat) : FieldRef := ⟨0x101008 + 0x200 * p, 1, 31, 28⟩
def WHL_POLDER_STATUS_DETAIL (p : Nat) : FieldRef := ⟨0x101008 + 0x200 * p, 1, 27, 14⟩
def WHL_POLDER_STATUS_ENTRY (p : Nat) : FieldRef := ⟨0x101008 + 0x200 * p, 1, 13, 8⟩
def WHL_POLDER_STATUS_RUNNING (p : Nat) : FieldRef := ⟨0x101008 + 0x200 * p, 1, 0, 0⟩
def WHL_TURN_VALUE (p : Nat) : FieldRef := ⟨0x101010 + 0x200 * p, 2, 63, 0⟩
def WHL_TURN_NOMINAL_VALUE (p : Nat) : FieldRef := ⟨0x101018 + 0x200 * p, 2, 63, 0⟩
def WHL_TURN_START_VALUE (p : Nat) : FieldRef := ⟨0x101020 + 0x200 * p, 2, 63, 0⟩
def WHL_PLAN_RT_GUARD (p e : Nat) : FieldRef := ⟨0x101080 + 0x200 * p + 0x8 * e, 2, 47, 36⟩
def WHL_PLAN_PROGRAM (p e : Nat) : FieldRef := ⟨0x101080 + 0x200 * p + 0x8 * e, 2, 34, 32⟩
def WHL_PLAN_REPEAT (p e : Nat) : FieldRef := ⟨0x101080 + 0x200 * p + 0x8 * e, 2, 31, 16⟩
def WHL_PLAN_TURN_LEN (p e : Nat) : FieldRef := ⟨0x101080 + 0x200 * p + 0x8 * e, 2, 15, 0⟩
def WHL_CNT_TURNS_COUNT (p : Nat) : FieldRef := ⟨0x101100 + 0x200 * p, 2, 63, 0⟩
def WHL_CNT_SLIPPED_COUNT (p : Nat) : FieldRef := ⟨0x101108 + 0x200 * p, 2, 63, 0⟩
def WHL_CNT_SLIP_TICKS_COUNT (p : Nat) : FieldRef := ⟨0x101110 + 0x200 * p, 2, 63, 0⟩
def WHL_CNT_MAX_SLIP_COUNT (p : Nat) : FieldRef := ⟨0x101118 + 0x200 * p, 2, 63, 0⟩
def WHL_CNT_OVERRUN_COUNT (p : Nat) : FieldRef := ⟨0x101120 + 0x200 * p, 2, 63, 0⟩
def WHL_CNT_OVERRUN_EIGHTHS_COUNT (p : Nat) : FieldRef := ⟨0x101128 + 0x200 * p, 2, 63, 0⟩
def WHL_CNT_GUARD_ABANDON_COUNT (p : Nat) : FieldRef := ⟨0x101130 + 0x200 * p, 2, 63, 0⟩
def WHL_CNT_HANDOVER_COUNT (p : Nat) : FieldRef := ⟨0x101138 + 0x200 * p, 2, 63, 0⟩
def WHL_CNT_IDLE_SEL_COUNT (p : Nat) : FieldRef := ⟨0x101140 + 0x200 * p, 2, 63, 0⟩
def WHL_OVERRUN_LAST_VALID (p : Nat) : FieldRef := ⟨0x101180 + 0x200 * p, 2, 63, 63⟩
def WHL_OVERRUN_LAST_CORE_ID (p : Nat) : FieldRef := ⟨0x101180 + 0x200 * p, 2, 44, 32⟩
def WHL_OVERRUN_LAST_SLOT (p : Nat) : FieldRef := ⟨0x101180 + 0x200 * p, 2, 27, 16⟩
def WHL_OVERRUN_LAST_EIGHTHS (p : Nat) : FieldRef := ⟨0x101180 + 0x200 * p, 2, 15, 0⟩
def WHL_GROUP_SEL_LAST_CLASS (g : Nat) : FieldRef := ⟨0x104000 + 0x8 * g, 2, 37, 32⟩
def WHL_GROUP_SEL_INDEX (g : Nat) : FieldRef := ⟨0x104000 + 0x8 * g, 2, 23, 16⟩
def WHL_GROUP_SEL_SRC (g : Nat) : FieldRef := ⟨0x104000 + 0x8 * g, 2, 15, 14⟩
def WHL_GROUP_SEL_IDLE_CLASS (g : Nat) : FieldRef := ⟨0x104000 + 0x8 * g, 2, 11, 6⟩
def WHL_GROUP_SEL_FIXED_CLASS (g : Nat) : FieldRef := ⟨0x104000 + 0x8 * g, 2, 5, 0⟩
def WHL_TBL_ADDR_TARGET : FieldRef := ⟨0x108000, 2, 45, 44⟩
def WHL_TBL_ADDR_UNIT : FieldRef := ⟨0x108000, 2, 43, 31⟩
def WHL_TBL_ADDR_OFFSET : FieldRef := ⟨0x108000, 2, 19, 0⟩
def WHL_TBL_DATA_DATA : FieldRef := ⟨0x108008, 1, 31, 0⟩
def MFE_SHARE_SLICE (m : Nat) : FieldRef := ⟨0x700000 + 0x10000 * m, 2, 63, 0⟩
def MFE_TOK_BASE_ADDR (m : Nat) : FieldRef := ⟨0x700008 + 0x10000 * m, 2, 43, 0⟩
def MFE_TOK_CTL_VOCAB (m : Nat) : FieldRef := ⟨0x700010 + 0x10000 * m, 1, 21, 3⟩
def MFE_TOK_CTL_ERR (m : Nat) : FieldRef := ⟨0x700010 + 0x10000 * m, 1, 2, 1⟩
def MFE_TOK_CTL_LOAD (m : Nat) : FieldRef := ⟨0x700010 + 0x10000 * m, 1, 0, 0⟩
def MFE_PCTL_ERR_DETAIL (m p : Nat) : FieldRef := ⟨0x701000 + 0x10000 * m + 0x1000 * p, 1, 15, 10⟩
def MFE_PCTL_ERR (m p : Nat) : FieldRef := ⟨0x701000 + 0x10000 * m + 0x1000 * p, 1, 9, 8⟩
def MFE_PCTL_REWIND (m p : Nat) : FieldRef := ⟨0x701000 + 0x10000 * m + 0x1000 * p, 1, 2, 2⟩
def MFE_PCTL_MARK (m p : Nat) : FieldRef := ⟨0x701000 + 0x10000 * m + 0x1000 * p, 1, 1, 1⟩
def MFE_PCTL_RUN (m p : Nat) : FieldRef := ⟨0x701000 + 0x10000 * m + 0x1000 * p, 1, 0, 0⟩
def MFE_RING_BASE_ADDR (m p : Nat) : FieldRef := ⟨0x701008 + 0x10000 * m + 0x1000 * p, 2, 43, 0⟩
def MFE_CLASS_BASE_ADDR (m p : Nat) : FieldRef := ⟨0x701010 + 0x10000 * m + 0x1000 * p, 2, 43, 0⟩
def MFE_PROFILE_BASE_ADDR (m p : Nat) : FieldRef := ⟨0x701018 + 0x10000 * m + 0x1000 * p, 2, 43, 0⟩
def MFE_RING_CFG_LOG2_SIZE (m p : Nat) : FieldRef := ⟨0x701020 + 0x10000 * m + 0x1000 * p, 1, 4, 0⟩
def MFE_RING_IDX_NEXT (m p : Nat) : FieldRef := ⟨0x701028 + 0x10000 * m + 0x1000 * p, 2, 63, 32⟩
def MFE_RING_IDX_MARKED (m p : Nat) : FieldRef := ⟨0x701028 + 0x10000 * m + 0x1000 * p, 2, 31, 0⟩
def MFE_FETCH_CHANS_CHANS (m p j : Nat) : FieldRef := ⟨0x701030 + 0x10000 * m + 0x1000 * p + 0x4 * j, 1, 31, 0⟩
def MFE_CLASS_READY_READY (m p : Nat) : FieldRef := ⟨0x701040 + 0x10000 * m + 0x1000 * p, 2, 63, 0⟩
def MFE_ERR_LAST_VALID (m p : Nat) : FieldRef := ⟨0x701048 + 0x10000 * m + 0x1000 * p, 2, 63, 63⟩
def MFE_ERR_LAST_CODE (m p : Nat) : FieldRef := ⟨0x701048 + 0x10000 * m + 0x1000 * p, 2, 47, 32⟩
def MFE_ERR_LAST_RING_IDX (m p : Nat) : FieldRef := ⟨0x701048 + 0x10000 * m + 0x1000 * p, 2, 31, 0⟩
def MFE_CNT_LANDED_COUNT (m p : Nat) : FieldRef := ⟨0x701100 + 0x10000 * m + 0x1000 * p, 2, 63, 0⟩
def MFE_CNT_FAILED_COUNT (m p : Nat) : FieldRef := ⟨0x701108 + 0x10000 * m + 0x1000 * p, 2, 63, 0⟩
def MFE_CNT_SETS_COUNT (m p : Nat) : FieldRef := ⟨0x701110 + 0x10000 * m + 0x1000 * p, 2, 63, 0⟩
def MFE_CNT_SETS_DISCARDED_COUNT (m p : Nat) : FieldRef := ⟨0x701118 + 0x10000 * m + 0x1000 * p, 2, 63, 0⟩
def MFE_CNT_TILES_COUNT (m p : Nat) : FieldRef := ⟨0x701120 + 0x10000 * m + 0x1000 * p, 2, 63, 0⟩
def MFE_CNT_OUT_WAIT_COUNT (m p : Nat) : FieldRef := ⟨0x701128 + 0x10000 * m + 0x1000 * p, 2, 63, 0⟩
def MFE_CNT_BLOCKED_COUNT (m p : Nat) : FieldRef := ⟨0x701130 + 0x10000 * m + 0x1000 * p, 2, 63, 0⟩
def PIP_GROUP_CFG_STAGE (g : Nat) : FieldRef := ⟨0x600000 + 0x100 * g, 1, 31, 16⟩
def PIP_GROUP_CFG_MAXV (g : Nat) : FieldRef := ⟨0x600000 + 0x100 * g, 1, 7, 6⟩
def PIP_GROUP_CFG_FORM (g : Nat) : FieldRef := ⟨0x600000 + 0x100 * g, 1, 5, 5⟩
def PIP_GROUP_CFG_BIND (g : Nat) : FieldRef := ⟨0x600000 + 0x100 * g, 1, 4, 4⟩
def PIP_GROUP_CFG_POLDER (g : Nat) : FieldRef := ⟨0x600000 + 0x100 * g, 1, 3, 1⟩
def PIP_GROUP_CFG_VALID (g : Nat) : FieldRef := ⟨0x600000 + 0x100 * g, 1, 0, 0⟩
def PIP_GROUP_MB_RELEASERS (g : Nat) : FieldRef := ⟨0x600004 + 0x100 * g, 1, 28, 16⟩
def PIP_GROUP_MB_MB_PER_STEP (g : Nat) : FieldRef := ⟨0x600004 + 0x100 * g, 1, 15, 0⟩
def PIP_GROUP_SHERDS_SHERD_MASK (g : Nat) : FieldRef := ⟨0x600008 + 0x100 * g, 1, 15, 0⟩
def PIP_GROUP_STATUS_SLOT_WAIT (g : Nat) : FieldRef := ⟨0x60000C + 0x100 * g, 1, 14, 14⟩
def PIP_GROUP_STATUS_CURRENT_SLOT (g : Nat) : FieldRef := ⟨0x60000C + 0x100 * g, 1, 13, 12⟩
def PIP_GROUP_STATUS_INFER_USED (g : Nat) : FieldRef := ⟨0x60000C + 0x100 * g, 1, 11, 7⟩
def PIP_GROUP_STATUS_STASH_USED (g : Nat) : FieldRef := ⟨0x60000C + 0x100 * g, 1, 6, 0⟩
def PIP_GROUP_INIT_NUMBER (g : Nat) : FieldRef := ⟨0x600010 + 0x100 * g, 1, 31, 0⟩
def PIP_GROUP_CLUSTERS_MEMBERS (g w : Nat) : FieldRef := ⟨0x600020 + 0x100 * g + 0x4 * w, 1, 31, 0⟩
def PIP_VER_NUMBER (g j : Nat) : FieldRef := ⟨0x600040 + 0x100 * g + 0x8 * j, 2, 63, 32⟩
def PIP_VER_REFS (g j : Nat) : FieldRef := ⟨0x600040 + 0x100 * g + 0x8 * j, 2, 31, 24⟩
def PIP_VER_FULL_AREA (g j : Nat) : FieldRef := ⟨0x600040 + 0x100 * g + 0x8 * j, 2, 23, 20⟩
def PIP_VER_DELTAS (g j : Nat) : FieldRef := ⟨0x600040 + 0x100 * g + 0x8 * j, 2, 19, 8⟩
def PIP_VER_STATE (g j : Nat) : FieldRef := ⟨0x600040 + 0x100 * g + 0x8 * j, 2, 2, 0⟩
def PIP_AREA_OFF_OFF (g a : Nat) : FieldRef := ⟨0x600060 + 0x100 * g + 0x8 * a, 2, 43, 0⟩
def PIP_CNT_BIND_COUNT (g : Nat) : FieldRef := ⟨0x600090 + 0x100 * g, 2, 63, 0⟩
def PIP_CNT_RELEASE_COUNT (g : Nat) : FieldRef := ⟨0x600098 + 0x100 * g, 2, 63, 0⟩
def PIP_CNT_STASH_WAIT_COUNT (g : Nat) : FieldRef := ⟨0x6000A0 + 0x100 * g, 2, 63, 0⟩
def PIP_CNT_VER_WAIT_COUNT (g : Nat) : FieldRef := ⟨0x6000A8 + 0x100 * g, 2, 63, 0⟩
def PIP_CNT_SLOT_WAIT_COUNT (g : Nat) : FieldRef := ⟨0x6000B0 + 0x100 * g, 2, 63, 0⟩
def PIP_CNT_COMMIT_COUNT (g : Nat) : FieldRef := ⟨0x6000B8 + 0x100 * g, 2, 63, 0⟩
def PIP_CNT_RETIRE_COUNT (g : Nat) : FieldRef := ⟨0x6000C0 + 0x100 * g, 2, 63, 0⟩
def PIP_CNT_FLOW_WAIT_COUNT (g : Nat) : FieldRef := ⟨0x6000C8 + 0x100 * g, 2, 63, 0⟩
def PIP_CNT_ABANDON_REL_COUNT (g : Nat) : FieldRef := ⟨0x6000D0 + 0x100 * g, 2, 63, 0⟩
def PIP_LINK_DESC_WORD (l w : Nat) : FieldRef := ⟨0x610000 + 0x40 * l + 0x4 * w, 1, 31, 0⟩
def PIP_LINK_STATE_EPOCH (l : Nat) : FieldRef := ⟨0x610020 + 0x40 * l, 1, 31, 16⟩
def PIP_LINK_STATE_OPEN_WAIT (l : Nat) : FieldRef := ⟨0x610020 + 0x40 * l, 1, 4, 4⟩
def PIP_LINK_STATE_ERR (l : Nat) : FieldRef := ⟨0x610020 + 0x40 * l, 1, 3, 2⟩
def PIP_LINK_STATE_STATE (l : Nat) : FieldRef := ⟨0x610020 + 0x40 * l, 1, 1, 0⟩
def PIP_LINK_HEAD_HEAD (l : Nat) : FieldRef := ⟨0x610024 + 0x40 * l, 1, 31, 0⟩
def PIP_LINK_READY_HEAD_READY (l : Nat) : FieldRef := ⟨0x610028 + 0x40 * l, 1, 14, 14⟩
def PIP_LINK_READY_CLASS (l : Nat) : FieldRef := ⟨0x610028 + 0x40 * l, 1, 13, 8⟩
def PIP_LINK_READY_READY (l : Nat) : FieldRef := ⟨0x610028 + 0x40 * l, 1, 6, 0⟩
def PIP_LINK_CMD_CLOSE (l : Nat) : FieldRef := ⟨0x61002C + 0x40 * l, 1, 1, 1⟩
def PIP_LINK_CMD_OPEN (l : Nat) : FieldRef := ⟨0x61002C + 0x40 * l, 1, 0, 0⟩
def PIP_CNT_ENTRIES_COUNT (l : Nat) : FieldRef := ⟨0x610030 + 0x40 * l, 2, 63, 0⟩
def PIP_CNT_STALE_COUNT (l : Nat) : FieldRef := ⟨0x610038 + 0x40 * l, 2, 63, 0⟩
def PIP_POLDER_CTL_CLEAR (p : Nat) : FieldRef := ⟨0x620000 + 0x40 * p, 1, 1, 1⟩
def PIP_POLDER_CTL_ABANDON (p : Nat) : FieldRef := ⟨0x620000 + 0x40 * p, 1, 0, 0⟩
def PIP_POLDER_ABANDON_STEP_STEP (p : Nat) : FieldRef := ⟨0x620004 + 0x40 * p, 1, 31, 0⟩
def PIP_POLDER_NORETURN_STEP (p : Nat) : FieldRef := ⟨0x620008 + 0x40 * p, 1, 31, 0⟩
def KLN_TBL_VERSION_ALLOWED : FieldRef := ⟨0x410000, 1, 15, 8⟩
def KLN_TBL_VERSION_SUPPORTED : FieldRef := ⟨0x410000, 1, 7, 0⟩
def KLN_TBL_BASE_ADDR : FieldRef := ⟨0x410008, 2, 43, 0⟩
def KLN_TBL_CTL_ERR_TABLE : FieldRef := ⟨0x410010, 1, 13, 8⟩
def KLN_TBL_CTL_ERR : FieldRef := ⟨0x410010, 1, 3, 2⟩
def KLN_TBL_CTL_LOAD : FieldRef := ⟨0x410010, 1, 0, 0⟩
def KLN_TBL_USED_USED : FieldRef := ⟨0x410018, 2, 63, 0⟩
def KLN_NORMS_BASE_ADDR : FieldRef := ⟨0x410020, 2, 43, 0⟩
def KLN_NORMS_CFG_LOG2_SIZE : FieldRef := ⟨0x410028, 1, 4, 0⟩
def KLN_NORMS_IDX_TAIL : FieldRef := ⟨0x410030, 2, 63, 32⟩
def KLN_NORMS_IDX_HEAD : FieldRef := ⟨0x410030, 2, 31, 0⟩
def KLN_ERR_LAST_VALID : FieldRef := ⟨0x410038, 2, 63, 63⟩
def KLN_ERR_LAST_KILN : FieldRef := ⟨0x410038, 2, 59, 56⟩
def KLN_ERR_LAST_CODE : FieldRef := ⟨0x410038, 2, 55, 40⟩
def KLN_ERR_LAST_TILE : FieldRef := ⟨0x410038, 2, 39, 20⟩
def KLN_ERR_LAST_LAYER : FieldRef := ⟨0x410038, 2, 15, 0⟩
def KLN_PRECOND_STALE_STALE : FieldRef := ⟨0x410040, 1, 31, 31⟩
def KLN_PRECOND_STALE_LAYER : FieldRef := ⟨0x410040, 1, 15, 0⟩
def KLN_CNT_NORMS_DROP_COUNT : FieldRef := ⟨0x410048, 2, 63, 0⟩
def KLN_LDESC_BASE_ADDR (i : Nat) : FieldRef := ⟨0x400000 + 0x1000 * i, 2, 43, 0⟩
def KLN_WORK_BASE_ADDR (i : Nat) : FieldRef := ⟨0x400008 + 0x1000 * i, 2, 43, 0⟩
def KLN_STATUS_BASIN_USED (i : Nat) : FieldRef := ⟨0x400010 + 0x1000 * i, 1, 20, 8⟩
def KLN_STATUS_EXPORT_WAIT (i : Nat) : FieldRef := ⟨0x400010 + 0x1000 * i, 1, 4, 4⟩
def KLN_STATUS_BASIN_FULL (i : Nat) : FieldRef := ⟨0x400010 + 0x1000 * i, 1, 3, 3⟩
def KLN_STATUS_NEWTON (i : Nat) : FieldRef := ⟨0x400010 + 0x1000 * i, 1, 2, 2⟩
def KLN_STATUS_UNLENT (i : Nat) : FieldRef := ⟨0x400010 + 0x1000 * i, 1, 1, 1⟩
def KLN_STATUS_BUSY (i : Nat) : FieldRef := ⟨0x400010 + 0x1000 * i, 1, 0, 0⟩
def KLN_CTL_CLEAR (i : Nat) : FieldRef := ⟨0x400014 + 0x1000 * i, 1, 0, 0⟩
def KLN_BASIN_SHARE_MATRIX (i p : Nat) : FieldRef := ⟨0x400040 + 0x1000 * i + 0x4 * p, 1, 25, 13⟩
def KLN_BASIN_SHARE_FRAMES (i p : Nat) : FieldRef := ⟨0x400040 + 0x1000 * i + 0x4 * p, 1, 12, 0⟩
def KLN_EXPORT_BASE_ADDR (i p : Nat) : FieldRef := ⟨0x400080 + 0x1000 * i + 0x20 * p, 2, 43, 0⟩
def KLN_EXPORT_CFG_STATE (i p : Nat) : FieldRef := ⟨0x400088 + 0x1000 * i + 0x20 * p, 1, 6, 6⟩
def KLN_EXPORT_CFG_ENABLE (i p : Nat) : FieldRef := ⟨0x400088 + 0x1000 * i + 0x20 * p, 1, 5, 5⟩
def KLN_EXPORT_CFG_LOG2_TILES (i p : Nat) : FieldRef := ⟨0x400088 + 0x1000 * i + 0x20 * p, 1, 4, 0⟩
def KLN_EXPORT_IDX_TAIL (i p : Nat) : FieldRef := ⟨0x400090 + 0x1000 * i + 0x20 * p, 2, 63, 32⟩
def KLN_EXPORT_IDX_HEAD (i p : Nat) : FieldRef := ⟨0x400090 + 0x1000 * i + 0x20 * p, 2, 31, 0⟩
def KLN_CNT_TILES_COUNT (i : Nat) : FieldRef := ⟨0x400200 + 0x1000 * i, 2, 63, 0⟩
def KLN_CNT_DISCARD_COUNT (i : Nat) : FieldRef := ⟨0x400208 + 0x1000 * i, 2, 63, 0⟩
def KLN_CNT_STALE_COUNT (i : Nat) : FieldRef := ⟨0x400210 + 0x1000 * i, 2, 63, 0⟩
def KLN_CNT_REFUSED_COUNT (i : Nat) : FieldRef := ⟨0x400218 + 0x1000 * i, 2, 63, 0⟩
def KLN_CNT_PARKED_COUNT (i : Nat) : FieldRef := ⟨0x400220 + 0x1000 * i, 2, 63, 0⟩
def KLN_CNT_FETCH_COUNT (i : Nat) : FieldRef := ⟨0x400228 + 0x1000 * i, 2, 63, 0⟩
def KLN_CNT_FETCH_FAIL_COUNT (i : Nat) : FieldRef := ⟨0x400230 + 0x1000 * i, 2, 63, 0⟩
def KLN_CNT_BASIN_FULL_COUNT (i : Nat) : FieldRef := ⟨0x400238 + 0x1000 * i, 2, 63, 0⟩
def KLN_CNT_NONFINITE_COUNT (i : Nat) : FieldRef := ⟨0x400240 + 0x1000 * i, 2, 63, 0⟩
def KLN_CNT_QOVF_COUNT (i : Nat) : FieldRef := ⟨0x400248 + 0x1000 * i, 2, 63, 0⟩
def KLN_CNT_FIRINGS_COUNT (i : Nat) : FieldRef := ⟨0x400250 + 0x1000 * i, 2, 63, 0⟩
def KLN_CNT_NEWTON_COUNT (i : Nat) : FieldRef := ⟨0x400258 + 0x1000 * i, 2, 63, 0⟩
def KLN_CNT_NEWTON_DAMPED_COUNT (i : Nat) : FieldRef := ⟨0x400260 + 0x1000 * i, 2, 63, 0⟩
def KLN_CNT_NEWTON_FAIL_COUNT (i : Nat) : FieldRef := ⟨0x400268 + 0x1000 * i, 2, 63, 0⟩
def KLN_CNT_FALLBACK_COUNT (i : Nat) : FieldRef := ⟨0x400270 + 0x1000 * i, 2, 63, 0⟩
def KLN_CNT_EXPORT_WAIT_COUNT (i : Nat) : FieldRef := ⟨0x400278 + 0x1000 * i, 2, 63, 0⟩
def KLN_CNT_EXPORT_UNITS_COUNT (i : Nat) : FieldRef := ⟨0x400280 + 0x1000 * i, 2, 63, 0⟩
def MEM_CHAN_OWNER_OWNER (s j : Nat) : FieldRef := ⟨0x500000 + 0x1000 * s + 0x4 * j, 1, 31, 0⟩
def MEM_WAYS_WAYS (s p : Nat) : FieldRef := ⟨0x500020 + 0x1000 * s + 0x4 * p, 1, 15, 0⟩
def MEM_WEIR_BURST (s b pt : Nat) : FieldRef := ⟨0x500100 + 0x1000 * s + 0x10 * b + 0x4 * pt, 1, 28, 16⟩
def MEM_WEIR_RATE (s b pt : Nat) : FieldRef := ⟨0x500100 + 0x1000 * s + 0x10 * b + 0x4 * pt, 1, 8, 0⟩
def MEM_STACK_STATUS_TEMP (s : Nat) : FieldRef := ⟨0x500200 + 0x1000 * s, 1, 23, 16⟩
def MEM_STACK_STATUS_HOT_DIE (s : Nat) : FieldRef := ⟨0x500200 + 0x1000 * s, 1, 15, 12⟩
def MEM_STACK_STATUS_REFRESH (s : Nat) : FieldRef := ⟨0x500200 + 0x1000 * s, 1, 11, 10⟩
def MEM_STACK_STATUS_MARGIN (s : Nat) : FieldRef := ⟨0x500200 + 0x1000 * s, 1, 2, 2⟩
def MEM_STACK_STATUS_WIPING (s : Nat) : FieldRef := ⟨0x500200 + 0x1000 * s, 1, 1, 1⟩
def MEM_STACK_STATUS_OFFLINE (s : Nat) : FieldRef := ⟨0x500200 + 0x1000 * s, 1, 0, 0⟩
def MEM_REPAIR_ENTRY_ENTRY (s : Nat) : FieldRef := ⟨0x500210 + 0x1000 * s, 1, 31, 0⟩
def MEM_REPAIR_CTL_SOFT_USED (s : Nat) : FieldRef := ⟨0x500214 + 0x1000 * s, 1, 31, 16⟩
def MEM_REPAIR_CTL_ERR (s : Nat) : FieldRef := ⟨0x500214 + 0x1000 * s, 1, 3, 2⟩
def MEM_REPAIR_CTL_APPLY (s : Nat) : FieldRef := ⟨0x500214 + 0x1000 * s, 1, 0, 0⟩
def MEM_MARGIN_CTL_START (s : Nat) : FieldRef := ⟨0x500220 + 0x1000 * s, 1, 31, 31⟩
def MEM_MARGIN_CTL_ALL (s : Nat) : FieldRef := ⟨0x500220 + 0x1000 * s, 1, 24, 24⟩
def MEM_MARGIN_CTL_PATTERN (s : Nat) : FieldRef := ⟨0x500220 + 0x1000 * s, 1, 23, 21⟩
def MEM_MARGIN_CTL_VOLT (s : Nat) : FieldRef := ⟨0x500220 + 0x1000 * s, 1, 20, 13⟩
def MEM_MARGIN_CTL_TIMING (s : Nat) : FieldRef := ⟨0x500220 + 0x1000 * s, 1, 12, 5⟩
def MEM_MARGIN_CTL_CHANNEL (s : Nat) : FieldRef := ⟨0x500220 + 0x1000 * s, 1, 4, 0⟩
def MEM_MARGIN_RESULT_DONE (s : Nat) : FieldRef := ⟨0x500228 + 0x1000 * s, 2, 63, 63⟩
def MEM_MARGIN_RESULT_FAIL (s : Nat) : FieldRef := ⟨0x500228 + 0x1000 * s, 2, 62, 62⟩
def MEM_MARGIN_RESULT_BIT_ERRORS (s : Nat) : FieldRef := ⟨0x500228 + 0x1000 * s, 2, 31, 0⟩
def MEM_DIKE_LAST_VALID (s : Nat) : FieldRef := ⟨0x500240 + 0x1000 * s, 2, 63, 63⟩
def MEM_DIKE_LAST_REQ_POLDER (s : Nat) : FieldRef := ⟨0x500240 + 0x1000 * s, 2, 59, 56⟩
def MEM_DIKE_LAST_OWNER (s : Nat) : FieldRef := ⟨0x500240 + 0x1000 * s, 2, 55, 52⟩
def MEM_DIKE_LAST_MASTER (s : Nat) : FieldRef := ⟨0x500240 + 0x1000 * s, 2, 51, 48⟩
def MEM_DIKE_LAST_ADDR (s : Nat) : FieldRef := ⟨0x500240 + 0x1000 * s, 2, 43, 0⟩
def MEM_CNT_CTL_CLEAR (s : Nat) : FieldRef := ⟨0x5002F8 + 0x1000 * s, 1, 0, 0⟩
def MEM_CNT_HIT_COUNT (s : Nat) : FieldRef := ⟨0x500300 + 0x1000 * s, 2, 63, 0⟩
def MEM_CNT_MISS_COUNT (s : Nat) : FieldRef := ⟨0x500308 + 0x1000 * s, 2, 63, 0⟩
def MEM_CNT_SHORT_COUNT (s : Nat) : FieldRef := ⟨0x500310 + 0x1000 * s, 2, 63, 0⟩
def MEM_CNT_NOALLOC_COUNT (s : Nat) : FieldRef := ⟨0x500318 + 0x1000 * s, 2, 63, 0⟩
def MEM_CNT_DEFERRED_COUNT (s : Nat) : FieldRef := ⟨0x500320 + 0x1000 * s, 2, 63, 0⟩
def MEM_CNT_ATOM_ELEM_COUNT (s : Nat) : FieldRef := ⟨0x500328 + 0x1000 * s, 2, 63, 0⟩
def MEM_CNT_ATOM_SAT_COUNT (s : Nat) : FieldRef := ⟨0x500330 + 0x1000 * s, 2, 63, 0⟩
def MEM_CNT_DIKE_COUNT (s : Nat) : FieldRef := ⟨0x500338 + 0x1000 * s, 2, 63, 0⟩
def MEM_CNT_ECC_CORR_COUNT (s : Nat) : FieldRef := ⟨0x500340 + 0x1000 * s, 2, 63, 0⟩
def MEM_CNT_ECC_UNCORR_COUNT (s : Nat) : FieldRef := ⟨0x500348 + 0x1000 * s, 2, 63, 0⟩
def MEM_CNT_REFRESH_HOT_COUNT (s : Nat) : FieldRef := ⟨0x500350 + 0x1000 * s, 2, 63, 0⟩
def MEM_CNT_WEIR_WAIT_COUNT (s b : Nat) : FieldRef := ⟨0x500380 + 0x1000 * s + 0x8 * b, 2, 63, 0⟩
def MEM_WIPE_CTL_POLDERS : FieldRef := ⟨0x510000, 1, 7, 0⟩
def MEM_WIPE_STATUS_REFUSED : FieldRef := ⟨0x510004, 1, 23, 16⟩
def MEM_WIPE_STATUS_WIPING : FieldRef := ⟨0x510004, 1, 15, 0⟩
def MEM_REG_BASE_ADDR : FieldRef := ⟨0x510008, 2, 43, 0⟩
def MEM_REG_CMD_OP : FieldRef := ⟨0x510010, 1, 10, 8⟩
def MEM_REG_CMD_INDEX : FieldRef := ⟨0x510010, 1, 7, 0⟩
def MEM_REG_STATUS_INDEX : FieldRef := ⟨0x510014, 1, 15, 8⟩
def MEM_REG_STATUS_ERR : FieldRef := ⟨0x510014, 1, 3, 0⟩
def MEM_REG_BUDGET_SP_TILES (p : Nat) : FieldRef := ⟨0x510040 + 0x8 * p, 2, 39, 32⟩
def MEM_REG_BUDGET_TILES (p : Nat) : FieldRef := ⟨0x510040 + 0x8 * p, 2, 31, 0⟩
def MEM_REG_USED_SP_TILES (p : Nat) : FieldRef := ⟨0x510080 + 0x8 * p, 2, 39, 32⟩
def MEM_REG_USED_TILES (p : Nat) : FieldRef := ⟨0x510080 + 0x8 * p, 2, 31, 0⟩
def MEM_CNT_DIKE_LANE_COUNT : FieldRef := ⟨0x5100C0, 2, 63, 0⟩
def MEM_CNT_REG_LOAD_COUNT : FieldRef := ⟨0x5100C8, 2, 63, 0⟩
def MEM_CNT_REG_EVICT_COUNT : FieldRef := ⟨0x5100D0, 2, 63, 0⟩
def MEM_CNT_REG_FAIL_COUNT : FieldRef := ⟨0x5100D8, 2, 63, 0⟩
def LNK_VERSION_ALLOWED : FieldRef := ⟨0x200000, 1, 15, 8⟩
def LNK_VERSION_SUPPORTED : FieldRef := ⟨0x200000, 1, 7, 0⟩
def LNK_EXPORT_CFG_VC (q : Nat) : FieldRef := ⟨0x200040 + 0x8 * q, 1, 11, 8⟩
def LNK_EXPORT_CFG_PORT (q : Nat) : FieldRef := ⟨0x200040 + 0x8 * q, 1, 7, 4⟩
def LNK_EXPORT_CFG_TARGET (q : Nat) : FieldRef := ⟨0x200040 + 0x8 * q, 1, 1, 0⟩
def LNK_EXPORT_HOST_LOG2_UNITS : FieldRef := ⟨0x200080, 2, 49, 44⟩
def LNK_EXPORT_HOST_ADDR : FieldRef := ⟨0x200080, 2, 43, 0⟩
def LNK_EXPORT_HOST_IDX_TAIL : FieldRef := ⟨0x200088, 2, 63, 32⟩
def LNK_EXPORT_HOST_IDX_HEAD : FieldRef := ⟨0x200088, 2, 31, 0⟩
def LNK_PORT_CFG_MAXW (p : Nat) : FieldRef := ⟨0x201000 + 0x400 * p, 1, 6, 5⟩
def LNK_PORT_CFG_REACH (p : Nat) : FieldRef := ⟨0x201000 + 0x400 * p, 1, 4, 4⟩
def LNK_PORT_CFG_ROLE (p : Nat) : FieldRef := ⟨0x201000 + 0x400 * p, 1, 2, 0⟩
def LNK_PORT_CTL_CLEAR (p : Nat) : FieldRef := ⟨0x201004 + 0x400 * p, 1, 4, 4⟩
def LNK_PORT_CTL_ENABLE (p : Nat) : FieldRef := ⟨0x201004 + 0x400 * p, 1, 3, 3⟩
def LNK_PORT_CTL_RESET (p : Nat) : FieldRef := ⟨0x201004 + 0x400 * p, 1, 2, 2⟩
def LNK_PORT_CTL_DOWN (p : Nat) : FieldRef := ⟨0x201004 + 0x400 * p, 1, 1, 1⟩
def LNK_PORT_CTL_RETRAIN (p : Nat) : FieldRef := ⟨0x201004 + 0x400 * p, 1, 0, 0⟩
def LNK_PORT_STATUS_ERR (p : Nat) : FieldRef := ⟨0x201008 + 0x400 * p, 1, 27, 24⟩
def LNK_PORT_STATUS_FAILS (p : Nat) : FieldRef := ⟨0x201008 + 0x400 * p, 1, 23, 22⟩
def LNK_PORT_STATUS_RIP (p : Nat) : FieldRef := ⟨0x201008 + 0x400 * p, 1, 21, 21⟩
def LNK_PORT_STATUS_LEADER (p : Nat) : FieldRef := ⟨0x201008 + 0x400 * p, 1, 20, 20⟩
def LNK_PORT_STATUS_VERSION (p : Nat) : FieldRef := ⟨0x201008 + 0x400 * p, 1, 19, 16⟩
def LNK_PORT_STATUS_MASK (p : Nat) : FieldRef := ⟨0x201008 + 0x400 * p, 1, 15, 8⟩
def LNK_PORT_STATUS_WIDTH (p : Nat) : FieldRef := ⟨0x201008 + 0x400 * p, 1, 7, 4⟩
def LNK_PORT_STATUS_STATE (p : Nat) : FieldRef := ⟨0x201008 + 0x400 * p, 1, 3, 0⟩
def LNK_PORT_EPOCH_PEER_WIDTH_EPOCH (p : Nat) : FieldRef := ⟨0x20100C + 0x400 * p, 1, 31, 24⟩
def LNK_PORT_EPOCH_WIDTH_EPOCH (p : Nat) : FieldRef := ⟨0x20100C + 0x400 * p, 1, 23, 16⟩
def LNK_PORT_EPOCH_LINK_EPOCH (p : Nat) : FieldRef := ⟨0x20100C + 0x400 * p, 1, 15, 0⟩
def LNK_PEER_SERIAL_SERIAL (p : Nat) : FieldRef := ⟨0x201010 + 0x400 * p, 2, 63, 0⟩
def LNK_PEER_RTT (p : Nat) : FieldRef := ⟨0x201018 + 0x400 * p, 1, 31, 18⟩
def LNK_PEER_PKG_ID (p : Nat) : FieldRef := ⟨0x201018 + 0x400 * p, 1, 17, 4⟩
def LNK_PEER_PORT (p : Nat) : FieldRef := ⟨0x201018 + 0x400 * p, 1, 3, 0⟩
def LNK_DOWN_CFG_THRESH (p : Nat) : FieldRef := ⟨0x201020 + 0x400 * p, 1, 15, 8⟩
def LNK_DOWN_CFG_LOG2_WINDOW (p : Nat) : FieldRef := ⟨0x201020 + 0x400 * p, 1, 4, 0⟩
def LNK_DOWN_LAST_VALID (p : Nat) : FieldRef := ⟨0x201028 + 0x400 * p, 2, 63, 63⟩
def LNK_DOWN_LAST_CAUSE (p : Nat) : FieldRef := ⟨0x201028 + 0x400 * p, 2, 59, 56⟩
def LNK_DOWN_LAST_TIDE (p : Nat) : FieldRef := ⟨0x201028 + 0x400 * p, 2, 47, 0⟩
def LNK_SINK_BASE_LOG2_UNITS (p : Nat) : FieldRef := ⟨0x201030 + 0x400 * p, 2, 49, 44⟩
def LNK_SINK_BASE_ADDR (p : Nat) : FieldRef := ⟨0x201030 + 0x400 * p, 2, 43, 0⟩
def LNK_SINK_IDX_TAIL (p : Nat) : FieldRef := ⟨0x201038 + 0x400 * p, 2, 63, 32⟩
def LNK_SINK_IDX_HEAD (p : Nat) : FieldRef := ⟨0x201038 + 0x400 * p, 2, 31, 0⟩
def LNK_VC_CFG_POLDER (p v : Nat) : FieldRef := ⟨0x201100 + 0x400 * p + 0x10 * v, 1, 19, 16⟩
def LNK_VC_CFG_PHASES (p v : Nat) : FieldRef := ⟨0x201100 + 0x400 * p + 0x10 * v, 1, 15, 0⟩
def LNK_VC_BUF_BUF_UNITS (p v : Nat) : FieldRef := ⟨0x201104 + 0x400 * p + 0x10 * v, 1, 14, 0⟩
def LNK_VC_STATE_PEER_EMPTY (p v : Nat) : FieldRef := ⟨0x201108 + 0x400 * p + 0x10 * v, 1, 31, 31⟩
def LNK_VC_STATE_INIT (p v : Nat) : FieldRef := ⟨0x201108 + 0x400 * p + 0x10 * v, 1, 30, 16⟩
def LNK_VC_STATE_LEAK_TIMING (p v : Nat) : FieldRef := ⟨0x201108 + 0x400 * p + 0x10 * v, 1, 15, 15⟩
def LNK_VC_STATE_WINDOW (p v : Nat) : FieldRef := ⟨0x201108 + 0x400 * p + 0x10 * v, 1, 14, 0⟩
def LNK_CNT_FRAMES_TX_COUNT (p : Nat) : FieldRef := ⟨0x201200 + 0x400 * p, 2, 63, 0⟩
def LNK_CNT_FRAMES_RX_COUNT (p : Nat) : FieldRef := ⟨0x201208 + 0x400 * p, 2, 63, 0⟩
def LNK_CNT_CORRECTED_COUNT (p : Nat) : FieldRef := ⟨0x201210 + 0x400 * p, 2, 63, 0⟩
def LNK_CNT_UNCORR_COUNT (p : Nat) : FieldRef := ⟨0x201218 + 0x400 * p, 2, 63, 0⟩
def LNK_CNT_REPLAY_COUNT (p : Nat) : FieldRef := ⟨0x201220 + 0x400 * p, 2, 63, 0⟩
def LNK_CNT_REPLAY_BOUND_COUNT (p : Nat) : FieldRef := ⟨0x201228 + 0x400 * p, 2, 63, 0⟩
def LNK_CNT_RETRAIN_COUNT (p : Nat) : FieldRef := ⟨0x201230 + 0x400 * p, 2, 63, 0⟩
def LNK_CNT_LEAK_RETRAIN_COUNT (p : Nat) : FieldRef := ⟨0x201238 + 0x400 * p, 2, 63, 0⟩
def LNK_CNT_DOWN_COUNT (p : Nat) : FieldRef := ⟨0x201240 + 0x400 * p, 2, 63, 0⟩
def LNK_CNT_STALE_EPOCH_COUNT (p : Nat) : FieldRef := ⟨0x201248 + 0x400 * p, 2, 63, 0⟩
def LNK_CNT_MISROUTE_COUNT (p : Nat) : FieldRef := ⟨0x201250 + 0x400 * p, 2, 63, 0⟩
def LNK_CNT_DROP_ROLE_COUNT (p : Nat) : FieldRef := ⟨0x201258 + 0x400 * p, 2, 63, 0⟩
def LNK_CNT_CTRL_BAD_COUNT (p : Nat) : FieldRef := ⟨0x201260 + 0x400 * p, 2, 63, 0⟩
def LNK_CNT_EXPORT_DUP_COUNT (p : Nat) : FieldRef := ⟨0x201268 + 0x400 * p, 2, 63, 0⟩
def LNK_LANE_STATUS_CORR (l : Nat) : FieldRef := ⟨0x208000 + 0x4 * l, 1, 31, 16⟩
def LNK_LANE_STATUS_POLARITY (l : Nat) : FieldRef := ⟨0x208000 + 0x4 * l, 1, 3, 3⟩
def LNK_LANE_STATUS_EXCLUDED (l : Nat) : FieldRef := ⟨0x208000 + 0x4 * l, 1, 2, 2⟩
def LNK_LANE_STATUS_ACTIVE (l : Nat) : FieldRef := ⟨0x208000 + 0x4 * l, 1, 1, 1⟩
def LNK_LANE_STATUS_QUALIFIED (l : Nat) : FieldRef := ⟨0x208000 + 0x4 * l, 1, 0, 0⟩
def LNK_CULV_STATUS_PEER_WIRE_EPOCH (c : Nat) : FieldRef := ⟨0x209000 + 0x40 * c, 1, 31, 24⟩
def LNK_CULV_STATUS_WIRE_EPOCH (c : Nat) : FieldRef := ⟨0x209000 + 0x40 * c, 1, 23, 16⟩
def LNK_CULV_STATUS_SPARES_USED (c : Nat) : FieldRef := ⟨0x209000 + 0x40 * c, 1, 15, 8⟩
def LNK_CULV_STATUS_FAILS (c : Nat) : FieldRef := ⟨0x209000 + 0x40 * c, 1, 6, 5⟩
def LNK_CULV_STATUS_RIP (c : Nat) : FieldRef := ⟨0x209000 + 0x40 * c, 1, 4, 4⟩
def LNK_CULV_STATUS_DISABLED (c : Nat) : FieldRef := ⟨0x209000 + 0x40 * c, 1, 3, 3⟩
def LNK_CULV_STATUS_STATE (c : Nat) : FieldRef := ⟨0x209000 + 0x40 * c, 1, 2, 0⟩
def LNK_CULV_CTL_CLEAR (c : Nat) : FieldRef := ⟨0x209004 + 0x40 * c, 1, 1, 1⟩
def LNK_CULV_CTL_REJOIN (c : Nat) : FieldRef := ⟨0x209004 + 0x40 * c, 1, 0, 0⟩
def LNK_CNT_CULV_CRC_COUNT (c : Nat) : FieldRef := ⟨0x209010 + 0x40 * c, 2, 63, 0⟩
def LNK_CNT_CULV_REPLAY_COUNT (c : Nat) : FieldRef := ⟨0x209018 + 0x40 * c, 2, 63, 0⟩
def LNK_CNT_CULV_RETRAIN_COUNT (c : Nat) : FieldRef := ⟨0x209020 + 0x40 * c, 2, 63, 0⟩
def LNK_CNT_CULV_QUAR_COUNT (c : Nat) : FieldRef := ⟨0x209028 + 0x40 * c, 2, 63, 0⟩
def LNK_CNT_CULV_SYNTH_COUNT (c : Nat) : FieldRef := ⟨0x209030 + 0x40 * c, 2, 63, 0⟩
def COL_OP_SEL_POLDER (j : Nat) : FieldRef := ⟨0x300000 + 0x8000 * j, 1, 13, 11⟩
def COL_OP_SEL_OP (j : Nat) : FieldRef := ⟨0x300000 + 0x8000 * j, 1, 10, 0⟩
def COL_OP_STATE_STEP (j : Nat) : FieldRef := ⟨0x300008 + 0x8000 * j, 2, 63, 32⟩
def COL_OP_STATE_CODE (j : Nat) : FieldRef := ⟨0x300008 + 0x8000 * j, 2, 31, 16⟩
def COL_OP_STATE_STATE (j : Nat) : FieldRef := ⟨0x300008 + 0x8000 * j, 2, 2, 0⟩
def COL_DIGEST_LAST_VALID (j : Nat) : FieldRef := ⟨0x300010 + 0x8000 * j, 2, 63, 63⟩
def COL_DIGEST_LAST_GROUP (j : Nat) : FieldRef := ⟨0x300010 + 0x8000 * j, 2, 55, 48⟩
def COL_DIGEST_LAST_STACKS (j : Nat) : FieldRef := ⟨0x300010 + 0x8000 * j, 2, 47, 40⟩
def COL_DIGEST_LAST_SOURCE (j : Nat) : FieldRef := ⟨0x300010 + 0x8000 * j, 2, 39, 32⟩
def COL_DIGEST_LAST_STEP (j : Nat) : FieldRef := ⟨0x300010 + 0x8000 * j, 2, 31, 0⟩
def COL_ERR_LAST_VALID (j : Nat) : FieldRef := ⟨0x300018 + 0x8000 * j, 2, 63, 63⟩
def COL_ERR_LAST_POLDER (j : Nat) : FieldRef := ⟨0x300018 + 0x8000 * j, 2, 47, 45⟩
def COL_ERR_LAST_OP (j : Nat) : FieldRef := ⟨0x300018 + 0x8000 * j, 2, 44, 34⟩
def COL_ERR_LAST_CODE (j : Nat) : FieldRef := ⟨0x300018 + 0x8000 * j, 2, 15, 0⟩
def COL_CTL_CLEAR (j : Nat) : FieldRef := ⟨0x300020 + 0x8000 * j, 1, 0, 0⟩
def COL_OP_BASE_ADDR (j p : Nat) : FieldRef := ⟨0x300400 + 0x8000 * j + 0x40 * p, 2, 43, 0⟩
def COL_OP_COUNT_COUNT (j p : Nat) : FieldRef := ⟨0x300408 + 0x8000 * j + 0x40 * p, 1, 10, 0⟩
def COL_SHARE_RESULT (j p : Nat) : FieldRef := ⟨0x30040C + 0x8000 * j + 0x40 * p, 1, 28, 16⟩
def COL_SHARE_CONTRIB (j p : Nat) : FieldRef := ⟨0x30040C + 0x8000 * j + 0x40 * p, 1, 13, 0⟩
def COL_SERVICE_SET (j p : Nat) : FieldRef := ⟨0x300410 + 0x8000 * j + 0x40 * p, 1, 13, 0⟩
def COL_CNT_PULLED_COUNT (j : Nat) : FieldRef := ⟨0x300100 + 0x8000 * j, 2, 63, 0⟩
def COL_CNT_PULL_AGAIN_COUNT (j : Nat) : FieldRef := ⟨0x300108 + 0x8000 * j, 2, 63, 0⟩
def COL_CNT_DELIVERED_COUNT (j : Nat) : FieldRef := ⟨0x300110 + 0x8000 * j, 2, 63, 0⟩
def COL_CNT_STALE_COUNT (j : Nat) : FieldRef := ⟨0x300118 + 0x8000 * j, 2, 63, 0⟩
def COL_CNT_CONTRIB_FULL_COUNT (j : Nat) : FieldRef := ⟨0x300120 + 0x8000 * j, 2, 63, 0⟩
def COL_CNT_DIGEST_COUNT (j : Nat) : FieldRef := ⟨0x300128 + 0x8000 * j, 2, 63, 0⟩
def COL_CNT_MISMATCH_COUNT (j : Nat) : FieldRef := ⟨0x300130 + 0x8000 * j, 2, 63, 0⟩
def COL_CNT_REPAIR_TILES_COUNT (j : Nat) : FieldRef := ⟨0x300138 + 0x8000 * j, 2, 63, 0⟩
def COL_CNT_FETCH_COUNT (j : Nat) : FieldRef := ⟨0x300140 + 0x8000 * j, 2, 63, 0⟩
def MGT_STATUS_JOBS : FieldRef := ⟨0x0, 1, 10, 3⟩
def MGT_STATUS_DEGRADED : FieldRef := ⟨0x0, 1, 2, 2⟩
def MGT_STATUS_CFG_DONE : FieldRef := ⟨0x0, 1, 1, 1⟩
def MGT_STATUS_MAIN_UP : FieldRef := ⟨0x0, 1, 0, 0⟩
def MGT_JD_VERSION_ALLOWED : FieldRef := ⟨0x4, 1, 15, 8⟩
def MGT_JD_VERSION_SUPPORTED : FieldRef := ⟨0x4, 1, 7, 0⟩
def MGT_SQ_BASE_ADDR : FieldRef := ⟨0x8, 2, 43, 0⟩
def MGT_CQ_BASE_ADDR : FieldRef := ⟨0x20, 2, 43, 0⟩
def MGT_TRACE_BASE_ADDR : FieldRef := ⟨0x38, 2, 43, 0⟩
def MGT_SQ_CFG_CLASSES : FieldRef := ⟨0x10, 1, 13, 8⟩
def MGT_SQ_CFG_ENABLE : FieldRef := ⟨0x10, 1, 7, 7⟩
def MGT_SQ_CFG_LOG2_SIZE : FieldRef := ⟨0x10, 1, 4, 0⟩
def MGT_CQ_CFG_CLASSES : FieldRef := ⟨0x28, 1, 13, 8⟩
def MGT_CQ_CFG_ENABLE : FieldRef := ⟨0x28, 1, 7, 7⟩
def MGT_CQ_CFG_LOG2_SIZE : FieldRef := ⟨0x28, 1, 4, 0⟩
def MGT_TRACE_CTL_CLASSES : FieldRef := ⟨0x40, 1, 13, 8⟩
def MGT_TRACE_CTL_ENABLE : FieldRef := ⟨0x40, 1, 7, 7⟩
def MGT_TRACE_CTL_LOG2_SIZE : FieldRef := ⟨0x40, 1, 4, 0⟩
def MGT_SQ_IDX_TAIL : FieldRef := ⟨0x18, 2, 63, 32⟩
def MGT_SQ_IDX_HEAD : FieldRef := ⟨0x18, 2, 31, 0⟩
def MGT_CQ_IDX_TAIL : FieldRef := ⟨0x30, 2, 63, 32⟩
def MGT_CQ_IDX_HEAD : FieldRef := ⟨0x30, 2, 31, 0⟩
def MGT_TRACE_IDX_TAIL : FieldRef := ⟨0x48, 2, 63, 32⟩
def MGT_TRACE_IDX_HEAD : FieldRef := ⟨0x48, 2, 31, 0⟩
def MGT_CNT_SAMPLES_COUNT : FieldRef := ⟨0x80, 2, 63, 0⟩
def MGT_CNT_ACCEPTED_COUNT : FieldRef := ⟨0x88, 2, 63, 0⟩
def MGT_CNT_REFUSED_COUNT : FieldRef := ⟨0x90, 2, 63, 0⟩
def MGT_CNT_TRACE_DROP_COUNT : FieldRef := ⟨0x98, 2, 63, 0⟩
def SEC_STATUS_ORPHAN : FieldRef := ⟨0x800000, 1, 7, 7⟩
def SEC_STATUS_RECOVERY : FieldRef := ⟨0x800000, 1, 6, 6⟩
def SEC_STATUS_ROLLBACK : FieldRef := ⟨0x800000, 1, 5, 5⟩
def SEC_STATUS_SLOT : FieldRef := ⟨0x800000, 1, 4, 4⟩
def SEC_STATUS_PRESENCE : FieldRef := ⟨0x800000, 1, 3, 3⟩
def SEC_STATUS_LC_STATE : FieldRef := ⟨0x800000, 1, 2, 0⟩
def SEC_BOOT_STATUS_SLOT_B : FieldRef := ⟨0x800004, 1, 15, 8⟩
def SEC_BOOT_STATUS_SLOT_A : FieldRef := ⟨0x800004, 1, 7, 0⟩
def SEC_SVN_REVOKE : FieldRef := ⟨0x800008, 1, 31, 30⟩
def SEC_SVN_OWNER_GEN : FieldRef := ⟨0x800008, 1, 29, 24⟩
def SEC_SVN_IMAGE_SVN : FieldRef := ⟨0x800008, 1, 23, 16⟩
def SEC_SVN_FW_SVN : FieldRef := ⟨0x800008, 1, 7, 0⟩
def SEC_CTL_COMMIT_SVN : FieldRef := ⟨0x80000C, 1, 0, 0⟩
def SEC_LC_NONCE_NONCE (w : Nat) : FieldRef := ⟨0x800010 + 0x4 * w, 1, 31, 0⟩
def SEC_KEYS_PAIR (p : Nat) : FieldRef := ⟨0x800040 + 0x4 * p, 1, 6, 6⟩
def SEC_KEYS_LINK (p : Nat) : FieldRef := ⟨0x800040 + 0x4 * p, 1, 5, 5⟩
def SEC_KEYS_MODEL_KEYS (p : Nat) : FieldRef := ⟨0x800040 + 0x4 * p, 1, 4, 0⟩
def SEC_CNT_SAGGAR_READ_COUNT : FieldRef := ⟨0x800100, 2, 63, 0⟩
def SEC_CNT_SAGGAR_WRITE_COUNT : FieldRef := ⟨0x800108, 2, 63, 0⟩
def SEC_CNT_LANE_AUTH_COUNT : FieldRef := ⟨0x800110, 2, 63, 0⟩
def SEC_CNT_AUTH_FAIL_COUNT : FieldRef := ⟨0x800118, 2, 63, 0⟩
def SEC_CNT_PRESENCE_COUNT : FieldRef := ⟨0x800120, 2, 63, 0⟩
def SEC_SAGGAR_TILES (n : Nat) : FieldRef := ⟨0x801000 + 0x10 * n, 4, 127, 96⟩
def SEC_SAGGAR_OFFSET (n : Nat) : FieldRef := ⟨0x801000 + 0x10 * n, 4, 95, 64⟩
def SEC_SAGGAR_CHANS (n : Nat) : FieldRef := ⟨0x801000 + 0x10 * n, 4, 63, 32⟩
def SEC_SAGGAR_STACKS (n : Nat) : FieldRef := ⟨0x801000 + 0x10 * n, 4, 31, 16⟩
def SEC_SAGGAR_ENTRY (n : Nat) : FieldRef := ⟨0x801000 + 0x10 * n, 4, 15, 8⟩
def SEC_SAGGAR_POLDER (n : Nat) : FieldRef := ⟨0x801000 + 0x10 * n, 4, 7, 5⟩
def SEC_SAGGAR_SOURCE (n : Nat) : FieldRef := ⟨0x801000 + 0x10 * n, 4, 1, 1⟩
def SEC_SAGGAR_VALID (n : Nat) : FieldRef := ⟨0x801000 + 0x10 * n, 4, 0, 0⟩
def PWR_STATUS_POWER : FieldRef := ⟨0xA00000, 1, 31, 20⟩
def PWR_STATUS_CURRENT : FieldRef := ⟨0xA00000, 1, 19, 10⟩
def PWR_STATUS_CURR_LIMIT : FieldRef := ⟨0xA00000, 1, 3, 3⟩
def PWR_STATUS_PWR_THROTTLE : FieldRef := ⟨0xA00000, 1, 2, 2⟩
def PWR_STATUS_DRAM_THROTTLE : FieldRef := ⟨0xA00000, 1, 1, 1⟩
def PWR_STATUS_CD_THROTTLE : FieldRef := ⟨0xA00000, 1, 0, 0⟩
def PWR_LIMIT_FLOOR : FieldRef := ⟨0xA00004, 1, 18, 16⟩
def PWR_LIMIT_LIMIT : FieldRef := ⟨0xA00004, 1, 11, 0⟩
def PWR_RESET_CTL_TARGET : FieldRef := ⟨0xA00008, 1, 15, 8⟩
def PWR_RESET_CTL_KIND : FieldRef := ⟨0xA00008, 1, 2, 0⟩
def PWR_STEP_WDOG_LIMIT (p : Nat) : FieldRef := ⟨0xA00010 + 0x4 * p, 1, 15, 0⟩
def PWR_RECOV_CTL_STEP (p : Nat) : FieldRef := ⟨0xA00040 + 0x10 * p, 2, 63, 32⟩
def PWR_RECOV_CTL_LIMIT (p : Nat) : FieldRef := ⟨0xA00040 + 0x10 * p, 2, 7, 4⟩
def PWR_RECOV_CTL_AUTO (p : Nat) : FieldRef := ⟨0xA00040 + 0x10 * p, 2, 3, 3⟩
def PWR_RECOV_CTL_RESTORE (p : Nat) : FieldRef := ⟨0xA00040 + 0x10 * p, 2, 2, 2⟩
def PWR_RECOV_CTL_ABANDON (p : Nat) : FieldRef := ⟨0xA00040 + 0x10 * p, 2, 0, 0⟩
def PWR_RECOV_STATUS_STEP (p : Nat) : FieldRef := ⟨0xA00048 + 0x10 * p, 2, 63, 32⟩
def PWR_RECOV_STATUS_ATTEMPTS (p : Nat) : FieldRef := ⟨0xA00048 + 0x10 * p, 2, 31, 24⟩
def PWR_RECOV_STATUS_CAUSE (p : Nat) : FieldRef := ⟨0xA00048 + 0x10 * p, 2, 15, 8⟩
def PWR_RECOV_STATUS_RESTORE_NEEDED (p : Nat) : FieldRef := ⟨0xA00048 + 0x10 * p, 2, 2, 2⟩
def PWR_RECOV_STATUS_PENDING (p : Nat) : FieldRef := ⟨0xA00048 + 0x10 * p, 2, 1, 1⟩
def PWR_DOM_TEMP (n : Nat) : FieldRef := ⟨0xA01000 + 0x4 * n, 1, 31, 24⟩
def PWR_DOM_VOLT (n : Nat) : FieldRef := ⟨0xA01000 + 0x4 * n, 1, 23, 16⟩
def PWR_DOM_POINT (n : Nat) : FieldRef := ⟨0xA01000 + 0x4 * n, 1, 10, 8⟩
def PWR_DOM_TRIM (n : Nat) : FieldRef := ⟨0xA01000 + 0x4 * n, 1, 7, 4⟩
def PWR_DOM_THROTTLED (n : Nat) : FieldRef := ⟨0xA01000 + 0x4 * n, 1, 1, 1⟩
def PWR_DOM_ON (n : Nat) : FieldRef := ⟨0xA01000 + 0x4 * n, 1, 0, 0⟩
def PWR_CNT_THERM_CD_COUNT : FieldRef := ⟨0xA00100, 2, 63, 0⟩
def PWR_CNT_THERM_DRAM_COUNT : FieldRef := ⟨0xA00108, 2, 63, 0⟩
def PWR_CNT_POWER_COUNT : FieldRef := ⟨0xA00110, 2, 63, 0⟩
def PWR_CNT_CURR_LIMIT_COUNT : FieldRef := ⟨0xA00118, 2, 63, 0⟩
def PWR_CNT_WDOG_COUNT : FieldRef := ⟨0xA00120, 2, 63, 0⟩
def CFG_STATUS_ERR_B : FieldRef := ⟨0xB00000, 1, 23, 20⟩
def CFG_STATUS_ERR_A : FieldRef := ⟨0xB00000, 1, 19, 16⟩
def CFG_STATUS_FALLBACK : FieldRef := ⟨0xB00000, 1, 8, 8⟩
def CFG_STATUS_COPY : FieldRef := ⟨0xB00000, 1, 5, 4⟩
def CFG_STATUS_MANIFEST : FieldRef := ⟨0xB00000, 1, 3, 3⟩
def CFG_STATUS_LOCKED : FieldRef := ⟨0xB00000, 1, 2, 2⟩
def CFG_STATUS_FAIL : FieldRef := ⟨0xB00000, 1, 1, 1⟩
def CFG_STATUS_DONE : FieldRef := ⟨0xB00000, 1, 0, 0⟩
def CFG_VERSION_IMAGE : FieldRef := ⟨0xB00004, 1, 15, 8⟩
def CFG_VERSION_SUPPORTED : FieldRef := ⟨0xB00004, 1, 7, 0⟩
def CFG_IMAGE_SEQ_SEQ : FieldRef := ⟨0xB00008, 1, 31, 0⟩
def CFG_CONFLICT_SECTION_B : FieldRef := ⟨0xB00010, 2, 47, 40⟩
def CFG_CONFLICT_SECTION_A : FieldRef := ⟨0xB00010, 2, 39, 32⟩
def CFG_CONFLICT_CLASS : FieldRef := ⟨0xB00010, 2, 31, 28⟩
def CFG_CONFLICT_INDEX : FieldRef := ⟨0xB00010, 2, 15, 0⟩
def CFG_CNT_WINDOW_DROP_COUNT : FieldRef := ⟨0xB00020, 2, 63, 0⟩

end Sys2Proof.Machine.Reg
end

