-- ==== Sys2Proof/Machine/State.lean ====
section
/-! DEFINITION. The state of one G960 package as plain data, its faults and refusals, and the state after reset. -/

namespace Sys2Proof.Machine

/-- Why the machine stops with a fault. The block raises none: every error the spec describes is a status code, a
register bit or an event, which are state. One name is kept for an access the memory operations are asked to make outside
the device address space; safe, since no meaning makes one. -/
inductive Fault where
  /-- An address at or above 2^44 (R6); raised by no meaning; safe. -/
  | outsideAddressSpace
  deriving DecidableEq, Repr

/-- Why a command has no next state. -/
inductive Refusal where
  /-- The command's meaning is not written; safe. -/
  | notModelled (mnemonic : String)
  /-- One of the cases of undefined behaviour of R540, by its row; raised by the meaning that meets it; safe. -/
  | undefinedBehaviour (case : String)
  deriving DecidableEq, Repr

/-! ### Tiles and commands -/

/-- A tile with its metadata record: 2,048 data bytes, tag and glaze (R146). -/
structure Tile where
  data  : List Byte
  tag   : DWord
  glaze : DWord
  deriving DecidableEq, Repr

/-- What the scoreboard keeps of a scratchpad tile beside its bytes: SEALED (R108) and the origin (R155). -/
structure TileAttr where
  isSealed : Bool
  origin   : Option Nat
  deriving DecidableEq, Repr

/-- One tile a command writes at its completion. -/
structure TileWrite where
  idx      : Nat
  tile     : Tile
  isSealed : Bool
  origin   : Option Nat
  deriving DecidableEq, Repr

/-- A finished tile (R115): tag, 32 x 32 pairs, final σ, replays, SAT, and whether its bank was SEALED. -/
structure Finished where
  tag      : Nat
  pairs    : List AccPair
  sigma    : Int
  replays  : Nat
  sat      : Bool
  isSealed : Bool
  deriving DecidableEq, Repr

/-- An accumulator bank (R115): whether it holds an open chain, the pairs, σ, replays, the SEALED state of R108, and the
status of a chain discarded under R110. -/
structure Bank where
  isOpen   : Bool
  pairs    : List AccPair
  sigma    : Int
  replays  : Nat
  isSealed : Bool
  failed   : Nat
  deriving DecidableEq, Repr

/-- A bank that holds no chain. -/
def Bank.empty : Bank := ⟨false, [], 0, 0, false, 0⟩

/-- A command in a queue (R93, R101): its words, its number, whether it came from a version 2 list (R100), whether it is a
VEXT that extends the VSTREAM before it, the extension once it is joined, and whether R96 makes it fail. -/
structure QEntry where
  cmd   : CmdWord
  seq   : BitVec 16
  v2    : Bool
  isExt : Bool
  ext   : Option CmdWord
  bad   : Bool
  deriving DecidableEq, Repr

/-- What an issued command has done so far and will write at its completion (R104, R109). -/
structure Flight where
  /-- The place in its core's order of issue (R105). -/
  order   : Nat
  /-- Whether nothing but its completion is left; a matrix command is in flight without it while its engine executes an earlier one. -/
  fin     : Bool
  /-- MSEND: its record is on its way. -/
  sent    : Bool
  /-- MSEND: the tide count at issue (R166); XMOVE: MGT_HOST_TAG_BASE.BASE at issue (R151). -/
  stamp   : Nat
  status  : Nat
  count   : Nat
  sat     : Bool
  replays : Nat
  fscale  : Int
  /-- Scratchpad tiles, in order. -/
  writes  : List TileWrite
  /-- Finished tiles to place. -/
  ftq     : List Finished
  /-- Increments of the polder's live telemetry counters. -/
  tel     : List (Nat × Nat)
  /-- MATMUL, MATW: its banks as they stood before its first pass, each with its number, and the passes discarded, for a snapshot
  taken while it runs (R137). -/
  before  : List (Nat × Bank)
  discs   : Nat
  deriving DecidableEq, Repr

/-- A command in flight that has produced nothing yet. -/
def Flight.start : Flight := ⟨0, false, false, 0, 0, 0, false, 0, 0, [], [], [], [], 0⟩

/-- An accepted command (R102): a queue entry and, once issued, its flight. -/
structure SbEntry where
  q      : QEntry
  flight : Option Flight
  deriving DecidableEq, Repr

/-- A command list being dispatched (R97 to R99): next tile and entry, entries left, version. -/
structure ListSt where
  tile  : Nat
  entry : Nat
  left  : Nat
  v2    : Bool
  id    : Nat
  deriving DecidableEq, Repr

/-- What a sequencer waits for (R89, R91, R219). -/
inductive Wait where
  | none | waitc | fence | slotStart | turnStart
  deriving DecidableEq, Repr

/-! ### Channels -/

/-- The states of a channel context (R163). -/
inductive CtxState where
  | off | isOpen | opening | closed
  deriving DecidableEq, Repr

/-- A record in a receive ring (R166): where it lies, its units, how many of its packets' units have arrived, whether it is
whole, whether it is a pad, whether it is SEALED. -/
structure RingRec where
  start    : Nat
  units    : Nat
  got      : Nat
  isWhole  : Bool
  isPad    : Bool
  isSealed : Bool
  deriving DecidableEq, Repr

/-- A record placed by a send context and not yet acknowledged (R171): its MSEND while that is in flight, whether it is a pad, and its
epoch, units and packets. -/
structure Unacked where
  who     : Option (BitVec 16)
  isPad   : Bool
  epoch   : Nat
  units   : Nat
  packets : Nat
  deriving DecidableEq, Repr

/-- A channel context (R161, R163, R165, R178, R185). -/
structure Ctx where
  desc        : BitVec 256
  state       : CtxState
  wr          : Nat
  credits     : Nat
  ringUnits   : Nat
  rd          : Nat
  recs        : List RingRec
  epoch       : BitVec 16
  msgSeq      : Word
  /-- The outstanding requests, oldest first: the MSEND, and the ticks left once it has completed (R185). -/
  outstanding : List (BitVec 16 × Option Nat)
  /-- Requests that timed out and have ended no MRECV yet (R185). -/
  timedOut    : Nat
  /-- MSENDs issued whose record is not yet placed, or blocked MRECVs, in issue order. -/
  waiting     : List (BitVec 16)
  /-- The records placed and not yet acknowledged, in send order. -/
  unacked     : List Unacked
  /-- The record whose packets are arriving on a lane (R170); `cut` once it is being dropped. -/
  arriving    : Option ChnRecord
  /-- The record now arriving is being dropped, and is acknowledged with this status. -/
  dropping    : Option Nat
  /-- Whether the context was OPEN when its step was abandoned (R182). -/
  wasOpen     : Bool
  deriving DecidableEq, Repr

/-- A context at its reset values. -/
def Ctx.empty : Ctx := ⟨0, .off, 0, 0, 0, 0, [], 0, 0, [], 0, [], [], none, none, false⟩

/-! ### A core -/

/-- The wheel's share of a core (R210, R212, R216 to R219, R223). -/
structure CoreWheel where
  /-- Wheel store and variant directory, by word. -/
  store    : SMap Word
  variants : SMap Word
  /-- Outside the polder's turn membership since a core reset (R223). -/
  outside  : Bool
  /-- CORE_CTL.RUN has been written 1 since that reset. -/
  rejoin   : Bool
  /-- The selected variant: first entry, entries, restart point, FALLTHRU. -/
  first    : Nat
  count    : Nat
  pc       : Nat
  fallthru : Bool
  /-- The next slot's ordinal, and the slot in progress. -/
  next     : Nat
  cur      : Option Nat
  /-- A WAITS has been executed in the slot in progress; a WAITS 1 in the turn. -/
  released : Bool
  relAll   : Bool
  /-- The core has ended its turn. -/
  ended    : Bool
  /-- The turn has started with the scoreboard empty and no slot of it yet: a restart may happen (R143). -/
  fresh    : Bool
  deriving DecidableEq, Repr

def CoreWheel.empty : CoreWheel := ⟨[], [], false, false, 0, 0, 0, true, 0, none, false, false, true, false⟩

/-- One core (R85, R87, R93 to R111, R159). Scratchpad bytes lie in State.mem and State.tags at their device addresses. -/
structure Core where
  x         : SMap DWord
  pc        : BitVec 13
  istore    : SMap Word
  dstore    : SMap Byte
  cbuf      : SMap DWord
  /-- The sequencer is not running. -/
  halted    : Bool
  /-- The halt was made through CORE_CTL.HALT, so that clearing it resumes (R140). -/
  haltReq   : Bool
  wait      : Wait
  faultCode : Nat
  faultPc   : Nat
  nextSeq   : BitVec 16
  /-- Commands in the four queues, in sequence order. -/
  queued    : List QEntry
  /-- The VSTREAM last issued to the vector queue waits for its extension (R96). -/
  extWait   : Bool
  /-- Finished-tile tags produced and not yet consumed in program order (R107). -/
  ftqTags   : List Nat
  /-- While `extWait`: how many of those tags came before the VSTREAM that waits. -/
  extTags   : Nat
  /-- In program order, a MATW chain is open (R246). -/
  matwOpen  : Bool
  /-- The scoreboard, in acceptance order; entries in flight hold their flight. -/
  sb        : List SbEntry
  list      : Option ListSt
  /-- Completion-ring tail (R111). -/
  tail      : Nat
  attrs     : SMap TileAttr
  banks     : SMap Bank
  ftq       : List Finished
  ctxs      : SMap Ctx
  /-- An accumulator snapshot asked for under R137: row and bank. -/
  snapReq   : Option (Nat × Nat)
  /-- The step is being abandoned on this core: a restart at CORE_STEP_ENTRY is due (R143). -/
  restart   : Bool
  wheel     : CoreWheel
  /-- The words of the control page that no field above is the home of, by page offset. -/
  page      : SMap Word
  deriving DecidableEq, Repr

/-- A core after reset (R144). -/
def Core.empty : Core :=
  { x := [], pc := 0, istore := [], dstore := [], cbuf := [], halted := true, haltReq := false, wait := .none
    faultCode := 0, faultPc := 0, nextSeq := 0, queued := [], extWait := false, ftqTags := [], extTags := 0, matwOpen := false, sb := [], list := none, tail := 0
    attrs := [], banks := [], ftq := [], ctxs := [], snapReq := none, restart := false, wheel := CoreWheel.empty
    page := [] }

/-! ### The wheel and the tide -/

/-- A polder's turns (R213, R216, R567). The status registers hold the turn number, entry and starts. -/
structure Wheel where
  /-- The polder runs (R567). -/
  runs      : Bool
  /-- A turn is in progress. -/
  turnOpen  : Bool
  /-- The next turn: plan entry, repetition, nominal start. -/
  nextEntry : Nat
  nextRep   : Nat
  nextStart : Nat
  /-- The tick at which the guard of the next real-time turn has acted (R220). -/
  guarded   : Option Nat
  deriving DecidableEq, Repr

def Wheel.empty : Wheel := ⟨false, false, 0, 0, 0, none⟩

/-- The tide logic (R189 to R202). -/
structure Tide where
  count     : BitVec 48
  /-- 0 to 999. -/
  phase     : Nat
  /-- No TMARK edge has arrived since the cold start. -/
  firstEdge : Bool
  /-- Ticks since the last edge that arrived, and the number of ticks at which an edge next counts as missing. -/
  quiet     : Nat
  missAt    : Nat
  /-- Deviations of the consecutive edges just ignored, oldest first. -/
  ignored   : List Int
  /-- The TMARK output's level, and ticks left of its pulse. -/
  markOut   : Bool
  markLeft  : Nat
  /-- Forerunner exchange: its ID, the departure stamp of one under way, ticks since the last exchange began, consecutive small
  offsets, what is left to slew in TREF cycles, ticks since the last slew, consecutive misses. -/
  syncId    : Nat
  t1        : Option Nat
  sinceSync : Nat
  lockRun   : Nat
  slew      : Int
  slewGap   : Nat
  misses    : Nat
  deriving DecidableEq, Repr

def Tide.empty : Tide := ⟨0, 0, true, 0, 100001, [], false, 0, 0, none, 0, 0, 0, 0, 0⟩

/-! ### Lanes (ch 11) -/

/-- What a lane port holds beside its registers (R419 to R433). -/
structure Port where
  /-- SEQ of the next DATA frame, and of the next one expected; ACK and NAK as they are sent; whether a DATA frame has been accepted,
  and whether one after that has been discarded and is awaited (R419). -/
  txSeq    : Nat
  rxSeq    : Nat
  ack      : Nat
  nak      : Bool
  accepted : Bool
  awaited  : Bool
  /-- DATA frames sent and not acknowledged, oldest first; the SEQ a running replay must see acknowledged. -/
  replay   : List Frame
  replayTo : Option Nat
  /-- Packets that wait to start, by VC; bytes of those started and not yet sent, each packet's first byte marked; packets received
  and not delivered, by VC; bytes of a packet not yet whole. -/
  streams  : SMap (List LanePkt)
  going    : SMap (List (Bool × Byte))
  rx       : SMap (List LanePkt)
  chunk : SMap (List Byte)
  /-- Units owed to the peer, by VC (R424). -/
  owed     : SMap Nat
  /-- Uncorrectable frames and codewords of the current window, and its threshold (R434); codewords of the current 2^20 (R432);
  good codewords in a row in ALIGN. -/
  uncorr   : Nat
  words    : Nat
  thresh   : Nat
  corrWords : Nat
  good     : Nat
  /-- The peer's last QUAL, bit by lane; transmitter taps in 1/64 by lane × 3 + tap, beyond their presets, and the last answer for
  each (R427, R558). -/
  peerQual : Nat
  taps     : SMap Int
  sts      : SMap Nat
  /-- The REQ being sent: KIND and EXCLUDE (R433). -/
  req      : Option (Nat × Nat)
  /-- No sequence state is kept (R429); the port came from DETECT; a RETRAIN is not yet over. -/
  fresh    : Bool
  detected : Bool
  retrain  : Bool
  /-- This NEGOTIATE: own CAPS with SEEN sent, one received, T_TX of the last CAPS received and its arrival. -/
  seenSent : Bool
  seenGot  : Bool
  echo     : Nat
  capsAt   : Nat
  /-- ACK of the newest VC_STATUS, and the last DATA frame that carried each VC (R425). -/
  statAck  : Nat
  lastSeq  : SMap Nat
  /-- The last export SEQ seen, by source (R438). -/
  sink     : List ((Nat × Nat × Nat) × Nat)
  deriving DecidableEq, Repr

/-- A port at its reset values. -/
def Port.empty : Port :=
  { txSeq := 0, rxSeq := 0, ack := 0xFFF, nak := false, accepted := false, awaited := false, replay := [], replayTo := none, streams := [], going := [], rx := []
    chunk := [], owed := [], uncorr := 0, words := 0, thresh := 16, corrWords := 0, good := 0, peerQual := 0, taps := [], sts := [], req := none, fresh := true, detected := false
    retrain := false, seenSent := false, seenGot := false, echo := 0, capsAt := 0, statAck := 0xFFF, lastSeq := []
    sink := [] }

/-- The drain of a polder's difference stream (R437): the kiln it visits, and the record under way: its units, and for a lane its
port and VC. -/
structure Drain where
  kiln  : Nat
  units : Nat
  lane  : Option (Nat × Nat)
  deriving DecidableEq, Repr

def Drain.empty : Drain := ⟨0, 0, none⟩

/-- A culvert beside its registers (R441, R446): the sequence number of the next beat in each direction, the directions in which
a replay is under way, and whether every wire is to be tested again. -/
structure Culvert where
  next0   : Nat
  next1   : Nat
  replays : List Nat
  fresh   : Bool
  deriving DecidableEq, Repr

def Culvert.empty : Culvert := ⟨0, 0, [], false⟩

/-! ### Stage groups (ch 8) -/

/-- A stash entry (R307 to R309, R312, R313): the micro-batch, the version it is bound to with its slot, the tick of the
binding, and the releasers counted. -/
structure StashEntry where
  mbSeq  : Nat
  step   : Nat
  index  : Nat
  cls    : Nat
  vtag   : Nat
  number : Nat
  vslot  : Nat
  tide   : Nat
  count  : Nat
  deriving DecidableEq, Repr

/-- An entry of a micro-batch queue (R294, R297, R298): its header's fields, the parts that have arrived, the tick at which it
became ready, the TAKEs that have completed. -/
structure QueueRec where
  mbSeq    : Nat
  step     : Nat
  index    : Nat
  cls      : Nat
  infer    : Bool
  isSealed : Bool
  vtag     : Nat
  epoch    : Nat
  parts    : List Nat
  ready    : Option Nat
  takes    : Nat
  deriving DecidableEq, Repr

/-- What a link end holds beside its registers: RX: the queue, and consumed numbers beyond HEAD; TX: acknowledged parts of
entries not yet complete; the tick of its last PIP_OPEN (R292). -/
structure LinkEnd where
  queue  : List QueueRec
  eaten  : List Nat
  acked  : List (Nat × Nat)
  /-- TX: its abandonments less the new epochs it has heard of: while positive it waits for its peer's notice (R326, R327). -/
  due    : Int
  /-- TX: a HEAD notice has come since it opened, so that EPOCH is its peer's. -/
  heard  : Bool
  /-- RX: a HEAD notice that no open path has taken yet. -/
  unsent : Bool
  /-- TX of a remote link: the peer's queue region lies in a saggar region, as its PIP_OPEN said (R302, log 48). -/
  vault  : Bool
  asked  : Nat
  deriving DecidableEq, Repr

def LinkEnd.empty : LinkEnd := ⟨[], [], [], 0, false, false, false, 0⟩

/-- A TX end that waits for its peer's notice (R326). -/
def LinkEnd.paused (x : LinkEnd) : Bool := decide (0 < x.due)

/-- A firing under way (R319, R322): the stacks whose kiln has reported it complete, and the delta area it fills. -/
structure Firing where
  done  : Nat
  delta : Nat
  deriving DecidableEq, Repr

/-! ### Media front-ends (ch 7) -/

/-- A class descriptor as RUN read it (R276, R278): its profile's bytes, its record tiles' and its landing map's entries. -/
structure MfeClass where
  cls       : Nat
  kinds     : Nat
  stream    : Nat
  profile   : List Byte
  group     : Nat
  positions : Nat
  bufs      : Nat
  entries   : Nat
  dimMin    : Nat
  dimMax    : Nat
  recs      : List Nat
  map       : List Nat
  deriving DecidableEq, Repr

/-- A sample that has been taken and not yet filled its position (R266, R279): ring index, descriptor, the source bytes that could be
read and whether that was all of them (R267, R269), class, buffer, position, the tiles landed as (map entry, tile of the entry), and
whether it has failed. -/
structure Sample where
  idx    : Nat
  desc   : List Byte
  src    : List Byte
  whole  : Bool
  cls    : Nat
  buf    : Nat
  pos    : Nat
  landed : List (Nat × Nat)
  failed : Bool
  deriving DecidableEq, Repr

/-- Who has a landing buffer (R280, R281): the media front-end fills it, it is in the class queue, or a turn uses it. -/
inductive LandPhase where
  | filling | ready | taken
  deriving DecidableEq, Repr

/-- A set in a landing buffer (R279, R280): the records of its filled positions, how many positions are given to samples,
whether a CLOSE sample ended it, and the tick at which it became ready. -/
structure LandSet where
  cls      : Nat
  buf      : Nat
  phase    : LandPhase
  recs     : List (List Byte)
  assigned : Nat
  closed   : Bool
  readyAt  : Nat
  deriving DecidableEq, Repr

/-- One polder's share of a media front-end: the tables read at RUN, samples under way, sets in the order they became ready,
the tick of the last ring poll. -/
structure Mfe where
  classes : List MfeClass
  flows   : List Sample
  sets    : List LandSet
  polled  : Option Nat
  deriving DecidableEq, Repr

def Mfe.empty : Mfe := ⟨[], [], [], none⟩

/-! ### Supplies and clocks (ch 14) -/

/-- A cluster domain's throttling (R519, R520): points it has fallen for each and not risen again, the compute rows of R519 that
apply (bit 0 the first, bit 1 the second), ticks for which no row has applied. -/
structure Dom where
  therm : Nat
  power : Nat
  rows  : Nat
  calm  : Nat
  deriving DecidableEq, Repr

def Dom.zero : Dom := ⟨0, 0, 0, 0⟩

/-- Supplies, throttling and the MGC's watch over steps. -/
structure Power where
  /-- VAUX good; PWRGOOD; RESET# and PERST# held low; THERMTRIP# asserted; the main side runs (R515, R521, R522). -/
  vaux     : Bool
  pwrgood  : Bool
  resetLow : Bool
  perstLow : Bool
  therm    : Bool
  main     : Bool
  doms     : SMap Dom
  /-- DRAM rows of R519 that apply, by stack: bits 0 to 2 for 92, 95 and 98 °C. -/
  rows     : SMap Nat
  /-- Ticks with power below 95 % of the limit (R520). -/
  calm     : Nat
  /-- Ticks since a polder's step watchdog last restarted (R534). -/
  watch    : SMap Nat
  /-- Origin and step of a polder's last glaze failure; origins that failed again in a re-run of their step, by polder (R157); the
  polders whose restore the MGC has still to make. -/
  lost     : SMap (Option (Nat × Nat))
  again    : List (Nat × Nat)
  due      : List Nat
  /-- Tiles of parameter sherds that the MGC has asked the replicas to repair, by polder (R157, R345). -/
  fixes    : List (Nat × Nat)
  /-- Dies whose clock is absent, with the ticks since the loss (R532). -/
  noClock  : List (Nat × Nat)
  /-- A start waits for its culverts (R522 step 7); ticks since VAUX became good, up to 100 ms. -/
  starting : Bool
  up       : Nat
  deriving DecidableEq, Repr

def Power.off : Power := ⟨false, false, false, false, false, false, [], [], 0, [], [], [], [], [], [], false, 0⟩

/-! ### What the package shows the outside -/

/-- A condition the device reports through PLDM monitoring; every one that raises ALERT# is one (R507, R550). -/
inductive Ev where
  | abandonment (polder cause : Nat)
  | restore (polder : Nat)
  | realign
  | trefLost
  | syncLost
  | portDisabled (port : Nat)
  | laneExcluded (lane : Nat)
  | culvertQuarantined (culvert : Nat)
  | culvertUntrained (culvert : Nat)
  | identityFailed (die code : Nat)
  | dieMissing (die : Nat)
  | bootFailed
  | configFailed (code : Nat)
  | thermtrip
  | digestMismatch (ce : Nat)
  | kilnRefused (kiln : Nat)
  | presence
  | updateRefused (code : Nat)
  deriving DecidableEq, Repr

/-- The completion of a PCIe request (R32, R509, R554). -/
inductive Completion where
  | data (l : List Byte)
  | written
  | unsupported
  | retry
  deriving DecidableEq, Repr

/-- What the package sends to the outside, in the order it is sent: MSI-X vectors; completions of PCIe requests by tag; answers of
the side-band services (R507: 1 PLDM type 2, 2 PLDM type 5, 3 SPDM, 4 TIDE_LOAD, 5 security requests) with a status and a
body; what JTAG shifts out; frames. -/
inductive Out where
  /-- The MGC asks the MGCs of the replicas for a tile of a polder (R157, R345); how the request travels is not given (log 112). -/
  | repair (polder addr : Nat)
  | msix (vector : Nat)
  | pcie (id : Nat) (c : Completion)
  | jtag (l : List Byte)
  | reply (service : Nat) (status : Nat) (body : List Byte)
  | frame (port : Nat) (f : Frame)
  deriving DecidableEq, Repr

/-- A polder's job (R511, R512, R471): its descriptor's token, NOTIFY, vector, entries named, step, seed and ring index; its image
as accepted, with the image's digest (R494); whether its sections are still being written, whether RUN has been set since, how far
a re-shard has come (0 none; 1 step n runs; 2 the wheel stops; 3 PERMUTEs run), and what follows it: the descriptor's image. -/
structure Job where
  active  : Bool
  token   : Nat
  notify  : Bool
  vector  : Nat
  models  : Nat
  step    : Nat
  seed    : DWord
  ringIdx : Nat
  image   : List Byte
  digest  : List Byte
  writing : Bool
  started : Bool
  reshard : Nat
  last    : Nat
  next    : List Byte
  deriving DecidableEq, Repr

def Job.none : Job := ⟨false, 0, false, 0, 0, 0, 0, 0, [], [], false, false, 0, 0, []⟩

/-- A descriptor that has been taken from the submission ring and not completed (R510): its bytes and ring index. -/
structure Taken where
  desc : List Byte
  idx  : Nat
  deriving DecidableEq, Repr

/-! ### The root of trust (ch 13) -/

/-- An owner record whose HMAC verifies (R482): its OWNER_GEN, life-cycle state, operator key set, whether it names slot B, and a
pending rollback permission: the SVN, and whether its write has been used (R487). -/
structure OwnerRec where
  gen      : Nat
  lc       : Nat
  keySet   : List Byte
  namesB   : Bool
  rollback : Option (Nat × Bool)
  deriving DecidableEq, Repr

/-- What the RTP and the MGC keep beside registers (R481 to R499): the counter cells; owner records A and B; ticks since the
presence latch; ephemeral pairs by polder, as the free value they were made from; the digest of each polder's last report; the
running bundle's components as TYPE and DIGEST, and its SVN; the loaded configuration image and its digest; digests of the sealed
images loaded, by registry entry; whether the MGC runs. -/
structure Rtp where
  fwSvn    : Nat
  revoke   : Nat
  ownerGen : Nat
  rma      : Bool
  ownerA   : Option OwnerRec
  ownerB   : Option OwnerRec
  presence : Option Nat
  pairs    : SMap (Option Nat)
  reports  : SMap (List Byte)
  bundle   : List (Nat × List Byte)
  svn      : Nat
  cfg      : List Byte
  image    : List Byte
  models   : SMap (List Byte)
  mgc      : Bool
  deriving DecidableEq, Repr

/-- The RTP of a package whose cells have never been written and whose flash is blank. -/
def Rtp.blank : Rtp := ⟨0, 0, 0, false, none, none, none, [], [], [], 0, [], [], [], false⟩

/-- The JTAG instructions (R555). -/
inductive JtagOp where
  | bypass | idcode | samplePreload | extest | clamp | highz | cwacc
  deriving DecidableEq, Repr

/-- The interfaces of the lands (R509, R548, R555): straps as sampled, SB_SEL and SB_ADDR; the I3C dynamic address; the JTAG
instruction and the values preloaded for the boundary; the host's writes to the configuration space since PERST#; log2 of
BAR2's size; the SPDM exchange: messages since GET_VERSION, and an answer held for CHUNK_GET. -/
structure Lands where
  sel    : Bool
  addr   : Nat
  i3c    : Option Nat
  jtagIr : JtagOp
  scan   : List Bool
  pcie   : List (Nat × List Byte)
  bar2   : Nat
  spdm   : List (List Byte)
  chunk  : List Byte
  deriving DecidableEq, Repr

def Lands.empty : Lands := ⟨false, 0, none, .idcode, [], [], 36, [], []⟩

/-! ### The stacks (ch 10) -/

/-- A line of a shared-cache slice (R379, R387): its way, its tile's device address, whether it is dirty, the additions counted
in each of its eight sectors, and the 4-byte words that have received one since their last renorm. Its data and metadata
lie in State.mem and State.tags: no other cache exists, so every master sees the line's contents (R380). -/
structure Line where
  way     : Nat
  addr    : Nat
  dirty   : Bool
  adds    : List Nat
  touched : List Nat
  deriving DecidableEq, Repr

/-- A request through the memory aperture that waits (R376, R383, R401): the device address it reaches, within one tile. -/
inductive HostReq where
  | read (addr n id : Nat)
  | write (addr : Nat) (data : List Byte)
  deriving DecidableEq, Repr

/-- An entry of a channel's deferred queue (R383): a victim's write-back, or an operator access with the tag its answer
carries. -/
inductive Deferred where
  | victim (addr : Nat)
  | opRead (addr n id : Nat)
  | opWrite (addr : Nat) (data : List Byte)
  deriving DecidableEq, Repr

/-! ### Collectives (ch 12) -/

/-- An entry of a pull list (R455). -/
structure PullEntry where
  core  : Nat
  tile  : Nat
  tiles : Nat
  route : Nat
  index : Nat
  layer : Nat
  ltile : Nat
  kiln  : Nat
  deriving DecidableEq, Repr

/-- A run of a PERMUTE operation's list (R470). -/
structure PermRun where
  src   : Nat
  dst   : Nat
  pkg   : Nat
  tiles : Nat
  deriving DecidableEq, Repr

/-- A tile in a buffer of a collective engine (R451): whether it is SEALED, and the partials added to it. -/
structure ColTile where
  tile     : Tile
  isSealed : Bool
  got      : Nat
  deriving DecidableEq, Repr

/-- A digest record of a step (R465): the member it comes from and its sub-digests. -/
structure DigestRec where
  step   : Nat
  origin : Nat
  subs   : List DWord
  deriving DecidableEq, Repr

/-- An operation of a collective engine: its descriptor, member table and lists as they were read (R453 to R455, R470), and what it
has done. -/
structure ColOp where
  kind    : Nat
  algo    : Nat
  owner   : Bool
  digest  : Bool
  group   : Nat
  vc      : Nat
  m       : Nat
  self    : Nat
  run     : Nat
  postMul : Nat
  postExp : Int
  tiles   : Nat
  inTiles : Nat
  src     : Nat
  dest    : Nat
  /-- Package and PORTS of each member. -/
  members : List (Nat × Nat)
  pulls   : List PullEntry
  runs    : List PermRun
  /-- Whether the operation runs; the step it serves; the status it failed with (R463, R480). -/
  active  : Bool
  step    : Nat
  code    : Nat
  /-- Pull entries whose first slot of the step has started, tiles pulled of each entry, entries whose next tile failed its glaze
  once (R458, R459). -/
  started : List Nat
  pos     : SMap Nat
  glazed  : List Nat
  /-- The buffers, by bucket index; results refused once with KLN_E_GLAZE; bucket tiles done with (R462, R463). -/
  contrib : SMap (Option ColTile)
  results : SMap (Option ColTile)
  again   : List Nat
  done    : List Nat
  /-- Tiles delivered and not yet reported as applied, by step; steps whose digest is to be sent; digest records (R465). -/
  owing   : SMap Nat
  digests : List Nat
  recs    : List DigestRec
  /-- Repair tiles to send, as (address, member); tiles a repair of this member still expects, and its step (R466). -/
  repairs : List (Nat × Nat)
  fixing  : Nat
  /-- PERMUTE: tiles sent, acknowledged, written here (R470). GATHER: own tiles sent. -/
  sent    : Nat
  acked   : Nat
  came    : Nat
  deriving DecidableEq, Repr

/-! ### Kilns (ch 9) -/

/-- A norm under way (R356): σ, the pair of the group of tiles in progress with their number, the pair of the groups before it. -/
structure NormAcc where
  sigma : Int
  group : StatPair
  count : Nat
  total : StatPair
  deriving DecidableEq, Repr

/-- A layer's step under way on a kiln (R336, R341, R356): the descriptor as read, the table in force, whether it is the fallback
table, tiles delivered, tiles applied or discarded, tiles discarded, the norms of w, g and Δw, QOVF, the CURRENT and the new weight tile
of deltas that wait for their other half (R343), and the block scales of the run in progress. -/
structure KLayer where
  desc     : List Byte
  table    : Nat
  fallback : Bool
  seen     : List Nat
  done     : List Nat
  discards : Nat
  w2       : NormAcc
  g2       : NormAcc
  d2       : NormAcc
  qovf     : Bool
  deltas   : List (Nat × Tile × Tile)
  scales   : List (Nat × List Nat)
  deriving DecidableEq, Repr

/-- What a parked entry waits for (R347): fetches, a version slot, the repair of a tile at an address, its block. -/
inductive ParkWait where
  | fetch
  | slot
  | repair (addr : Nat)
  | block
  deriving DecidableEq, Repr

/-- A parked entry (R347): who delivered it, its layer, tile and gradient, its frames, the tiles fetched (0 weight, 1 and 2
moments), the write-backs not yet acknowledged once it has been applied, whether one of its frames is a MATRIX frame, its part of the
preconditioned block (R350), and the addresses of its tiles that have been repaired (R345). -/
structure Parked where
  id     : Nat
  polder : Nat
  op     : Nat
  layer  : Nat
  idx    : Nat
  grad   : Tile
  frames : Nat
  matrix : Bool
  wait   : ParkWait
  got    : List (Nat × Tile)
  wbs    : Nat
  pre    : Option (List FV)
  mended : List Nat
  deriving DecidableEq, Repr

/-- A fetch or write-back under way (R347, R349): the kiln's parked entry it serves, which of its tiles, the tile written back, the
package and device address, ticks left, whether it has failed once, its lane port and VC; none in the host window. -/
structure KFetch where
  id     : Nat
  kiln   : Nat
  polder : Nat
  entry  : Nat
  slot   : Nat
  data   : Option Tile
  pkg    : Nat
  addr   : Nat
  left   : Nat
  failed : Bool
  lane   : Option (Nat × Nat)
  deriving DecidableEq, Repr

/-- The result of a root computation (R352 to R354): the roots of the two sides. -/
inductive RootRes where
  | pending
  | failed
  | found (left right : Option (List (List FV)))
  deriving DecidableEq, Repr

/-- A root computation of a block (R352): its statistics as they stood, left and right, and its result. -/
structure RootJob where
  layer  : Nat
  block  : Nat
  left   : Option (List (List FV))
  right  : Option (List (List FV))
  res    : RootRes
  deriving DecidableEq, Repr

/-- A kiln beside its registers: layers whose step is under way, parked entries, the delivery order by polder (layer, tiles of the
run or block delivered), root computations, records written to each polder's export ring since ENABLE (R360), the delivery of each
polder that waits, by operation and bucket tile (R341, R348). -/
structure Kiln where
  layers : SMap (Option KLayer)
  parked : List Parked
  order  : SMap (Option (Nat × List Nat))
  roots  : List RootJob
  seqs   : SMap Nat
  held   : SMap (Option (Nat × Nat))
  deriving DecidableEq, Repr

def Kiln.empty : Kiln := ⟨[], [], [], [], [], []⟩

/-! ### The package -/

/-- The state of the package. -/
structure State where
  /-- Commands waiting, first in, first out. -/
  pending : List Instr
  /-- How many free values have been used (the model's own). -/
  free    : Nat
  /-- The package's ID in its installation (R6, R479). -/
  pkgId   : Nat
  /-- Every byte of device memory, by device address: DRAM, scratchpads, host window (R29). -/
  mem     : List Host.Cell
  /-- Tile metadata records by tile number (device address / 2,048): tag, glaze (R146). -/
  tags    : SMap (DWord × DWord)
  /-- Register words below the core control pages that no other field is the home of, by offset. -/
  regs    : SMap Word
  power   : Power
  /-- The fuse blocks as read at the last cold start, by n of MGT_DIE_STATUS: the identity record, then what follows it, the
  repair map among it; empty for a die that did not answer (R24, R27, R397). -/
  idents  : SMap (List Byte)
  tide    : Tide
  wheels  : SMap Wheel
  /-- Route and set tables of the four dies, by die × 65,536 + word and die × 131,072 + word. -/
  routes  : SMap Word
  sets    : SMap Word
  cores   : SMap Core
  /-- Live telemetry counters of each polder (R82, R83). -/
  tel     : SMap Nat
  /-- Phases of mesh links and culverts that the configuration image reserves to media front-ends, by link: die, stop, direction (R261). -/
  reserved : List ((Nat × Nat × Nat) × Nat)
  /-- The lane ports, the difference streams' drains by polder, the culverts. -/
  ports   : SMap Port
  drains  : SMap Drain
  culverts : SMap Culvert
  /-- Lines of the slices by stack × 1,024 + set, most recently used first (R379). -/
  slices  : SMap (List Line)
  /-- Deferred queues by stack × 32 + channel, oldest first, and the aperture's requests that wait, in order (R383). -/
  deferred : SMap (List Deferred)
  behind  : List HostReq
  /-- Tokens spent from each weir bucket, by (stack × 9 + bucket) × 3 + point (R375, R376). -/
  weirs   : SMap Nat
  /-- Link ends; stashes by group × 80 + index; firings by group × 4 + slot. -/
  links   : SMap LinkEnd
  stash   : SMap (Option StashEntry)
  firings : SMap Firing
  /-- Collective operations by (CE × 8 + polder) × 1,024 + number; sub-digests by ((CE × 256 + group) × 2^32 + step) × 8 + stack
  (R453, R464). -/
  ops     : SMap (Option ColOp)
  subs    : SMap DWord
  /-- Kilns; the loaded coefficient tables (R340); the next step's σ of ‖w‖², ‖g‖² and ‖Δw‖² by layer (R356); fetches and
  write-backs under way and the number of the next one. -/
  kilns   : SMap Kiln
  ktables : SMap (List Byte)
  sigmas  : SMap (List Int)
  fetches : List KFetch
  serial  : Nat
  /-- Media front-ends by MF × 8 + polder, the slice each is in, and their tokenizer tables' merges (R260, R274). -/
  mfes    : SMap Mfe
  mfSlice : SMap Nat
  toks    : SMap (List (Nat × Nat))
  /-- Imported keys by polder × 17 + slot: the model keys of slots 0 to 15, the link key at 16 (R497, R499). -/
  keys    : SMap (List Byte)
  /-- Channels being wiped and channels under a margin test, as stack × 32 + channel (R399, R401), and the voltage
  offset of each stack's test; soft repairs, as stack and entry (R398). -/
  wiping  : List Nat
  testing : List Nat
  moved   : SMap Int
  soft    : List (Nat × Nat)
  /-- The flash (R523); the owner records in it are in the RTP's state. -/
  flash   : SMap Byte
  rtp     : Rtp
  lands   : Lands
  /-- The host windows of the loaded image: feature, host bus address, bytes (R526, R529). -/
  windows : List (Nat × Nat × Nat)
  /-- The job of each polder, and its descriptor in progress; completions that await room, with their vectors (R513); ticks since the submission ring was last sampled, 100 at a turn start (R221). -/
  jobs    : SMap Job
  taken   : SMap (Option Taken)
  /-- Descriptors taken that wait for their polder's (R510). -/
  lined   : List Taken
  owedCq  : List (List Byte × Option Nat)
  sq      : Nat
  /-- Platform events not yet retrieved, oldest first, and the level of ALERT# (true: asserted). -/
  events  : List Ev
  alert   : Bool
  /-- Packets on their way inside the package, and packets that have arrived on its lanes for a unit of it, oldest first. -/
  net     : List Pkt
  /-- What has been sent, oldest first. -/
  out     : List Out
  deriving DecidableEq, Repr

/-- The package right after reset. -/
def State.reset : State :=
  { pending := [], free := 0, pkgId := 0, mem := [], tags := [], regs := [], power := Power.off, idents := [], tide := Tide.empty, wheels := [], routes := []
    sets := [], cores := [], tel := [], reserved := [], ports := [], drains := [], culverts := [], slices := [], deferred := [], behind := [], weirs := [], links := [], stash := [], firings := [], ops := [], subs := [], kilns := [], ktables := [], sigmas := [], fetches := [], serial := 0, mfes := [], mfSlice := [], toks := [], keys := [], wiping := [], testing := [], moved := [], soft := [], flash := [], rtp := Rtp.blank, lands := Lands.empty, windows := [], jobs := [], taken := [], lined := [], owedCq := [], sq := 0, events := [], alert := false, net := [], out := [] }

end Sys2Proof.Machine
end

