-- ==== Sys2Proof/Machine/Ops.lean ====
section
/-! DEFINITION. The named operations over memory, registers, cores and free values that every meaning is written with. -/

namespace Sys2Proof.Machine

/-- The signed SCALE of a tag (R147). -/
def tagScale (t : DWord) : Int := signed 8 (bitsOf t.toNat 15 8)

/-- The scale slot of an MX element tile (R147). -/
def tagSlot (t : DWord) : Nat := bitsOf t.toNat 20 16

/-- KIND of a tag (R147). -/
def tagKind (t : DWord) : Nat := bitsOf t.toNat 23 21

/-- FMT of a tag (R147). -/
def tagFmt (t : DWord) : Nat := bitsOf t.toNat 3 0

/-- SCALE_DELTA of a tag (R147). -/
def tagDelta (t : DWord) : Int := signed 16 (bitsOf t.toNat 47 32)

/-- A tag from its fields (R147). -/
def mkTag (fmt : Nat) (sat : Bool) (scale : Int) (slot kind : Nat) (delta : Int) : DWord :=
  BitVec.ofNat 64 (fmt % 16 + b2n sat * 2 ^ 4 + unsignedOf 8 scale * 2 ^ 8 + slot % 32 * 2 ^ 16 + kind % 8 * 2 ^ 21 +
    unsignedOf 16 delta * 2 ^ 32)

/-- The glaze of a tile of zeros with a zero tag (R158). -/
def wipedGlaze : DWord := 0x93CEEF4C5F01D17E#64

/-- What an unlisted metadata record reads as: that of a wiped tile (R158). -/
def wipedMeta (_ : Nat) : DWord × DWord := (0, wipedGlaze)

/-- What an unlisted byte of device memory reads as (R158; host memory: log 3). -/
def zeroByte (_ : Nat) : Byte := 0

/-! ### Device memory -/

/-- The canonical form of memory. -/
def Memory.wf (m : List Host.Cell) : Bool := SMap.wf zeroByte m

/-- One byte of memory. -/
def Memory.read (m : List Host.Cell) (a : Nat) : Byte := SMap.get zeroByte m a

/-- Memory with one byte written. -/
def Memory.write (m : List Host.Cell) (a : Nat) (b : Byte) : List Host.Cell := SMap.set zeroByte m a b

/-- `n` bytes from address `a`. -/
def Memory.readN (m : List Host.Cell) (a : Nat) : Nat → List Byte
  | 0 => []
  | n + 1 => Memory.read m a :: Memory.readN m (a + 1) n

/-- Memory with a list of bytes written from address `a`. -/
def Memory.writeN (m : List Host.Cell) (a : Nat) : List Byte → List Host.Cell
  | [] => m
  | b :: t => Memory.writeN (Memory.write m a b) (a + 1) t

/-- Memory with every byte from `lo` up to but not including `hi` zero. -/
def Memory.wipe (m : List Host.Cell) (lo hi : Nat) : List Host.Cell := SMap.clearRange m lo hi

/-- Where a device address lies (R29). -/
inductive Region where
  | dram (stack chan : Nat)
  | scratch (core : Nat)
  | control
  | host
  | unmapped
  deriving DecidableEq, Repr

/-- The decoding of the 44-bit address space (R29, R32). -/
def region (a : Nat) : Region :=
  if a < 0x10000000000 then
    (if a % 0x80000000 < 0x60000000 then .dram (a / 0x1000000000) (a / 0x80000000 % 32) else .unmapped)
  else if a < 0x10100000000 then
    (if a % 0x80000 < 0x60000 then .scratch (a / 0x80000 % 8192) else .unmapped)
  else if 0x20000000000 ≤ a ∧ a < 0x20004000000 then .control
  else if 0x80000000000 ≤ a ∧ a < 0x100000000000 then .host
  else .unmapped

/-- Device address of a byte of a core's scratchpad (R29). -/
def scratchAddr (core off : Nat) : Nat := 0x10000000000 + core * 0x80000 + off

/-- Device address of a scratchpad tile. -/
def tileAddr (core idx : Nat) : Nat := scratchAddr core (idx % 192 * 2048)

/-- Device address of host bus address `h` (R29). -/
def hostAddr (h : Nat) : Nat := 0x80000000000 + h

namespace State

/-- Bytes of device memory. -/
def bytes (s : State) (a n : Nat) : List Byte := Memory.readN s.mem a n

/-- A little-endian number in device memory. -/
def memNat (s : State) (a n : Nat) : Nat := numLE (s.bytes a n)

/-- Bytes written to device memory, no metadata touched. -/
def putBytes (s : State) (a : Nat) (l : List Byte) : State := { s with mem := Memory.writeN s.mem a l }

/-- The metadata record of the tile at a device address (R146). -/
def metaAt (s : State) (a : Nat) : DWord × DWord := SMap.get wipedMeta s.tags (a / 2048)

/-- The metadata record of the tile at a device address, written. -/
def putMeta (s : State) (a : Nat) (m : DWord × DWord) : State :=
  { s with tags := SMap.set wipedMeta s.tags (a / 2048) m }

/-- The tile at a device address, with its metadata. -/
def tile (s : State) (a : Nat) : Tile := ⟨s.bytes a 2048, (s.metaAt a).1, (s.metaAt a).2⟩

/-- A tile written with its metadata (R153). -/
def putTile (s : State) (a : Nat) (t : Tile) : State :=
  (s.putBytes a (padTo 2048 t.data)).putMeta a (t.tag, t.glaze)

/-- Part of a tile written: the rest is merged, the tag kept, a new glaze made (R150). -/
def putPart (s : State) (a : Nat) (l : List Byte) : State :=
  let s := s.putBytes a l
  let base := a / 2048 * 2048
  let tag := (s.metaAt base).1
  s.putMeta base (tag, glazeOf (s.bytes base 2048) tag)

/-- Tiles from `lo` up to but not including `hi` as a wipe leaves them (R158). -/
def wipeRange (s : State) (lo hi : Nat) : State :=
  { s with mem := Memory.wipe s.mem lo hi, tags := SMap.clearRange s.tags (lo / 2048) ((hi + 2047) / 2048) }

/-! ### Registers -/

/-- A field of a register below the core control pages. -/
def getF (s : State) (f : FieldRef) : Nat := fieldGet winReset s.regs f

/-- A field of a register below the core control pages, set. -/
def setF (s : State) (f : FieldRef) (x : Nat) : State := { s with regs := fieldSet winReset s.regs f x }

/-- A one-bit field. -/
def flag (s : State) (f : FieldRef) : Bool := s.getF f == 1

/-- A counter increased; it wraps to zero (R83 and the counter tables). -/
def bump (s : State) (f : FieldRef) (n : Nat) : State := s.setF f (s.getF f + n)

/-! ### Free values (log 1) -/

/-- The `k`-th free value not yet used. -/
def fr (s : State) (k : Nat) : Nat := Config.freeNat (s.free + k)

/-- `n` free values used up. -/
def useFree (s : State) (n : Nat) : State := { s with free := s.free + n }

/-- A counter of cycles, which the model does not count: increased by a free amount (log 5). -/
def bumpFree (s : State) (f : FieldRef) : State := (s.bump f (s.fr 0)).useFree 1

/-! ### Cores -/

/-- A core. -/
def core (s : State) (i : Nat) : Core := SMap.get (fun _ => Core.empty) s.cores i

/-- A core replaced. -/
def setCore (s : State) (i : Nat) (c : Core) : State := { s with cores := SMap.set (fun _ => Core.empty) s.cores i c }

/-- A core changed by a function. -/
def modCore (s : State) (i : Nat) (f : Core → Core) : State := s.setCore i (f (s.core i))

/-- A scratchpad tile of a core. -/
def spTile (s : State) (i idx : Nat) : Tile := s.tile (tileAddr i idx)

/-- Polder that owns a DRAM channel; 15 for none (R369). -/
def chanOwner (s : State) (stack chan : Nat) : Nat :=
  bitsOf (s.getF (Reg.MEM_CHAN_OWNER_OWNER stack (chan / 8))) (4 * (chan % 8) + 3) (4 * (chan % 8))

/-- The wheel of a polder. -/
def wheel (s : State) (p : Nat) : Wheel := SMap.get (fun _ => Wheel.empty) s.wheels p

/-- The wheel of a polder replaced. -/
def setWheel (s : State) (p : Nat) (w : Wheel) : State :=
  { s with wheels := SMap.set (fun _ => Wheel.empty) s.wheels p w }

/-- The tide count. -/
def now (s : State) : Nat := s.tide.count.toNat

end State

/-! ### Parts of a core -/

namespace Core

/-- A scalar register; X[0] reads 0 (R87). -/
def getX (c : Core) (n : Nat) : DWord := if n = 0 then 0 else SMap.get (fun _ => 0) c.x n

/-- A scalar register written; a write to X[0] is ignored (R87). -/
def setX (c : Core) (n : Nat) (v : DWord) : Core :=
  if n = 0 then c else { c with x := SMap.set (fun _ => 0) c.x n v }

/-- A field of a control page register, by page offset. -/
def getF (c : Core) (f : FieldRef) : Nat := fieldGet pageReset c.page f

/-- A field of a control page register, set. -/
def setF (c : Core) (f : FieldRef) (x : Nat) : Core := { c with page := fieldSet pageReset c.page f x }

def flag (c : Core) (f : FieldRef) : Bool := c.getF f == 1

/-- A counter of the control page increased, wrapping to zero. -/
def bump (c : Core) (f : FieldRef) (n : Nat) : Core := c.setF f (c.getF f + n)

/-- The core's polder; 15 for none. -/
def polder (c : Core) : Nat := c.getF Reg.CORE_IDENT_POLDER

/-- `n` bytes of the data store. -/
def dread (c : Core) (a : Nat) : Nat → List Byte
  | 0 => []
  | n + 1 => SMap.get (fun _ => 0) c.dstore a :: c.dread (a + 1) n

/-- Bytes written to the data store. -/
def dwrite (c : Core) (a : Nat) : List Byte → Core
  | [] => c
  | b :: t => dwrite { c with dstore := SMap.set (fun _ => 0) c.dstore a b } (a + 1) t

/-- The completion ring's head: the low byte of the word at 0x1000 (R87, R111). -/
def ringHead (c : Core) : Nat := numLE (c.dread 0x1000 8) % 256

/-- The ring is full when the tail is one step behind the head (R111). -/
def ringFull (c : Core) : Bool := (c.tail + 1) % 256 == c.ringHead

/-- The attributes of a scratchpad tile. -/
def attr (c : Core) (t : Nat) : TileAttr := SMap.get (fun _ => ⟨false, none⟩) c.attrs t

def setAttr (c : Core) (t : Nat) (a : TileAttr) : Core :=
  { c with attrs := SMap.set (fun _ => ⟨false, none⟩) c.attrs t a }

def bank (c : Core) (b : Nat) : Bank := SMap.get (fun _ => Bank.empty) c.banks b

def setBank (c : Core) (b : Nat) (k : Bank) : Core := { c with banks := SMap.set (fun _ => Bank.empty) c.banks b k }

def ctx (c : Core) (n : Nat) : Ctx := SMap.get (fun _ => Ctx.empty) c.ctxs n

def setCtx (c : Core) (n : Nat) (k : Ctx) : Core := { c with ctxs := SMap.set (fun _ => Ctx.empty) c.ctxs n k }

end Core

/-- The ids of the cores of a polder, in ascending order; only cores whose page was written can belong to one. -/
def State.coresOf (s : State) (p : Nat) : List Nat :=
  (s.cores.filter fun e => e.2.polder == p).map (·.1)

/-- A core changed by a function, for every core of a list, in order. -/
def State.forCores (f : Nat → State → State) : List Nat → State → State
  | [], s => s
  | i :: t, s => State.forCores f t (f i s)

/-! ### Command fields (R93, R94, R113, R118) -/

/-- OPCODE of a command. -/
def opcodeOf (c : CmdWord) : Nat := c.u8 0

/-- FLAGS of a command. -/
def flagsOf (c : CmdWord) : Nat := c.u8 1

def cmdNotify (c : CmdWord) : Bool := bitOf (flagsOf c) 0
def cmdChain (c : CmdWord) : Bool := bitOf (flagsOf c) 1
def cmdLast (c : CmdWord) : Bool := bitOf (flagsOf c) 2
def cmdExt (c : CmdWord) : Bool := bitOf (flagsOf c) 3

/-- The engines (R94). -/
inductive Engine where
  | matrix | vector | transfer | message
  deriving DecidableEq, Repr

/-- The engine of a command, by OPCODE bits [7:4]; a reserved opcode that names none goes to the message queue (R94, R95). -/
def engineOf (c : CmdWord) : Engine :=
  match opcodeOf c / 16 with
  | 1 => .matrix
  | 2 => .vector
  | 3 => .transfer
  | _ => .message

/-- The opcodes R94 lists. -/
def opcodes : List Nat :=
  [0x10, 0x11, 0x12, 0x20, 0x21, 0x22, 0x30, 0x31, 0x32, 0x40, 0x41, 0x42, 0x48, 0x49]

/-- Whether an opcode is one of R94's; a version 2 list further reserves some (R100). -/
def opcodeListed (v2 : Bool) (o : Nat) : Bool :=
  opcodes.contains o && !(v2 && [0x11, 0x21, 0x31, 0x48, 0x49].contains o)

/-- The opcode of a queued command; 0, which R94 does not list, for a reserved one (R95, R100). -/
def QEntry.op (q : QEntry) : Nat := if opcodeListed q.v2 (opcodeOf q.cmd) then opcodeOf q.cmd else 0

/-- The k-th tile of a run of scratchpad tiles with a signed stride, modulo 192 (R113, R118, R129). -/
def strideTile (first : Nat) (stride : Int) (k : Nat) : Nat := (((first : Int) + stride * k) % 192).toNat

/-- A run of `n` scratchpad tiles. -/
def tileRun (first : Nat) (stride : Int) (n : Nat) : List Nat := (List.range n).map (strideTile first stride)

end Sys2Proof.Machine
end

