-- ==== Sys2Proof/Machine/Stage.lean ====
section
/-! DEFINITION. The vector engine's stage values and the functions of its catalogue (R117, R119, R120). Every function
but 0x09 to 0x13 rounds correctly. Those eleven are within 2 units in the last place: the model computes a close
approximation and moves it by a FREE number of units that stays within that bound. -/

namespace Sys2Proof.Machine

/-- A stage result rounded to nearest even into the stage value (R117). -/
def toStage (v : FV) : FV := fmtStage.roundOp v

/-- A free stage value: any pattern of the format. -/
def freeStage (r : Nat) : FV := fmtStage.decode (r % 2 ^ 19)

/-! ### Approximations, in fixed point with 128 fraction bits -/

/-- The fixed-point unit. -/
def fixOne : Nat := 2 ^ 128

/-- Integer square root by the binary method, `fuel` bits. -/
def isqrt (n : Nat) : Nat → Nat → Nat
  | 0, r => r
  | k + 1, r =>
    let c := r + 2 ^ k
    if c * c ≤ n then isqrt n k c else isqrt n k r

/-- 2^f for a fixed-point fraction f below one, from the bits of f: the product of the roots 2^(2^-i) of the set bits. -/
def exp2Frac : Nat → Nat → Nat → Nat → Nat
  | 0, _, _, acc => acc
  | k + 1, f, root, acc =>
    let root' := isqrt (root * fixOne) 136 0
    let f2 := 2 * f
    if fixOne ≤ f2 then exp2Frac k (f2 - fixOne) root' (acc * root' / fixOne)
    else exp2Frac k f2 root' acc

/-- log2 of a fixed-point number in [1, 2), `fuel` bits by repeated squaring. -/
def log2Frac : Nat → Nat → Nat → Nat → Nat
  | 0, _, _, acc => acc
  | k + 1, x, w, acc =>
    let y := x * x / fixOne
    if 2 * fixOne ≤ y then log2Frac k (y / 2) (w / 2) (acc + w) else log2Frac k y (w / 2) acc

/-- 2^q, to about 100 bits; q is held to a range beyond which every stage value has overflowed or vanished. -/
def approxExp2 (q : Rat) : Rat :=
  let q := if q < -1024 then -1024 else if 1024 < q then 1024 else q
  let n := q.floor
  let f := ((q - n) * fixOne).floor.toNat
  ((exp2Frac 100 f (2 * fixOne) fixOne : Nat) : Rat) / fixOne * pow2 n

/-- log2 q of a positive q, to about 100 bits. -/
def approxLog2 (q : Rat) : Rat :=
  let e := floorLog2 q
  let x := (q / pow2 e * fixOne).floor.toNat
  (e : Rat) + ((log2Frac 100 x (fixOne / 2) 0 : Nat) : Rat) / fixOne

/-- log2 of e, and ln 2, to 30 decimal digits. -/
def log2e : Rat := 1442695040888963407359924681001 / 1000000000000000000000000000000
def ln2 : Rat := 693147180559945309417232121458 / 1000000000000000000000000000000

/-- sqrt (2 / pi), of GELU's tanh form, to 30 decimal digits. -/
def sqrt2overPi : Rat := 797884560802865355879892119868 / 1000000000000000000000000000000

def approxExp (q : Rat) : Rat := approxExp2 (q * log2e)

def approxSqrt (q : Rat) : Rat :=
  let e := floorLog2 q / 2
  let m := q / pow2 (2 * e)
  ((isqrt (m * fixOne * fixOne).floor.toNat 136 0 : Nat) : Rat) / fixOne * pow2 e

/-- The logistic function, kept as a quotient so that its small values keep their relative accuracy. -/
def approxSigmoid (q : Rat) : Rat :=
  if q < 0 then (let e := approxExp q; e / (1 + e)) else 1 / (1 + approxExp (-q))

/-- tanh; near zero its series, elsewhere the quotient of exponentials. -/
def approxTanh (q : Rat) : Rat :=
  if -(1 / 1048576) < q ∧ q < 1 / 1048576 then q - q * q * q / 3
  else if 0 < q then (let e := approxExp (-2 * q); (1 - e) / (1 + e))
  else (let e := approxExp (2 * q); (e - 1) / (1 + e))

/-- The cosine of a whole turn times `q`, to about 100 bits: the series at 1/32 of the angle, doubled five times. -/
def approxCosTurn (q : Rat) : Rat :=
  let f := q - q.floor
  let f := if 1 / 2 < f then 1 - f else f
  let pi2 : Rat := 6283185307179586476925286766559005768 / 1000000000000000000000000000000000000
  let t := f * pi2 / 32
  let cut (x : Rat) : Rat := ((x * fixOne).floor : Int) / (fixOne : Nat)
  let u := cut (t * t)
  let c := (List.range 20).foldr (fun k a => cut (1 - u / (((2 * k + 1) * (2 * k + 2) : Nat) : Rat) * a)) 1
  (List.range 5).foldl (fun c _ => cut (2 * c * c - 1)) c

/-- ln and log10 of a positive value, and a power of ten. -/
def approxLn (q : Rat) : Rat := approxLog2 q * ln2
def log2of10 : Rat := 3321928094887362347870319429489 / 1000000000000000000000000000000
def approxLog10 (q : Rat) : Rat := approxLog2 q / log2of10
def approxPow10 (q : Rat) : Rat := approxExp2 (q * log2of10)

/-- A positive or negative approximation brought to a stage value within 2 units in the last place (R120): the largest
stage value not above it in magnitude, moved by -1 to 2 units, or by -2 to 2 where the approximation is itself a stage
value. `r` is free. -/
def within2ulp (v : FV) (r : Nat) : FV :=
  match v with
  | .fin s x =>
    let u := pow2 (if x = 0 then fmtStage.emin - 10 else max (floorLog2 x) fmtStage.emin - 10)
    let n := (x / u).floor
    let k : Int := if (n : Rat) * u = x then (r % 5 : Nat) - 2 else (r % 4 : Nat) - 1
    let y := ((n + k : Int) : Rat) * u
    let y' := if s then -y else y
    toStage (if y' = 0 then .fin s 0 else FV.ofRat y')
  | w => w

/-- One of the functions 0x09 to 0x13 of a stage value. Where the function has no real value, or its operand is
infinite, the spec states no result: a free value (log 8). -/
def approxFn (func : Nat) (a : FV) (r : Nat) : FV :=
  match a with
  | .nan => .nan
  | .inf _ => freeStage r
  | .fin s x =>
    let q := (FV.fin s x).toRat
    let res (y : Rat) : FV := within2ulp (if y = 0 then .fin s 0 else FV.ofRat y) r
    match func with
    | 0x09 => if x = 0 then freeStage r else res (1 / q)
    | 0x0A => if q ≤ 0 then freeStage r else res (1 / approxSqrt q)
    | 0x0B => if x = 0 then .fin s 0 else if s then freeStage r else res (approxSqrt q)
    | 0x0C => res (approxExp2 q)
    | 0x0D => if q ≤ 0 then freeStage r else res (approxLog2 q)
    | 0x0E => res (approxExp q)
    | 0x0F => if q ≤ 0 then freeStage r else res (approxLn q)
    | 0x10 => res (approxTanh q)
    | 0x11 => res (approxSigmoid q)
    | 0x12 => res (q * approxSigmoid (2 * sqrt2overPi * (q + 44715 / 1000000 * q * q * q)))
    | _ => res (q * approxSigmoid q)

/-- A stage word (R119). -/
structure StageWord where
  func : Nat
  srcA : Nat
  srcB : Nat
  mod  : Nat
  imm  : Nat
  deriving DecidableEq, Repr

def StageWord.decode (w : Nat) : StageWord :=
  ⟨bitsOf w 31 26, bitsOf w 25 23, bitsOf w 22 20, bitsOf w 19 16, bitsOf w 15 0⟩

/-- A reduction: RSUM, RMAX, ROWLSE, SUMSQ, WELFORD (R121). -/
def isReduction (func : Nat) : Bool := decide (0x20 ≤ func) && decide (func ≤ 0x24)

/-- The functions R120 lists. -/
def funcListed (func : Nat) : Bool :=
  decide (func ≤ 0x13) || (decide (0x18 ≤ func) && decide (func ≤ 0x1C)) || isReduction func || func == 0x28 || func == 0x29

/-- Whether every field of a stage word is an encoding R119 and R120 define; any other is a reserved encoding (R10). -/
def StageWord.ok (w : StageWord) : Bool :=
  funcListed w.func && decide (w.srcA ≤ 5) && decide (w.srcB ≤ 5) &&
    (if w.func = 0x18 then decide (w.mod ≤ 5) else w.mod == 0)

/-- What the operands of one element are (R119). -/
structure ElemCtx where
  x : FV
  y : FV
  row : FV
  col : FV
  deriving DecidableEq, Repr

/-- Operand a or b of a stage (R119). -/
def stageSrc (c : ElemCtx) (prev : FV) (imm : Nat) : Nat → FV
  | 0 => prev
  | 1 => c.x
  | 2 => c.y
  | 3 => fmtB16.decode imm
  | 4 => c.row
  | _ => c.col

/-- The larger of two values; a NaN operand gives NaN. For two zeros of different signs the spec states no choice: free. -/
def fvMax (a b : FV) (r : Nat) : FV :=
  if a = .nan ∨ b = .nan then .nan
  else if a.eq b then (if r % 2 = 0 then a else b)
  else if a.lt b then b else a

def fvMin (a b : FV) (r : Nat) : FV :=
  if a = .nan ∨ b = .nan then .nan
  else if a.eq b then (if r % 2 = 0 then a else b)
  else if a.lt b then a else b

/-- The comparison MOD names (R120). -/
def cmpMod (a b : FV) : Nat → Bool
  | 0 => a.lt b
  | 1 => a.lt b || a.eq b
  | 2 => a.eq b
  | 3 => !a.eq b
  | 4 => b.lt a
  | _ => b.lt a || a.eq b

/-- Largest integer not above a value; sign kept on a zero. -/
def fvFloor : FV → FV
  | .fin s x =>
    let f := (FV.fin s x).toRat.floor
    if f = 0 then .fin s 0 else FV.ofRat f
  | v => v

/-- Nearest integer, ties to even; sign kept on a zero. -/
def fvRound : FV → FV
  | .fin s x => .fin s (roundEvenNat x)
  | v => v

/-- What a chain carries between stages at one element: the value, the predicate, and whether the value is still the element of X as
it was read. Such a value is not rounded and reaches the output exactly (R125, R229); every stage result is (R117). -/
structure StageVal where
  v   : FV
  p   : Bool
  own : Bool
  deriving DecidableEq, Repr

/-- Whether an operand source is the element of X as it was read. -/
def srcOwn (st : StageVal) (src : Nat) : Bool := src == 1 || (src == 0 && st.own)

/-- One elementwise stage (R120). -/
def stageStep (c : ElemCtx) (w : StageWord) (r : Nat) (st : StageVal) : StageVal :=
  let a := stageSrc c st.v w.imm w.srcA
  let b := stageSrc c st.v w.imm w.srcB
  let keep (v : FV) : StageVal := ⟨toStage v, st.p, false⟩
  let move (v : FV) (src : Nat) : StageVal := if srcOwn st src then ⟨v, st.p, true⟩ else keep v
  match w.func with
  | 0x00 => move a w.srcA
  | 0x01 => keep (a.add b)
  | 0x02 => keep (a.sub b)
  | 0x03 => keep (a.mul b)
  | 0x04 => keep ((a.mul (fmtB16.decode w.imm)).add b)
  | 0x05 => keep (fvMax a b r)
  | 0x06 => keep (fvMin a b r)
  | 0x07 => keep a.abs
  | 0x08 => keep a.neg
  | 0x18 => let p := cmpMod a b w.mod; ⟨FV.ofRat (b2n p), p, false⟩
  | 0x19 => if st.p then move a w.srcA else move b w.srcB
  | 0x1A => keep (a.scale (signed 8 (w.imm % 256)))
  | 0x1B => keep (fvFloor a)
  | 0x1C => keep (fvRound a)
  | f => ⟨approxFn f (toStage a) r, st.p, false⟩

/-- The elementwise stages of a chain over one element. `r i` is the free value of stage `i`. -/
def runStages (c : ElemCtx) (r : Nat → Nat) : List StageWord → Nat → StageVal → StageVal
  | [], _, st => st
  | w :: ws, i, st => runStages c r ws (i + 1) (stageStep c w (r i) st)

/-- The log-sum-exp of a row's values (R120, ROWLSE), within the same bound taken on the pair it is written as: the spec
gives ROWLSE no bound of its own and says every other function rounds correctly; a row with a NaN gives NaN. -/
def rowLse (vs : List FV) : FV :=
  if vs.any (· == FV.nan) then .nan
  else
    let m := vs.foldl (fun (m : Option FV) v => match m with
      | none => some v
      | some w => if w.lt v then some v else some w) none
    match m with
    | none => .inf true
    | some (.fin s x) =>
      let mx := (FV.fin s x).toRat
      let sum := vs.foldl (fun (a : Rat) v => if v.isFinite then a + approxExp (v.toRat - mx) else a) 0
      FV.ofRat (mx + approxLog2 sum * ln2)
    | some v => v

end Sys2Proof.Machine
end

