-- ==== Sys2Proof/Machine/Operands.lean ====
section
/-! DEFINITION. Operand forms of the engine commands: which scratchpad tiles a command reads and writes (R103), which
finished-tile tags it consumes (R124), and which field values are reserved encodings (R10, R95, R540). -/

namespace Sys2Proof.Machine

/-- A and B format codes, bank, TRANS_B and σ of a matrix command (R113). -/
def mmFmtA (c : CmdWord) : Nat := c.u8 0x0D % 16
def mmFmtB (c : CmdWord) : Nat := c.u8 0x0D / 16
def mmBank (c : CmdWord) : Nat := c.u8 0x0E % 4
def mmTransB (c : CmdWord) : Bool := bitOf (c.u8 0x0E) 2
def mmK (c : CmdWord) : Nat := c.u8 0x0C
def mmTilesA (c : CmdWord) : List Nat := tileRun (c.u8 0x08) (signed 8 (c.u8 0x09)) (mmK c)
def mmTilesB (c : CmdWord) : List Nat := tileRun (c.u8 0x0A) (signed 8 (c.u8 0x0B)) (mmK c)

/-- REPLAY_LIMIT, 3 in a version 2 list (R57, R100). -/
def replayLimit (v2 : Bool) (c : CmdWord) : Nat := if v2 then 3 else bitsOf (flagsOf c) 6 5

/-- SIGMA_AUTO, 0 in a version 2 list (R55, R100). -/
def sigmaAutoSet (v2 : Bool) (c : CmdWord) : Bool := !v2 && bitOf (flagsOf c) 4

/-- The row of R114 that a format lies in: 1 for 16-bit, 2 for FP8 and MXFP8, 3 for MXFP6, 4 for INT8, 5 for MXFP4. -/
def fmtRow : Nat → Nat
  | 0x0 | 0x1 | 0x2 => 1
  | 0x3 | 0x4 | 0x5 | 0x6 => 2
  | 0x7 | 0x8 => 3
  | 0xA => 4
  | 0x9 => 5
  | _ => 0

/-- k per tile pair (R114). -/
def kPerPair (fa : Nat) : Nat := (tileShape fa).2

/-- Whether A and B lie together in one row of R114; MXFP6 also pairs with MXFP8. -/
def fmtPairOk (fa fb : Nat) : Bool :=
  let mx8 (f : Nat) := f == 5 || f == 6
  let mx6 (f : Nat) := f == 7 || f == 8
  fmtRow fa != 0 && (fmtRow fa == fmtRow fb || (mx6 fa && mx8 fb) || (mx8 fa && mx6 fb))

/-- Whether R114 lets a MATMUL run: formats of one row, and TRANS_B 1 outside the first row. -/
def mmFormatOk (c : CmdWord) : Bool :=
  fmtPairOk (mmFmtA c) (mmFmtB c) && (fmtRow (mmFmtA c) == 1 || mmTransB c)

/-- A reserved value in a MATMUL (R10, R95, R100). -/
def mmReserved (v2 : Bool) (c : CmdWord) : Bool :=
  fmtReserved (mmFmtA c) || fmtReserved (mmFmtB c) || (v2 && (isMx (mmFmtA c) || isMx (mmFmtB c))) ||
    mmK c == 0 || decide (64 < mmK c) || decide (191 < c.u8 0x08) || decide (191 < c.u8 0x0A)

/-- A reserved value in a MATW (R242). -/
def mwReserved (c : CmdWord) : Bool :=
  mmReserved false c || !((mmFmtA c == 1 && mmFmtB c == 1) || (mmFmtA c == 2 && mmFmtB c == 2)) ||
    mmBank c != 0 || !mmTransB c || mmK c % 16 != 0

/-! ### VSTREAM (R118 to R125) -/

/-- The stage words of a VSTREAM and its extension (R118), cut to NSTAGES. -/
def vsStages (c : CmdWord) (ext : Option CmdWord) : List StageWord :=
  let own := (List.range 4).map fun k => StageWord.decode (c.u32 (0x30 + 4 * k))
  let more := match ext with
    | some e => (List.range 8).map fun k => StageWord.decode (e.u32 (8 + 4 * k))
    | none => []
  (own ++ more).take (c.u8 0x13)

def vsFmtX (c : CmdWord) : Nat := c.u8 0x10 % 16
def vsFmtY (c : CmdWord) : Nat := c.u8 0x10 / 16
def vsFmtOut (c : CmdWord) : Nat := c.u8 0x11 % 16
def vsFtq (c : CmdWord) : Bool := bitOf (c.u8 0x11) 4
def vsN (c : CmdWord) : Nat := c.u8 0x0B
def vsSrec (c : CmdWord) : Nat := c.u64 0x18
def vsResOff (c : CmdWord) : Nat := c.u16 0x20
/-- RES_TILE and BC_TILE. R118 gives them no range; like the tile numbers of a run, they are taken modulo 192: DESIGN CHOICE
(log 105). -/
def vsResTile (c : CmdWord) : Nat := c.u8 0x16 % 192
def vsBcTile (c : CmdWord) : Nat := c.u8 0x0F % 192

/-- What the last stage makes of the stream: 0 output tiles, 1 a reduction, 2 COMPRESS (R121, R122). -/
def vsTail (st : List StageWord) : Nat :=
  match st.getLast? with
  | some w => if isReduction w.func then 1 else if w.func = 0x28 then 2 else 0
  | none => 0

/-- Whether stage 0 is EXPAND. -/
def vsExpand (st : List StageWord) : Bool :=
  match st with
  | w :: _ => w.func == 0x29
  | [] => false

/-- The functions with two operands (R120). -/
def funcBinary (f : Nat) : Bool := [0x01, 0x02, 0x03, 0x04, 0x05, 0x06, 0x18, 0x19, 0x29].contains f

/-- Whether a chain reads operand source `k`; stage 0's previous stage is X (R119). EXPAND takes X as its stream. -/
def vsUses (k : Nat) : List StageWord → Bool → Bool
  | [], _ => false
  | w :: t, first =>
    let src (x : Nat) : Nat := if first && x == 0 then 1 else x
    (w.func == 0x29 && k == 1) || (w.func != 0x29 && src w.srcA == k) || (funcBinary w.func && src w.srcB == k) ||
      vsUses k t false

/-- Whether the widening of R125 applies: an 8-bit X format, a bfloat16 or binary16 output, output tiles. -/
def vsWiden (c : CmdWord) (st : List StageWord) : Bool :=
  vsTail st == 0 && !vsFtq c && !vsExpand st && [0x3, 0x4, 0xA].contains (vsFmtX c) && decide (vsFmtOut c ≤ 1)

/-- Finished-tile entries consumed per tile (R124): by output format for output tiles, one for each input tile of a
reduction or COMPRESS. An ACC output is not in the table of R124 and takes one (log 13). -/
def vsEntriesPer (c : CmdWord) (st : List StageWord) : Nat :=
  if vsTail st = 0 then max 1 ((tileShape (vsFmtOut c)).2 / 32) else 1

/-- The tags a VSTREAM consumes, in order (R124). -/
def vsTags (c : CmdWord) (st : List StageWord) : List Nat :=
  if vsFtq c then (List.range (vsN c * vsEntriesPer c st)).map fun k => (c.u8 0x12 + k) % 256 else []

/-- Rows and columns of the stream's tiles: the output's for output tiles, the input's otherwise. -/
def vsGrid (c : CmdWord) (st : List StageWord) : Nat × Nat :=
  if vsTail st = 0 then tileShape (vsFmtOut c) else if vsFtq c then (32, 32) else tileShape (vsFmtX c)

/-- Elements that go through the chain. -/
def vsElems (c : CmdWord) (st : List StageWord) : Nat := vsN c * (vsGrid c st).1 * (vsGrid c st).2

/-- Elements of a tile of a format. -/
def tileSize (code : Nat) : Nat := (tileShape code).1 * (tileShape code).2

/-- X tiles a VSTREAM may read: the most that the packed stream of an EXPAND can fill (R122), one for two output tiles when widening
(R125), else one for each tile. -/
def vsXTiles (c : CmdWord) (st : List StageWord) : List Nat :=
  if vsFtq c || !vsUses 1 st true then []
  else tileRun (c.u8 0x08) (signed 8 (c.u8 0x0C))
    (if vsExpand st then ceilDiv (vsElems c st) (tileSize (vsFmtX c)) else if vsWiden c st then vsN c / 2 else vsN c)

def vsYTiles (c : CmdWord) (st : List StageWord) : List Nat :=
  if vsUses 2 st true then tileRun (c.u8 0x09) (signed 8 (c.u8 0x0D)) (vsN c) else []

/-- Tiles a VSTREAM may write: for COMPRESS, the most that the kept elements can fill (R122). -/
def vsOutTiles (c : CmdWord) (st : List StageWord) : List Nat :=
  if vsTail st = 1 then []
  else tileRun (c.u8 0x0A) (signed 8 (c.u8 0x0E))
    (if vsTail st = 2 then ceilDiv (vsElems c st) (tileSize (vsFmtOut c)) else vsN c)

def vsBroadcast (c : CmdWord) (st : List StageWord) : List Nat :=
  if vsUses 4 st true || vsUses 5 st true then [vsBcTile c] else []

/-- Bytes of an element mask (R122). -/
def vsMaskBytes (c : CmdWord) (st : List StageWord) : Nat := vsElems c st / 8

/-- Bytes the last stage writes into the result area (R121, R122); 0 when it writes none. -/
def vsResBytes (c : CmdWord) (st : List StageWord) : Nat :=
  let (r, k) := vsGrid c st
  match st.getLast? with
  | some w =>
    if w.func = 0x28 then vsMaskBytes c st
    else if w.func = 0x20 ∨ w.func = 0x22 then 4 * r
    else if w.func = 0x21 then 2 * r
    else if w.func = 0x23 then 4 * k
    else if w.func = 0x24 then 16 * k
    else 0
  | none => 0

/-- Bytes of the result area that a VSTREAM reads or writes: an EXPAND and a last stage share it (R121, R122). -/
def vsAreaBytes (c : CmdWord) (st : List StageWord) : Nat :=
  max (if vsExpand st then vsMaskBytes c st else 0) (vsResBytes c st)

/-- Whether a reduction or COMPRESS stands only last and EXPAND only first (R121). -/
def vsPlaced (st : List StageWord) : Bool :=
  (st.dropLast.all fun w => !isReduction w.func && w.func != 0x28) && (st.tail.all fun w => w.func != 0x29)

/-- A reserved value in a VSTREAM: a reserved format, function, source or modifier, a count out of its range, a stage out of
place, a result area outside its tile, an odd NTILES when widening (R10, R95, R118 to R125). -/
def vsReserved (v2 : Bool) (c : CmdWord) (ext : Option CmdWord) : Bool :=
  let st := vsStages c ext
  let badFmt (f : Nat) : Bool := fmtReserved f || (v2 && isMx f)
  vsN c == 0 || decide (64 < vsN c) || c.u8 0x13 == 0 || decide (12 < c.u8 0x13) || (decide (4 < c.u8 0x13) && ext.isNone) ||
    !st.all StageWord.ok || !vsPlaced st || (!vsFtq c && vsUses 1 st true && badFmt (vsFmtX c)) ||
    (vsUses 2 st true && badFmt (vsFmtY c)) || (vsTail st != 1 && badFmt (vsFmtOut c)) ||
    (decide (0 < vsAreaBytes c st) && (vsResOff c % 16 != 0 || decide (2048 < vsResOff c + vsAreaBytes c st))) ||
    (vsWiden c st && vsN c % 2 == 1)

/-! ### Tiles read and written by any command (R103) -/

/-- Tiles of a byte or tile message (R168), consecutive modulo 192. -/
def msgTiles (c : CmdWord) : List Nat := tileRun (c.u8 0x09) 1 (c.u8 0x0A)

/-- XMOVE and XFILL tiles (R129, R132). -/
def xfTiles (c : CmdWord) : List Nat := tileRun (c.u8 0x08) (signed 8 (c.u8 0x09)) (c.u8 0x0A)

/-- DIR of an XMOVE: from the scratchpad. -/
def xmOut (c : CmdWord) : Bool := bitOf (c.u8 0x0B) 0

/-- QPUSH and TAKE tiles (R303, R305). -/
def qTiles (c : CmdWord) : List Nat := tileRun (c.u8 0x08) (signed 8 (c.u8 0x09)) (c.u8 0x0A)

/-- MODE of a QPOP (R305): 0 TAKE, 1 INJECT, 2 RELEASE. -/
def qMode (c : CmdWord) : Nat := c.u8 0x0B % 4
def qInfer (c : CmdWord) : Bool := bitOf (c.u8 0x0B) 2
/-- LINK and ROUTE of a QPUSH or QPOP. -/
def qLink (c : CmdWord) : Nat := c.u16 0x0C % 512
def qRoute (c : CmdWord) : Nat := c.u16 0x0E

/-- Input tiles of a command of a listed opcode: what it reads while it runs. -/
def cmdReads (c : CmdWord) (ext : Option CmdWord) : List Nat :=
  match opcodeOf c with
  | 0x10 | 0x11 => mmTilesA c ++ mmTilesB c
  | 0x20 =>
    let st := vsStages c ext
    vsXTiles c st ++ vsYTiles c st ++ vsBroadcast c st ++ (if vsExpand st then [vsResTile c] else [])
  | 0x30 => if xmOut c then xfTiles c else []
  | 0x31 => [c.u8 0x08 % 192]
  | 0x40 => msgTiles c
  | 0x48 => qTiles c
  | _ => []

/-- Scale tiles that a VSTREAM with an MX output writes, found from the output tiles' tags (R148, R568). -/
def vsScaleTiles (tag : Nat → DWord) (c : CmdWord) (st : List StageWord) : List Nat :=
  if isMx (vsFmtOut c) && vsTail st != 1 then
    (vsOutTiles c st).map fun (t : Nat) => (((t : Int) + tagDelta (tag t)) % 192).toNat
  else []

/-- Output tiles of a command of a listed opcode; `tag` gives a scratchpad tile's tag. -/
def cmdWrites (tag : Nat → DWord) (c : CmdWord) (ext : Option CmdWord) : List Nat :=
  match opcodeOf c with
  | 0x12 => [c.u8 0x08 % 192, (c.u8 0x08 + 1) % 192]
  | 0x20 =>
    let st := vsStages c ext
    vsOutTiles c st ++ vsScaleTiles tag c st ++ (if vsTail st = 0 then [] else [vsResTile c])
  | 0x30 => if xmOut c then [] else xfTiles c
  | 0x31 => if bitOf (c.u8 0x0C) 5 then [c.u8 0x09 % 192] else []
  | 0x32 => xfTiles c
  | 0x41 => msgTiles c
  | 0x49 => if qMode c = 0 then qTiles c else []
  | _ => []

end Sys2Proof.Machine
end

