-- ==== Sys2Proof/Machine/Report.lean ====
section
/-! DEFINITION. How the device reports: platform events and ALERT# (R507, R550), MSI-X vectors (R509), trace records (R506),
and the quiescing of a polder's step (R535) is built on these. -/

namespace Sys2Proof.Machine

namespace State

/-- Bytes written to memory by the management side: a plain write into host memory (R151), a partial tile write elsewhere
(R150). The bytes lie within one tile. -/
def store (s : State) (a : Nat) (l : List Byte) : State :=
  match region a with
  | .host => s.putBytes a l
  | _ => s.putPart a l

/-- A record of a feature of WINDOWS (1 EXPORT host ring, 2 debug trace, 3 completion ring, 4 norms ring) written: in the host
window only inside a window of the feature; one that would fall outside is dropped and counted, and a feature without a window
writes nothing there (R529). -/
def storeIn (s : State) (feature a : Nat) (l : List Byte) : State :=
  match region a with
  | .host =>
    let ws := s.windows.filter fun w => w.1 == feature
    let h := a - 0x80000000000
    if ws.any fun w => decide (w.2.1 ≤ h) && decide (h + l.length ≤ w.2.1 + w.2.2) then s.putBytes a l
    else if ws.isEmpty then s
    else s.bump Reg.CFG_CNT_WINDOW_DROP_COUNT 1
  | _ => s.putPart a l

/-- Something sent to the outside. -/
def send (s : State) (o : Out) : State := { s with out := s.out ++ [o] }

/-- A platform event noted, ALERT# left as it is. -/
def note (s : State) (e : Ev) : State := { s with events := s.events ++ [e] }

/-- An ALERT# cause: platform event, ALERT# asserted, MSI-X vector 0 (R507, R509, R550). -/
def raise (s : State) (e : Ev) : State := { s.note e with alert := true } |>.send (.msix 0)

/-- A ring's entry count from its size field. -/
def ringSize (log2 : Nat) : Nat := 2 ^ log2

/-- Entries in use of a ring whose indices run modulo 2^32. -/
def ringUsed (tail head : Nat) : Nat := (tail + 2 ^ 32 - head) % 2 ^ 32

/-- A trace record appended, or dropped and counted when the ring is full (R506). -/
def trace (s : State) (cls polder code unit arg0 arg1 : Nat) : State :=
  if !s.flag Reg.MGT_TRACE_CTL_ENABLE || !bitOf (s.getF Reg.MGT_TRACE_CTL_CLASSES) cls then s
  else
    let size := ringSize (s.getF Reg.MGT_TRACE_CTL_LOG2_SIZE)
    let tail := s.getF Reg.MGT_TRACE_IDX_TAIL
    if size ≤ ringUsed tail (s.getF Reg.MGT_TRACE_IDX_HEAD) then s.bump Reg.MGT_CNT_TRACE_DROP_COUNT 1
    else
      let rec' := bytesLE 6 s.now ++ bytesLE 1 cls ++ bytesLE 1 polder ++ bytesLE 2 code ++ bytesLE 2 unit ++
        bytesLE 4 arg0 ++ bytesLE 8 arg1 ++ List.replicate 8 0
      (s.storeIn 2 (s.getF Reg.MGT_TRACE_BASE_ADDR + 32 * (tail % size)) rec').setF Reg.MGT_TRACE_IDX_TAIL (tail + 1)

/-- A security event: a trace record of class 5 and MSI-X vector 1 (R506, R509). -/
def security (s : State) (polder code unit : Nat) : State := (s.trace 5 polder code unit 0 0).send (.msix 1)

/-- The job of a polder. -/
def job (s : State) (p : Nat) : Job := SMap.get (fun _ => Job.none) s.jobs p

def setJob (s : State) (p : Nat) (j : Job) : State := { s with jobs := SMap.set (fun _ => Job.none) s.jobs p j }

/-- The current step of a polder (RDT item 4, R506). -/
def stepOf (s : State) (p : Nat) : Nat := (s.job p).step

end State

/-- The causes of abandonment, as PWR_RECOV_STATUS.CAUSE numbers them (R535). -/
inductive Cause where
  | sequencerFault | glaze | linkDown | kilnFetch | guardExpiry | realignment | watchdog | sealedPacket | collective
  | dieLoss | kilnRefusal | coreReset
  deriving DecidableEq, Repr

def Cause.code : Cause → Nat
  | .coreReset => 0
  | .sequencerFault => 1
  | .glaze => 2
  | .linkDown => 3
  | .kilnFetch => 4
  | .guardExpiry => 5
  | .realignment => 6
  | .watchdog => 7
  | .sealedPacket => 8
  | .collective => 9
  | .dieLoss => 10
  | .kilnRefusal => 11

end Sys2Proof.Machine
end

