-- ==== Sys2Proof/Machine/Complete.lean ====
section
/-! DEFINITION. Completions (R104, R109 to R111), glaze failures at use (R156), and the quiescing of a step on a core and on
a polder (R143, R182, R535). -/

namespace Sys2Proof.Machine

/-- The status codes of the CORE and CHN blocks and the memory codes a core's commands carry (R112, R188, R402). -/
def coreEBadop : Nat := 0x1001
def coreEClver : Nat := 0x1002
def coreEGlaze : Nat := 0x1003
def coreEFlushed : Nat := 0x1004
def coreEBadlist : Nat := 0x1005
def coreEDebug : Nat := 0x1006
def coreEBadaddr : Nat := 0x1007
def coreEFormat : Nat := 0x1008
def chnETooLong : Nat := 0x2001
def chnEClosed : Nat := 0x2002
def chnETimeout : Nat := 0x2003
def chnECorrupt : Nat := 0x2004
def chnEShort : Nat := 0x2005
def chnEBadlen : Nat := 0x2006
def chnERole : Nat := 0x2007
def chnEFlushed : Nat := 0x2008
def chnERingtile : Nat := 0x2009
def memEUnmapped : Nat := 0x3001
def memEDike : Nat := 0x3002
def memEAtom : Nat := 0x3003
def memEGlaze : Nat := 0x3004
def lnkEDown : Nat := 0x4001
def lnkEQuarantine : Nat := 0x4003

/-- The 16 bytes of a completion record (R109). -/
def recordBytes (seq opcode : Nat) (sat : Bool) (replays status : Nat) (fscale : Int) (tag count tide : Nat) : List Byte :=
  bytesLE 2 seq ++ bytesLE 1 opcode ++ bytesLE 1 (b2n sat + 2 * (replays % 4)) ++ bytesLE 2 status ++
    bytesLE 1 (unsignedOf 8 fscale) ++ bytesLE 1 tag ++ bytesLE 4 count ++ bytesLE 4 tide

/-- A record written at the tail, which then advances modulo 256 (R111). -/
def Core.writeRecord (c : Core) (l : List Byte) : Core :=
  let c' := c.dwrite (16 * (c.tail % 256)) l
  { c' with tail := (c.tail + 1) % 256 }

/-- Whether a completion writes a record (R110). -/
def needsRecord (cmd : CmdWord) (status : Nat) : Bool :=
  status != 0 || (cmdNotify cmd && !(engineOf cmd == .matrix && !cmdLast cmd))

/-- The tiles a command writes, with their SEALED states and origins (R104, R108, R155). -/
def State.applyWrites (i : Nat) (s : State) : List TileWrite → State
  | [] => s
  | w :: t =>
    State.applyWrites i ((s.putTile (tileAddr i w.idx) w.tile).modCore i fun c => c.setAttr (w.idx % 192) ⟨w.isSealed, w.origin⟩) t

/-- Live telemetry counters of a polder increased, modulo 2^64 (R82, R83). -/
def State.applyTel (p : Nat) (s : State) : List (Nat × Nat) → State
  | [] => s
  | (k, n) :: t =>
    let v := (SMap.get (fun _ => 0) s.tel (64 * p + k) + n) % 2 ^ 64
    State.applyTel p { s with tel := SMap.set (fun _ => 0) s.tel (64 * p + k) v } t

/-- Whether RANGE telemetry counts (R83). -/
def State.rangeOn (s : State) : Bool := decide (2 ≤ s.getF Reg.TEL_RANGE_CTL_MODE)

/-! ### Descriptors (R161, R185) -/

def ctxRole (k : Ctx) : Nat := bitsOf k.desc.toNat 7 0
def ctxReplyExpected (k : Ctx) : Bool := bitOf (bitsOf k.desc.toNat 15 8) 0
def ctxRingTile (k : Ctx) : Nat := bitsOf k.desc.toNat 23 16
def ctxRingTiles (k : Ctx) : Nat := bitsOf k.desc.toNat 31 24
def ctxPeer (k : Ctx) : CtxId :=
  let v := bitsOf k.desc.toNat 127 64
  ⟨bitsOf v 33 20, bitsOf v 19 7, bitsOf v 6 0⟩
def ctxRoute (k : Ctx) : Nat := bitsOf k.desc.toNat 143 128
def ctxTimeout (k : Ctx) : Nat :=
  let t := bitsOf k.desc.toNat 159 144
  if t = 0 then 5000 else if t < 300 then 300 else t

/-- The outstanding request of an MSEND that completes (R185): its deadline runs from here. One whose MSEND fails is no request, for
nothing was sent that a reply could answer (log 119). One that a reply has retired already is not there. -/
def Core.endRequest (c : Core) (cmd : CmdWord) (seq : BitVec 16) (ok : Bool) : Core :=
  let n := cmd.u8 8 % 128
  let k := c.ctx n
  if k.outstanding.all fun r => r.1 != seq || r.2.isSome then c
  else
    c.setCtx n { k with outstanding :=
      if ok then k.outstanding.map fun r => if r = (seq, none) then (seq, some (ctxTimeout k)) else r
      else k.outstanding.filter fun r => r != (seq, none) }

/-- The bookkeeping of a completion in its core: the entry leaves the scoreboard, the counters count, a record is written
where R110 asks for one. -/
def Core.finish (c : Core) (cmd : CmdWord) (seq : BitVec 16) (f : Flight) (tide : Nat) : Core :=
  let c := { c with sb := c.sb.filter fun e => e.q.seq != seq }
  let c := c.bump Reg.CORE_CNT_COMPLETED_COUNT 1
  let c := if f.status = 0 then c else c.bump Reg.CORE_CNT_ERRORS_COUNT 1
  let c := if f.status = chnEClosed then c.bump Reg.CHN_CNT_CLOSED_COUNT 1 else c
  let c := if opcodeOf cmd = 0x40 then c.endRequest cmd seq (f.status == 0) else c
  let c := if f.status = 0 ∧ opcodeOf cmd = 0x40 then c.bump Reg.CHN_CNT_MSG_SENT_COUNT 1 else c
  let c := if f.status = 0 ∧ opcodeOf cmd = 0x41 then c.bump Reg.CHN_CNT_MSG_RECV_COUNT 1 else c
  if needsRecord cmd f.status then
    c.writeRecord (recordBytes seq.toNat (opcodeOf cmd) f.sat f.replays f.status f.fscale (cmd.u8 4) f.count tide)
  else c

/-- A command completes: its outputs become valid, its claims end, its record is written (R104). -/
def State.finishCmd (i : Nat) (cmd : CmdWord) (seq : BitVec 16) (f : Flight) (s : State) : State :=
  let p := (s.core i).polder
  let s := s.applyWrites i f.writes
  let s := if s.rangeOn then s.applyTel p f.tel else s
  s.modCore i fun c => (c.finish cmd seq f s.now)

/-- A command removed with a status of its own, no outputs kept but those given (R143). When the ring has no space for its
record it stays in flight until there is (R111). `silent` is a core reset, which writes no records (R144). -/
def State.flushOne (i : Nat) (silent : Bool) (q : QEntry) (f : Flight) (s : State) : State :=
  if silent then
    s.modCore i fun c => { c with sb := c.sb.filter fun e => e.q.seq != q.seq }
  else if (s.core i).ringFull then
    s.modCore i fun c => { c with sb := (c.sb.filter fun e => e.q.seq != q.seq) ++ [⟨q, some { f with fin := true }⟩] }
  else s.finishCmd i q.cmd q.seq f

/-- What a command in flight has done when its step is abandoned (R143 steps 3 to 5): one that has already failed completes with its
own status (R156, R187); a transfer keeps and reports the tiles it has moved; every other command has written nothing. A blocked
MRECV ends as its context closes (R179). -/
def flushFlight (cmd : CmdWord) (f : Flight) : Flight :=
  if f.fin = true ∧ f.status ≠ 0 then f
  else if engineOf cmd = .transfer ∧ opcodeOf cmd ≠ 0x31 then
    { Flight.start with fin := true, status := coreEFlushed, count := f.count, writes := f.writes }
  else if opcodeOf cmd = 0x41 then { Flight.start with fin := true, status := chnEClosed }
  else { Flight.start with fin := true, status := coreEFlushed }

/-- Every command of a list of scoreboard entries flushed. -/
def State.flushSb (i : Nat) (silent : Bool) : List SbEntry → State → State
  | [], s => s
  | e :: t, s =>
    let f := match e.flight with
      | some f => flushFlight e.q.cmd f
      | none => { Flight.start with fin := true, status := coreEFlushed }
    State.flushSb i silent t (s.flushOne i silent e.q f)

/-- Every queued command flushed; a VEXT that extends a VSTREAM has no completion of its own (R96). -/
def State.flushQueued (i : Nat) (silent : Bool) : List QEntry → State → State
  | [], s => s
  | q :: t, s =>
    State.flushQueued i silent t
      (if q.isExt then s else s.flushOne i silent q { Flight.start with fin := true, status := coreEFlushed })

/-! ### Channel contexts under closing and abandonment -/

/-- Units of a ring in use: what has been written and not returned (R165). -/
def Ctx.fill (k : Ctx) : Nat := k.recs.foldl (fun n r => n + r.units) 0

/-- A receive context closed (R179): the epoch rises, the ring is discarded. -/
def Ctx.close (k : Ctx) : Ctx :=
  { k with state := .closed, epoch := k.epoch + 1, recs := [], rd := 0,
           dropping := if k.recs.all (·.isWhole) then none else some chnEClosed }

/-- What abandonment does to one context (R182 steps 2 and 3): an OPEN receive context closes without a notice, an OPEN send
context enters OPENING with no credits, and no command waits on any. Answers the units discarded. -/
def Ctx.abandon (k : Ctx) : Ctx × Nat :=
  if k.state = .isOpen then
    (if ctxRole k = 2 then ({ k.close with wasOpen := true, waiting := [] }, k.fill)
     else ({ k with state := .opening, credits := 0, outstanding := [], waiting := [] }, 0))
  else ({ k with waiting := [] }, 0)

/-- Every context of a core under abandonment. -/
def Core.abandonCtxs (c : Core) : Core :=
  (List.range 128).foldl (fun c n =>
    let (k, u) := (c.ctx n).abandon
    (c.setCtx n k).bump Reg.CHN_CNT_FLUSH_UNITS_COUNT u) c

/-- SRC of a packet (R413). -/
def laneSrc (link core pkg : Nat) : Nat := link % 512 + core % 8192 * 2 ^ 9 + pkg % 16384 * 2 ^ 22

/-- The one packet that stands for what is left of a cut record on a lane (R184): a CUT pad header, FLAGS bit 1, that keeps its UNITS.
AUX bit 0 tells the receiver that it ends the record before it (log 113). -/
def cutPacket (src : Nat) (k : Ctx) (u : Unacked) : LanePkt :=
  { ptype := 1, isSealed := false, resp := false, lepoch := 0, dstPkg := (ctxPeer k).pkg
    dst := (ctxPeer k).ctx + (ctxPeer k).core * 128, src := src, aux := 1
    payload := bytesLE 1 0x0F ++ bytesLE 1 2 ++ bytesLE 2 u.epoch ++ bytesLE 2 u.units ++ List.replicate 58 0 }

/-- How many packets each record has left when all of them together have `sent` packets started. -/
def leftOf : Nat → List Unacked → List (Unacked × Nat)
  | _, [] => []
  | sent, u :: t => (u, u.packets - sent) :: leftOf (sent - u.packets) t

/-- A stream with each packet that is `mine` replaced as the list says, in order. -/
def cutStream (mine : LanePkt → Bool) : List (LanePkt → List LanePkt) → List LanePkt → List LanePkt
  | _, [] => []
  | acts, q :: t =>
    if mine q then (match acts with
      | [] => q :: cutStream mine [] t
      | a :: as => a q ++ cutStream mine as t)
    else q :: cutStream mine acts t

/-- What becomes of the packets of one record that are left: a pad's goes, a message's first becomes the CUT pad, the rest go no more. -/
def cutActs (src : Nat) (k : Ctx) (x : Unacked × Nat) : List (LanePkt → List LanePkt) :=
  match x.2 with
  | 0 => []
  | n + 1 =>
    if x.1.isPad then List.replicate (n + 1) fun q => [q]
    else (fun q => [{ cutPacket src k x.1 with lepoch := q.lepoch }]) :: List.replicate n fun _ => []

/-- A message record of `src` on the mesh goes no further than the packet being written. -/
def cutMesh (src : CtxId) (p : Pkt) : Pkt :=
  match p with
  | .chn r => if r.src = src ∧ r.typ ≠ 0x0F then .chn { r with cut := true } else p
  | p => p

/-- A lane port. -/
def State.port (s : State) (p : Nat) : Port := SMap.get (fun _ => Port.empty) s.ports p

def State.setPort (p : Nat) (x : Port) (s : State) : State := { s with ports := SMap.set (fun _ => Port.empty) s.ports p x }

def State.modPort (p : Nat) (f : Port → Port) (s : State) : State := s.setPort p (f (s.port p))

/-- The records of one send context stop after the packet in progress (R184, R182 step 1): on the mesh they are marked, on a lane the
packets that have not started give way to a CUT pad each. -/
def State.cutSends (i n : Nat) (s : State) : State :=
  let src := laneSrc n i s.pkgId
  let mine (q : LanePkt) : Bool := q.ptype == 1 && q.src == src
  let s := { s with net := s.net.map (cutMesh ⟨s.pkgId, i, n⟩) }
  let places := s.ports.flatMap fun e => (e.2.streams.filter fun f => f.2.any mine).map fun f => (e.1, f.1)
  places.foldl (fun s pv =>
    let k := (s.core i).ctx n
    let l := SMap.get (fun _ => []) (s.port pv.1).streams pv.2
    let left := leftOf (k.unacked.foldl (fun m u => m + u.packets) 0 - (l.filter mine).length) k.unacked
    let s := s.modPort pv.1 fun x =>
      { x with streams := SMap.set (fun _ => []) x.streams pv.2 (cutStream mine (left.flatMap (cutActs src k)) l) }
    s.modCore i fun c => c.setCtx n { k with unacked := left.map fun x =>
      if x.1.isPad || x.2 == 0 then x.1 else { x.1 with packets := x.1.packets - x.2 + 1 } }) s

/-- The send contexts of a core with records on their way. -/
def Core.sending (c : Core) : List Nat := (c.ctxs.filter fun e => !e.2.unacked.isEmpty).map (·.1)

/-- The step is abandoned on one core (R143, R182), and a restart at CORE_STEP_ENTRY becomes due; the HOLD slots of the turn are
released, since a stopped sequencer executes no WAITS (log 14). A core reset does the same without records, and resets the contexts
itself (R144). -/
def State.abandonCore (i : Nat) (silent : Bool) (s : State) : State :=
  let c := s.core i
  let s := s.modCore i fun c =>
    { c with halted := true, wait := .none, list := none, extWait := false, snapReq := none,
             wheel := { c.wheel with released := true, relAll := true, fresh := false } }
  let s := c.sending.foldl (fun s n => s.cutSends i n) s
  let s := State.flushSb i silent c.sb s
  let s := s.modCore i fun c => { c with queued := [] }
  let s := State.flushQueued i silent c.queued s
  s.modCore i fun c =>
    { c with banks := [], ftq := [], ftqTags := [], matwOpen := false, restart := true } |>
      fun c => if silent then c else c.abandonCtxs

/-- An abandonment reported (R535): PENDING, CAUSE, an event, MSI-X vector 0 and a trace record. -/
def State.pend (p : Nat) (cause : Cause) (s : State) : State :=
  let s := (s.setF (Reg.PWR_RECOV_STATUS_PENDING p) 1).setF (Reg.PWR_RECOV_STATUS_CAUSE p) cause.code
  (s.raise (.abandonment p cause.code)).trace 1 p cause.code p (s.stepOf p) 0

/-- A polder's step is quiesced (R535): on every core, with PENDING, CAUSE, an event, MSI-X vector 0 and a trace record. A
core of no polder has no step. -/
def State.quiesce (p : Nat) (cause : Cause) (s : State) : State :=
  if 8 ≤ p then s
  else
    (State.forCores (fun i s => s.abandonCore i false) (s.coresOf p) s).pend p cause

/-- A glaze failure of a tile with an origin, in the polder's present step: one that has failed before in the same step is lost
(R157). -/
def State.noteOrigin (p a : Nat) (s : State) : State :=
  let now := some (a, s.stepOf p)
  if 8 ≤ p then s
  else
    let again := if SMap.get (fun _ => none) s.power.lost p = now then s.power.again ++ [(p, a)] else s.power.again
    { s with power := { s.power with lost := SMap.set (fun _ => none) s.power.lost p now, again := again } }

/-- A tile fails its glaze at use (R156): it is captured unless a failure is held, counted, and the polder's step is
quiesced. The engine numbers are those of CHN_GLAZE_LAST. -/
def State.glazeFail (i tile engine : Nat) (s : State) : State :=
  let s := match ((s.core i).attr (tile % 192)).origin with
    | some a => s.noteOrigin (s.core i).polder a
    | none => s
  let s := s.modCore i fun c =>
    let o := (c.attr (tile % 192)).origin
    let c := c.bump Reg.CHN_CNT_GLAZE_FAIL_COUNT 1
    if c.flag Reg.CHN_GLAZE_LAST_VALID then c
    else
      let c := ((c.setF Reg.CHN_GLAZE_LAST_VALID 1).setF Reg.CHN_GLAZE_LAST_ENGINE engine).setF Reg.CHN_GLAZE_LAST_TILE tile
      (c.setF Reg.CHN_GLAZE_ORIGIN_ORIGIN_VALID (b2n o.isSome)).setF Reg.CHN_GLAZE_ORIGIN_ADDR (o.getD 0)
  s.quiesce (s.core i).polder .glaze

/-- A cache line fails its glaze before an atomic of a core (R389): counted in the core and the step quiesced. The line is no
scratchpad tile, so nothing is captured (log 18). -/
def State.lineGlazeFail (i : Nat) (s : State) : State :=
  (s.modCore i fun c => c.bump Reg.CHN_CNT_GLAZE_FAIL_COUNT 1).quiesce (s.core i).polder .glaze

/-- `n` bytes of the fixed pattern that a read of SEALED or saggar data returns, 0xFFC1_FFC1 in every aligned word (R141, R164,
R503), from a byte address. -/
def fixedPattern (a n : Nat) : List Byte := (List.range n).map fun k => if (a + k) % 2 = 0 then 0xC1 else 0xFF

/-- Whether a tile passes its glaze (R152, R154). -/
def Tile.ok (t : Tile) : Bool := glazeOf t.data t.tag == t.glaze

/-- A tile of the given bytes and tag, with its glaze (R153). -/
def Tile.make (data : List Byte) (tag : DWord) : Tile := ⟨data, tag, glazeOf data tag⟩

end Sys2Proof.Machine
end

