-- ==== Sys2Proof/Machine/Cache.lean ====
section
/-! DEFINITION. The way to DRAM (ch 10): the dike (R371, R372), the weirs (R375, R376), the shared-cache slices (R379 to R382), the
deferred queues (R383), the renorm of pairs an atomic has added to (R387), and saggar regions (R502, R503). -/

namespace Sys2Proof.Machine

namespace State

/-! ### Saggar regions -/

/-- Whether a device address lies in a saggar region (R502). -/
def inSaggar (s : State) (a : Nat) : Bool :=
  match region a with
  | .dram st ch => (List.range 64).any fun n =>
      s.flag (Reg.SEC_SAGGAR_VALID n) && bitOf (s.getF (Reg.SEC_SAGGAR_STACKS n)) st &&
        bitOf (s.getF (Reg.SEC_SAGGAR_CHANS n)) ch &&
        decide (s.getF (Reg.SEC_SAGGAR_OFFSET n) ≤ a % 0x80000000) &&
        decide (a % 0x80000000 < s.getF (Reg.SEC_SAGGAR_OFFSET n) + 2048 * s.getF (Reg.SEC_SAGGAR_TILES n))
  | _ => false

/-- Whether `n` bytes from a device address lie in one saggar region. -/
def saggarRun (s : State) (a n : Nat) : Bool :=
  region a == region (a + n - 1) && (match region a with
  | .dram st ch => (List.range 64).any fun k =>
      s.flag (Reg.SEC_SAGGAR_VALID k) && bitOf (s.getF (Reg.SEC_SAGGAR_STACKS k)) st && bitOf (s.getF (Reg.SEC_SAGGAR_CHANS k)) ch &&
        decide (s.getF (Reg.SEC_SAGGAR_OFFSET k) ≤ a % 0x80000000) &&
        decide (a % 0x80000000 + n ≤ s.getF (Reg.SEC_SAGGAR_OFFSET k) + 2048 * s.getF (Reg.SEC_SAGGAR_TILES k))
  | _ => false)

/-! ### The dike -/

/-- A dike failure counted at its stack, and captured unless one is held (R372). Masters: 0 core, 1 media front-end, 2
collective engine, 3 kiln, 4 registry load. -/
def dikeFail (master polder a : Nat) (s : State) : State :=
  match region a with
  | .dram st ch =>
    let s := s.bump (Reg.MEM_CNT_DIKE_COUNT st) 1
    if s.flag (Reg.MEM_DIKE_LAST_VALID st) then s
    else
      ((((s.setF (Reg.MEM_DIKE_LAST_VALID st) 1).setF (Reg.MEM_DIKE_LAST_REQ_POLDER st) polder).setF
        (Reg.MEM_DIKE_LAST_OWNER st) (s.chanOwner st ch)).setF (Reg.MEM_DIKE_LAST_MASTER st) master).setF
        (Reg.MEM_DIKE_LAST_ADDR st) a
  | _ => s

/-- Whether polder `p` owns the channel of an address; a core of no polder owns none (R371, R569). -/
def ownsAddr (s : State) (p a : Nat) : Bool :=
  match region a with
  | .dram st ch => decide (p < 8) && s.chanOwner st ch == p
  | _ => false

/-! ### Weirs -/

/-- Tokens of a bucket at a point; a bucket whose RATE is 0 holds none (R376). -/
def weirLevel (s : State) (st b pt : Nat) : Nat :=
  if s.getF (Reg.MEM_WEIR_RATE st b pt) = 0 then 0
  else s.getF (Reg.MEM_WEIR_BURST st b pt) - SMap.get (fun _ => 0) s.weirs ((st * 9 + b) * 3 + pt)

/-- Tokens taken from a bucket. -/
def weirSpend (st b pt n : Nat) (s : State) : State :=
  let k := (st * 9 + b) * 3 + pt
  { s with weirs := SMap.set (fun _ => 0) s.weirs k (SMap.get (fun _ => 0) s.weirs k + n) }

/-- Every 16 cycles: each bucket of every stack gains its RATE up to its BURST (R376). -/
def weirRefill (s : State) : State :=
  { s with weirs := s.weirs.filterMap fun e =>
      let pt := e.1 % 3
      let b := e.1 / 3 % 9
      let st := e.1 / 27
      let left := e.2 - s.getF (Reg.MEM_WEIR_RATE st b pt)
      if left = 0 then none else some (e.1, left) }

/-- The buckets of a polder full again, as when its RUN is set (R376). -/
def weirFull (p : Nat) (s : State) : State := { s with weirs := SMap.clearIf s.weirs fun k => k / 3 % 9 == p }

/-- A request that finds no tokens: the waiting cycles, which the model does not count, are added to the bucket's counter
(R378, log 5). -/
def weirWait (st b : Nat) (s : State) : State := s.bumpFree (Reg.MEM_CNT_WEIR_WAIT_COUNT st b)

/-! ### Lines -/

/-- The set of a slice that a tile maps to (R379). -/
def setOf (a : Nat) : Nat :=
  match region a with
  | .dram _ ch => (a / 2048 ^^^ ch * 32) % 1024
  | _ => 0

/-- The lines of an address's set, most recently used first. -/
def lines (s : State) (st a : Nat) : List Line := SMap.get (fun _ => []) s.slices (st * 1024 + setOf a)

def setLines (st a : Nat) (l : List Line) (s : State) : State :=
  { s with slices := SMap.set (fun _ => []) s.slices (st * 1024 + setOf a) l }

/-- The line that holds an address's tile. -/
def lineOf (s : State) (st a : Nat) : Option Line := (s.lines st a).find? fun l => l.addr == a / 2048 * 2048

/-- One pair in device memory renormalised; a clamp is counted (R387). -/
def renormWord (st base w : Nat) (s : State) : State :=
  let a := base + 4 * w
  let v := s.memNat a 4
  let p := renorm (AccPair.load ⟨BitVec.ofNat 16 v, BitVec.ofNat 16 (v / 65536), false, false⟩)
  match p.ovf with
  | some neg => (s.putBytes a (clampPair neg).bytes).bump (Reg.MEM_CNT_ATOM_SAT_COUNT st) 1
  | none => s.putBytes a p.bytes

/-- Pairs of a tile renormalised, with a new glaze when there are any (R150, R387). -/
def renormWords (st base : Nat) (ws : List Nat) (s : State) : State :=
  if ws.isEmpty then s
  else
    let s := ws.foldl (fun s w => s.renormWord st base w) s
    let tag := (s.metaAt base).1
    s.putMeta base (tag, glazeOf (s.bytes base 2048) tag)

/-- Before any read of a line other than by the atomic unit, its added-to pairs are renormalised (R387). -/
def renormLine (st a : Nat) (s : State) : State :=
  match s.lineOf st a with
  | none => s
  | some l =>
    if l.touched.isEmpty then s
    else
      (s.renormWords st l.addr l.touched).setLines st a ((s.lines st a).map fun m =>
        if m.addr = l.addr then { m with adds := [], touched := [] } else m)

/-! ### Deferred queues -/

/-- The deferred queue of a channel. -/
def queueOf (s : State) (st ch : Nat) : List Deferred := SMap.get (fun _ => []) s.deferred (st * 32 + ch)

def setQueue (st ch : Nat) (l : List Deferred) (s : State) : State :=
  { s with deferred := SMap.set (fun _ => []) s.deferred (st * 32 + ch) l }

/-- An operator read of device memory within a tile: the pattern for saggar data, counted (R503); anything while its channel is
under a margin test (log 37); else the bytes. -/
def operatorRead (s : State) (a n : Nat) : State × List Byte :=
  match region a with
  | .dram st ch =>
    if s.inSaggar a then (s.bump Reg.SEC_CNT_SAGGAR_READ_COUNT 1, fixedPattern a n)
    else if s.testing.contains (st * 32 + ch) then (s.useFree n, (List.range n).map fun k => BitVec.ofNat 8 (s.fr k))
    else (s, s.bytes a n)
  | _ => (s, s.bytes a n)

/-- An operator write of DRAM within a tile: merged, or dropped and counted in a saggar region (R150, R503). -/
def operatorWrite (a : Nat) (d : List Byte) (s : State) : State :=
  if s.inSaggar a then s.bump Reg.SEC_CNT_SAGGAR_WRITE_COUNT 1 else s.putPart a d

/-- One deferred entry performed: a victim's data is already where every master sees it; an operator read is answered, an
operator write merged (R150, R383). -/
def perform (s : State) : Deferred → State
  | .victim _ => s
  | .opRead a n id => (s.operatorRead a n).1.send (.pcie id (.data (s.operatorRead a n).2))
  | .opWrite a d => s.operatorWrite a d

/-- The first sixteen entries of a channel's queue performed, oldest first; waiting accesses then enter it (R383). -/
def performQueue (st ch : Nat) (s : State) : State :=
  let q := s.queueOf st ch
  let s := (q.take 16).foldl perform s
  (s.setQueue st ch (q.drop 16)).bump (Reg.MEM_CNT_DEFERRED_COUNT st) (min 16 q.length)

/-- Every entry and waiting access of a channel performed: the channel is unowned or its polder has stopped. -/
def performAll (st ch : Nat) (s : State) : State :=
  let q := s.queueOf st ch
  ((q.foldl perform s).setQueue st ch []).bump (Reg.MEM_CNT_DEFERRED_COUNT st) q.length

/-- Whether a channel is owned by a polder that runs (R383, R567). -/
def chanRuns (s : State) (st ch : Nat) : Bool :=
  let p := s.chanOwner st ch
  decide (p < 8) && (s.wheel p).runs

/-- An entry put in a channel's deferred queue, or performed at once when the channel is unowned or its polder does not run
(R383). -/
def defer (st ch : Nat) (d : Deferred) (s : State) : State :=
  let s := s.setQueue st ch (s.queueOf st ch ++ [d])
  if s.chanRuns st ch then s else s.performAll st ch

/-! ### Accesses -/

/-- How an access uses the slice: whether it writes, whether it allocates on a miss, whether it is the atomic unit's,
whether it is shorter than a tile. -/
structure Access where
  write  : Bool
  alloc  : Bool
  atomic : Bool
  short  : Bool
  deriving DecidableEq, Repr

/-- The ways of a slice that belong to a polder (R379). -/
def waysOf (s : State) (st p : Nat) : List Nat :=
  if p < 8 then (List.range 16).filter fun w => bitOf (s.getF (Reg.MEM_WAYS_WAYS st p)) w else []

/-- A line placed for a tile of polder `p` (R379, R381, R382): in a free way, or in that of the least recently used line of
the polder's ways; a dirty victim goes to its channel's deferred queue, and when that is full nothing is allocated. -/
def allocate (st p a : Nat) (dirty : Bool) (s : State) : State :=
  let ls := s.lines st a
  let ways := s.waysOf st p
  let line (w : Nat) : Line := ⟨w, a / 2048 * 2048, dirty, [], []⟩
  match ways.find? fun w => !ls.any fun l => l.way == w with
  | some w => s.setLines st a (line w :: ls)
  | none =>
    match (ls.filter fun l => ways.contains l.way).getLast? with
    | none => s
    | some v =>
      let ch := match region v.addr with
        | .dram _ c => c
        | _ => 0
      if v.dirty && decide (16 ≤ (s.queueOf st ch).length) then s.bump (Reg.MEM_CNT_NOALLOC_COUNT st) 1
      else
        let s := s.renormWords st v.addr v.touched
        let s := s.setLines st a (line v.way :: (ls.filter fun l => l.addr != v.addr))
        if v.dirty then s.defer st ch (.victim v.addr) else s

/-- A slice looked up for one tile by polder `p`, or by operator traffic as 8 (R366, R379 to R383, R387): the lookup counted, the
channel's deferred entries performed before its own polder's access, the line used or allocated, its pairs renormalised
unless the atomic unit reads it. The caller then reads or writes the tile. -/
def access (p : Nat) (k : Access) (a : Nat) (s : State) : State :=
  match region a with
  | .dram st ch =>
    let s := if k.short then s.bump (Reg.MEM_CNT_SHORT_COUNT st) 1 else s
    match s.lineOf st a with
    | some l =>
      let s := s.bump (Reg.MEM_CNT_HIT_COUNT st) 1
      let s := if k.write ∧ !k.alloc ∧ p < 8 ∧ s.chanOwner st ch = p then s.performQueue st ch else s
      let s := if k.atomic then s else s.renormLine st a
      let l := (s.lineOf st a).getD l
      let l := if k.write then { l with dirty := k.alloc } else l
      s.setLines st a (l :: (s.lines st a).filter fun m => m.addr != l.addr)
    | none =>
      let s := s.bump (Reg.MEM_CNT_MISS_COUNT st) 1
      let s := if p < 8 ∧ s.chanOwner st ch = p then s.performQueue st ch else s
      if k.alloc then s.allocate st p a k.write else s
  | _ => s

/-- What a request of `n` sectors costs at the crossbar (R375): a tile's 8 when it misses, or when it writes without
allocating; nothing on a hit that stays in the line. -/
def crossCost (s : State) (k : Access) (a : Nat) : Nat :=
  match region a with
  | .dram st _ => if (s.lineOf st a).isSome && !(k.write && !k.alloc) then 0 else 8
  | _ => 0

/-- Whether a request may go through: the channel is not being wiped (R401), and the weirs hold the tokens it needs at the
cache port and at the crossbar (R376). -/
def weirPass (s : State) (b : Nat) (k : Access) (a : Nat) : Bool :=
  match region a with
  | .dram st ch =>
    !s.wiping.contains (st * 32 + ch) && decide ((if k.short then 1 else 8) ≤ s.weirLevel st b 0) && decide (s.crossCost k a ≤ s.weirLevel st b 2)
  | _ => true

/-- A request that passes the weirs pays them, and looks the slice up. -/
def meter (b : Nat) (k : Access) (a : Nat) (s : State) : State :=
  match region a with
  | .dram st _ =>
    let c := s.crossCost k a
    ((s.weirSpend st b 0 (if k.short then 1 else 8)).weirSpend st b 2 c).access b k a
  | _ => s

/-- The waiting of a request that the weirs hold. -/
def weirHold (b a : Nat) (s : State) : State :=
  match region a with
  | .dram st _ => s.weirWait st b
  | _ => s

/-! ### Wipes (R158, R400) -/

/-- Tiles from `lo` up to but not including `hi` of DRAM wiped: their lines are invalid. -/
def wipeDram (lo hi : Nat) (s : State) : State :=
  let keep (l : Line) : Bool := decide (l.addr < lo) || decide (hi ≤ l.addr)
  let prune (e : Nat × List Line) : Option (Nat × List Line) :=
    if (e.2.filter keep).isEmpty then none else some (e.1, e.2.filter keep)
  { s.wipeRange lo hi with slices := s.slices.filterMap prune }

/-- The populated part of a channel wiped: its lines are invalid and its deferred queue empty. -/
def wipeChan (s : State) (st ch : Nat) : State :=
  let base := st * 0x1000000000 + ch * 0x80000000
  (s.wipeDram base (base + 0x60000000)).setQueue st ch []

end State

/-- Reads that do not allocate, of a whole tile and of less. -/
def readTile : State.Access := ⟨false, false, false, false⟩
def readShort : State.Access := ⟨false, false, false, true⟩

/-- Writes that do not allocate. -/
def writeTile : State.Access := ⟨true, false, false, false⟩
def writeShort : State.Access := ⟨true, false, false, true⟩

/-- An XATOM's access (R381). -/
def atomicAccess : State.Access := ⟨true, true, true, true⟩

end Sys2Proof.Machine
end

