-- ==== Sys2Proof/Machine/WheelTables.lean ====
section
/-! DEFINITION. Reading the wheel's tables: slot entries, variants, plans, routes, ownership sets (R203 to R213), and what a
slot owns (R134, R205, R209). -/

namespace Sys2Proof.Machine

/-- A slot entry (R211). -/
structure SlotEntry where
  start : Nat
  hold  : Bool
  rt    : Bool
  set   : Nat
  deriving DecidableEq, Repr

/-- A variant directory entry (R212). -/
structure Variant where
  first    : Nat
  count    : Nat
  pc       : Nat
  fallthru : Bool
  valid    : Bool
  deriving DecidableEq, Repr

/-- A turn plan entry (R213). -/
structure PlanEntry where
  guardT  : Nat
  program : Nat
  rep     : Nat
  len     : Nat
  deriving DecidableEq, Repr

/-- A route descriptor (R204). -/
structure Route where
  cluster : Nat
  die     : Nat
  kind    : Nat
  hops    : Nat
  path    : Nat
  target  : Nat
  phases  : Nat
  deriving DecidableEq, Repr

/-- The number that the 32-bit words of a table spell from word `k` on. -/
def tableNat (m : SMap Word) (k n : Nat) : Nat :=
  (List.range n).foldl (fun v j => v + (SMap.get (fun _ => 0) m (k + j)).toNat * 2 ^ (32 * j)) 0

/-- Slot entry `k` of a core's wheel store. -/
def CoreWheel.slot (w : CoreWheel) (k : Nat) : SlotEntry :=
  let v := tableNat w.store (2 * k) 2
  ⟨bitsOf v 19 0, bitOf v 20, bitOf v 21, bitsOf v 45 32⟩

/-- The variant of program `p` and class `cl`. -/
def CoreWheel.variant (w : CoreWheel) (p cl : Nat) : Variant :=
  let v := tableNat w.variants (2 * (p * 64 + cl)) 2
  ⟨bitsOf v 11 0, bitsOf v 24 12, bitsOf v 37 25, bitOf v 38, bitOf v 39⟩

namespace State

/-- Entry `e` of a polder's plan (R213). -/
def plan (s : State) (p e : Nat) : PlanEntry :=
  ⟨s.getF (Reg.WHL_PLAN_RT_GUARD p e), s.getF (Reg.WHL_PLAN_PROGRAM p e), s.getF (Reg.WHL_PLAN_REPEAT p e),
    s.getF (Reg.WHL_PLAN_TURN_LEN p e) + 1⟩

/-- Entries of a plan before the first with REPEAT 0 (R213). -/
def planEntries (s : State) (p : Nat) : List Nat := (List.range 16).takeWhile fun e => (s.plan p e).rep != 0

/-- The plan period (R213). -/
def planPeriod (s : State) (p : Nat) : Nat :=
  (s.planEntries p).foldl (fun n e => n + (s.plan p e).len * (s.plan p e).rep) 0

/-- Route `r` of a die's table (R204). -/
def route (s : State) (die r : Nat) : Route :=
  let v := tableNat s.routes (die * 65536 + 4 * r) 4
  ⟨bitsOf v 5 0, bitsOf v 7 6, bitsOf v 15 8, bitsOf v 23 16, bitsOf v 95 32, bitsOf v 111 96, bitsOf v 127 112⟩

/-- COUNT of a set, and its byte 0x00 (R206). -/
def setCount (s : State) (die k : Nat) : Nat := bitsOf (tableNat s.sets (die * 131072 + 8 * k) 8) 7 0

/-- The routes an ownership set names; set 0 is always empty (R206). -/
def setRoutes (s : State) (die k : Nat) : List Nat :=
  if k = 0 then []
  else
    let v := tableNat s.sets (die * 131072 + 8 * k) 8
    (List.range (bitsOf v 7 0)).map fun j => bitsOf v (16 * j + 31) (16 * j + 16)

/-- The die of a core (R5). -/
def dieOf (core : Nat) : Nat := core / 2048 % 4

/-- The cluster domain of a core: its die and cluster (R5, R16). -/
def clusterOf (core : Nat) : Nat := core / 32 % 256

/-- The ownership set of the slot a core is in; 0 outside a slot. -/
def curSet (s : State) (i : Nat) : Nat :=
  let w := (s.core i).wheel
  match w.cur with
  | some k => (w.slot (w.first + k)).set
  | none => 0

/-- The routes a core owns now. -/
def ownedRoutes (s : State) (i : Nat) : List Nat := s.setRoutes (dieOf i) (s.curSet i)

/-- Whether a core owns a route now. -/
def ownsRoute (s : State) (i r : Nat) : Bool := (s.ownedRoutes i).contains r

/-- Whether a core owns a port now: a DRAM channel, or the cache port of its stack (R134, R205). -/
def ownsDram (s : State) (i stack chan : Nat) : Bool :=
  (s.ownedRoutes i).any fun r =>
    let d := s.route (dieOf i) r
    (d.kind == 0 && d.target == stack * 32 + chan) || (d.kind == 1 && d.target == stack)

/-! ### Paths (R203 to R205, R207) -/

/-- Hop `h` of a path: 0 north, 1 east, 2 south, 3 west. -/
def pathHop (r : Route) (h : Nat) : Nat := bitsOf r.path (2 * h + 1) (2 * h)

/-- The stop a hop leads to from a die's stop, whether it crosses a culvert, or `none` off a side without one (R18, R19,
R204). Compute dies CD[0] and CD[1] lie in the top row; IO dies are numbered 4 and 5. -/
def hopTo (die stop dir : Nat) : Option (Nat × Nat × Bool) :=
  let row := stop / 8
  let col := stop % 8
  match dir with
  | 0 => if row = 0 then (if die = 2 ∨ die = 3 then some (die - 2, 56 + col, true)
          else if die = 0 ∨ die = 1 then some (4, col, true) else none)
         else some (die, stop - 8, false)
  | 1 => if col = 7 then (if die = 0 ∨ die = 2 then some (die + 1, 8 * row, true) else none) else some (die, stop + 1, false)
  | 2 => if row = 7 then (if die = 0 ∨ die = 1 then some (die + 2, col, true)
          else if die = 2 ∨ die = 3 then some (5, col, true) else none)
         else some (die, stop + 8, false)
  | _ => if col = 0 then (if die = 1 ∨ die = 3 then some (die - 1, 8 * row + 7, true) else none) else some (die, stop - 1, false)

/-- A walked path: where it ends, the links it leaves stops by (die, stop, direction), culverts crossed; `none` once it
leaves a die on a side without a culvert. -/
structure Walk where
  die   : Nat
  stop  : Nat
  links : List (Nat × Nat × Nat)
  culv  : Nat
  deriving DecidableEq, Repr

/-- A path followed for its hops. -/
def walk (r : Route) : Option Walk :=
  (List.range r.hops).foldl (fun (w : Option Walk) h => match w with
    | none => none
    | some w =>
      if 4 ≤ w.die then none
      else match hopTo w.die w.stop (pathHop r h) with
        | none => none
        | some (d, st, c) => some ⟨d, st, w.links ++ [(w.die, w.stop, pathHop r h)], w.culv + b2n c⟩)
    (some ⟨r.die, r.cluster, [], 0⟩)

/-- The culvert between two dies, numbered as R18 lists them; IO[0] and IO[1] are dies 4 and 5. -/
def culvertOf (a b : Nat) : Option Nat :=
  match min a b, max a b with
  | 0, 1 => some 0
  | 2, 3 => some 1
  | 0, 2 => some 2
  | 1, 3 => some 3
  | 0, 4 => some 4
  | 1, 4 => some 5
  | 2, 5 => some 6
  | 3, 5 => some 7
  | _, _ => none

/-- The culverts a route crosses. -/
def routeCulverts (r : Route) : List Nat :=
  match walk r with
  | none => []
  | some w => w.links.filterMap fun l => match hopTo l.1 l.2.1 l.2.2 with
    | some (d, _, true) => culvertOf l.1 d
    | _ => none

/-- The lane port a route ends at, when it ends at a lane virtual channel of the I/O die its path reaches (R4, R204). -/
def routePort (r : Route) : Option Nat :=
  if r.kind = 4 then
    (match walk r with
    | some w => if 4 ≤ w.die ∧ r.target < 128 then some ((w.die - 4) * 8 + r.target / 16) else none
    | none => none)
  else none

/-- Whether a culvert of a route is in QUARANTINE (R443). -/
def routeQuarantined (s : State) (r : Route) : Bool :=
  (routeCulverts r).any fun c => s.getF (Reg.LNK_CULV_STATUS_STATE c) == 4

/-- Whether a link or culvert of a route asserts recovery in progress (R186). -/
def routeRecovering (s : State) (r : Route) : Bool :=
  ((routeCulverts r).any fun c => s.flag (Reg.LNK_CULV_STATUS_RIP c)) ||
    (match routePort r with
    | some p => s.flag (Reg.LNK_PORT_STATUS_RIP p)
    | none => false)

/-- Whether a stack that a core reaches is lost to it: the stack is offline with its die, or a route the core owns to it
crosses a culvert in QUARANTINE (R145, R443, R532). -/
def stackLost (s : State) (i stack chan : Nat) : Bool :=
  s.flag (Reg.MEM_STACK_STATUS_OFFLINE stack) || (s.ownedRoutes i).any fun r =>
    let d := s.route (dieOf i) r
    ((d.kind == 0 && d.target == stack * 32 + chan) || (d.kind == 1 && d.target == stack)) && s.routeQuarantined d

/-- Whether the slot in progress on a core lends the channel of an address to the kiln of its stack (R330): no command of the core
may use that channel then (R331). -/
def lendsNow (s : State) (i a : Nat) : Bool :=
  match region a with
  | .dram st ch =>
    let has (k t : Nat) : Bool := (s.ownedRoutes i).any fun r => (s.route (dieOf i) r).kind == k && (s.route (dieOf i) r).target == t
    has 2 st && has 0 (st * 32 + ch)
  | _ => false

/-- Whether two routes share a phase of a link or culvert; a route owns its phases in both directions (R205). -/
def sharePhase (a b : Route) : Bool :=
  a.phases &&& b.phases != 0 &&
    (match walk a, walk b with
    | some x, some y => x.links.any fun l => y.links.any fun m =>
        l == m || (match hopTo l.1 l.2.1 l.2.2 with
          | some (d, st, _) => m == (d, st, (l.2.2 + 2) % 4)
          | none => false)
    | _, _ => false)

/-- Whether a route owns a phase that is reserved to a media front-end (R207, R261). -/
def ownsReserved (s : State) (r : Route) : Bool :=
  match walk r with
  | none => false
  | some w => w.links.any fun l => s.reserved.any fun x => x.2 &&& r.phases != 0 &&
      (x.1 == l || (match hopTo l.1 l.2.1 l.2.2 with
        | some (d, st, _) => x.1 == (d, st, (l.2.2 + 2) % 4)
        | none => false))

/-- Whether two routes own one target port (R205). -/
def sharePort (a b : Route) : Bool :=
  a.kind == b.kind && a.target == b.target && (decide (a.kind ≤ 2) || (a.kind == 4 && routePort a == routePort b))

/-- Whether two routes own one resource. -/
def routesMeet (a b : Route) : Bool := sharePort a b || sharePhase a b

/-- Slots of a core that have not ended and whose nominal start lies before `t`: the ordinals from the slot in progress. -/
def openBefore (w : CoreWheel) (t : Nat) : List SlotEntry :=
  let from' := w.cur.getD w.next
  ((List.range w.count).filter fun k => decide (from' ≤ k)).map (fun k => w.slot (w.first + k)) |>.filter fun e =>
    decide (e.start < t)

/-- Whether a resource of a route still belongs to an earlier slot of the turn, on another core of the polder, that has not
ended (R209). -/
def handover (s : State) (i r : Nat) : Bool :=
  let w := (s.core i).wheel
  match w.cur with
  | none => false
  | some k =>
    let mine := s.route (dieOf i) r
    let t := (w.slot (w.first + k)).start
    (s.coresOf (s.core i).polder).any fun o =>
      o != i && !(s.core o).wheel.ended && (openBefore (s.core o).wheel t).any fun e =>
        (s.setRoutes (dieOf o) e.set).any fun q => routesMeet mine (s.route (dieOf o) q)

end State

end Sys2Proof.Machine
end

