-- ==== Sys2Proof/Machine/Lane.lean ====
section
/-! DEFINITION. Sending and taking packets on the lanes: packet and frame layouts (R408, R412, R413), the port's answer to a packet
(R418), starting packets against the window (R410, R420, R423), and what a delivered packet gives back (R424). -/

namespace Sys2Proof.Machine

/-- Item `k` of what is on its way inside the package, taken when no earlier item of the same channel and direction is still
there (R176); `key` names the channel. -/
def netTake {κ : Type} [DecidableEq κ] (key : Pkt → Option κ) (k : Nat) (net : List Pkt) : Option (Pkt × List Pkt) :=
  match net[k]? with
  | none => none
  | some p =>
    match key p with
    | none => none
    | some c => if (net.take k).any fun q => key q == some c then none else some (p, net.eraseIdx k)

namespace State

/-- STATE of a port. -/
def portState (s : State) (p : Nat) : Nat := s.getF (Reg.LNK_PORT_STATUS_STATE p)

end State

/-- A packet's bytes: the header of R413 and its payload. -/
def packetBytes (p : LanePkt) : List Byte :=
  bytesLE 1 p.ptype ++ bytesLE 1 (b2n p.isSealed + 2 * b2n p.resp) ++ bytesLE 2 p.lepoch ++ bytesLE 2 p.payload.length ++
    bytesLE 2 p.dstPkg ++ bytesLE 8 p.dst ++ bytesLE 8 p.src ++ bytesLE 8 p.aux ++ p.payload

/-- A packet sealed under a key: the nonce is header bytes 0x10 to 0x1B, the AAD the header, whose LEN counts the tag (R504). -/
def sealPkt (p : LanePkt) (key : List Byte) : LanePkt :=
  let h := (packetBytes { p with payload := List.replicate (p.payload.length + 16) 0 }).take 32
  { p with payload := padTo (p.payload.length + 16) (Config.aeadSeal key ((h.drop 0x10).take 12) h p.payload) }

/-- The packet that bytes begin with, once all of it is there, and the bytes behind it. -/
def packetAt (l : List Byte) : Option (LanePkt × List Byte) :=
  let len := numAt l 4 2
  if l.length < 32 ∨ l.length < 32 + len then none
  else
    some (⟨numAt l 0 1, bitOf (numAt l 1 1) 0, bitOf (numAt l 1 1) 1, numAt l 2 2, numAt l 6 2 % 16384, numAt l 8 8,
      numAt l 16 8, numAt l 24 8, (l.drop 32).take len⟩, l.drop (32 + len))

/-- Units a packet occupies (R422). -/
def lanePktUnits (p : LanePkt) : Nat := ceilDiv (32 + p.payload.length) 64

/-- The roles that allow a packet type (R414): 1 STAGE, 2 COLL, 3 PERM, 4 EXPORT. -/
def roleAllows (role ptype : Nat) : Bool :=
  if (1 ≤ ptype ∧ ptype ≤ 4) ∨ (0x10 ≤ ptype ∧ ptype ≤ 0x13) then role == 1
  else if 0x20 ≤ ptype ∧ ptype ≤ 0x2F then role == 2 || role == 3
  else if ptype = 0x30 then role == 4
  else false

def secENokey : Nat := 0x9006
def lnkEDisabled : Nat := 0x4002
def lnkERole : Nat := 0x4004

/-- Whether a CL2 link carries a packet type: the channel types and the collective types R457 marks (R439). -/
def cl2Type (t : Nat) : Bool := (decide (1 ≤ t) && decide (t ≤ 4)) || [0x20, 0x21].contains t

namespace State

/-- Whether the port speaks CL2 (R439). -/
def isCl2 (s : State) (p : Nat) : Bool := s.getF (Reg.LNK_PORT_STATUS_VERSION p) == 2

/-- What a port answers to a packet that is to enter a VC; 0 when it enters or waits (R418). A CL2 link
refuses the types that R439 does not list as a role does (log 117). -/
def laneStatus (s : State) (p ptype : Nat) : Nat :=
  let role := s.getF (Reg.LNK_PORT_CFG_ROLE p)
  let st := s.portState p
  if st = 0 ∨ role = 0 then lnkEDisabled
  else if !roleAllows role ptype || (s.isCl2 p && !cl2Type ptype) then lnkERole
  else if st = 6 ∨ st = 7 ∨ (s.port p).retrain then 0
  else lnkEDown

/-- Frames a replay buffer holds, by REACH (R405). -/
def replayRoom (s : State) (p : Nat) : Nat := if s.flag (Reg.LNK_PORT_CFG_REACH p) then 384 else 128

/-- One VC whose owed units the next header pays, with up to 2,047 of them (R424). -/
def duePay (x : Port) : Nat × Nat :=
  match x.owed with
  | [] => (0, 0)
  | (v, n) :: _ => (v, min 2047 n)

/-- A frame sent: ACK, NAK and owed units go into its header (R408, R424). -/
def sendFrame (p : Nat) (f : Frame) (s : State) : State :=
  let x := s.port p
  let (v, n) := duePay x
  let f := { f with ack := x.ack, nak := x.nak, cvc := v, cred := n }
  let owed := if n = 0 then x.owed else SMap.set (fun _ => 0) x.owed v (SMap.get (fun _ => 0) x.owed v - n)
  ((s.setPort p { x with owed := owed, nak := false }).bump (Reg.LNK_CNT_FRAMES_TX_COUNT p) 1).send (.frame p f)

/-- An IDLE or CTRL frame of a port. -/
def sendControl (p ftype : Nat) (payload : List Byte) (s : State) : State :=
  s.sendFrame p ⟨ftype, false, false, 0, 0, (s.port p).txSeq, 0, 0, 0, payload⟩

/-- A DATA frame of a port: kept for replay, its SEQ used (R419, R420). -/
def sendData (p v : Nat) (s : State) (fb : Nat × List Byte) : State :=
  let x := s.port p
  let f : Frame := ⟨1, false, false, v, fb.1, x.txSeq, 0, 0, 0, fb.2⟩
  let x := { x with txSeq := (x.txSeq + 1) % 4096, replay := x.replay ++ [f], lastSeq := SMap.set (fun _ => 0) x.lastSeq v x.txSeq }
  (s.setPort p x).sendFrame p f

/-- A packet's bytes as they enter a stream; the first of them is marked, since FIRST names where a header begins (R408). -/
def streamBytes (p : LanePkt) : List (Bool × Byte) :=
  match packetBytes p with
  | [] => []
  | b :: l => (true, b) :: l.map fun b => (false, b)

/-- The next frame of a stream's started bytes: FIRST and up to 628 of them (R408, R412). -/
def nextFrame (l : List (Bool × Byte)) : Nat × List Byte :=
  (((l.take 628).findIdx? (·.1)).getD 0x3FF, (l.take 628).map (·.2))

/-- Whether a VC has frame positions: it owns a phase (R410); on CL2, VCs 8 to 15 own none (R439). -/
def vcHasPhase (s : State) (p v : Nat) : Bool :=
  s.getF (Reg.LNK_VC_CFG_PHASES p v) != 0 && (!s.isCl2 p || decide (v < 8))

/-- Packets started while the next frame has room for them and the window covers them (R412, R423). -/
def startPackets (p v : Nat) : Nat → State → State
  | 0, s => s
  | n + 1, s =>
    match SMap.get (fun _ => []) (s.port p).streams v with
    | [] => s
    | q :: t =>
      let going := SMap.get (fun _ => []) (s.port p).going v
      let w := s.getF (Reg.LNK_VC_STATE_WINDOW p v)
      if going.length < 628 ∧ lanePktUnits q ≤ w then
        startPackets p v n ((s.modPort p fun x =>
          { x with streams := SMap.set (fun _ => []) x.streams v t, going := SMap.set (fun _ => []) x.going v (going ++ streamBytes q) }).setF
            (Reg.LNK_VC_STATE_WINDOW p v) (w - lanePktUnits q))
      else s

/-- The frames of one VC sent as far as they may be: the port is ACTIVE and the replay buffer has room (R410, R420). -/
def pumpVc (p v : Nat) : Nat → State → State
  | 0, s => s
  | n + 1, s =>
    if s.portState p ≠ 6 ∨ s.replayRoom p ≤ (s.port p).replay.length then s
    else
      let s := startPackets p v (SMap.get (fun _ => []) (s.port p).streams v).length s
      match SMap.get (fun _ => []) (s.port p).going v with
      | [] => s
      | b :: l =>
        pumpVc p v n ((s.modPort p fun x => { x with going := SMap.set (fun _ => []) x.going v ((b :: l).drop 628) }).sendData p v
          (nextFrame (b :: l)))

/-- Every VC of a port started as far as it may. -/
def pump (p : Nat) (s : State) : State :=
  (List.range 16).foldl (fun s v => if s.vcHasPhase p v then pumpVc p v (s.replayRoom p) s else s) s

/-- The link key of the polder that owns a VC; empty when it holds none (R499, R504). -/
def vcKey (s : State) (p v : Nat) : List Byte :=
  SMap.get (fun _ => []) s.keys (s.getF (Reg.LNK_VC_CFG_POLDER p v) * 17 + 16)

/-- A packet put into a VC's transmit stream with the port's epoch, or its own when it answers a request (R411, R415); sealed
under the link key when SEALED is set (R504). -/
def sendLane (p v : Nat) (q : LanePkt) (s : State) : State :=
  let q := if q.resp then q else { q with lepoch := s.getF (Reg.LNK_PORT_EPOCH_LINK_EPOCH p) }
  let q := if q.isSealed then sealPkt q (s.vcKey p v) else q
  (s.modPort p fun x =>
    { x with streams := SMap.set (fun _ => []) x.streams v (SMap.get (fun _ => []) x.streams v ++ [q]) }).pump p

/-- The packet at the head of a VC's receive buffer. -/
def laneHead (s : State) (p v : Nat) : Option LanePkt := (SMap.get (fun _ => []) (s.port p).rx v).head?

/-- The head of a VC's receive buffer delivered: its units are owed, and paid in the next header (R417, R424). -/
def laneTake (p v : Nat) (s : State) : State :=
  match SMap.get (fun _ => []) (s.port p).rx v with
  | [] => s
  | q :: t =>
    let s := s.modPort p fun x =>
      { x with rx := SMap.set (fun _ => []) x.rx v t,
               owed := SMap.set (fun _ => 0) x.owed v (SMap.get (fun _ => 0) x.owed v + lanePktUnits q) }
    if s.portState p = 6 then s.sendControl p 0 [] else s

/-- The polder that owns a VC (R411). -/
def vcPolder (s : State) (p v : Nat) : Nat := s.getF (Reg.LNK_VC_CFG_POLDER p v)

/-- Whether the dike lets a packet of a VC reach a core: the core is of the polder that owns the VC (R373). -/
def laneDike (s : State) (p v core : Nat) : Bool := (s.core core).polder == s.vcPolder p v && decide ((s.core core).polder < 8)

/-- A packet dropped by the dike of a lane (R373). -/
def laneDrop (s : State) : State := s.bump Reg.MEM_CNT_DIKE_LANE_COUNT 1

/-- A packet of one kind at the head of a VC delivered to the core of this package that it names, over a route of that core's
slot: dropped by the dike when the core is of another polder, held while the slot does not own the route (R373, R417). -/
def laneDeliver (p v : Nat) (kind : LanePkt → Bool) (core : LanePkt → Nat) (route : LanePkt → State → Nat)
    (f : LanePkt → State → State) (s : State) : State :=
  match s.laneHead p v with
  | none => s
  | some q =>
    if !kind q then s
    else if !s.laneDike p v (core q) then (s.laneTake p v).laneDrop
    else if s.ownsRoute (core q) (route q s) then f q (s.laneTake p v)
    else s

/-- The lane port and VC a route of a die ends at (R204). -/
def routeLane (s : State) (die r : Nat) : Option (Nat × Nat) :=
  let d := s.route die r
  (routePort d).map fun p => (p, d.target % 16)

/-- What becomes of a command whose packet is to go out over a route: the error of a quarantined culvert (R443), of the port
(R418) or of a missing link key (R504); 0 when it may enter. -/
def routeStatus (s : State) (die r ptype : Nat) (isSealed : Bool) : Nat :=
  if s.routeQuarantined (s.route die r) then lnkEQuarantine
  else match s.routeLane die r with
    | none => 0
    | some (p, v) =>
      if s.laneStatus p ptype ≠ 0 then s.laneStatus p ptype
      else if isSealed && (s.vcKey p v).isEmpty then secENokey
      else 0

end State

end Sys2Proof.Machine
end

