-- ==== Sys2Proof/Machine/PipTables.lean ====
section
/-! DEFINITION. The PIP block's tables (ch 8): groups (R287), link ends and queues (R290 to R298), the stash and binding (R312 to
R315), weight versions (R316 to R323), and the answers an RX end sends (R296, R304, R327). -/

namespace Sys2Proof.Machine

/-- Status codes of the PIP block (R311). -/
def pipENogroup : Nat := 0x5001
def pipELink : Nat := 0x5002
def pipESeq : Nat := 0x5003
def pipERange : Nat := 0x5004
def pipENostash : Nat := 0x5005
def pipEVersion : Nat := 0x5006
def pipEStale : Nat := 0x5007
def pipESealed : Nat := 0x5008

/-- Whether sequence number `m` is older than `h`, modulo 2^32 (R295). -/
def seqOlder (m h : Nat) : Bool := decide (2 ^ 31 < (m + 2 ^ 32 - h % 2 ^ 32) % 2 ^ 32)

/-! ### Descriptors (R291): fields of a descriptor's 32 bytes read as one number -/

def ldRole (d : Nat) : Nat := bitsOf d 7 0
def ldBwd (d : Nat) : Bool := bitOf d 8
def ldInfer (d : Nat) : Bool := bitOf d 9
def ldGroup (d : Nat) : Nat := bitsOf d 23 16
def ldDepth (d : Nat) : Nat := bitsOf d 31 24
def ldSlotTiles (d : Nat) : Nat := bitsOf d 47 32
def ldParts (d : Nat) : Nat := bitsOf d 63 48
def ldConsumers (d : Nat) : Nat := bitsOf d 79 64
def ldPeer (d : Nat) : Nat := bitsOf d 88 80
def ldPeerPkg (d : Nat) : Nat := bitsOf d 109 96
def ldRxRoute (d : Nat) : Nat := bitsOf d 127 112
def ldBase (d : Nat) : Nat := bitsOf d 191 128

/-- Device address of the slot of entry `mb` (R293, R295). -/
def ldSlot (d mb : Nat) : Nat := ldBase d + mb % max 1 (ldDepth d) * (1 + ldSlotTiles d) * 2048

/-- Whether two ends make a link: each names the other, one is TX and the other RX, and they agree on KIND, INFER, DEPTH,
SLOT_TILES, PARTS and CONSUMERS (R290, R292). -/
def ldMatch (pkg l d pkg' l' d' : Nat) : Bool :=
  ldPeer d == l' && ldPeerPkg d == pkg' && ldPeer d' == l && ldPeerPkg d' == pkg &&
    ((ldRole d == 1 && ldRole d' == 2) || (ldRole d == 2 && ldRole d' == 1)) &&
    ldBwd d == ldBwd d' && ldInfer d == ldInfer d' && ldDepth d == ldDepth d' && ldSlotTiles d == ldSlotTiles d' &&
    ldParts d == ldParts d' && ldConsumers d == ldConsumers d'

namespace State

/-- The descriptor of a link end. -/
def linkDesc (s : State) (l : Nat) : Nat :=
  (List.range 8).foldl (fun v w => v + s.getF (Reg.PIP_LINK_DESC_WORD l w) * 2 ^ (32 * w)) 0

def linkEnd (s : State) (l : Nat) : LinkEnd := SMap.get (fun _ => LinkEnd.empty) s.links l

def modLink (l : Nat) (f : LinkEnd → LinkEnd) (s : State) : State :=
  { s with links := SMap.set (fun _ => LinkEnd.empty) s.links l (f (s.linkEnd l)) }

def linkHead (s : State) (l : Nat) : Nat := s.getF (Reg.PIP_LINK_HEAD_HEAD l)
def linkEpoch (s : State) (l : Nat) : Nat := s.getF (Reg.PIP_LINK_STATE_EPOCH l)
def linkOpen (s : State) (l : Nat) : Bool := s.getF (Reg.PIP_LINK_STATE_STATE l) == 1

/-- The polder of a group, and of a link end's group. -/
def groupPolder (s : State) (g : Nat) : Nat := s.getF (Reg.PIP_GROUP_CFG_POLDER g)
def linkPolder (s : State) (l : Nat) : Nat := s.groupPolder (ldGroup (s.linkDesc l))

/-- The group of a core: the one its cluster belongs to (R287). -/
def groupOf (s : State) (i : Nat) : Option Nat :=
  (List.range 256).find? fun g => s.flag (Reg.PIP_GROUP_CFG_VALID g) &&
    bitOf (s.getF (Reg.PIP_GROUP_CLUSTERS_MEMBERS g (clusterOf i / 32))) (clusterOf i % 32)

/-- The groups of a polder. -/
def groupsOf (s : State) (p : Nat) : List Nat :=
  (List.range 256).filter fun g => s.flag (Reg.PIP_GROUP_CFG_VALID g) && s.groupPolder g == p

/-- The link ends, in any role, of a polder's groups. -/
def linksOf (s : State) (p : Nat) : List Nat :=
  (List.range 512).filter fun l => ldRole (s.linkDesc l) != 0 && s.flag (Reg.PIP_GROUP_CFG_VALID (ldGroup (s.linkDesc l))) &&
    s.linkPolder l == p

/-! ### Ways to a peer package (R292, R414) -/

/-- The lowest STAGE port that is ACTIVE with the peer package of a link end as its partner and has a VC that the end's
polder owns, with the lowest such VC. -/
def stagePath (s : State) (l : Nat) : Option (Nat × Nat) :=
  let d := s.linkDesc l
  (List.range 16).findSome? fun p =>
    if s.getF (Reg.LNK_PORT_CFG_ROLE p) = 1 ∧ s.portState p = 6 ∧ s.getF (Reg.LNK_PEER_PKG_ID p) = ldPeerPkg d then
      ((List.range 16).find? fun v => s.vcPolder p v == s.linkPolder l).map fun v => (p, v)
    else none

/-- A PIP packet from a link end to its peer (R413, R414). -/
def pipPkt (s : State) (l core ptype aux : Nat) (pl : List Byte) : LanePkt :=
  let d := s.linkDesc l
  ⟨ptype, false, false, 0, ldPeerPkg d, ldPeer d, laneSrc l core s.pkgId, aux, pl⟩

/-- An RX end tells its TX end its HEAD and epoch (R296, R327), once a path to it is open. -/
def sendHead (l : Nat) (s : State) : State :=
  let d := s.linkDesc l
  if ldPeerPkg d = s.pkgId then { s with net := s.net ++ [.pipHead (ldPeer d) (s.linkHead l) (s.linkEpoch l)] }
  else match s.stagePath l with
    | some (p, v) =>
      (s.modLink l fun x => { x with unsent := false }).sendLane p v (s.pipPkt l 0 0x12 (s.linkHead l + s.linkEpoch l * 2 ^ 32) [])
    | none => s.modLink l fun x => { x with unsent := true }

/-- HEAD notices that could not go out are tried again. -/
def retryHeads (s : State) : State :=
  (s.links.map (·.1)).foldl (fun s l => if (s.linkEnd l).unsent then s.sendHead l else s) s

/-! ### The stash (R312, R315) -/

/-- The stash index of a micro-batch. -/
def stashIdx (infer : Bool) (mb : Nat) : Nat := if infer then 64 + mb % 16 else mb % 64

def stashAt (s : State) (g k : Nat) : Option StashEntry := SMap.get (fun _ => none) s.stash (g * 80 + k)

def setStash (g k : Nat) (e : Option StashEntry) (s : State) : State :=
  { s with stash := SMap.set (fun _ => none) s.stash (g * 80 + k) e }

/-- The entry a group's stash holds for a micro-batch. -/
def stashOf (s : State) (g : Nat) (infer : Bool) (mb : Nat) : Option StashEntry :=
  (s.stashAt g (stashIdx infer mb)).filter fun e => e.mbSeq == mb

/-! ### Versions (R316 to R322) -/

/-- State of a version slot: 0 FREE, 1 FILLING, 2 FIRED, 3 CURRENT, 4 OLD. -/
def verState (s : State) (g j : Nat) : Nat := s.getF (Reg.PIP_VER_STATE g j)
def verNumber (s : State) (g j : Nat) : Nat := s.getF (Reg.PIP_VER_NUMBER g j)

/-- The slot in a state, lowest first. -/
def verIn (s : State) (g st : Nat) : Option Nat := (List.range 4).find? fun j => s.verState g j == st

/-- The live slot that holds a version number. -/
def verSlot (s : State) (g n : Nat) : Option Nat :=
  (List.range 4).find? fun j => s.verState g j != 0 && s.verNumber g j == n

/-- An OLD version without references retires (R320). -/
def retireVer (g j : Nat) (s : State) : State :=
  if s.verState g j = 4 ∧ s.getF (Reg.PIP_VER_REFS g j) = 0 then
    (s.setF (Reg.PIP_VER_STATE g j) 0).bump (Reg.PIP_CNT_RETIRE_COUNT g) 1
  else s

/-- A stash entry freed: its version's REFS falls, and the version may retire (R308, R320). -/
def freeStash (g k : Nat) (s : State) : State :=
  match s.stashAt g k with
  | none => s
  | some e =>
    ((s.setStash g k none).setF (Reg.PIP_VER_REFS g e.vslot) (s.getF (Reg.PIP_VER_REFS g e.vslot) - 1)).retireVer g e.vslot

/-- What binding finds (R313). -/
inductive BindTo where
  | slot (j : Nat)
  | wait
  | refuse
  deriving DecidableEq, Repr

/-- The version a group binds a micro-batch of a tag to (R313). A group without a CURRENT version, and a tag that no live
version holds and none will, are refused (log 21). -/
def bindTo (s : State) (g vtag : Nat) : BindTo :=
  match s.verIn g 3 with
  | none => .refuse
  | some c =>
    if s.getF (Reg.PIP_GROUP_CFG_BIND g) = 0 then .slot c
    else match s.verSlot g vtag with
      | some j => if s.verState g j = 1 ∨ s.verState g j = 2 then .wait else .slot j
      | none => if s.verNumber g c < vtag then .wait else .refuse

/-- A binding made: a stash entry, and one more reference (R312, R313). -/
def makeBinding (g j : Nat) (infer : Bool) (e : StashEntry) (s : State) : State :=
  let s := s.setStash g (stashIdx infer e.mbSeq) (some { e with number := s.verNumber g j, vslot := j, tide := s.now, count := 0 })
  (s.setF (Reg.PIP_VER_REFS g j) (s.getF (Reg.PIP_VER_REFS g j) + 1)).bump (Reg.PIP_CNT_BIND_COUNT g) 1

/-- The delta areas of a version slot, newest first; 15 is unused. -/
def deltasOf (s : State) (g j : Nat) : List Nat :=
  let v := s.getF (Reg.PIP_VER_DELTAS g j)
  [bitsOf v 11 8, bitsOf v 7 4, bitsOf v 3 0]

/-- A delta area that no live version uses (R322). -/
def freeDelta (s : State) (g : Nat) : Option Nat :=
  [2, 3, 4].find? fun a => !(List.range 4).any fun j =>
    (s.verState g j == 4 && (s.deltasOf g j).contains a) ||
      ((s.verState g j == 1 || s.verState g j == 2) && (SMap.get (fun _ => (⟨0, 15⟩ : Firing)) s.firings (g * 4 + j)).delta == a)

/-- A slot becomes FILLING for version `v` with its areas (R318, R321, R322); `none` while no slot, or in DELTA form no delta
area, is free (log 22). -/
def allocVer (g v : Nat) (s : State) : Option State :=
  match ((List.range (s.getF (Reg.PIP_GROUP_CFG_MAXV g) + 1)).find? fun j => s.verState g j == 0) with
  | none => none
  | some j =>
    let put (area delta : Nat) : State :=
      let s := ((s.setF (Reg.PIP_VER_NUMBER g j) v).setF (Reg.PIP_VER_REFS g j) 0).setF (Reg.PIP_VER_FULL_AREA g j) area
      let s := (s.setF (Reg.PIP_VER_DELTAS g j) 0xFFF).setF (Reg.PIP_VER_STATE g j) 1
      { s with firings := SMap.set (fun _ => (⟨0, 15⟩ : Firing)) s.firings (g * 4 + j) ⟨0, delta⟩ }
    if s.flag (Reg.PIP_GROUP_CFG_FORM g) then
      (s.freeDelta g).map fun a =>
        put (match s.verIn g 3 with
          | some c => if s.getF (Reg.PIP_VER_FULL_AREA g c) = 0 then 1 else 0
          | none => 0) a
    else some (put j 15)

/-- The kiln of a stack reports the firing of version `v` complete (R319); the slot is FIRED once every stack of SHERD_MASK
has. -/
def sherdDone (g v stack : Nat) (s : State) : State :=
  match s.verSlot g v with
  | none => s
  | some j =>
    let f := SMap.get (fun _ => (⟨0, 15⟩ : Firing)) s.firings (g * 4 + j)
    let f := { f with done := f.done ||| 2 ^ stack }
    let s := { s with firings := SMap.set (fun _ => (⟨0, 15⟩ : Firing)) s.firings (g * 4 + j) f }
    let mask := s.getF (Reg.PIP_GROUP_SHERDS_SHERD_MASK g)
    if s.verState g j = 1 ∧ mask &&& f.done = mask then s.setF (Reg.PIP_VER_STATE g j) 2 else s

/-- The oldest FIRED version of a group. -/
def firedSlot (s : State) (g : Nat) : Option Nat :=
  ((List.range 4).filter fun j => s.verState g j == 2).foldl (fun (b : Option Nat) j => match b with
    | some k => if s.verNumber g j < s.verNumber g k then some j else b
    | none => some j) none

/-- A FIRED version becomes CURRENT and the previous CURRENT becomes OLD (R319); in DELTA form every OLD version is then read
through the new full area and one delta more (R322). -/
def commitOne (g : Nat) (s : State) : State :=
  match s.firedSlot g with
  | none => s
  | some n =>
    let delta := (SMap.get (fun _ => (⟨0, 15⟩ : Firing)) s.firings (g * 4 + n)).delta
    let area := s.getF (Reg.PIP_VER_FULL_AREA g n)
    let isDelta := s.flag (Reg.PIP_GROUP_CFG_FORM g)
    let prev := s.verIn g 3
    let old (j : Nat) (s : State) : State :=
      if isDelta then
        (s.setF (Reg.PIP_VER_FULL_AREA g j) area).setF (Reg.PIP_VER_DELTAS g j)
          (delta * 256 + s.getF (Reg.PIP_VER_DELTAS g j) / 16)
      else s
    let s := { s with firings := SMap.erase s.firings (g * 4 + n) }
    let s := match prev with
      | some c => s.setF (Reg.PIP_VER_STATE g c) 4
      | none => s
    let s := (List.range 4).foldl (fun s j => if s.verState g j = 4 then old j s else s) s
    let s := (s.setF (Reg.PIP_VER_STATE g n) 3).bump (Reg.PIP_CNT_COMMIT_COUNT g) 1
    match prev with
    | some c => s.retireVer g c
    | none => s

/-- Every version of a group that is FIRED at a turn start committed, oldest first. -/
def commitGroup (g : Nat) (s : State) : State := (List.range 4).foldl (fun s _ => s.commitOne g) s

/-- The point of no return moves to step `n` (R325). -/
def noReturn (p n : Nat) (s : State) : State :=
  let v := s.getF (Reg.PIP_POLDER_NORETURN_STEP p)
  if v = 0xFFFFFFFF ∨ v < n then s.setF (Reg.PIP_POLDER_NORETURN_STEP p) n else s

/-! ### Consumption (R296, R298) -/

/-- HEAD moves past consumed numbers. -/
def advanceHead (l : Nat) : Nat → State → State
  | 0, s => s
  | n + 1, s =>
    let h := s.linkHead l
    if (s.linkEnd l).eaten.contains h then
      advanceHead l n ((s.setF (Reg.PIP_LINK_HEAD_HEAD l) (h + 1)).modLink l fun x => { x with eaten := x.eaten.filter (· != h) })
    else s

/-- A completed TAKE of an entry: with the last of CONSUMERS the entry is consumed, its slot is free, and the TX end is
told. -/
def takeEntry (l mb : Nat) (s : State) : State :=
  match (s.linkEnd l).queue.find? fun q => q.mbSeq == mb with
  | none => s
  | some q =>
    if q.takes + 1 < ldConsumers (s.linkDesc l) then
      s.modLink l fun x => { x with queue := x.queue.map fun r => if r.mbSeq = mb then { r with takes := r.takes + 1 } else r }
    else
      let s := (s.modLink l fun x =>
        { x with queue := x.queue.filter (fun r => r.mbSeq != mb), eaten := x.eaten ++ [mb] }).bump (Reg.PIP_CNT_ENTRIES_COUNT l) 1
      (s.advanceHead l 65).sendHead l

/-- What a completed command counts as a consumer: a TAKE that completed with success (R298, log 23). -/
def countTake (c : CmdWord) (status : Nat) (s : State) : State :=
  if opcodeOf c = 0x49 ∧ qMode c = 0 ∧ status = 0 then s.takeEntry (qLink c) (c.u32 0x10) else s

end State

end Sys2Proof.Machine
end

