-- ==== Sys2Proof/Machine/ColTables.lean ====
section
/-! DEFINITION. The collective engines' tables (ch 12): operation descriptors, pull lists and run lists (R453 to R455, R470), paths
(R460), the service set (R472), failures and abandonment (R475, R476, R480), digests (R464), and what holds a core's tiles
back (R458). -/

namespace Sys2Proof.Machine

/-- Status codes of the COL block (R480). -/
def colEGlaze : Nat := 0x6001
def colESealed : Nat := 0x6002
def colERoute : Nat := 0x6003

/-- Key of operation `n` of polder `p` on CE[j]. -/
def opKey (j p n : Nat) : Nat := (j * 8 + p) * 1024 + n

namespace State

/-! ### Reading the tables -/

/-- Entries of a pull list (R455). -/
def readPulls (s : State) (base n : Nat) : List PullEntry := (List.range n).map fun k =>
  let v := s.memNat (base + 16 * k) 16
  ⟨bitsOf v 12 0, bitsOf v 20 13, bitsOf v 28 21, bitsOf v 42 29, bitsOf v 56 43, bitsOf v 79 64, bitsOf v 99 80, bitsOf v 103 100⟩

/-- Entries of a run list (R470). -/
def readRuns (s : State) (base n : Nat) : List PermRun := (List.range n).map fun k =>
  let l := s.bytes (base + 32 * k) 32
  ⟨numAt l 0 8, numAt l 8 8, numAt l 16 2, numAt l 18 4⟩

/-- Entries of a member table (R454). -/
def readMembers (s : State) (base n : Nat) : List (Nat × Nat) := (List.range n).map fun k =>
  let v := s.memNat (base + 4 * k) 4
  (bitsOf v 13 0, bitsOf v 21 14)

/-- A descriptor with its tables (R453); `none` for KIND 0. A PERMUTE operation does not run until it is started. -/
def readOp (s : State) (a : Nat) : Option ColOp :=
  let l := s.bytes a 64
  let kind := numAt l 0 1
  let list := numAt l 0x20 8
  let n := numAt l 0x28 2
  if kind = 0 ∨ 3 < kind then none
  else some
    { kind := kind, algo := numAt l 1 1 % 4, owner := bitOf (numAt l 1 1) 2, digest := bitOf (numAt l 1 1) 3, group := numAt l 2 1
      vc := numAt l 3 1 % 16, m := numAt l 4 2, self := numAt l 6 2, run := numAt l 8 2, postMul := numAt l 10 2
      postExp := signed 8 (numAt l 12 1), tiles := numAt l 0x14 4, inTiles := numAt l 0x2C 4, src := numAt l 0x30 8
      dest := numAt l 0x38 8, members := s.readMembers (numAt l 0x18 8) (numAt l 4 2)
      pulls := if kind = 1 then s.readPulls list n else [], runs := if kind = 3 then s.readRuns list n else []
      active := kind != 3, step := numAt l 0x10 4, code := 0, started := [], pos := [], glazed := [], contrib := [], results := []
      again := [], done := [], owing := [], digests := [], recs := [], repairs := [], fixing := 0, sent := 0, acked := 0, came := 0 }

/-- Operation `n` of polder `p` on CE[j]. -/
def colOp (s : State) (j p n : Nat) : Option ColOp := SMap.get (fun _ => none) s.ops (opKey j p n)

def setOp (j p n : Nat) (o : Option ColOp) (s : State) : State := { s with ops := SMap.set (fun _ => none) s.ops (opKey j p n) o }

def modOp (j p n : Nat) (f : ColOp → ColOp) (s : State) : State := s.setOp j p n ((s.colOp j p n).map f)

/-- The operations of a polder, as (CE, number). -/
def opsOf (s : State) (p : Nat) : List (Nat × Nat) :=
  (s.ops.filter fun e => e.1 / 1024 % 8 == p).map fun e => (e.1 / 8192, e.1 % 1024)

/-- A polder's operations forgotten. -/
def clearOps (p : Nat) (s : State) : State := { s with ops := SMap.clearIf s.ops fun k => k / 1024 % 8 == p }

/-- The operation tables of a polder read, as at a job's installation (R476). A PERMUTE operation of the job's first step runs at
once; the others wait for a re-shard (R471). -/
def loadOps (p first : Nat) (s : State) : State :=
  let s := s.clearOps p
  (List.range 2).foldl (fun s j =>
    (List.range (s.getF (Reg.COL_OP_COUNT_COUNT j p))).foldl (fun s n =>
      s.setOp j p n ((s.readOp (s.getF (Reg.COL_OP_BASE_ADDR j p) + 64 * n)).map fun o =>
        { o with active := o.active || decide (o.step ≤ first) })) s) s

end State

/-! ### Paths (R453, R454, R460) -/

/-- The run of a bucket tile, and its owner. -/
def ColOp.runOf (o : ColOp) (t : Nat) : Nat := t / max 1 o.run
def ColOp.ownerOf (o : ColOp) (t : Nat) : Nat := o.runOf t % max 1 o.m

/-- Whether a run travels in descending order. -/
def ColOp.descends (o : ColOp) (t : Nat) : Bool := o.algo == 1 && o.runOf t % 2 == 1

/-- Member `k` after this one, modulo M. -/
def ColOp.ahead (o : ColOp) (k : Nat) : Nat := (o.self + k) % max 1 o.m

/-- The next member on a ring, in the run's direction. -/
def ColOp.nextOf (o : ColOp) (t : Nat) : Nat := o.ahead (if o.descends t then o.m - 1 else 1)

/-- The rotated index in a tree, and the member with one. -/
def ColOp.rot (o : ColOp) (t : Nat) : Nat := (o.self + o.m - o.ownerOf t) % max 1 o.m
def ColOp.unrot (o : ColOp) (t r : Nat) : Nat := (r + o.ownerOf t) % max 1 o.m

/-- The members a partial of a tile comes to this member from, by their number. -/
def ColOp.partials (o : ColOp) (t : Nat) : Nat :=
  if o.algo = 2 then ([2 * o.rot t + 1, 2 * o.rot t + 2].filter fun r => decide (r < o.m)).length
  else if o.m ≤ 1 ∨ (o.ownerOf t + 1) % o.m = o.self ∧ o.descends t = false ∨ (o.ownerOf t + o.m - 1) % o.m = o.self ∧ o.descends t then 0
  else 1

/-- The member a partial of a tile goes to from a member that does not own its run. -/
def ColOp.upOf (o : ColOp) (t : Nat) : Nat := if o.algo = 2 then o.unrot t ((o.rot t - 1) / 2) else o.nextOf t

/-- The members a result of a tile goes to from this one. -/
def ColOp.downOf (o : ColOp) (t : Nat) : List Nat :=
  if o.algo = 2 then ([2 * o.rot t + 1, 2 * o.rot t + 2].filter fun r => decide (r < o.m)).map (o.unrot t)
  else if o.m ≤ 1 ∨ o.nextOf t = o.ownerOf t then []
  else [o.nextOf t]

/-- The ports of CE[j] that link directly to a member. -/
def ColOp.portsTo (o : ColOp) (j m : Nat) : List Nat :=
  (List.range 8).filter (fun n => bitOf (o.members.getD m (0, 0)).2 n) |>.map fun n => 8 * j + n

/-- The port that a run takes towards a member (R460). -/
def ColOp.portOf (o : ColOp) (j m run : Nat) : Option Nat :=
  let ps := o.portsTo j m
  ps[run / 2 % max 1 ps.length]?

/-- The entry of a pull list that holds a bucket tile, and the tile's place in it. -/
def ColOp.entryOf (o : ColOp) (t : Nat) : Option (PullEntry × Nat) :=
  (o.pulls.find? fun e => decide (e.index ≤ t) && decide (t < e.index + e.tiles)).map fun e => (e, t - e.index)

/-- An operation back at the beginning of a step (R476). -/
def ColOp.restart (o : ColOp) (n : Nat) : ColOp :=
  { o with step := n, code := 0, started := [], pos := [], glazed := [], contrib := [], results := [], again := [], done := []
           owing := o.owing.filter fun e => decide (e.1 < n), digests := o.digests.filter (· < n), recs := o.recs.filter fun r => decide (r.step < n) }

/-- The kiln that a bucket tile goes to. -/
def ColOp.kilnOf (o : ColOp) (j t : Nat) : Option Nat := (o.entryOf t).map fun e => 8 * j + e.1.kiln

namespace State

/-! ### Failures (R475, R476, R480) -/

/-- Whether a step of a polder has passed its point of no return (R325). -/
def pastReturn (s : State) (p n : Nat) : Bool :=
  let v := s.getF (Reg.PIP_POLDER_NORETURN_STEP p)
  v != 0xFFFFFFFF && decide (n ≤ v)

/-- The MGC asks the replicas for a tile of a parameter sherd, once (R157, R345). -/
def askRepair (p a : Nat) (s : State) : State :=
  if s.power.fixes.contains (p, a) then s
  else ({ s with power := { s.power with fixes := s.power.fixes ++ [(p, a)] } } : State).send (.repair p a)

/-- The MGC is to restore a polder (R536). -/
def dueRestore (p : Nat) (s : State) : State :=
  if s.power.due.contains p ∨ 8 ≤ p then s else { s with power := { s.power with due := s.power.due ++ [p] } }

/-- An operation fails with a status: captured, reported. -/
def markFailed (j p n code : Nat) (s : State) : State :=
  let s := s.modOp j p n fun o => { o with code := code }
  if s.flag (Reg.COL_ERR_LAST_VALID j) then s
  else
    (((s.setF (Reg.COL_ERR_LAST_VALID j) 1).setF (Reg.COL_ERR_LAST_POLDER j) p).setF (Reg.COL_ERR_LAST_OP j) n).setF
      (Reg.COL_ERR_LAST_CODE j) code

/-- An operation fails and its step is abandoned, or, past its point of no return, the polder is restored (R475). -/
def failOp (j p n code : Nat) (s : State) : State :=
  match s.colOp j p n with
  | none => s
  | some o =>
    if o.code ≠ 0 then s
    else
      let s := s.markFailed j p n code
      if s.pastReturn p o.step then s.dueRestore p else s.quiesce p .collective

/-- Packets of a VC that hold partials, results, digests or gathered tiles of step `n` or a later one dropped (R476). -/
def dropColVc (n q v : Nat) (s : State) : State :=
  let l := SMap.get (fun _ => []) (s.port q).rx v
  let gone := l.filter fun k => [0x20, 0x21, 0x22, 0x23].contains k.ptype && decide (n ≤ k.aux % 2 ^ 32)
  if gone.isEmpty then s
  else
    (s.modPort q fun x =>
      { x with rx := SMap.set (fun _ => []) x.rx v (l.filter fun k => !gone.contains k),
               owed := SMap.set (fun _ => 0) x.owed v (gone.foldl (fun m k => m + lanePktUnits k) (SMap.get (fun _ => 0) x.owed v)) }).bump
      (Reg.COL_CNT_STALE_COUNT (q / 8)) gone.length

/-- Step `n` of a polder is abandoned on the collective engines (R476); what waits in its VC buffers of that step and later ones is
dropped. -/
def abandonCol (p n : Nat) (s : State) : State :=
  let s := (List.range 16).foldl (fun s q => (List.range 16).foldl (fun s v => if s.vcPolder q v = p then s.dropColVc n q v else s) s) s
  (s.opsOf p).foldl (fun s k => s.modOp k.1 p k.2 fun o =>
    if o.kind = 3 then o else if n ≤ o.step then o.restart n else o) s

/-- The operation that a collective packet belongs to; none for a fetch or write-back (R457). -/
def pktOp (t dst aux : Nat) : Option Nat :=
  if t = 0x24 then some (aux % 2048)
  else if t ∈ [0x20, 0x21, 0x22, 0x23, 0x25] then some (dst % 2048)
  else none

/-- The operations of a port's polders that lose a packet when the port goes down (R475): packets that wait to start, packets
received, and those whose first frame is unacknowledged or not yet followed by the rest. -/
def lostOps (s : State) (p : Nat) : List (Nat × Nat) :=
  let x := s.port p
  let heads : List (Nat × Nat × Nat × Nat) :=
    (x.streams ++ x.rx).flatMap (fun e => e.2.map fun q => (e.1, q.ptype, q.dst, q.aux)) ++
    (x.replay.filter fun f => f.first == 0).map (fun f => (f.vc, numAt f.payload 0 1, numAt f.payload 8 8, numAt f.payload 24 8)) ++
    x.chunk.map fun e => (e.1, numAt e.2 0 1, numAt e.2 8 8, numAt e.2 24 8)
  heads.filterMap fun h => (pktOp h.2.1 h.2.2.1 h.2.2.2).map fun n => (s.vcPolder p h.1, n)

/-- The operations fail that lose packets on a port (R475). -/
def failLost (p : Nat) (l : List (Nat × Nat)) (s : State) : State := l.foldl (fun s k => s.failOp (p / 8) k.1 k.2 lnkEDown) s

/-! ### Sending -/

/-- A packet of an operation sent to a package on a port; where the port does not take it, the operation fails (R418, R475,
R504). -/
def colOut (j p n port pkg : Nat) (q : LanePkt) (s : State) : State :=
  match s.colOp j p n with
  | none => s
  | some o =>
    let st := s.laneStatus port q.ptype
    if st ≠ 0 then s.failOp j p n st
    else if q.isSealed && (s.vcKey port o.vc).isEmpty then s.failOp j p n secENokey
    else s.sendLane port o.vc { q with dstPkg := pkg, src := laneSrc 0 0 s.pkgId }

/-- A packet of an operation sent to a member on the port of a run; without a direct link the operation fails (R454, R480). -/
def colSend (j p n m run : Nat) (q : LanePkt) (s : State) : State :=
  match s.colOp j p n with
  | none => s
  | some o => match o.portOf j m run with
    | none => s.failOp j p n colERoute
    | some port => s.colOut j p n port (o.members.getD m (0, 0)).1 q

/-- A tile with its metadata record, as a packet's payload (R457), and back. -/
def tilePayload (t : Tile) : List Byte := bytesLE 8 t.tag.toNat ++ bytesLE 8 t.glaze.toNat ++ padTo 2048 t.data

def payloadTile (l : List Byte) : Tile := ⟨padTo 2048 (l.drop 16), BitVec.ofNat 64 (numAt l 0 8), BitVec.ofNat 64 (numAt l 8 8)⟩

/-- A tile packet of an operation. -/
def colPkt (ptype n t step hops : Nat) (c : ColTile) : LanePkt :=
  ⟨ptype, c.isSealed, false, 0, 0, n + t * 2048, 0, step + hops * 2 ^ 32, tilePayload c.tile⟩

/-! ### The service set (R472) -/

/-- Whether a set of a die's tables has a route to the channel of an address, or to its stack's cache port. -/
def setReaches (s : State) (die k a : Nat) : Bool :=
  match region a with
  | .dram st ch => (s.setRoutes die k).any fun r =>
      let d := s.route die r
      (d.kind == 0 && d.target == st * 32 + ch) || (d.kind == 1 && d.target == st)
  | _ => false

/-- Whether CE[j] may reach an address for polder `p` now: in a slot of a core of `p` that has the service set, at any time while
the wheel is stopped. -/
def serviceOk (s : State) (j p a : Nat) : Bool :=
  let k := s.getF (Reg.COL_SERVICE_SET j p)
  if (s.wheel p).runs then (s.coresOf p).any fun i => s.curSet i == k && s.setReaches (dieOf i) k a
  else (List.range 4).any fun d => s.setReaches d k a

/-- The status of an access to device memory by CE[j]: unmapped, the dike, or 0. -/
def colAccess (s : State) (p a : Nat) : Nat :=
  match region a with
  | .dram _ _ => if s.ownsAddr p a then 0 else memEDike
  | _ => memEUnmapped

/-- A status of an access, with a dike failure counted. -/
def colRefuse (p a st : Nat) (s : State) : State := if st = memEDike then s.dikeFail 2 p a else s

/-! ### Digests (R464, R465) -/

def subKey (j g n k : Nat) : Nat := ((j * 256 + g) * 2 ^ 32 + n) * 8 + k

/-- A sub-digest of a group and step for stack 8j + k. -/
def sub (s : State) (j g n k : Nat) : DWord := SMap.get (fun _ => 0) s.subs (subKey j g n k)

/-- The glazes a kiln reports for a tile it has applied, folded in (R464). -/
def foldGlaze (j g n k layer t : Nat) (gw gm1 gm2 : DWord) (s : State) : State :=
  let r := (t + 7 * layer) % 64
  let d := s.sub j g n k ^^^ gw.rotateLeft r ^^^ gm1.rotateLeft ((r + 1) % 64) ^^^ gm2.rotateLeft ((r + 2) % 64)
  { s with subs := SMap.set (fun _ => 0) s.subs (subKey j g n k) d }

/-- The sub-digests of a group and step zeroed. -/
def clearSubs (j g n : Nat) (s : State) : State := { s with subs := SMap.clearRange s.subs (subKey j g n 0) (subKey j g n 8) }

/-! ### Buffers -/

/-- Frames of a polder's contribution share in use, and of its result share (R451). -/
def contribUsed (s : State) (j p : Nat) : Nat :=
  s.ops.foldl (fun n e => if e.1 / 1024 = j * 8 + p then n + (match e.2 with
    | some o => o.contrib.length
    | none => 0) else n) 0

def resultUsed (s : State) (j p : Nat) : Nat :=
  s.ops.foldl (fun n e => if e.1 / 1024 = j * 8 + p then n + (match e.2 with
    | some o => o.results.length
    | none => 0) else n) 0

/-! ### The end of a step (R463) -/

/-- Whether a REDUCE operation has pulled and is done with every tile of its step, or a GATHER operation with every tile. -/
def opDone (o : ColOp) : Bool :=
  decide (o.tiles ≤ o.done.length) &&
    (o.kind != 1 || (List.range o.pulls.length).all fun k => match o.pulls[k]? with
      | some e => decide (e.tiles ≤ SMap.get (fun _ => 0) o.pos k)
      | none => true)

/-- The operation goes on to its next step when it may; a step of a digest operation is then to be compared (R465). -/
def advanceOp (j p n : Nat) (s : State) : State :=
  s.modOp j p n fun o =>
    if o.kind = 3 ∨ o.code ≠ 0 ∨ !opDone o then o
    else
      { o with step := o.step + 1, started := [], pos := [], glazed := [], contrib := [], results := [], again := [], done := [], sent := 0
               digests := if o.kind = 1 && o.digest && !o.owner then o.digests ++ [o.step] else o.digests }

/-! ### Pull slots (R458) -/

/-- A slot of a core starts: the pull entries whose ROUTE it owns have started. -/
def markPulls (i : Nat) (s : State) : State :=
  (s.opsOf (s.core i).polder).foldl (fun s k => s.modOp k.1 (s.core i).polder k.2 fun o =>
    { o with started := (List.range o.pulls.length).filter fun e =>
        o.started.contains e || (match o.pulls[e]? with
          | some x => x.core == i && s.ownsRoute i x.route
          | none => false) }) s

/-- The tiles of a core that a started entry has still to pull: its commands that write them wait. -/
def pullTiles (s : State) (i : Nat) : List Nat :=
  s.ops.flatMap fun e => match e.2 with
    | none => []
    | some o => if o.code ≠ 0 ∨ e.1 / 1024 % 8 ≠ (s.core i).polder then []
      else o.started.flatMap fun k => match o.pulls[k]? with
        | some x => if x.core = i then
            (List.range x.tiles).filter (fun n => decide (SMap.get (fun _ => 0) o.pos k ≤ n)) |>.map fun n => (x.tile + n) % 192
          else []
        | none => []

end State

end Sys2Proof.Machine
end

