-- ==== Sys2Proof/Machine/Issue.lean ====
section
/-! DEFINITION. Commands entering the queues: by ISSUE (R89, R91, R95, R96, R101) and by the list dispatcher (R97 to R100). -/

namespace Sys2Proof.Machine

namespace Core

/-- Commands of one engine waiting in its queue, VEXTs among them (R85). -/
def queueLen (c : Core) (e : Engine) : Nat := (c.queued.filter fun q => engineOf q.cmd == e).length

/-- Whether the queue of a command's engine is full: 16 commands (R85, R91). -/
def queueFull (c : Core) (cmd : CmdWord) : Bool := decide (16 ≤ c.queueLen (engineOf cmd))

/-- A sequence number that belongs to a command not yet complete. -/
def seqOpen (c : Core) (q : BitVec 16) : Bool :=
  c.queued.any (fun e => e.seq == q && !e.isExt) || c.sb.any (fun e => e.q.seq == q)

/-- Whether the command with a sequence number is complete (R101). -/
def seqComplete (c : Core) (q : BitVec 16) : Bool :=
  let d := c.nextSeq - q
  if d = 0 then false else decide (32768 < d.toNat) || !c.seqOpen q

/-- The oldest incomplete number, or the next one to be assigned (CORE_SEQ). -/
def oldestOpen (c : Core) : BitVec 16 :=
  match c.sb, c.queued with
  | [], [] => c.nextSeq
  | [], q :: _ => q.seq
  | e :: t, _ => t.foldl (fun m x => if (c.nextSeq - m).toNat < (c.nextSeq - x.q.seq).toNat then x.q.seq else m) e.q.seq

/-- The tags a matrix command with LAST places (R115, R244). -/
def newTags (op : Nat) (cmd : CmdWord) : List Nat :=
  if !cmdLast cmd then []
  else if op = 0x10 then [cmd.u8 4]
  else if op = 0x11 then (List.range 4).map fun k => (cmd.u8 4 + k) % 256
  else []

/-- R107 on the tags produced and not yet consumed: none twice, no more than eight. -/
def tagsOk (l : List Nat) : Bool := decide (l.length ≤ 8) && l.eraseDups.length == l.length

/-- The tags left when a VSTREAM has consumed its own, of which each must be among the first `n`; `none` when that breaks R107. -/
def consumeTags (n : Nat) (tags used : List Nat) : Option (List Nat) :=
  if used.all (tags.take n).contains then
    (let l := (tags.take n).filter (fun t => !used.contains t) ++ tags.drop n
    if tagsOk l then some l else none)
  else none

/-- What a queued command consumes (R124); a VSTREAM that fails under R96 nothing. -/
def usedTags (q : QEntry) : List Nat := if q.op = 0x20 ∧ !q.bad then vsTags q.cmd (vsStages q.cmd q.ext) else []

/-- What entering a queue came to: the core with the number X[d] receives, or a case of undefined behaviour. -/
inductive PushRes where
  | ok (c : Core) (n : BitVec 16)
  | undef (case : String)

/-- The VSTREAM last issued to the vector queue. -/
def lastVector (c : Core) : Option QEntry := (c.queued.filter fun q => engineOf q.cmd == Engine.vector).getLast?

/-- The VEXT of the VSTREAM before it: it takes no number, and what the VSTREAM consumes is known (R96). -/
def pushVext (c : Core) (v2 : Bool) (cmd : CmdWord) : PushRes :=
  match c.lastVector with
  | none => .ok c 0
  | some v =>
    match consumeTags c.extTags c.ftqTags (usedTags { v with ext := some cmd }) with
    | none => .undef "R107"
    | some tags => .ok { c with queued := c.queued ++ [⟨cmd, v.seq, v2, true, none, false⟩], extWait := false, ftqTags := tags } v.seq

/-- The tags after a command of its own number enters its queue; while a VSTREAM waits for its extension, what it consumes is not
known, and R107 is checked once it is. -/
def tagsAfter (c : Core) (q : QEntry) (opensExt : Bool) : Option (List Nat) :=
  if engineOf q.cmd == .vector then
    (if opensExt then some c.ftqTags else consumeTags c.ftqTags.length c.ftqTags (usedTags q))
  else
    let l := c.ftqTags ++ newTags q.op q.cmd
    if c.extWait || tagsOk l then some l else none

/-- Whether a matrix command breaks an open MATW chain (R246). -/
def breaksMatw (c : Core) (q : QEntry) : Bool :=
  c.matwOpen && [0x10, 0x11, 0x12].contains q.op && !(q.op == 0x11 && cmdChain q.cmd)

/-- A command put in its queue. A VEXT directly after a VSTREAM with EXT extends it and takes no number; any other command of the
vector queue there makes both fail (R96), and then opens no extension of its own: DESIGN CHOICE (log 106). -/
def push (c : Core) (v2 : Bool) (cmd : CmdWord) : PushRes :=
  let isV := engineOf cmd == Engine.vector
  if opcodeOf cmd = 0x22 ∧ c.extWait = true then c.pushVext v2 cmd
  else
    let spoilt := isV && c.extWait
    let last := c.lastVector
    let w := BitVec.ofNat 512 (setBits cmd.toNat 31 16 c.nextSeq.toNat)
    let q : QEntry := ⟨w, c.nextSeq, v2, false, none, spoilt⟩
    let opensExt := !spoilt && q.op == 0x20 && cmdExt cmd
    let queued := if spoilt then c.queued.map fun x => if some x == last then { x with bad := true } else x else c.queued
    if c.breaksMatw q then .undef "R246"
    else match c.tagsAfter q opensExt with
      | none => .undef "R107"
      | some tags =>
        .ok { c with queued := queued ++ [q], nextSeq := c.nextSeq + 1, ftqTags := tags
                     extWait := if isV then opensExt else c.extWait, extTags := if opensExt then c.ftqTags.length else c.extTags
                     matwOpen := if [0x10, 0x11, 0x12].contains q.op then q.op == 0x11 && !cmdLast cmd else c.matwOpen } c.nextSeq

/-- The 64-byte command buffer (R89). -/
def cmdBuffer (c : Core) : CmdWord :=
  BitVec.ofNat 512 ((List.range 8).foldl (fun v k => v + (SMap.get (fun _ => 0) c.cbuf k).toNat * 2 ^ (64 * k)) 0)

end Core

/-- What one instruction leaves its sequencer to do. -/
inductive SeqRes where
  /-- Go on at the next index. -/
  | next (c : Core)
  /-- Go on at an index. -/
  | jump (c : Core) (target : Int)
  /-- Wait: the instruction executes again; `full` when a full queue holds it. -/
  | stay (c : Core) (full : Bool)
  /-- Stop with CORE_PC at the next index (R89, HALT). -/
  | stop (c : Core)
  /-- Stop with a fault code (R90). -/
  | fault (code : Nat)
  /-- A list tile failed its glaze (R98, R156). -/
  | glaze (c : Core) (tile : Nat)
  /-- A case of undefined behaviour. -/
  | undef (case : String)

/-- What an instruction sees beside its core: the core's ID, the tide count, the polder's turn number and step, a free
value, the core's scratchpad, and which of its tiles are pending (R104). -/
structure SeqEnv where
  id   : Nat
  tide : Nat
  turn : Nat
  step : Nat
  free : Nat
  tile : Nat → Tile
  busy : Nat → Bool

/-- The record of a failed list: OPCODE 0, the next number to be assigned, COUNT as given (R98). -/
def Core.listRecord (c : Core) (env : SeqEnv) (status count : Nat) : Core :=
  c.writeRecord (recordBytes c.nextSeq.toNat 0 false 0 status 0 0 count env.tide)

/-- Entry `k` of a list tile. -/
def listEntry (t : Tile) (k : Nat) : CmdWord := BitVec.ofNat 512 (numAt t.data (64 * k) 64)

/-- What the dispatcher's work came to: the core, and the tile that failed its glaze, if one did; or a case of undefined
behaviour. -/
inductive DispRes where
  | ok (c : Core) (bad : Option Nat)
  | undef (case : String)

/-- The next entry of a list, once its tile can be read. -/
def Core.nextEntry (env : SeqEnv) (c : Core) : Option (ListSt × CmdWord) :=
  match c.list with
  | some l => if env.busy (l.tile % 192) then none else some (l, listEntry (env.tile (l.tile % 192)) l.entry)
  | none => none

/-- The dispatcher at work: entries enter the queues in order until a queue is full, a tile is pending, a later tile fails its
glaze, or the list ends (R98, R99, R104). `fuel` bounds the entries. -/
def Core.dispatchList (env : SeqEnv) : Nat → Core → DispRes
  | 0, c => .ok c none
  | fuel + 1, c =>
    match c.nextEntry env with
    | none => .ok c none
    | some (l, cmd) =>
      let bad := l.entry == 0 && !(env.tile (l.tile % 192)).ok
      if bad && c.ringFull then .ok c none
      else if bad then .ok (({ c with list := none }).listRecord env coreEGlaze l.id) (some (l.tile % 192))
      else if c.queueFull cmd then .ok c none
      else
        match c.push l.v2 cmd with
        | .undef case => .undef case
        | .ok c _ =>
          let l' := if l.entry = 31 then { l with tile := l.tile + 1, entry := 0, left := l.left - 1 }
            else { l with entry := l.entry + 1, left := l.left - 1 }
          Core.dispatchList env fuel { c with list := if l'.left = 0 then none else some l' }

/-- Whether a full queue holds the dispatcher (R99). -/
def Core.listStalled (env : SeqEnv) (c : Core) : Bool :=
  match c.nextEntry env with
  | some (_, cmd) => c.queueFull cmd
  | none => false

/-- LIST (R89, R91, R97, R98): checks the header and starts the dispatcher; X[d] receives the number of the first command,
or all ones on failure. While an earlier list dispatches, its header's tile is pending, or the completion ring has no space for a
failure record, it stalls. -/
def listBody (env : SeqEnv) (d a : Nat) (c : Core) : SeqRes :=
  let t := (c.getX a).toNat
  let h := env.tile (t % 192)
  let count := numAt h.data 6 2
  let ver := numAt h.data 4 1
  let id := numAt h.data 8 4
  let fail (status count : Nat) : Core := (c.listRecord env status count).setX d (BitVec.allOnes 64)
  if c.list.isSome then .stay c false
  else if 191 < t then (if c.ringFull then .stay c false else .next (fail coreEBadlist 0))
  else if env.busy t then .stay c false
  else if !h.ok then (if c.ringFull then .stay c false else .glaze (fail coreEGlaze id) t)
  else if numAt h.data 0 4 ≠ 0x4C435142 ∨ count = 0 ∨ 1023 < count then
    (if c.ringFull then .stay c false else .next (fail coreEBadlist id))
  else if !((ver = 2 ∨ ver = 3) ∧ bitOf (c.getF Reg.CORE_CL_VERSION_ALLOWED) ver) then
    (if c.ringFull then .stay c false else .next (fail coreEClver id))
  else
    let first := c.nextSeq
    let c := { c with list := some ⟨t, 1, count, ver = 2, id⟩ }
    match Core.dispatchList env 1024 c with
    | .undef case => .undef case
    | .ok c bad =>
      let c := c.setX d (first.zeroExtend 64)
      match bad with
      | some tile => .glaze c tile
      | none => .next c

end Sys2Proof.Machine
end

