-- ==== Sys2Proof/Machine/MfeTables.lean ====
section
/-! DEFINITION. The tables of the media front-ends (ch 7): profiles (R270), class descriptors (R276), landing maps (R277), the
tiles that belong to a media front-end (R282), and the choice of a class at a turn start (R214, R281). -/

namespace Sys2Proof.Machine

/-- Status codes of the media front-ends (R284). -/
def mfeELanding : Nat := 0x7001
def mfeEFormat : Nat := 0x7002
def mfeECorrupt : Nat := 0x7003
def mfeELimit : Nat := 0x7004
def mfeEUtf8 : Nat := 0x7005
def mfeEFetch : Nat := 0x7006
def mfeENoclass : Nat := 0x7007

/-! ### Map entries (R277) -/

def meCore (e : Nat) : Nat := bitsOf e 12 0
def meTile (e : Nat) : Nat := bitsOf e 20 13
def meTiles (e : Nat) : Nat := bitsOf e 28 21
def meRoute (e : Nat) : Nat := bitsOf e 42 29
def meUnit (e : Nat) : Nat := bitsOf e 58 43

/-- The tiles of an entry on its core. -/
def meRun (e : Nat) : List Nat := tileRun (meTile e) 1 (meTiles e)

/-- Map entry `e` of position `s` in buffer `b`. -/
def MfeClass.entry (c : MfeClass) (b s e : Nat) : Nat := c.map.getD ((b * c.positions + s) * c.entries + e) 0

/-- The entries of a buffer: its positions' and its record tile's. -/
def MfeClass.bufEntries (c : MfeClass) (b : Nat) : List Nat :=
  (c.map.drop (b * c.positions * c.entries)).take (c.positions * c.entries) ++ [c.recs.getD b 0]

/-! ### Profiles (R270) -/

def pfFmt (p : List Byte) : Nat := numAt p 0 1
def pfFlags (p : List Byte) : Nat := numAt p 1 1
def pfRgb (p : List Byte) : Bool := bitOf (pfFlags p) 0
def pfArea (p : List Byte) : Bool := bitOf (pfFlags p) 1
def pfReplace (p : List Byte) : Bool := bitOf (pfFlags p) 2
def pfNorm (p : List Byte) : Nat := bitsOf (pfFlags p) 4 3
def pfBos (p : List Byte) : Bool := bitOf (pfFlags p) 5
def pfEos (p : List Byte) : Bool := bitOf (pfFlags p) 6
def pfMargin (p : List Byte) : Nat := numAt p 2 1
def pfMels (p : List Byte) : Nat := numAt p 3 1
def pfOutW (p : List Byte) : Nat := numAt p 4 2
def pfOutH (p : List Byte) : Nat := numAt p 6 2
def pfCrop (p : List Byte) (k : Nat) : Nat := numAt p (8 + 2 * k) 2
def pfMean (p : List Byte) (c : Nat) : FV := fmtB16.decode (numAt p (0x10 + 2 * c) 2)
def pfInvStd (p : List Byte) (c : Nat) : FV := fmtB16.decode (numAt p (0x16 + 2 * c) 2)
def pfRate (p : List Byte) : Nat := numAt p 0x1C 1
def pfFft (p : List Byte) : Nat := numAt p 0x1D 1
def pfWin (p : List Byte) : Nat := numAt p 0x1E 2
def pfHop (p : List Byte) : Nat := numAt p 0x20 2
def pfLo (p : List Byte) : Nat := numAt p 0x22 2
def pfHi (p : List Byte) : Nat := numAt p 0x24 2
def pfMaxTokens (p : List Byte) : Nat := numAt p 0x28 4
def pfBosId (p : List Byte) : Nat := numAt p 0x2C 4
def pfEosId (p : List Byte) : Nat := numAt p 0x30 4
def pfPadId (p : List Byte) : Nat := numAt p 0x34 4

/-- Rate codes in Hz (R270). -/
def rateHz (c : Nat) : Nat := [8000, 16000, 24000, 32000, 44100, 48000, 96000].getD c 8000

/-- Whether a profile has a reserved field set (R278). -/
def pfBad (p : List Byte) : Bool :=
  decide (1 < pfFmt p) || bitOf (pfFlags p) 7 || pfNorm p == 3 || decide (6 < pfRate p) || numAt p 0x26 2 != 0 ||
    numAt p 0x38 8 != 0 || decide (2 ^ 18 ≤ pfBosId p) || decide (2 ^ 18 ≤ pfEosId p) || decide (2 ^ 18 ≤ pfPadId p)

/-! ### Sample descriptors (R268) -/

def sdKind (d : List Byte) : Nat := numAt d 0 1
def sdStream (d : List Byte) : Nat := numAt d 1 1 % 16
def sdClose (d : List Byte) : Bool := bitOf (numAt d 1 1) 4
def sdPcm (d : List Byte) : Nat := numAt d 2 2
def sdLen (d : List Byte) : Nat := numAt d 4 4
def sdAddr (d : List Byte) : Nat := numAt d 8 8
def sdId (d : List Byte) : Nat := numAt d 0x10 8
def sdFirst (d : List Byte) : Nat := numAt d 0x18 2
def sdFrames (d : List Byte) : Nat := numAt d 0x1A 1

namespace State

def mfe (s : State) (m p : Nat) : Mfe := SMap.get (fun _ => Mfe.empty) s.mfes (m * 8 + p)

def modMfe (m p : Nat) (f : Mfe → Mfe) (s : State) : State :=
  { s with mfes := SMap.set (fun _ => Mfe.empty) s.mfes (m * 8 + p) (f (s.mfe m p)) }

/-- The owner of the slice a media front-end is in (R260). -/
def sliceOwner (s : State) (m : Nat) : Nat :=
  let k := SMap.get (fun _ => 0) s.mfSlice m
  bitsOf (s.getF (Reg.MFE_SHARE_SLICE m)) (4 * k + 3) (4 * k)

/-- Landing tiles of a core that belong to a media front-end: those of every buffer that no turn is using (R281, R282). -/
def landingTiles (s : State) (i : Nat) : List Nat :=
  s.mfes.flatMap fun x =>
    if !s.flag (Reg.MFE_PCTL_RUN (x.1 / 8) (x.1 % 8)) then []
    else x.2.classes.flatMap fun c => (List.range c.bufs).flatMap fun b =>
      if x.2.sets.any fun t => t.cls == c.cls && t.buf == b && t.phase == LandPhase.taken then []
      else (c.bufEntries b).flatMap fun e => if meCore e = i then meRun e else []

/-- The oldest ready set of a class that names a group, ready before the present tick (R281). -/
def readySet (s : State) (m p g : Nat) : Option LandSet :=
  let x := s.mfe m p
  x.sets.find? fun t => t.phase == LandPhase.ready && decide (t.readyAt < s.now) &&
    x.classes.any fun c => c.cls == t.cls && c.group == g

/-- A set taken for a turn: its tiles belong to the cores and are valid, with no origin and not SEALED. -/
def takeSet (m p : Nat) (t : LandSet) (s : State) : State :=
  let x := s.mfe m p
  let es := match x.classes.find? fun c => c.cls == t.cls with
    | some c => c.bufEntries t.buf
    | none => []
  let s := s.modMfe m p fun x => { x with sets := x.sets.map fun u => if u = t then { u with phase := .taken } else u }
  es.foldl (fun s e => s.modCore (meCore e) fun c => (meRun e).foldl (fun c k => c.setAttr k ⟨false, none⟩) c) s

/-- The buffers that a polder's turn used return to their media front-ends as it ends (R281). -/
def returnSets (p : Nat) (s : State) : State :=
  (List.range 4).foldl (fun s m => s.modMfe m p fun x => { x with sets := x.sets.filter fun t => t.phase != .taken }) s

end State

end Sys2Proof.Machine
end

