-- ==== Sys2Proof/Machine/Scoreboard.lean ====
section
/-! DEFINITION. The scoreboard: acceptance (R102), the conditions under which an accepted command issues (R103, R105, R134),
and completion (R104, R110, R111, R115). -/

namespace Sys2Proof.Machine

/-- Commands an engine may hold in flight (R85). -/
def engineLimit : Engine → Nat
  | .matrix => 4
  | .vector => 4
  | .transfer => 16
  | .message => 8

namespace State

/-- The tag of a core's scratchpad tile. -/
def spTag (s : State) (i t : Nat) : DWord := (s.metaAt (tileAddr i t)).1

/-- Input and output tiles of a scoreboard entry of core `i`; a reserved opcode has none (R95). -/
def entryReads (_s : State) (e : SbEntry) : List Nat := if e.q.op = 0 then [] else cmdReads e.q.cmd e.q.ext
def entryWrites (s : State) (i : Nat) (e : SbEntry) : List Nat := if e.q.op = 0 then [] else cmdWrites (s.spTag i) e.q.cmd e.q.ext

/-- Whether a scratchpad tile is pending: a command that writes it has issued and is not complete (R104). -/
def tilePending (s : State) (i t : Nat) : Bool := (s.core i).sb.any fun e => e.flight.isSome && (s.entryWrites i e).contains t

/-- Whether an earlier incomplete command keeps `e` from issuing: it writes an input of `e`, or reads or writes an output
of `e` (R103 conditions 1 and 2); or a collective engine has still to pull a tile that `e` writes (R458). -/
def tilesBlocked (s : State) (i : Nat) (earlier : List SbEntry) (e : SbEntry) : Bool :=
  let r := s.entryReads e
  let w := s.entryWrites i e
  w.any (s.pullTiles i).contains || earlier.any fun x =>
    let xw := s.entryWrites i x
    xw.any r.contains || xw.any w.contains || (s.entryReads x).any w.contains

/-- The accumulator banks a matrix command names (R113, R136, R244). -/
def banksOf (q : QEntry) : List Nat :=
  match q.op with
  | 0x10 | 0x12 => [mmBank q.cmd]
  | 0x11 => [0, 1, 2, 3]
  | _ => []

/-- Condition 4 of R103: an earlier matrix command that names a bank of a chained command has not issued. -/
def chainBlocked (earlier : List SbEntry) (e : SbEntry) : Bool :=
  cmdChain e.q.cmd && earlier.any fun x => x.flight.isNone && (banksOf x.q).any (banksOf e.q).contains

/-- Condition 3 of R103: every finished-tile entry the command names is in the queue. -/
def tagsReady (c : Core) (e : SbEntry) : Bool :=
  e.q.op != 0x20 || e.q.bad || (vsTags e.q.cmd (vsStages e.q.cmd e.q.ext)).all fun t => c.ftq.any fun f => f.tag == t

/-- The device addresses of the far tiles of an XMOVE (R129, R148). -/
def farAddrs (c : CmdWord) : List Int :=
  (List.range (c.u8 0x0A)).map fun (k : Nat) => ((c.u64 0x10 : Nat) : Int) + signed 32 (c.u32 0x18) * k * 2048

/-- The link end of a QPUSH or QPOP names a route; a send context's descriptor does (R134, R161, R291). -/
def msgRoute (s : State) (i : Nat) (c : CmdWord) : Option Nat :=
  match opcodeOf c with
  | 0x40 =>
    let k := (s.core i).ctx (c.u8 8 % 128)
    if ctxRole k = 1 ∧ k.state ≠ .closed ∧ k.state ≠ .off then some (ctxRoute k) else none
  | 0x48 => some (qRoute c)
  | 0x49 => if qMode c = 0 then some (qRoute c) else none
  | _ => none

/-- The channel of the queue slot that a QPUSH of an OPEN local link writes, or a TAKE from an OPEN end reads (R293, R300). -/
def queueChan (s : State) (c : CmdWord) : Option Nat :=
  let d := s.linkDesc (qLink c)
  let push := opcodeOf c == 0x48
  let d' := if push then s.linkDesc (ldPeer d) else d
  if s.linkOpen (qLink c) ∧ (if push then ldRole d = 1 ∧ ldPeerPkg d = s.pkgId else ldRole d = 2) then
    (match region (ldSlot d' (c.u32 0x10)) with
    | .dram st ch => some (st * 32 + ch)
    | _ => none)
  else none

/-- Whether the route of a QPUSH or TAKE leads from its core's cluster to the channel of its queue slot, as R300 has it; a slot owns
no such channel through another route (R134). -/
def queueRoute (s : State) (i : Nat) (c : CmdWord) : Bool :=
  let r := s.route (dieOf i) (qRoute c)
  opcodeOf c == 0x40 || (s.queueChan c).all fun ch => r.kind == 0 && r.cluster == clusterOf i % 64 && r.target == ch

/-- The far addresses that a transfer reaches: those before the first that stops it, unmapped or in a channel that the core's polder
does not own. A command never waits for the ownership of such a channel (R131, R371). -/
def farReached (s : State) (i : Nat) : List Int → List Nat
  | [] => []
  | a :: t =>
    if a < 0 then []
    else match region a.toNat with
      | .dram _ _ => if s.ownsAddr (s.core i).polder a.toNat then a.toNat :: farReached s i t else []
      | .host => a.toNat :: farReached s i t
      | _ => []

/-- Whether the slot a core is in owns every shared resource a command uses, none of which an earlier slot still holds
(R134, R209). A tile outside DRAM uses no owned port. -/
def owned (s : State) (i : Nat) (q : QEntry) : Bool :=
  let c := q.cmd
  let dram (a : Nat) : Bool := match region a with
    | .dram st ch => s.ownsDram i st ch && !((s.ownedRoutes i).any fun r =>
        let d := s.route (dieOf i) r
        ((d.kind == 0 && d.target == st * 32 + ch) || (d.kind == 1 && d.target == st)) && s.handover i r)
    | _ => true
  match q.op with
  | 0x30 => (s.farReached i (farAddrs c)).all dram
  | 0x31 => (s.farReached i [((c.u64 0x10 : Nat) : Int)]).all dram
  | 0x40 | 0x48 | 0x49 => match s.msgRoute i c with
    | some r => s.ownsRoute i r && !s.handover i r && s.queueRoute i c
    | none => true
  | _ => true

/-- Whether an accepted command may issue (R103). -/
def canIssue (s : State) (i : Nat) (earlier : List SbEntry) (e : SbEntry) : Bool :=
  let c := s.core i
  let eng := engineOf e.q.cmd
  e.flight.isNone && !s.tilesBlocked i earlier e && tagsReady c e && !chainBlocked earlier e &&
    decide ((c.sb.filter fun x => x.flight.isSome && engineOf x.q.cmd == eng).length < engineLimit eng) &&
    decide ((c.sb.filter fun x => x.flight.isSome).length < 32) && s.owned i e.q

/-- The first command of the scoreboard that may issue: several ready at once issue oldest first (R103). -/
def firstReady (s : State) (i : Nat) : List SbEntry → List SbEntry → Option SbEntry
  | _, [] => none
  | done, e :: t => if s.canIssue i done e then some e else s.firstReady i (done ++ [e]) t

/-- The entry of the scoreboard that is next to issue. -/
def nextIssue (s : State) (i : Nat) : Option SbEntry := s.firstReady i [] (s.core i).sb

/-- The entry `seq` of a core's scoreboard, when it is the next to issue and is a command of the given opcode. -/
def issuing (s : State) (i seq op : Nat) : Option SbEntry :=
  match s.nextIssue i with
  | some e =>
    if e.q.seq.toNat = seq ∧ opcodeOf e.q.cmd = op ∧ opcodeListed e.q.v2 op then some e else none
  | none => none

/-- A command's flight recorded; its place in the order of issue stays. -/
def setFlight (i : Nat) (seq : BitVec 16) (f : Flight) (s : State) : State :=
  s.modCore i fun c => { c with sb := c.sb.map fun e =>
    if e.q.seq == seq then { e with flight := some { f with order := (e.flight.map (·.order)).getD f.order } } else e }

/-- The next place in a core's order of issue. -/
def nextOrder (c : Core) : Nat := c.sb.foldl (fun m e => max m ((e.flight.map (·.order)).getD 0)) 0 + 1

/-- A command counted as issued (CORE_CNT_ISSUED), with its flight. -/
def launch (i : Nat) (e : SbEntry) (f : Flight) (s : State) : State :=
  (s.modCore i fun c => c.bump Reg.CORE_CNT_ISSUED_COUNT 1).setFlight i e.q.seq { f with order := nextOrder (s.core i) }

/-- Whether a command in flight is the oldest of its engine. -/
def engineFirst (c : Core) (e : SbEntry) : Bool := c.sb.all fun x =>
  match x.flight, e.flight with
  | some f, some g => engineOf x.q.cmd != engineOf e.q.cmd || decide (g.order ≤ f.order)
  | _, _ => true

/-- Whether a core's matrix engine has a command in flight. -/
def matrixBusy (c : Core) : Bool := c.sb.any fun e => e.flight.isSome && engineOf e.q.cmd == .matrix

/-- A command that ends with a status and writes nothing. -/
def launchError (i : Nat) (e : SbEntry) (status : Nat) (s : State) : State :=
  s.launch i e { Flight.start with fin := true, status := status }

/-- A command that has issued and is not done: one that goes on over several steps (an XMOVE held by a weir, a message
command that waits). -/
def going (s : State) (i seq op : Nat) : Option (SbEntry × Flight) :=
  match (s.core i).sb.find? fun e => e.q.seq.toNat == seq && opcodeOf e.q.cmd == op && opcodeListed e.q.v2 op with
  | some e => (match e.flight with
    | some f => if f.fin then none else some (e, f)
    | none => none)
  | none => none

/-- The first of some scale record addresses whose access the weirs of its stack hold (R376). -/
def srecHeld (s : State) (i : Nat) (as : List Nat) : Option Nat :=
  as.find? fun a => a != 0 && !s.weirPass (s.core i).polder atomicAccess (a % 2 ^ 44)

/-- Scale records read through the slices (R380). -/
def srecMeter (i : Nat) (as : List Nat) (s : State) : State :=
  as.foldl (fun s a => if a = 0 then s else s.meter (s.core i).polder readShort (a % 2 ^ 44)) s

/-- A scale record merged into by an atomic, or rolled over, in its slice (R66, R67, R381). -/
def srecAtomic (i a : Nat) (s : State) : State := s.meter (s.core i).polder atomicAccess (a % 2 ^ 44)

/-- A command that ends with a status about an address: a dike failure is counted (R372). -/
def launchAddrError (i : Nat) (e : SbEntry) (status a : Nat) (s : State) : State :=
  let s := if status = memEDike then s.dikeFail 0 (s.core i).polder a else s
  s.launchError i e status

/-- The tiles of the rings that are not OFF (R164). -/
def ringTiles (c : Core) : List Nat :=
  c.ctxs.flatMap fun e =>
    if ctxRole e.2 = 2 ∧ e.2.state ≠ .off then tileRun (ctxRingTile e.2) 1 (ctxRingTiles e.2) else []

/-- The status a command that names a tile of another owner ends with: a ring tile (R164), a landing tile (R282); 0 when it
names none. -/
def tileRefusal (s : State) (i : Nat) (e : SbEntry) : Nat :=
  let ts := s.entryReads e ++ s.entryWrites i e
  if ts.any (ringTiles (s.core i)).contains then chnERingtile
  else if ts.any (s.landingTiles i).contains then mfeELanding
  else 0

end State

/-! ### Acceptance and completion -/

/-- A queued command that may be accepted: the oldest, and a VSTREAM with EXT only together with its VEXT or once R96 has
made it fail (R96, R102). -/
def Core.acceptable (c : Core) : Option QEntry :=
  match c.queued.filter fun q => !q.isExt with
  | [] => none
  | q :: _ =>
    let waits := opcodeOf q.cmd = 0x20 ∧ opcodeListed q.v2 0x20 ∧ cmdExt q.cmd ∧ !q.bad ∧ q.ext.isNone ∧
      !c.queued.any fun x => x.isExt && x.seq == q.seq
    if waits then none else some q

/-- The extension of a queued VSTREAM, from its entry or from the VEXT behind it. -/
def Core.extOf (c : Core) (q : QEntry) : Option CmdWord :=
  match q.ext with
  | some e => some e
  | none => (c.queued.find? fun x => x.isExt && x.seq == q.seq).map (·.cmd)

/-- The oldest queued command accepted (R102). -/
def Core.accept (c : Core) : Core :=
  match c.acceptable with
  | none => c
  | some q =>
    if 64 ≤ c.sb.length then c
    else { c with queued := c.queued.filter fun x => x.seq != q.seq,
                  sb := c.sb ++ [⟨{ q with ext := c.extOf q }, none⟩] }

/-- What the dispatcher sees. -/
def State.dispatchEnv (s : State) (i : Nat) : SeqEnv := ⟨i, s.now, 0, 0, 0, s.spTile i, s.tilePending i⟩

/-- The cycles a full queue holds the dispatcher counted, by a free amount (R99, log 5). -/
def State.countStall (i : Nat) (s : State) : State :=
  if (s.core i).listStalled (s.dispatchEnv i) then (s.modCore i fun c => c.bump Reg.CORE_CNT_QFULL_COUNT (s.fr 0)).useFree 1 else s

/-- The dispatcher goes on as far as the queues have space and its tiles can be read (R99, R104). -/
def resumeList (i : Nat) (s : State) : Host.Outcome State Fault Refusal :=
  match Core.dispatchList (s.dispatchEnv i) 1024 (s.core i) with
  | .undef case => .refused (.undefinedBehaviour case)
  | .ok c none => .next ((s.setCore i c).countStall i)
  | .ok c (some tile) => .next ((s.setCore i c).glazeFail i tile 3)

/-- SCOREBOARD_ACCEPT (R102, R103): the next command in sequence order enters the scoreboard when an entry is free; a
dispatching list then goes on. -/
def execScoreboardAccept (core : Nat) (s : State) : Host.Outcome State Fault Refusal :=
  resumeList core (s.modCore core Core.accept)

/-- What a command in flight will write to a scratchpad tile. -/
def comingTile (c : Core) (t : Nat) : Option TileWrite :=
  c.sb.findSome? fun e => e.flight.bind fun f => f.writes.find? fun w => w.idx % 192 == t

/-- The culverts in QUARANTINE that a command's route crosses: a message's own, a transfer's to the stack of its target. -/
def State.quarantinedOf (s : State) (i : Nat) (c : CmdWord) : List Nat :=
  let rs : List Route := match engineOf c with
    | .transfer => (match region (c.u64 0x10) with
      | .dram st _ => ((s.ownedRoutes i).map fun r => s.route (State.dieOf i) r).filter fun d =>
          (d.kind == 0 && d.target / 32 == st) || (d.kind == 1 && d.target == st)
      | _ => [])
    | _ => (match s.msgRoute i c with
      | some r => [s.route (State.dieOf i) r]
      | none => [])
  (rs.flatMap State.routeCulverts).filter fun k => s.getF (Reg.LNK_CULV_STATUS_STATE k) == 4

/-- A command that completes with LNK_E_QUARANTINE is counted at the culvert that ended it (R443). -/
def State.countSynth (i : Nat) (c : CmdWord) (status : Nat) (s : State) : State :=
  match s.quarantinedOf i c with
  | k :: _ => if status = lnkEQuarantine then s.bump (Reg.LNK_CNT_CULV_SYNTH_COUNT k) 1 else s
  | [] => s

/-- The cycles a completed command waited for its inputs and for ownership (R134), and those its transfer or message engine was busy,
by free amounts (log 5); what it waited for an earlier slot is counted in its polder too (R209). -/
def State.countCycles (i : Nat) (g : Engine) (s : State) : State :=
  let p := (s.core i).polder
  let s := if p < 8 ∧ (g = .transfer ∨ g = .message) then (s.bump (Reg.WHL_CNT_HANDOVER_COUNT p) (s.fr 0)).useFree 1 else s
  (s.modCore i fun c =>
    let c := (c.bump Reg.CORE_CNT_STALL_INPUT_COUNT (s.fr 0)).bump Reg.CORE_CNT_STALL_OWNED_COUNT (s.fr 1)
    match g with
    | .matrix | .vector => c
    | .transfer => c.bump (Reg.CORE_CNT_BUSY_COUNT 2) (s.fr 2)
    | .message => c.bump (Reg.CORE_CNT_BUSY_COUNT 3) (s.fr 2)).useFree 3

/-- Finished tiles of a matrix command placed as far as the queue of eight has room; the rest wait (R85, R115). -/
def State.placeFtq (i : Nat) (e : SbEntry) (f : Flight) (s : State) : State :=
  let n := 8 - (s.core i).ftq.length
  (s.modCore i fun c => { c with ftq := c.ftq ++ f.ftq.take n }).setFlight i e.q.seq { f with ftq := f.ftq.drop n }

/-- The banks of a chain are closed by the completion of its LAST command (R108, R115). -/
def Core.closeBanks (c : Core) (q : QEntry) : Core :=
  if (q.op = 0x10 ∨ q.op = 0x11) ∧ cmdLast q.cmd then (State.banksOf q).foldl (fun c b => c.setBank b Bank.empty) c else c

/-- A command whose work is done completes (R104, R110). -/
def State.completeCmd (i : Nat) (e : SbEntry) (f : Flight) (s : State) : State :=
  ((((s.finishCmd i e.q.cmd e.q.seq f).modCore i fun c => c.closeBanks e.q).countTake e.q.cmd f.status).countSynth
    i e.q.cmd f.status).countCycles i (engineOf e.q.cmd)

/-- RESERVED_OPCODE (R95): the command does nothing and completes with CORE_E_BADOP. -/
def execReservedOpcode (core seq : Nat) (s : State) : Host.Outcome State Fault Refusal :=
  match s.nextIssue core with
  | some e =>
    if e.q.seq.toNat = seq ∧ !opcodeListed e.q.v2 (opcodeOf e.q.cmd) then .next (s.launchError core e coreEBadop)
    else .next s
  | none => .next s

end Sys2Proof.Machine
end

