-- ==== Sys2Proof/Machine/Matrix.lean ====
section
/-! DEFINITION. The matrix engine: MATMUL (R54 to R62, R113 to R116), MATW (R240 to R246) and MDUMP (R136). -/

namespace Sys2Proof.Machine

/-- The scale tile of a scratchpad element tile (R148). -/
def scaleIdx (t : Nat) (tag : DWord) : Nat := (((t : Int) + tagDelta tag) % 192).toNat

/-- The block scale byte of row i, block b, from a scale tile (R44). -/
def blockScale (code : Nat) (scaleTile : List Byte) (slot i b : Nat) : Nat :=
  let size := if code = 0x9 then 128 else 64
  numAt scaleTile (slot * size + i * ((tileShape code).2 / 32) + b) 1

/-- Element (i, j) of a scratchpad tile as a true value, read in a command's format with the tile's own scale (R46). -/
def elemTrue (code : Nat) (t : Tile) (scaleTile : List Byte) (i j : Nat) : FV :=
  trueValue code (tagScale t.tag) (if isMx code then blockScale code scaleTile (tagSlot t.tag) i (j / 32) else 127)
    (elemPattern code t.data i j)

/-- A tile of a core read in a format: itself, and for an MX format its scale tile as it is seen. -/
structure OpTile where
  t     : Tile
  scale : Option Tile
  deriving DecidableEq, Repr

/-- The bytes of an operand's scale tile. -/
def OpTile.scales (o : OpTile) : List Byte := (o.scale.map (·.data)).getD []

namespace State

/-- Where the free values of scale tiles that are being written begin, and how many there are. -/
def scaleFree : Nat := 2 ^ 24

/-- A scale tile as an engine sees it: while another command writes it, each 64 B is either old or new, and so is its metadata
record (R568). -/
def scaleSeen (s : State) (i t : Nat) : Tile :=
  let old := s.spTile i t
  match comingTile (s.core i) t with
  | none => old
  | some x =>
    let w := x.tile
    let new := padTo 2048 w.data
    let pick (k : Nat) : Bool := s.fr (scaleFree + 33 * t + k) % 2 == 0
    let m := if pick 32 then old else w
    ⟨(List.range 2048).map (fun o => if pick (o / 64) then old.data.getD o 0 else new.getD o 0), m.tag, m.glaze⟩

/-- A tile read as an operand (R148, R568). -/
def opTile (s : State) (i code t : Nat) : OpTile :=
  let x := s.spTile i t
  ⟨x, if isMx code then some (s.scaleSeen i (scaleIdx t x.tag)) else none⟩

/-- The tiles a read of an operand verifies, each with whether it is read as a scale tile: the tile, and its scale tile for an MX
format (R154). -/
def verified (s : State) (i code t : Nat) : List (Nat × Bool) :=
  if isMx code then [(t, false), (scaleIdx t (s.spTag i t), true)] else [(t, false)]

/-- The first of a list of tiles of a core that fails its glaze. -/
def firstBad (s : State) (i : Nat) (ts : List (Nat × Bool)) : Option Nat :=
  (ts.find? fun t => !(if t.2 then s.scaleSeen i t.1 else s.spTile i t.1).ok).map (·.1)

end State

/-- The products of output element (i, j) of one tile pair, in ascending k, before scaling by 2^-σ (R54, R113). B holds k
along its columns, or along its rows with TRANS_B 0. -/
def pairProducts (fa fb : Nat) (transB : Bool) (i j : Nat) (ab : OpTile × OpTile) : List FV :=
  (List.range (kPerPair fa)).map fun k =>
    let b := if transB then elemTrue fb ab.2.t ab.2.scales j k else elemTrue fb ab.2.t ab.2.scales k j
    (elemTrue fa ab.1.t ab.1.scales i k).mul b

/-- Row a of Aᵀ of the Winograd transform. -/
def winogradAt : Nat → Nat → Int
  | 0, 3 => 0
  | 0, _ => 1
  | _, 0 => 0
  | _, 1 => 1
  | _, _ => -1

/-- c(u, ξ) = Aᵀ[a][α] × Aᵀ[b][β] with u = 2a + b and ξ = 4α + β (R243). -/
def winogradC (u xi : Nat) : Int := winogradAt (u / 2) (xi / 4) * winogradAt (u % 2) (xi % 4)

/-- One pass over an output tile: every element from its carried pair (R57). -/
def runPass (saturating : Bool) (sigma : Int) (start : List AccPair) (prods : Nat → Nat → List FV) :
    List AccPair × Bool :=
  let els := (List.range 1024).map fun e =>
    passElem saturating (start.getD e AccPair.zero) ((prods (e / 32) (e % 32)).map (FV.scale (-sigma)))
  (els.map (·.1), els.any (·.2))

/-- The replay loop of R57: passes until one keeps, over as many banks as the command has. The carried pairs, σ and
replays go in; the kept pairs, σ, replays and passes discarded come out. -/
def replayLoop (limit : Nat) (prods : List (Nat → Nat → List FV)) :
    Nat → Int → Nat → List (List AccPair) → Nat → List (List AccPair) × Int × Nat × Nat
  | 0, sigma, replays, start, disc => (start, sigma, replays, disc)
  | fuel + 1, sigma, replays, start, disc =>
    let saturating := decide (limit ≤ replays) || decide (123 < sigma)
    let rs := (start.zip prods).map fun sp => runPass saturating sigma sp.1 sp.2
    if saturating || !rs.any (·.2) then (rs.map (·.1), sigma, replays, disc)
    else replayLoop limit prods fuel (sigma + 4) (replays + 1) (start.map fun b => b.map shrinkPair) (disc + 1)

/-- Whether a bank's pairs hold a clamped one (R58). -/
def anyClamped (l : List AccPair) : Bool := l.any (·.clamped)

/-- Telemetry of one finished tile (R82, R83): ACC TOTAL, OVF, UNF, the replay histogram, SAT and TILES. -/
def matrixTel (pairs : List AccPair) (replays : Nat) : List (Nat × Nat) :=
  let cl := (pairs.filter (·.clamped)).length
  let lost := (pairs.filter (·.lost)).length
  [(44, 1024), (45, cl), (46, lost), (52, 1)] ++ (if replays = 0 then [] else [(47 + min replays 3, 1)]) ++
    (if cl = 0 then [] else [(51, 1)])

namespace State

/-- The σ a chain starts with: SIGMA, or what SIGMA_AUTO gives from the two scale records (R55, R116). -/
def startSigma (s : State) (v2 : Bool) (c : CmdWord) (k : Nat) : Int :=
  let own := signed 8 (c.u8 0x0F)
  if sigmaAutoSet v2 c ∧ c.u64 0x10 ≠ 0 ∧ c.u64 0x18 ≠ 0 then
    (sigmaAuto (SRec.read (s.bytes (c.u64 0x10 % 2 ^ 44) 64)) (SRec.read (s.bytes (c.u64 0x18 % 2 ^ 44) 64)) k).getD own
  else own

/-- The reduction length of the chain a command starts (R55, R245). -/
def chainK (c : CmdWord) : Nat :=
  let n := if c.u16 0x20 = 0 then mmK c else c.u16 0x20
  (if opcodeOf c = 0x11 then 18 else kPerPair (mmFmtA c)) * n

/-- The status R569 gives a scale record address of a core; 0 when it is accepted or absent. -/
def srecStatus (s : State) (i a : Nat) : Nat :=
  if a = 0 then 0
  else if a % 64 ≠ 0 ∨ (0x10000000000 ≤ a ∧ a < 0x10100000000) then coreEBadaddr
  else match region a with
    | .scratch _ | .control | .host => coreEBadaddr
    | .unmapped => memEUnmapped
    | .dram st ch =>
      let p := (s.core i).polder
      if p < 8 ∧ s.chanOwner st ch = p then 0 else memEDike

/-- The status a matrix command fails with when it issues, or 0: a ring or landing tile, the formats (R114), the scale records
(R569). -/
def matrixStatus (s : State) (i : Nat) (e : SbEntry) : Nat :=
  let c := e.q.cmd
  let t := s.tileRefusal i e
  if t ≠ 0 then t
  else if opcodeOf c = 0x10 ∧ !mmFormatOk c then coreEFormat
  else
    let x := s.srecStatus i (c.u64 0x10)
    if x ≠ 0 then x else s.srecStatus i (c.u64 0x18)

/-- The tile pairs of a matrix command. -/
def tilePairs (s : State) (i : Nat) (c : CmdWord) : List (OpTile × OpTile) :=
  ((mmTilesA c).map (s.opTile i (mmFmtA c))).zip ((mmTilesB c).map (s.opTile i (mmFmtB c)))

/-- The products that element (i, j) of bank `u` takes from some tile pairs in order: of a MATW with the coefficients of each
(R113, R243). -/
def mmProducts (c : CmdWord) (ab : List (OpTile × OpTile)) (u i j : Nat) : List FV :=
  if opcodeOf c = 0x11 then
    (ab.zip (List.range ab.length)).flatMap fun abt =>
      let k := winogradC u (abt.2 % 16)
      if k = 0 then []
      else
        let ps := pairProducts (mmFmtA c) (mmFmtB c) true i j abt.1
        if k = 1 then ps else ps.map FV.neg
  else ab.flatMap (pairProducts (mmFmtA c) (mmFmtB c) (mmTransB c) i j)

/-- A matrix command ends with an error: its chain is discarded from its banks, and stays open as discarded, and as SEALED as it was,
until its LAST command completes (R108, R110, R115). -/
def matrixFail (i : Nat) (e : SbEntry) (status : Nat) (s : State) : State :=
  (s.modCore i fun k => (banksOf e.q).foldl (fun k b =>
      k.setBank b { Bank.empty with isOpen := true, failed := status, isSealed := (k.bank b).isSealed && (k.bank b).isOpen && cmdChain e.q.cmd }) k).setFlight
    i e.q.seq { Flight.start with fin := true, status := status }

/-- The banks after a command's last pass, and its flight: a LAST command leaves its finished tiles to place (R108, R115, R244). Its
banks stay open until it completes. -/
def matrixDone (i : Nat) (e : SbEntry) (before : List (Nat × Bank)) (pairs : List (List AccPair)) (sigma : Int)
    (replays disc : Nat) (isSealed : Bool) (s : State) : State :=
  let c := e.q.cmd
  let bs := before.map (·.1)
  let fin := (bs.zip pairs).map fun bp =>
    (⟨(c.u8 4 + bp.1 - bs.headD 0) % 256, bp.2, sigma, replays, anyClamped bp.2, isSealed⟩ : Finished)
  let s := s.modCore i fun k =>
    let k := (bs.zip pairs).foldl (fun k bp => k.setBank bp.1 ⟨true, bp.2, sigma, replays, isSealed, 0⟩) k
    let k := k.bump Reg.CORE_CNT_PASS_DISCARD_COUNT disc
    k.bump (Reg.CORE_CNT_BUSY_COUNT 0) (128 * mmK c * (disc + 1))
  s.setFlight i e.q.seq
    { Flight.start with
      fin := true, sat := cmdLast c && fin.any (·.sat), replays := if cmdLast c then replays else 0,
      fscale := if cmdLast c then sigma else 0, ftq := if cmdLast c then fin else [],
      tel := if cmdLast c then fin.flatMap fun f => matrixTel f.pairs f.replays else []
      before := before, discs := disc }

/-- A matrix product runs (R54 to R62, R110, R115): a command of a chain already discarded takes the chain's status, one that failed
as it issued its own; else the inputs are verified, the chain is started or continued, and the passes run. -/
def runMatrix (i : Nat) (e : SbEntry) (status : Nat) (s : State) : State :=
  let c := e.q.cmd
  let k := s.core i
  let bs := banksOf e.q
  let b0 := k.bank (bs.headD 0)
  let carry := cmdChain c && b0.isOpen
  let reads := (mmTilesA c).flatMap (s.verified i (mmFmtA c)) ++ (mmTilesB c).flatMap (s.verified i (mmFmtB c))
  if carry ∧ b0.failed ≠ 0 then s.matrixFail i e b0.failed
  else if status ≠ 0 then s.matrixFail i e status
  else match s.firstBad i reads with
    | some t => (s.matrixFail i e coreEGlaze).glazeFail i t 0
    | none =>
      let sigma := if carry then b0.sigma else s.startSigma e.q.v2 c (chainK c)
      let before := bs.map fun b =>
        (b, if carry then k.bank b else { Bank.empty with isOpen := true, pairs := List.replicate 1024 AccPair.zero, sigma := sigma })
      let (pairs, sg, rp, disc) :=
        replayLoop (replayLimit e.q.v2 c) (bs.map (mmProducts c (s.tilePairs i c))) 4 sigma (if carry then b0.replays else 0)
          (before.map (·.2.pairs)) 0
      let isSealed := (carry && b0.isSealed) || (s.entryReads e).any fun t => (k.attr t).isSealed
      (s.matrixDone i e before pairs sg rp disc isSealed).useFree (if isMx (mmFmtA c) || isMx (mmFmtB c) then 2 * scaleFree else 0)

/-- The bytes of an ACC tile that hold the pairs of 16 rows of a bank from row `r` (R42, R136). -/
def accTile (pairs : List AccPair) (r : Nat) : List Byte :=
  (List.range 512).flatMap fun e =>
    let p := (renormStored (pairs.getD (r * 32 + e) AccPair.zero)).1
    bytesLE 2 p.hi.toNat ++ bytesLE 2 p.lo.toNat

/-- An MDUMP runs (R136): in debug mode the bank's pairs, renormalised, as two ACC tiles; otherwise CORE_E_DEBUG. -/
def runMdump (i : Nat) (e : SbEntry) (s : State) : State :=
  let k := s.core i
  let b := k.bank (mmBank e.q.cmd)
  let t := e.q.cmd.u8 0x08
  if !k.flag Reg.CORE_CTL_DEBUG then s.setFlight i e.q.seq { Flight.start with fin := true, status := coreEDebug }
  else
    let tag := mkTag 0xB false b.sigma 0 0 0
    let w (idx r : Nat) : TileWrite := ⟨idx % 192, Tile.make (accTile b.pairs r) tag, b.isSealed, none⟩
    s.setFlight i e.q.seq { Flight.start with fin := true, writes := [w t 0, w (t + 1) 16] }

/-- A matrix command that has issued runs, its engine being free (R105): one that failed as it issued ends with its status. -/
def runMatrixCmd (i : Nat) (e : SbEntry) (status : Nat) (s : State) : State :=
  if e.q.op = 0x12 then
    (if status ≠ 0 then s.setFlight i e.q.seq { Flight.start with fin := true, status := status } else s.runMdump i e)
  else s.runMatrix i e status

/-- A matrix command issues: it runs at once, or waits for the commands issued before it (R85, R105). -/
def issueMatrix (i : Nat) (e : SbEntry) (status : Nat) (s : State) : State :=
  let t := s.launch i e { Flight.start with status := status }
  if matrixBusy (s.core i) then t else t.runMatrixCmd i e status

/-- The matrix command in flight that is next in order and has not run, once none before it is in flight (R105). -/
def nextMatrix (s : State) (i : Nat) : Option (SbEntry × Flight) :=
  let c := s.core i
  c.sb.findSome? fun e => match e.flight with
    | some f => if engineOf e.q.cmd == .matrix && !f.fin && engineFirst c e then some (e, f) else none
    | none => none

/-- The matrix engine takes up its next command. -/
def resumeMatrix (i : Nat) (s : State) : State :=
  match s.nextMatrix i with
  | some (e, f) => s.runMatrixCmd i e f.status
  | none => s

/-- Whether a matrix command finds its bank's chain open when it comes to run: the last command in flight before it that names the
bank decides, and with none in flight the bank does (R115). -/
def carries (s : State) (i : Nat) (e : SbEntry) : Bool :=
  let c := s.core i
  let b := (banksOf e.q).headD 0
  let mine := c.sb.filter fun x => x.flight.isSome && (banksOf x.q).contains b && x.q.op != 0x12
  let last := mine.foldl (fun (m : Option SbEntry) x => match m with
    | none => some x
    | some y => if (y.flight.map (·.order)).getD 0 ≤ (x.flight.map (·.order)).getD 0 then some x else m) none
  cmdChain e.q.cmd && (match last with
    | some x => !cmdLast x.q.cmd
    | none => (c.bank b).isOpen)

/-- The scale record address whose access the weirs hold, when the command reads its records (R376). -/
def matrixHeld (s : State) (i : Nat) (e : SbEntry) : Option Nat :=
  let c := e.q.cmd
  if s.matrixStatus i e = 0 ∧ sigmaAutoSet e.q.v2 c ∧ !s.carries i e then s.srecHeld i [c.u64 0x10, c.u64 0x18] else none

/-- A matrix product issues (R113 to R116, R372, R376, R569): its scale records are read through their slices where it starts a
chain. -/
def startMatrix (i : Nat) (e : SbEntry) (s : State) : State :=
  let c := e.q.cmd
  let st := s.matrixStatus i e
  match s.matrixHeld i e with
  | some a => s.weirHold (s.core i).polder a
  | none =>
    let s := if st = memEDike then s.dikeFail 0 (s.core i).polder (if s.srecStatus i (c.u64 0x10) = memEDike then c.u64 0x10 else c.u64 0x18) else s
    let s := if st = 0 ∧ sigmaAutoSet e.q.v2 c ∧ !s.carries i e then s.srecMeter i [c.u64 0x10, c.u64 0x18] else s
    s.issueMatrix i e st

end State

/-- MATMUL: C[i][j] = Σ A[i][k] × B[j][k] over the k-run, into a bank (R113 to R116). -/
def execMatmul (core seq : Nat) (s : State) : Host.Outcome State Fault Refusal :=
  match s.issuing core seq 0x10 with
  | none => .next s
  | some e => if mmReserved e.q.v2 e.q.cmd then .refused (.undefinedBehaviour "R10") else .next (s.startMatrix core e)

/-- MATW: the Winograd product into all four banks (R240 to R246). -/
def execMatw (core seq : Nat) (s : State) : Host.Outcome State Fault Refusal :=
  match s.issuing core seq 0x11 with
  | none => .next s
  | some e => if mwReserved e.q.cmd then .refused (.undefinedBehaviour "R10") else .next (s.startMatrix core e)

/-- MDUMP (R136). -/
def execMdump (core seq : Nat) (s : State) : Host.Outcome State Fault Refusal :=
  match s.issuing core seq 0x12 with
  | none => .next s
  | some e => .next (s.issueMatrix core e (s.tileRefusal core e))

/-- COMMAND_COMPLETION (R104, R105, R110, R111, R115, R298): a command whose work is done completes, of the matrix and vector engines
only the oldest. Its finished tiles are placed first, as far as there is room; it stays in flight while one of them or its record
finds none, and the cycles of that wait are counted. Two unconsumed entries of one tag are undefined behaviour (R107). The matrix
engine then takes up its next command. -/
def execCommandCompletion (core seq : Nat) (s : State) : Host.Outcome State Fault Refusal :=
  match (s.core core).sb.find? fun e => e.q.seq.toNat == seq with
  | none => .next s
  | some e =>
    match e.flight with
    | none => .next s
    | some f =>
      let g := engineOf e.q.cmd
      if !f.fin || ((g == .matrix || g == .vector) && !State.engineFirst (s.core core) e) then .next s
      else if f.ftq.any fun x => (s.core core).ftq.any fun y => y.tag == x.tag then .refused (.undefinedBehaviour "R107")
      else
        let left := f.ftq.drop (8 - (s.core core).ftq.length)
        let s := s.placeFtq core e f
        if left ≠ [] then
          .next ((s.modCore core fun c => c.bump Reg.CORE_CNT_FTQ_FULL_COUNT (s.fr 0)).useFree 1)
        else if needsRecord e.q.cmd f.status && (s.core core).ringFull then
          .next ((s.modCore core fun c => c.bump Reg.CORE_CNT_CRING_FULL_COUNT (s.fr 0)).useFree 1)
        else
          let t := s.completeCmd core e { f with ftq := [] }
          .next (if g == .matrix then t.resumeMatrix core else t)

end Sys2Proof.Machine
end

