-- ==== Sys2Proof/Machine/Vector.lean ====
section
/-! DEFINITION. The vector stream engine: VSTREAM with its VEXT (R96, R117 to R126) and VROLL (R127). -/

namespace Sys2Proof.Machine

/-- What a VSTREAM reads: its X and Y tiles, broadcast tile, result tile, and finished tiles in tag order. -/
structure VsIn where
  xs  : List OpTile
  ys  : List OpTile
  bc  : OpTile
  res : List Byte
  fts : List Finished
  deriving DecidableEq, Repr

/-- A finished tile's element as a true value: its pair × 2^σ (R60, R117). -/
def finishedElem (f : Finished) (i j : Nat) : FV :=
  (((f.pairs.getD (i * 32 + j) AccPair.zero).load).value).scale f.sigma

/-- The pattern of an operand tile's element, with the tile's SCALE. -/
def tilePattern (code : Nat) (t : Option OpTile) (i j : Nat) : Option (Nat × Int) :=
  t.map fun o => (elemPattern code o.t.data i j, tagScale o.t.tag)

/-- An element of an operand tile as it enters, or a free value where the tile's shape holds none (log 13). An ACC element, whose two
words do not fit it, is rounded into the stage value; every other format's elements enter as they are (R117, R125). -/
def tileElem (code : Nat) (t : Option OpTile) (i j : Nat) (r : Nat) : FV :=
  match t with
  | some o =>
    if i < (tileShape code).1 ∧ j < (tileShape code).2 then
      (let v := elemTrue code o.t o.scales i j
      if code = 0xB then toStage v else v)
    else freeStage r
  | none => freeStage r

/-- An element of X: its value, and its pattern with its tile's SCALE where it comes from a tile. -/
structure XElem where
  v   : FV
  pat : Option (Nat × Int)
  deriving DecidableEq, Repr

/-- Element (i, j) of an X tile. -/
def tileX (code : Nat) (t : Option OpTile) (i j r : Nat) : XElem := ⟨tileElem code t i j r, tilePattern code t i j⟩

/-- X at element (i, j) of tile `n` of the stream (R117, R124, R125). -/
def vsX (c : CmdWord) (st : List StageWord) (inp : VsIn) (n i j r : Nat) : XElem :=
  if vsFtq c then
    let per := vsEntriesPer c st
    match inp.fts[n * per + (if vsTail st = 0 then j / 32 else 0)]? with
    | some f => ⟨toStage (finishedElem f i (j % 32)), none⟩
    | none => ⟨freeStage r, none⟩
  else if vsWiden c st then tileX (vsFmtX c) inp.xs[n / 2]? i (32 * (n % 2) + j) r
  else tileX (vsFmtX c) inp.xs[n]? i j r

/-- The format of the broadcast tile, which no field of the command names: its tag's (log 13). -/
def bcFmt (t : Tile) : Nat := if fmtReserved (tagFmt t.tag) then 0 else tagFmt t.tag

/-- Mask bit `e`: bit e mod 8 of byte e div 8 of the result area (R7, R122). -/
def maskBit (l : List Byte) (off e : Nat) : Bool := bitOf ((l.getD (off + e / 8) 0).toNat) (e % 8)

/-- How many of the first `e` mask bits are 1. -/
def maskRank (l : List Byte) (off e : Nat) : Nat := ((List.range e).filter fun k => maskBit l off k).length

/-- Element `k` of the packed X stream, from tiles or, with X_FTQ, from finished tiles (R122, R124, log 109). -/
def packedElem (c : CmdWord) (inp : VsIn) (k r : Nat) : XElem :=
  if vsFtq c then
    match inp.fts[k / 1024]? with
    | some f => ⟨toStage (finishedElem f (k % 1024 / 32) (k % 32)), none⟩
    | none => ⟨freeStage r, none⟩
  else
    let size := tileSize (vsFmtX c)
    let cols := (tileShape (vsFmtX c)).2
    tileX (vsFmtX c) inp.xs[k / size]? (k % size / cols) (k % cols) r

/-- X at stream element `e`, which is (i, j) of tile `n`: under EXPAND the packed element that `e` takes, and a free value where it takes
none, since the spec states none (log 13). -/
def vsXAt (c : CmdWord) (st : List StageWord) (inp : VsIn) (n i j e r : Nat) : XElem :=
  if vsExpand st then
    (if maskBit inp.res (vsResOff c) e then packedElem c inp (maskRank inp.res (vsResOff c) e) r else ⟨freeStage r, none⟩)
  else vsX c st inp n i j r

/-- Operands of one element (R119). -/
def vsCtx (c : CmdWord) (st : List StageWord) (inp : VsIn) (x : FV) (n i j r : Nat) : ElemCtx :=
  { x := x
    y := if vsUses 2 st true then tileElem (vsFmtY c) inp.ys[n]? i j (r + 1) else .fin false 0
    row := if vsUses 4 st true then tileElem (bcFmt inp.bc.t) (some inp.bc) 0 j (r + 2) else .fin false 0
    col := if vsUses 5 st true then tileElem (bcFmt inp.bc.t) (some inp.bc) i 0 (r + 3) else .fin false 0 }

/-- What the stages after EXPAND, or all stages, start with at element `e`. The predicate before any CMP is not stated: free. -/
def vsStart (c : CmdWord) (st : List StageWord) (inp : VsIn) (ctx : ElemCtx) (e r : Nat) : StageVal :=
  if vsExpand st && !maskBit inp.res (vsResOff c) e then
    match st with
    | w :: _ => ⟨toStage (stageSrc ctx ctx.x w.imm w.srcB), r % 2 = 1, false⟩
    | [] => ⟨ctx.x, r % 2 = 1, true⟩
  else ⟨ctx.x, r % 2 = 1, true⟩

/-- The elementwise stages of a chain: without EXPAND in front and a reduction or COMPRESS behind. -/
def vsBody (st : List StageWord) : List StageWord :=
  let b := if vsExpand st then st.tail else st
  if vsTail st = 0 then b else b.dropLast

/-- What reaches the end of the chain at one element: the value that goes to the output or to the last stage's operand a, the
predicate, and the pattern of a NaN of X that reaches it as it was read and goes out in its own format at its own SCALE (R229). -/
structure VsElem where
  v    : FV
  p    : Bool
  kept : Option Nat
  deriving DecidableEq, Repr

/-- The pattern kept of an element of X that is copied into an output of format `fo` at scale `sOut`. -/
def keptPattern (c : CmdWord) (fo : Nat) (sOut : Int) (x : XElem) : Option Nat :=
  match x.pat with
  | some (w, sc) => if x.v = .nan ∧ [0, 1, 3, 4].contains fo ∧ fo = vsFmtX c ∧ sc = sOut then some w else none
  | none => none

/-- The chain at one element; `sOut` is the output's scale. -/
def vsElem (c : CmdWord) (st : List StageWord) (inp : VsIn) (sOut : Int) (fr : Nat → Nat) (n i j : Nat) : VsElem :=
  let (rows, cols) := vsGrid c st
  let e := (n * rows + i) * cols + j
  let r := fr (16 * e)
  let x := vsXAt c st inp n i j e r
  let ctx := vsCtx c st inp x.v n i j r
  let z := runStages ctx (fun k => fr (16 * e + k + 1)) (vsBody st) 0 (vsStart c st inp ctx e r)
  let keep (own : Bool) : Option Nat := if own then keptPattern c (vsFmtOut c) sOut x else none
  if vsTail st = 0 then ⟨z.v, z.p, keep z.own⟩
  else match st.getLast? with
    | some w => ⟨stageSrc ctx z.v w.imm w.srcA, z.p, keep (srcOwn z w.srcA)⟩
    | none => ⟨z.v, z.p, none⟩

/-- All elements of stream tile `n`, in row-major order. -/
def vsTile (c : CmdWord) (st : List StageWord) (inp : VsIn) (sOut : Int) (fr : Nat → Nat) (n : Nat) : List VsElem :=
  let (rows, cols) := vsGrid c st
  (List.range (rows * cols)).map fun e => vsElem c st inp sOut fr n (e / cols) (e % cols)

/-! ### Outputs (R121 to R126) -/

/-- An output tile being made: where, its values and kept patterns, its SAT. -/
structure VsOut where
  idx  : Nat
  vals : List FV
  kept : List (Option Nat)
  sat  : Bool
  deriving DecidableEq, Repr

/-- Tiles written so far by one command, newest first: what a later write of the same command finds. -/
def written (ws : List TileWrite) (t : Nat) (old : Tile) : Tile :=
  match ws.find? fun w => w.idx == t with
  | some w => w.tile
  | none => old

/-- Telemetry increments of an output conversion (R82). An output in format ACC counts as every other does: DESIGN CHOICE (log 110). -/
def convTel (code total : Nat) (e : TileEnc) : List (Nat × Nat) :=
  [(4 * code, total), (4 * code + 1, e.ovf), (4 * code + 2, e.unf), (4 * code + 3, e.nan)]

/-- One output tile converted and written with tag and glaze, an MX tile's block scales into its slot of its scale tile,
which the output tile's present tag names (R44, R126, R149, log 13). -/
def writeOut (fo : Nat) (sOut : Int) (isSealed : Bool) (old : Nat → Tile) (acc : List TileWrite × List (Nat × Nat))
    (o : VsOut) : List TileWrite × List (Nat × Nat) :=
  let (ws, tel) := acc
  let e := encodeTileKeep fo sOut o.vals o.kept
  let prev := (written ws o.idx (old o.idx)).tag
  let mx := isMx fo
  let tag := mkTag fo o.sat e.s (if mx then tagSlot prev else 0) 0 (if mx then tagDelta prev else 0)
  let ws := ⟨o.idx, Tile.make e.data tag, isSealed, none⟩ :: ws
  let ws := if !mx then ws
    else
      let si := scaleIdx o.idx prev
      let size := if fo = 0x9 then 128 else 64
      let d := patchAt (written ws si (old si)).data (tagSlot prev * size) (e.scales.map (BitVec.ofNat 8))
      ⟨si, Tile.make d (mkTag 0 false 0 0 1 0), isSealed, none⟩ :: ws
  (ws, tel ++ convTel fo o.vals.length e)

/-- The result area written into RES_TILE: merged, KIND 2, a new glaze (R121, R150). -/
def writeRes (c : CmdWord) (l : List Byte) (sat isSealed : Bool) (old : Nat → Tile) (ws : List TileWrite) :
    List TileWrite :=
  let t := written ws (vsResTile c) (old (vsResTile c))
  ⟨vsResTile c, Tile.make (patchAt t.data (vsResOff c) l) (mkTag 0 sat 0 0 2 0), isSealed, none⟩ :: ws

/-- The elements of row `i`, or column `j`, over all stream tiles in order. -/
def rowOf (cols i : Nat) (ts : List (List VsElem)) : List FV :=
  ts.flatMap fun t => ((t.drop (i * cols)).take cols).map (·.v)
def colOf (rows cols j : Nat) (ts : List (List VsElem)) : List FV :=
  ts.flatMap fun t => (List.range rows).map fun i => (t.getD (i * cols + j) ⟨.nan, false, none⟩).v

/-- What a reduction writes: its bytes, whether a result clamped, and what R82 counts. -/
structure Reduced where
  bytes : List Byte
  sat   : Bool
  tel   : List (Nat × Nat)
  deriving DecidableEq, Repr

/-- What R82 counts for results of format ACC: the statistics results, those that clamped, and those that lost a product. A row sum and
a row log-sum-exp count as statistics results, and a record of which both pairs clamped as one overflow: DESIGN CHOICE (log 110). -/
def accTel (total sat lost : Nat) : List (Nat × Nat) := [(44, total), (45, sat), (46, lost)]

/-- Sums that are written as pairs (R77, R81, R121). `prods` tells whether the values are products, of which one may be lost. -/
def reduceSums (prods : Bool) (n : Nat) (vals : Nat → List FV) : Reduced :=
  let ps := (List.range n).map fun k => ((vals k).foldl StatPair.add StatPair.zero).out
  ⟨ps.flatMap fun p => p.p.bytes, ps.any (·.sat),
    accTel n (ps.filter (·.sat)).length (if prods then (ps.filter (·.lost)).length else 0)⟩

/-- Values converted into a format and written one after another (R41, R50, R82). -/
def reduceConv (code : Nat) (vs : List FV) : Reduced :=
  let es := vs.map (encodeElem code)
  ⟨es.flatMap fun e => bytesLE (elemBits code / 8) e.1, code == 0xB && es.any (·.2.ovf),
    [(4 * code, es.length), (4 * code + 1, countFlag (·.ovf) es), (4 * code + 2, countFlag (·.unf) es), (4 * code + 3, countFlag (·.nan) es)]⟩

/-- A reduction over all stream tiles (R77 to R81, R120, R121). RMAX's two bytes are read as binary16 (log 13). -/
def reduceBytes (func rows cols : Nat) (sigma : Int) (ts : List (List VsElem)) (r : Nat) : Reduced :=
  if func = 0x20 then reduceSums false rows fun i => rowOf cols i ts
  else if func = 0x21 then
    reduceConv 0x1 ((List.range rows).map fun i => match rowOf cols i ts with
      | [] => FV.nan
      | v :: t => t.foldl (fun a b => fvMax a b r) v)
  else if func = 0x22 then reduceConv 0xB ((List.range rows).map fun i => rowLse (rowOf cols i ts))
  else if func = 0x23 then
    reduceSums true cols fun j => (colOf rows cols j ts).map fun v => let w := v.scale (-sigma); w.mul w
  else
    let ws := (List.range cols).map fun j => ((colOf rows cols j ts).map (FV.scale (-sigma))).foldl Welford.add Welford.zero
    let rs := ws.map fun w => w.record sigma
    ⟨rs.flatMap (·.bytes), rs.any (·.sat),
      accTel cols (rs.filter (·.sat)).length (ws.filter fun w => w.mean.lost || w.m2.lost).length⟩

/-- COMPRESS: the kept elements packed into tiles, the rest of the last one +0, and the mask (R122). -/
def compressOut (c : CmdWord) (st : List StageWord) (ts : List (List VsElem)) : List (List VsElem) × List Byte × Nat :=
  let els := ts.flatMap id
  let kept := els.filter (·.p)
  let size := tileSize (vsFmtOut c)
  let tiles := chunks size (ceilDiv kept.length size) kept
  let full := tiles.map fun t => t ++ List.replicate (size - t.length) ⟨FV.fin false 0, false, none⟩
  let mask := els.map fun e => b2n e.p
  (full, bytesLE (vsMaskBytes c st) (packElems 1 mask), kept.length)

namespace State

/-- The largest magnitude of a tile merged into a scale record's CUR_AMAX by the 32-bit unsigned max (R66, R126). -/
def mergeAmax (a : Nat) (vals : List FV) (s : State) : State :=
  let w := bf16Up (maxMag vals)
  if s.memNat (a + 0x20) 4 < w then s.putPart (a + 0x20) (bytesLE 4 w) else s

/-- Whether the DRAM tile that holds an address passes its glaze (R389). -/
def tileOk (s : State) (a : Nat) : Bool := (s.tile (a / 2048 * 2048)).ok

/-- The finished tiles a VSTREAM names, oldest entry of each tag. -/
def takeFtq (c : Core) (tags : List Nat) : List Finished := tags.filterMap fun t => c.ftq.find? fun f => f.tag == t

/-- The named entries consumed. -/
def dropFtq (i : Nat) (tags : List Nat) (s : State) : State :=
  s.modCore i fun c => { c with ftq := c.ftq.filter fun f => !tags.contains f.tag }

/-- The X tiles a VSTREAM reads: of the packed stream of an EXPAND those that its mask's elements fill (R122). -/
def vsXRead (s : State) (i : Nat) (c : CmdWord) (st : List StageWord) : List Nat :=
  let ts := vsXTiles c st
  if vsExpand st then
    ts.take (ceilDiv (maskRank (s.spTile i (vsResTile c)).data (vsResOff c) (vsElems c st)) (tileSize (vsFmtX c)))
  else ts

/-- The tiles a VSTREAM reads that are element tiles or masks. -/
def vsReads (s : State) (i : Nat) (c : CmdWord) (st : List StageWord) : List Nat :=
  s.vsXRead i c st ++ vsYTiles c st ++ vsBroadcast c st ++ (if vsExpand st then [vsResTile c] else [])

/-- What a VSTREAM reads, gathered. -/
def vsInput (s : State) (i : Nat) (c : CmdWord) (st : List StageWord) : VsIn :=
  let bc := s.spTile i (vsBcTile c)
  { xs := (s.vsXRead i c st).map (s.opTile i (vsFmtX c)), ys := (vsYTiles c st).map (s.opTile i (vsFmtY c))
    bc := s.opTile i (bcFmt bc) (vsBcTile c), res := (s.spTile i (vsResTile c)).data
    fts := takeFtq (s.core i) (vsTags c st) }

/-- The tiles a VSTREAM verifies (R154). -/
def vsVerified (s : State) (i : Nat) (c : CmdWord) (st : List StageWord) : List (Nat × Bool) :=
  (s.vsXRead i c st).flatMap (s.verified i (vsFmtX c)) ++ (vsYTiles c st).flatMap (s.verified i (vsFmtY c)) ++
    (vsBroadcast c st).flatMap (fun t => s.verified i (bcFmt (s.spTile i t)) t) ++
    (if vsExpand st then [(vsResTile c, false)] else [])

/-- s_out: the SCALE of OUT_SREC's record for binary16, FP8 and INT8 (R64, R126), else OUT_S. A record of another format keeps only its
history; that its output then takes OUT_S is DESIGN CHOICE (log 108). -/
def vsScale (s : State) (c : CmdWord) : Int :=
  if vsSrec c ≠ 0 ∧ [0x1, 0x3, 0x4, 0xA].contains (vsFmtOut c) then (SRec.read (s.bytes (vsSrec c) 64)).scale
  else signed 8 (c.u8 0x15)

/-- The chain run: its flight, and the merges into its scale record (R117 to R126). -/
def vsRun (i : Nat) (e : SbEntry) (st : List StageWord) (s : State) : State :=
  let c := e.q.cmd
  let inp := s.vsInput i c st
  let (rows, cols) := vsGrid c st
  let sOut := s.vsScale c
  let ts := (List.range (vsN c)).map (vsTile c st inp sOut s.fr)
  let used := 16 * vsN c * rows * cols
  let isSealed := (s.vsReads i c st).any (fun t => ((s.core i).attr t).isSealed) || inp.fts.any (·.isSealed)
  let srec := vsSrec c
  let old := s.spTile i
  let satOf (n : Nat) : Bool :=
    ((inp.fts.drop (n * vsEntriesPer c st)).take (vsEntriesPer c st)).any (·.sat)
  let busy := rows * cols / 32 * vsN c + 6 + 4 * c.u8 0x13
  let s' := ((s.dropFtq i (vsTags c st)).useFree (used + 2 * scaleFree)).modCore i fun k => k.bump (Reg.CORE_CNT_BUSY_COUNT 1) busy
  if vsTail st = 1 then
    let func := (st.getLast?.map (·.func)).getD 0
    let r := reduceBytes func rows cols (signed 8 (c.u8 0x14)) ts (s.fr used)
    s'.launch i e { Flight.start with
      fin := true, sat := r.sat, writes := writeRes c r.bytes r.sat isSealed old [], tel := r.tel }
  else
    let (outs, mask, kept) := if vsTail st = 2 then compressOut c st ts else (ts, [], 0)
    let anySat := inp.fts.any (·.sat)
    let vs := (outs.zip (vsOutTiles c st)).zip (List.range outs.length) |>.map fun p =>
      (⟨p.1.2, p.1.1.map (·.v), p.1.1.map (·.kept), if vsTail st = 2 then anySat else satOf p.2⟩ : VsOut)
    let (ws, tel) := vs.foldl (writeOut (vsFmtOut c) sOut isSealed old) ([], [])
    let ws := if vsTail st = 2 then writeRes c mask false isSealed old ws else ws
    let fl := { Flight.start with fin := true, count := kept, sat := anySat, writes := ws.reverse, tel := tel }
    if srec = 0 then s'.launch i e fl
    else if !s.tileOk srec then (s'.launchError i e memEGlaze).lineGlazeFail i
    else vs.foldl (fun s o => (s.mergeAmax srec o.vals).srecAtomic i srec) ((s'.srecMeter i [srec]).launch i e fl)

end State

/-- VSTREAM (R96, R117 to R126). -/
def execVstream (core seq : Nat) (s : State) : Host.Outcome State Fault Refusal :=
  match s.issuing core seq 0x20 with
  | none => .next s
  | some e =>
    let c := e.q.cmd
    let st := vsStages c e.q.ext
    if e.q.bad then .next (s.launchError core e coreEBadop)
    else if vsReserved e.q.v2 c e.q.ext then .refused (.undefinedBehaviour "R10")
    else if s.tileRefusal core e ≠ 0 then .next ((s.launchError core e (s.tileRefusal core e)).dropFtq core (vsTags c st))
    else if s.srecStatus core (vsSrec c) ≠ 0 then
      .next ((s.launchAddrError core e (s.srecStatus core (vsSrec c)) (vsSrec c)).dropFtq core (vsTags c st))
    else if (s.srecHeld core [vsSrec c]).isSome then .next (s.weirHold (s.core core).polder (vsSrec c))
    else match s.firstBad core (s.vsVerified core c st) with
      | some t => .next ((s.launchError core e coreEGlaze).glazeFail core t 1)
      | none => .next (s.vsRun core e st)

/-- The VEXT behind a queued VSTREAM joined to it: stages 4 to 11 (R96, R118). -/
def Core.joinExt (c : Core) (seq : Nat) (x : QEntry) : Core :=
  { c with queued := (c.queued.filter fun q => !(q.isExt && q.seq.toNat == seq)).map fun q =>
      if q.seq.toNat = seq then { q with ext := some x.cmd } else q }

/-- VEXT (R95, R96): the extension of a queued VSTREAM joins it; one that extends nothing completes with CORE_E_BADOP. -/
def execVext (core seq : Nat) (s : State) : Host.Outcome State Fault Refusal :=
  match (s.core core).queued.find? fun q => q.isExt && q.seq.toNat == seq with
  | some x => .next (s.modCore core fun c => c.joinExt seq x)
  | none =>
    match s.issuing core seq 0x22 with
    | some e => .next (s.launchError core e coreEBadop)
    | none => .next s

/-- VROLL (R67, R127, R569): the record of the address rolls over into the given step. -/
def execVroll (core seq : Nat) (s : State) : Host.Outcome State Fault Refusal :=
  match s.issuing core seq 0x21 with
  | none => .next s
  | some e =>
    let c := e.q.cmd
    let a := c.u64 0x10
    let st := if a = 0 then (match region 0 with
      | .dram p q => if (s.core core).polder < 8 ∧ s.chanOwner p q = (s.core core).polder then 0 else memEDike
      | _ => memEUnmapped) else s.srecStatus core a
    if e.q.bad then .next (s.launchError core e coreEBadop)
    else if st ≠ 0 then .next (s.launchAddrError core e st a)
    else if !s.weirPass (s.core core).polder atomicAccess a then .next (s.weirHold (s.core core).polder a)
    else
      let s := s.srecAtomic core a
      let r := (SRec.read (s.bytes a 64)).rollover (c.u32 0x08)
      .next ((s.putPart a r.write).launch core e { Flight.start with fin := true })

end Sys2Proof.Machine
end

