-- ==== Sys2Proof/Machine/Transfer.lean ====
section
/-! DEFINITION. The transfer engine: XMOVE (R128 to R131, R151, R371), XFILL (R132) and XATOM (R133, R385 to R390). -/

namespace Sys2Proof.Machine

/-- A far address of an XMOVE: tile `k` (R129). -/
def farAddr (c : CmdWord) (k : Nat) : Int := ((c.u64 0x10 : Nat) : Int) + signed 32 (c.u32 0x18) * k * 2048

/-- HINT of an XMOVE. -/
def xmHint (c : CmdWord) : Nat := bitsOf (c.u8 0x0B) 2 1

/-- A reserved value in an XMOVE (R10, R129). -/
def xmReserved (c : CmdWord) : Bool :=
  c.u8 0x0A == 0 || decide (192 < c.u8 0x0A) || decide (1 < xmHint c) || decide (2 ^ 44 ≤ c.u64 0x10)

/-- Whether an address lies in the scratchpad range (R29, R131). -/
def inScratchRange (a : Int) : Bool := decide (0x10000000000 ≤ a) && decide (a < 0x10100000000)

/-- How an XMOVE uses a slice (R381, R384). -/
def xmAccess (c : CmdWord) : State.Access := ⟨xmOut c, xmHint c == 0, false, false⟩

namespace State

/-- The status a far tile of a core stops an XMOVE with; 0 when the tile moves (R131, R371, R443). The control window is no
far side (R128): DEDUCED, unmapped for the engine (log 17). -/
def farStatus (s : State) (i : Nat) (a : Int) : Nat :=
  if a < 0 ∨ 2 ^ 44 ≤ a then memEUnmapped
  else if inScratchRange a then coreEBadaddr
  else match region a.toNat with
    | .dram st ch =>
      if s.ownsAddr (s.core i).polder a.toNat then (if s.stackLost i st ch then lnkEQuarantine else 0) else memEDike
    | .host => 0
    | _ => memEUnmapped

/-- The host bus address of a host tile's metadata record in the table at `base` (R151). -/
def hostTagAddr (base : Nat) (a : Nat) : Nat := hostAddr (base * 4096 + a % 0x80000000000 / 2048 * 16)

/-- Whether the metadata record of a host tile lies where the device cannot reach it (R31): the tile then moves as an unmapped one
does (log 111). -/
def tagUnmapped (base : Nat) (a : Int) : Bool :=
  base != 0 && region a.toNat == .host && decide (2 ^ 44 ≤ hostTagAddr base a.toNat)

/-- A far tile with its metadata record; a host tile without a host tag table, as every master but XMOVE sees it, is raw bytes with a
new glaze (R149, R151). -/
def farTile (s : State) (base a : Nat) : Tile :=
  match region a with
  | .host =>
    if base = 0 then Tile.make (s.bytes a 2048) (mkTag 0 false 0 0 2 0)
    else
      ⟨s.bytes a 2048, BitVec.ofNat 64 (s.memNat (hostTagAddr base a) 8), BitVec.ofNat 64 (s.memNat (hostTagAddr base a + 8) 8)⟩
  | _ => s.tile a

/-- A tile written to a far address with its metadata record (R128, R151). -/
def putFar (base a : Nat) (t : Tile) (s : State) : State :=
  match region a with
  | .host =>
    let s := s.putBytes a (padTo 2048 t.data)
    if base = 0 then s else s.putBytes (hostTagAddr base a) (bytesLE 8 t.tag.toNat ++ bytesLE 8 t.glaze.toNat)
  | _ => s.putTile a t

/-- One tile of an XMOVE: into the flight's writes, or to the far side at once (R128, R130, R155). -/
def moveTile (i : Nat) (c : CmdWord) (a : Nat) (f : Flight) (s : State) : Flight × State :=
  let t := strideTile (c.u8 0x08) (signed 8 (c.u8 0x09)) f.count
  let s := s.meter (s.core i).polder (xmAccess c) a
  if xmOut c then ({ f with count := f.count + 1 }, s.putFar f.stamp a (s.spTile i t))
  else
    ({ f with count := f.count + 1, writes := f.writes ++ [⟨t, s.farTile f.stamp a, s.inSaggar a, some a⟩] }, s)

/-- The status the next far tile of an XMOVE stops it with. -/
def moveStatus (s : State) (i : Nat) (f : Flight) (a : Int) : Nat :=
  let st := s.farStatus i a
  if st = 0 ∧ tagUnmapped f.stamp a then memEUnmapped else st

/-- Tiles of an XMOVE in index order, until `n` have moved, all have, one stops it (R131, R371), a weir holds it, or one on a channel
lent to a kiln is undefined behaviour (R331): then none. -/
def moveTiles (i : Nat) (c : CmdWord) : Nat → Flight → State → Option (Flight × State)
  | 0, f, s => some (if c.u8 0x0A ≤ f.count then { f with fin := true } else f, s)
  | n + 1, f, s =>
    if c.u8 0x0A ≤ f.count then some ({ f with fin := true }, s)
    else
      let a := farAddr c f.count
      let st := s.moveStatus i f a
      if st ≠ 0 then
        some ({ f with fin := true, status := st }, if st = memEDike then s.dikeFail 0 (s.core i).polder a.toNat else s)
      else if s.lendsNow i a.toNat then none
      else if !s.weirPass (s.core i).polder (xmAccess c) a.toNat then some (f, s.weirHold (s.core i).polder a.toNat)
      else
        let (f, s) := s.moveTile i c a.toNat f
        moveTiles i c n f s

/-- An XMOVE moves up to `n` more of its tiles. -/
def runXmove (i n : Nat) (e : SbEntry) (f : Flight) (s : State) : Host.Outcome State Fault Refusal :=
  match s.moveTiles i e.q.cmd n f with
  | some (f, s) => .next (s.setFlight i e.q.seq f)
  | none => .refused (.undefinedBehaviour "R331")

end State

/-- XMOVE (R128 to R131): the command issues, or goes on; it moves up to `tiles` of its tiles in this step. -/
def execXmove (core seq tiles : Nat) (s : State) : Host.Outcome State Fault Refusal :=
  match s.going core seq 0x30 with
  | some (e, f) => s.runXmove core tiles e f
  | none =>
    match s.issuing core seq 0x30 with
    | none => .next s
    | some e =>
      let c := e.q.cmd
      if xmReserved c then .refused (.undefinedBehaviour "R10")
      else if s.tileRefusal core e ≠ 0 then .next (s.launchError core e (s.tileRefusal core e))
      else if inScratchRange (c.u64 0x10 : Nat) || c.u64 0x10 % 2048 != 0 then .next (s.launchError core e coreEBadaddr)
      else
        let f := { Flight.start with stamp := s.getF Reg.MGT_HOST_TAG_BASE_BASE }
        (s.launch core e f).runXmove core tiles e f

/-- A reserved value in an XFILL (R10, R132). -/
def xfReserved (v2 : Bool) (c : CmdWord) : Bool :=
  c.u8 0x0A == 0 || decide (192 < c.u8 0x0A) || decide (15 < c.u8 0x12) ||
    fmtReserved (c.u8 0x12) || (v2 && isMx (c.u8 0x12))

/-- A tile filled with a 16-bit pattern (R132, R149). -/
def fillTile (pattern fmt : Nat) : Tile :=
  Tile.make ((List.replicate 1024 (bytesLE 2 pattern)).flatten) (mkTag fmt false 0 0 0 0)

/-- XFILL (R132): tiles of one pattern; SEALED is cleared. -/
def execXfill (core seq : Nat) (s : State) : Host.Outcome State Fault Refusal :=
  match s.issuing core seq 0x32 with
  | none => .next s
  | some e =>
    let c := e.q.cmd
    if xfReserved e.q.v2 c then .refused (.undefinedBehaviour "R10")
    else if s.tileRefusal core e ≠ 0 then .next (s.launchError core e (s.tileRefusal core e))
    else
      let t := fillTile (c.u16 0x10) (c.u8 0x12)
      .next (s.launch core e { Flight.start with
        fin := true, count := c.u8 0x0A, writes := (xfTiles c).map fun k => ⟨k, t, false, none⟩ })

/-! ### XATOM -/

def xaOp (c : CmdWord) : Nat := bitsOf (c.u8 0x0C) 3 0
def xaWide (c : CmdWord) : Bool := bitOf (c.u8 0x0C) 4
def xaFetch (c : CmdWord) : Bool := bitOf (c.u8 0x0C) 5
def xaCount (c : CmdWord) : Nat := c.u16 0x0A
def xaTarget (c : CmdWord) : Nat := c.u64 0x10
/-- OPND_TILE, modulo 192 as the numbers of a run are (log 105). -/
def xaOpndTile (c : CmdWord) : Nat := c.u8 0x08 % 192
/-- Bytes of a target element, and of an operand element (R385). -/
def xaSize (c : CmdWord) : Nat := if xaWide c then 8 else 4
def xaOpnd (c : CmdWord) : Nat := if xaOp c = 6 then 16 else xaSize c

/-- A reserved value in an XATOM (R10, R133, R385, R390). -/
def xaReserved (c : CmdWord) : Bool :=
  decide (8 < xaOp c) || (xaOp c == 6 && !xaWide c) || bitsOf (c.u8 0x0C) 7 6 != 0

/-- The cases of R390 that need no look at the ways. -/
def xaBad (c : CmdWord) : Bool :=
  xaCount c == 0 || decide ((if xaWide c then 256 else 512) < xaCount c) || (xaOp c == 6 && decide (128 < xaCount c)) ||
    (decide (7 ≤ xaOp c) && xaWide c) || decide (2048 < xaTarget c % 2048 + xaCount c * xaSize c)

/-- The new value of one integer element (R133, R385). -/
def atomInt (op n : Nat) (old opnd cas : Nat) : Nat :=
  let m := 2 ^ n
  match op with
  | 0 => (old + opnd) % m
  | 1 => if signed n opnd < signed n old then opnd % m else old
  | 2 => min old (opnd % m)
  | 3 => if signed n old < signed n opnd then opnd % m else old
  | 4 => max old (opnd % m)
  | 5 => opnd % m
  | _ => if old = opnd % m then cas % m else old

/-- The new pair of an element of OP 7 or 8, and whether it clamped (R386, R387). -/
def atomPair (op : Nat) (sigma : Int) (old opnd : Nat) : Nat × Bool :=
  let p := AccPair.load ⟨BitVec.ofNat 16 old, BitVec.ofNat 16 (old / 65536), false, false⟩
  let x := fmtB16.decode (opnd % 65536)
  let q := if op = 7 then pairAdd (pairAdd p x) (fmtB16.decode (opnd / 65536 % 65536))
    else (let y := x.scale (-sigma); addSplit p (y.mul y))
  match q.ovf with
  | some neg => (numLE (clampPair neg).bytes, true)
  | none => (numLE q.bytes, false)

/-- What an XATOM carries from element to element: the state, prior values, and clamps. -/
structure AtomRun where
  s     : State
  prior : List Byte
  deriving DecidableEq, Repr

namespace State

/-- The additions of an OP 7 or 8 counted in its sector; at each 16th the sector's touched pairs are renormalised (R387). -/
def countAdds (st a : Nat) (s : State) : State :=
  match s.lineOf st a with
  | none => s
  | some l =>
    let w := a % 2048 / 4
    let sec := w / 64
    let adds := (List.range 8).map fun k => l.adds.getD k 0
    let touched := if l.touched.contains w then l.touched else l.touched ++ [w]
    let n := adds.getD sec 0 + 2
    let put (l' : Line) (s : State) : State :=
      s.setLines st a ((s.lines st a).map fun m => if m.addr = l'.addr then l' else m)
    if n < 16 then put { l with adds := adds.set sec n, touched := touched } s
    else
      put { l with adds := adds.set sec 0, touched := touched.filter fun w => w / 64 != sec }
        (s.renormWords st l.addr (touched.filter fun w => w / 64 == sec))

/-- One element (R385 to R388). -/
def atomElem (st : Nat) (c : CmdWord) (opnd : List Byte) (r : AtomRun) (e : Nat) : AtomRun :=
  let n := xaSize c
  let a := xaTarget c + e * n
  let old := r.s.memNat a n
  let x := numAt opnd (e * xaOpnd c) n
  let prior := r.prior ++ bytesLE n old
  let s := r.s.bump (Reg.MEM_CNT_ATOM_ELEM_COUNT st) 1
  if 7 ≤ xaOp c then
    let (v, clamped) := atomPair (xaOp c) (signed 8 (c.u8 0x18)) old x
    let s := (s.putBytes a (bytesLE n v)).countAdds st a
    ⟨if clamped then s.bump (Reg.MEM_CNT_ATOM_SAT_COUNT st) 1 else s, prior⟩
  else ⟨s.putBytes a (bytesLE n (atomInt (xaOp c) (8 * n) old x (numAt opnd (e * 16 + 8) 8))), prior⟩

/-- A fill that allocates no line leaves a transient copy (R382): it stands as a line of no way while the elements apply. -/
def atomEnter (st a : Nat) (s : State) : State :=
  if (s.lineOf st a).isSome then s else s.setLines st a (⟨16, a / 2048 * 2048, false, [], []⟩ :: s.lines st a)

/-- A transient copy leaves the slice, its touched pairs renormalised (R382, R387). -/
def atomLeave (st a : Nat) (s : State) : State :=
  match s.lineOf st a with
  | some l =>
    if l.way = 16 then (s.renormWords st l.addr l.touched).setLines st a ((s.lines st a).filter fun m => m.way != 16) else s
  | none => s

/-- The elements applied in order in the slice of stack `st` (R385 to R389). -/
def runAtom (i st : Nat) (e : SbEntry) (s : State) : State :=
  let c := e.q.cmd
  let base := xaTarget c / 2048 * 2048
  let s := s.meter (s.core i).polder atomicAccess (xaTarget c)
  if !(s.tile base).ok then (s.launchError i e memEGlaze).lineGlazeFail i
  else
    let opnd := (s.spTile i (xaOpndTile c)).data
    let r := (List.range (xaCount c)).foldl (atomElem st c opnd) ⟨s.atomEnter st base, []⟩
    let s := if (s.lineOf st base).isSome then r.s else r.s.atomLeave st base
    let tag := (s.metaAt base).1
    let s := s.putMeta base (tag, glazeOf (s.bytes base 2048) tag)
    let isSealed := s.inSaggar base || ((s.core i).attr (xaOpndTile c)).isSealed
    let w : TileWrite := ⟨c.u8 0x09 % 192, Tile.make (padTo 2048 r.prior) (mkTag 0 false 0 0 2 0), isSealed, none⟩
    s.launch i e { Flight.start with fin := true, writes := if xaFetch c then [w] else [] }

/-- The status that refuses an XATOM before its operand is read; 0 when it runs (R133, R371, R384, R390, R443). -/
def atomStatus (s : State) (i : Nat) (c : CmdWord) : Nat :=
  if inScratchRange (xaTarget c : Nat) || xaTarget c % xaSize c != 0 then coreEBadaddr
  else match region (xaTarget c) with
    | .scratch _ | .control | .host => coreEBadaddr
    | .unmapped => memEUnmapped
    | .dram st ch =>
      if !s.ownsAddr (s.core i).polder (xaTarget c) then memEDike
      else if xaBad c || (s.waysOf st (s.core i).polder).isEmpty then memEAtom
      else if s.stackLost i st ch then lnkEQuarantine
      else 0

end State

/-- XATOM (R133, R385 to R390). -/
def execXatom (core seq : Nat) (s : State) : Host.Outcome State Fault Refusal :=
  match s.issuing core seq 0x31 with
  | none => .next s
  | some e =>
    let c := e.q.cmd
    if xaReserved c then .refused (.undefinedBehaviour "R10")
    else if s.lendsNow core (xaTarget c) then .refused (.undefinedBehaviour "R331")
    else if s.tileRefusal core e ≠ 0 then .next (s.launchError core e (s.tileRefusal core e))
    else if s.atomStatus core c ≠ 0 then .next (s.launchAddrError core e (s.atomStatus core c) (xaTarget c))
    else if !(s.spTile core (xaOpndTile c)).ok then
      .next ((s.launchError core e coreEGlaze).glazeFail core (xaOpndTile c) 2)
    else if !s.weirPass (s.core core).polder atomicAccess (xaTarget c) then
      .next (s.weirHold (s.core core).polder (xaTarget c))
    else .next (s.runAtom core (xaTarget c / 0x1000000000) e)

end Sys2Proof.Machine
end

