-- ==== Sys2Proof/Machine/Message.lean ====
section
/-! DEFINITION. The message engine and the channels (ch 4): records and packets (R165 to R171), MSEND, MRECV, MFLUSH, what arrives
at a context (R170, R171, R174, R178, R180, R181), opening and closing (R179, R181) and reply timeouts (R185). -/

namespace Sys2Proof.Machine

/-! ### Records (R166, R167, R170) -/

/-- Units of a tile message of n tiles, and of a byte message. -/
def tileUnits (n : Nat) : Nat := 1 + ceilDiv n 4 + 32 * n
def byteUnits (len : Nat) : Nat := 1 + ceilDiv len 64

/-- SRC of a header, PEER of a descriptor (R161, R166). -/
def ctxIdBits (c : CtxId) : Nat := c.ctx % 128 + c.core % 8192 * 2 ^ 7 + c.pkg % 16384 * 2 ^ 20

/-- The 64 bytes of a record's header (R166). -/
def headerBytes (r : ChnRecord) : List Byte :=
  bytesLE 1 r.typ ++ bytesLE 1 (b2n r.isSealed + 4 * b2n r.request) ++ bytesLE 2 r.epoch ++ bytesLE 2 r.units ++
    bytesLE 2 r.ntiles ++ bytesLE 4 r.len ++ bytesLE 4 r.msgSeq ++ bytesLE 8 (ctxIdBits r.src) ++ bytesLE 8 r.tide ++
    bytesLE 8 r.pcrc.toNat ++ List.replicate 24 0

/-- The metadata block of a tile message, padded to whole units (R167). -/
def metaBlock (ms : List (DWord × DWord)) : List Byte :=
  padTo (64 * ceilDiv ms.length 4) (ms.flatMap fun m => bytesLE 8 m.1.toNat ++ bytesLE 8 m.2.toNat)

/-- Packets of a record (R170). -/
def packetsOf (r : ChnRecord) : Nat :=
  if r.typ = 0x0F then 1 else if r.typ = 2 then 1 + r.ntiles else 1 + ceilDiv r.len 2048

/-- Packet `k` of a record: its place in units from the record's start, and its bytes in whole units. -/
def packetOf (r : ChnRecord) (k : Nat) : Nat × List Byte :=
  if k = 0 then
    (0, if r.typ = 0x0F then headerBytes { r with src := ⟨0, 0, 0⟩, tide := 0, msgSeq := 0 }
        else headerBytes r ++ (if r.typ = 2 then metaBlock r.metas else []))
  else
    let first := if r.typ = 2 then 1 + ceilDiv r.ntiles 4 else 1
    let l := (r.payload.drop (2048 * (k - 1))).take 2048
    (first + 32 * (k - 1), padTo (64 * ceilDiv l.length 64) l)

namespace State

/-- The device address of a unit of a ring (R165): ring tiles are consecutive modulo 192. -/
def ringAddr (i : Nat) (k : Ctx) (u : Nat) : Nat := tileAddr i (ctxRingTile k + u / 32) + u % 32 * 64

/-- Bytes read from a ring, unit by unit. -/
def ringRead (s : State) (i : Nat) (k : Ctx) (u n : Nat) : List Byte :=
  (List.range n).flatMap fun j => s.bytes (ringAddr i k (u + j)) 64

/-- Bytes written to a ring, unit by unit: partial writes of its tiles (R150). -/
def ringWrite (i : Nat) (k : Ctx) (u : Nat) (l : List Byte) (s : State) : State :=
  (List.range (l.length / 64)).foldl (fun s j => s.putPart (ringAddr i k (u + j)) ((l.drop (64 * j)).take 64)) s

/-- Destination and source of a channel's item. -/
def pktEnds : Pkt → Option (CtxId × CtxId)
  | .chn r => some (r.dst, r.src)
  | .chnAck d t _ _ _ _ => some (d, t)
  | .chnCredit d t _ => some (d, t)
  | .openNotice d t _ _ => some (d, t)
  | .closedNotice d t _ => some (d, t)
  | _ => none

/-- A lane packet from one context to another (R413, R414). -/
def chnPkt (d t : CtxId) (ptype : Nat) (isSealed : Bool) (aux : Nat) (pl : List Byte) : LanePkt :=
  ⟨ptype, isSealed, false, 0, d.pkg, d.ctx + d.core * 128, laneSrc t.ctx t.core t.pkg, aux, pl⟩

/-- The lane packets that carry an item: a record as its packets (R170), everything else as one (R171, R174, R180, R181). -/
def lanePkts : Pkt → List LanePkt
  | .chn r => (List.range (packetsOf r)).map fun k => chnPkt r.dst r.src 1 r.isSealed 0 (packetOf r k).2
  | .chnAck d t st ep op le =>
    [{ chnPkt d t 2 false (st % 65536 + ep % 65536 * 65536 + b2n op * 2 ^ 32) [] with resp := true, lepoch := le }]
  | .chnCredit d t u => [chnPkt d t 3 false u []]
  | .openNotice d t ep ru => [chnPkt d t 4 false (1 + ep % 65536 * 65536 + ru * 2 ^ 32) []]
  | .closedNotice d t ep => [chnPkt d t 4 false (2 + ep % 65536 * 65536) []]
  | _ => []

/-- Whether what a context of this package sends back may travel: its core is in a slot that owns the channel's route (R175). -/
def revOwned (s : State) (src : CtxId) : Bool :=
  src.pkg != s.pkgId || s.ownsRoute src.core (ctxRoute ((s.core src.core).ctx src.ctx))

/-- The lane port and VC that a context's route ends at. -/
def ctxLane (s : State) (c : CtxId) : Option (Nat × Nat) := s.routeLane (dieOf c.core) (ctxRoute ((s.core c.core).ctx c.ctx))

/-- An item put on its way by a context of this package: inside the package it travels the mesh; to another package it goes
out on the lane of the context's route, what travels in the reverse direction only in a slot that owns the route (R175). -/
def emit (p : Pkt) (s : State) : State :=
  match (pktEnds p).bind fun (d, t) => if d.pkg = s.pkgId then none else (s.ctxLane t).map fun l => (t, l) with
  | none => { s with net := s.net ++ [p] }
  | some (t, port, v) =>
    match p with
    | .chn _ => (lanePkts p).foldl (fun s q => s.sendLane port v q) s
    | _ => if s.revOwned t then (lanePkts p).foldl (fun s q => s.sendLane port v q) s else { s with net := s.net ++ [p] }

/-- An item put on its way at once: the reset of its core leaves it no slot to wait for (log 118). -/
def emitNow (p : Pkt) (s : State) : State :=
  match (pktEnds p).bind fun (d, t) => if d.pkg = s.pkgId then none else s.ctxLane t with
  | none => { s with net := s.net ++ [p] }
  | some (port, v) => (lanePkts p).foldl (fun s q => s.sendLane port v q) s

/-- What a core's contexts have waiting for another package sent, now that a slot may own their routes (R175). -/
def releaseRev (i : Nat) (s : State) : State :=
  let mine (p : Pkt) : Bool := (pktEnds p).any fun (d, t) =>
    d.pkg != s.pkgId && t.pkg == s.pkgId && t.core == i && s.revOwned t && (s.ctxLane t).isSome
  let go := s.net.filter mine
  go.foldl (fun s p => s.emit p) { s with net := s.net.filter fun p => !mine p }

/-- This package's name for a context of one of its cores. -/
def ctxId (s : State) (i n : Nat) : CtxId := ⟨s.pkgId, i, n⟩

def modCtx (i n : Nat) (f : Ctx → Ctx) (s : State) : State := s.modCore i fun c => c.setCtx n (f (c.ctx n))

/-- The flights of some commands of a core end with a status. -/
def endFlights (i status : Nat) (seqs : List (BitVec 16)) (s : State) : State :=
  s.modCore i fun c => { c with sb := c.sb.map fun e =>
    if (seqs.contains e.q.seq && e.flight.isSome && !(e.flight.map (·.fin)).getD true) = true then
      { e with flight := e.flight.map fun f => { Flight.start with order := f.order, fin := true, status := status } }
    else e }

/-- The numbers of a context's MSENDs in flight whose record is on its way. -/
def sentOn (s : State) (i n : Nat) : List (BitVec 16) :=
  ((s.core i).sb.filter fun e => opcodeOf e.q.cmd == 0x40 && e.q.cmd.u8 8 % 128 == n &&
    (match e.flight with
    | some f => f.sent && !f.fin
    | none => false)).map (·.q.seq)

/-- Units of a receive context in use. -/
def ctxFree (k : Ctx) : Nat := 32 * ctxRingTiles k - k.fill

/-! ### Consumption (R172 to R174) -/

/-- Units returned to the sender as credits (R174). -/
def returnUnits (i n units : Nat) (s : State) : State :=
  let k := (s.core i).ctx n
  s.emit (.chnCredit (ctxPeer k) (s.ctxId i n) units)

/-- Pads at the front of a ring skipped, their units returned (R174), at most as many as given. -/
def skipSome (i n : Nat) : Nat → State → State
  | 0, s => s
  | fuel + 1, s =>
    let k := (s.core i).ctx n
    match k.recs with
    | r :: t =>
      if r.isPad ∧ r.isWhole then
        skipSome i n fuel ((s.modCtx i n fun k =>
          { k with recs := t, rd := (r.start + r.units) % max 1 (32 * ctxRingTiles k) }).returnUnits i n r.units)
      else s
    | [] => s

/-- Every pad at the front of a ring skipped (R174). -/
def skipPads (i n : Nat) (s : State) : State := s.skipSome i n ((s.core i).ctx n).recs.length

/-- The front record of a ring consumed. -/
def consume (i n : Nat) (r : RingRec) (s : State) : State :=
  let s := (s.modCtx i n fun k =>
    { k with recs := k.recs.tail, rd := (r.start + r.units) % max 1 (32 * ctxRingTiles k) }).returnUnits i n r.units
  s.skipPads i n

/-! ### MSEND (R168, R169, R185) -/

/-- Bytes of the tiles an MSEND names. -/
def msgBytes (s : State) (i : Nat) (c : CmdWord) : List Byte := (msgTiles c).flatMap fun t => (s.spTile i t).data

def msgLen (c : CmdWord) : Nat := c.u32 0x0C

/-- The record of an MSEND. -/
def recordFor (s : State) (i : Nat) (e : SbEntry) (stamp : Nat) : ChnRecord :=
  let c := e.q.cmd
  let n := c.u8 8 % 128
  let k := (s.core i).ctx n
  let len := msgLen c
  let pl := if len = 0 then s.msgBytes i c else (s.msgBytes i c).take len
  { dst := ctxPeer k, src := s.ctxId i n, typ := if len = 0 then 2 else 1
    isSealed := (msgTiles c).any fun t => ((s.core i).attr t).isSealed
    request := ctxReplyExpected k && decide (n < 64), epoch := k.epoch.toNat
    units := if len = 0 then tileUnits (c.u8 0x0A) else byteUnits len
    ntiles := if len = 0 then c.u8 0x0A else 0, len := len, msgSeq := k.msgSeq.toNat, tide := stamp
    pcrc := if len = 0 then 0 else crc64 pl
    metas := if len = 0 then (msgTiles c).map fun t => ((s.spTile i t).tag, (s.spTile i t).glaze) else []
    payload := pl, arrived := 0, cut := false }

/-- A pad record to the ring's end (R167). -/
def padFor (s : State) (i n : Nat) (tail : Nat) : ChnRecord :=
  let k := (s.core i).ctx n
  { dst := ctxPeer k, src := s.ctxId i n, typ := 0x0F, isSealed := false, request := false
    epoch := k.epoch.toNat, units := tail, ntiles := 0, len := 0, msgSeq := 0, tide := 0, pcrc := 0, metas := []
    payload := [], arrived := 0, cut := false }

/-- Units charged to a send context, and its write pointer moved (R169). -/
def charge (i n units wr : Nat) (s : State) : State :=
  (s.modCtx i n fun k => { k with credits := k.credits - units, wr := wr }).modCore i fun c =>
    c.bump Reg.CHN_CNT_UNITS_SENT_COUNT units

/-- A record placed that waits for its acknowledgement, with its MSEND (R171). -/
def noteRecord (i n : Nat) (q : Option (BitVec 16)) (r : ChnRecord) (s : State) : State :=
  s.modCtx i n fun k => { k with unacked := k.unacked ++ [⟨q, r.typ == 0x0F, r.epoch, r.units, packetsOf r⟩] }

/-- The pad written where a record does not fit the ring's tail, once the credits for it are there (R169). -/
def placePad (i n units : Nat) (s : State) : State :=
  let k := (s.core i).ctx n
  let tail := k.ringUnits - k.wr
  if tail < units ∧ tail ≤ k.credits then
    (((s.emit (.chn (s.padFor i n tail))).noteRecord i n none (s.padFor i n tail)).charge i n tail 0).modCore i fun c =>
      c.bump Reg.CHN_CNT_PADS_COUNT 1
  else s

/-- An issued MSEND goes on (R169): it is first in its context's line, the context is OPEN, the route lets its packets in (R418,
R443, R504), an outstanding request is free (R185), the credits are there; its input tiles pass their glazes when it is a byte message (R154); then its record is placed,
and with it the request of a context that expects a reply (R185). Otherwise it waits; cycles spent waiting for credits or for OPEN are
counted (R169). -/
def runSend (i : Nat) (e : SbEntry) (f : Flight) (s : State) : State :=
  let c := e.q.cmd
  let n := c.u8 8 % 128
  let k := (s.core i).ctx n
  let u := if msgLen c = 0 then tileUnits (c.u8 0x0A) else byteUnits (msgLen c)
  let isSealed := (msgTiles c).any fun t => ((s.core i).attr t).isSealed
  let out (st : Nat) (s : State) : State :=
    (s.modCtx i n fun k => { k with waiting := k.waiting.filter fun q => q != e.q.seq }).setFlight i e.q.seq
      { Flight.start with fin := true, status := st }
  let hold (s : State) : State :=
    (s.modCore i fun c => c.bump Reg.CHN_CNT_CREDIT_WAIT_COUNT (s.fr 0)).useFree 1
  if k.state = .closed ∨ k.state = .off then out chnEClosed s
  else if k.state = .opening ∨ k.waiting.head? ≠ some e.q.seq then hold s
  else if s.routeStatus (dieOf i) (ctxRoute k) 1 isSealed ≠ 0 then out (s.routeStatus (dieOf i) (ctxRoute k) 1 isSealed) s
  else if k.ringUnits < u then out chnETooLong s
  else if ctxReplyExpected k ∧ n < 64 ∧ 64 ≤ k.outstanding.length then s
  else
    let bad := if msgLen c = 0 then none else (msgTiles c).find? fun t => !(s.spTile i t).ok
    match bad with
    | some t => (out coreEGlaze s).glazeFail i t 2
    | none =>
      let s := s.placePad i n u
      let k := (s.core i).ctx n
      if k.ringUnits - k.wr < u ∨ k.credits < u then hold s
      else
        let r := s.recordFor i e f.stamp
        let s := ((s.emit (.chn r)).noteRecord i n (some e.q.seq) r).charge i n u ((k.wr + u) % k.ringUnits)
        (s.modCtx i n fun k => { k with
            waiting := k.waiting.tail, msgSeq := k.msgSeq + 1
            outstanding := if ctxReplyExpected k ∧ n < 64 then k.outstanding ++ [(e.q.seq, none)] else k.outstanding }).setFlight i e.q.seq
          { f with sent := true, count := if msgLen c = 0 then 2048 * c.u8 0x0A else msgLen c }

end State

/-- A reserved value in a message command: a context above 127 (R10). -/
def msgReserved (c : CmdWord) : Bool := decide (127 < c.u8 8)

/-- MSEND (R168, R169, R171): the command issues, or goes on waiting; it ends when its acknowledgement arrives. -/
def execMsend (core seq : Nat) (s : State) : Host.Outcome State Fault Refusal :=
  match s.going core seq 0x40 with
  | some (e, f) => if f.sent then .next s else .next (s.runSend core e f)
  | none =>
    match s.issuing core seq 0x40 with
    | none => .next s
    | some e =>
      let c := e.q.cmd
      let k := (s.core core).ctx (c.u8 8 % 128)
      if msgReserved c then .refused (.undefinedBehaviour "R10")
      else if c.u8 0x0A = 0 ∨ 64 < c.u8 0x0A ∨ c.u8 0x0A * 2048 < State.msgLen c then .next (s.launchError core e chnEBadlen)
      else if ctxRole k ≠ 1 then .next (s.launchError core e chnERole)
      else if s.tileRefusal core e ≠ 0 then .next (s.launchError core e (s.tileRefusal core e))
      else
        let f := { Flight.start with stamp := s.now }
        .next (((s.launch core e f).modCtx core (c.u8 8 % 128) fun k =>
          { k with waiting := k.waiting ++ [e.q.seq] }).runSend core e f)

namespace State

/-- What an MRECV makes of the message at the front of its ring (R173): the flight it ends with and whether the record is
consumed; `none` while nothing whole is there. -/
def recvMessage (s : State) (i : Nat) (c : CmdWord) (k : Ctx) : Option (Flight × RingRec × Bool) :=
  match k.recs with
  | [] => none
  | r :: _ =>
    if r.isPad || !r.isWhole then none
    else
      let ring := 32 * ctxRingTiles k
      let h := s.ringRead i k r.start 1
      let typ := numAt h 0 1
      let ntiles := numAt h 6 2
      let len := numAt h 8 4
      let isSealed := bitOf (numAt h 1 1) 0
      let body := s.ringRead i k (r.start + 1) (r.units - 1)
      let outs := msgTiles c
      if typ = 2 then
        let need := ntiles
        if c.u8 0x0A < need then
          some ({ Flight.start with fin := true, status := chnEShort, count := 2048 * need }, r, false)
        else
          let data := body.drop (64 * ceilDiv ntiles 4)
          let ws := (List.range need).map fun j =>
            let t : Tile := ⟨(data.drop (2048 * j)).take 2048, BitVec.ofNat 64 (numAt body (16 * j) 8), BitVec.ofNat 64 (numAt body (16 * j + 8) 8)⟩
            (⟨outs.getD j 0, t, isSealed, none⟩ : TileWrite)
          some ({ Flight.start with fin := true, count := 2048 * need, writes := ws }, r, decide (0 < ring))
      else
        let need := ceilDiv len 2048
        if c.u8 0x0A < need then
          some ({ Flight.start with fin := true, status := chnEShort, count := len }, r, false)
        else if crc64 (body.take len) ≠ BitVec.ofNat 64 (numAt h 0x20 8) then
          some ({ Flight.start with fin := true, status := chnECorrupt, count := len }, r, true)
        else
          let data := body.take len
          let ws := (List.range need).map fun j =>
            (⟨outs.getD j 0, Tile.make (padTo 2048 ((data.drop (2048 * j)).take 2048)) (mkTag 0 false 0 0 2 0), isSealed, none⟩ :
              TileWrite)
          some ({ Flight.start with fin := true, count := len, writes := ws }, r, true)

/-- An issued MRECV goes on (R172, R185): when it is first in its context's line it takes the message at the ring's front,
or the timeout that waits; otherwise it stays blocked. -/
def runRecv (i : Nat) (e : SbEntry) (s : State) : State :=
  let c := e.q.cmd
  let n := c.u8 8 % 128
  let k := (s.core i).ctx n
  let done (f : Flight) (s : State) : State :=
    (s.modCtx i n fun k => { k with waiting := k.waiting.filter fun q => q != e.q.seq }).setFlight i e.q.seq f
  let hold (s : State) : State := (s.modCore i fun c => c.bump Reg.CHN_CNT_RECV_WAIT_COUNT (s.fr 0)).useFree 1
  if k.state ≠ .isOpen then done { Flight.start with fin := true, status := chnEClosed } s
  else if k.waiting.head? ≠ some e.q.seq then hold s
  else if 64 ≤ n ∧ 0 < ((s.core i).ctx (n - 64)).timedOut then
    (done { Flight.start with fin := true, status := chnETimeout } s).modCtx i (n - 64) fun q => { q with timedOut := q.timedOut - 1 }
  else match s.recvMessage i c k with
    | none => hold s
    | some (f, r, eaten) =>
      let s := done f s
      let s := if eaten then s.consume i n r else s
      if f.status = chnECorrupt then s.modCore i fun c => c.bump Reg.CHN_CNT_CORRUPT_COUNT 1 else s

end State

/-- MRECV (R172, R173): the command issues, or goes on waiting for the oldest whole message of its context. -/
def execMrecv (core seq : Nat) (s : State) : Host.Outcome State Fault Refusal :=
  match s.going core seq 0x41 with
  | some (e, _) => .next (s.runRecv core e)
  | none =>
    match s.issuing core seq 0x41 with
    | none => .next s
    | some e =>
      let c := e.q.cmd
      let k := (s.core core).ctx (c.u8 8 % 128)
      if msgReserved c then .refused (.undefinedBehaviour "R10")
      else if ctxRole k ≠ 2 then .next (s.launchError core e chnERole)
      else if s.tileRefusal core e ≠ 0 then .next (s.launchError core e (s.tileRefusal core e))
      else
        .next (((s.launch core e Flight.start).modCtx core (c.u8 8 % 128) fun k =>
          { k with waiting := k.waiting ++ [e.q.seq] }).runRecv core e)

namespace State

/-- MFLUSH on a send context (R184): its MSENDs in flight end; records under way stop after the packet being written. -/
def flushSend (i n : Nat) (s : State) : State :=
  let k := (s.core i).ctx n
  let s := s.endFlights i chnEFlushed (k.waiting ++ s.sentOn i n)
  (s.modCtx i n fun k => { k with waiting := [], unacked := k.unacked.map fun u => { u with who := none } }).cutSends i n

/-- MFLUSH on a receive context (R184): every complete record is discarded and its units returned, a record still arriving
is dropped, blocked MRECVs end. -/
def flushRecv (i n : Nat) (s : State) : State :=
  let k := (s.core i).ctx n
  let whole := k.recs.filter (·.isWhole)
  let part := k.recs.filter fun r => !r.isWhole
  let units (l : List RingRec) : Nat := l.foldl (fun n r => n + r.units) 0
  let s := s.endFlights i chnEFlushed k.waiting
  let s := s.modCtx i n fun k =>
    { k with waiting := [], recs := [], rd := (k.rd + units k.recs) % max 1 (32 * ctxRingTiles k),
             dropping := if part.isEmpty then k.dropping else some chnEFlushed }
  let s := s.modCore i fun c => c.bump Reg.CHN_CNT_FLUSH_UNITS_COUNT (units whole + units part)
  if units k.recs = 0 then s else s.returnUnits i n (units k.recs)

end State

/-- MFLUSH (R184). -/
def execMflush (core seq : Nat) (s : State) : Host.Outcome State Fault Refusal :=
  match s.issuing core seq 0x42 with
  | none => .next s
  | some e =>
    let c := e.q.cmd
    let n := c.u8 8 % 128
    let role := ctxRole ((s.core core).ctx n)
    if 127 < c.u8 8 then .refused (.undefinedBehaviour "R10")
    else
      let s := s.launch core e { Flight.start with fin := true }
      .next (if role = 1 then s.flushSend core n else if role = 2 then s.flushRecv core n else s)

/-! ### What arrives -/

/-- The channel of a record, and of what travels in the reverse direction (R175). -/
def recKey : Pkt → Option (CtxId × CtxId)
  | .chn r => some (r.dst, r.src)
  | _ => none
def revKey : Pkt → Option (CtxId × CtxId)
  | .chn _ => none
  | p => State.pktEnds p

namespace State

/-- The reverse item `k`, once it may travel. -/
def revItem (s : State) (k : Nat) : Option (Pkt × State) :=
  match netTake revKey k s.net with
  | some (p, net) =>
    match revKey p with
    | some (dst, src) => if dst.pkg = s.pkgId ∧ s.revOwned src then some (p, { s with net := net }) else none
    | none => none
  | none => none

/-- An acknowledgement sent back to the sender of a record, pad or message (R171, R178), with the link epoch of the packet it answers. -/
def ack (r : ChnRecord) (status lepoch : Nat) (s : State) : State :=
  let k := (s.core r.dst.core).ctx r.dst.ctx
  s.emit (.chnAck r.src r.dst status k.epoch.toNat (k.state == .isOpen) lepoch)

/-- Whether a context takes a record (R178): a receive context, OPEN, of the record's epoch. -/
def takes (r : ChnRecord) (k : Ctx) : Bool :=
  k.state == .isOpen && k.epoch.toNat == r.epoch && ctxRole k == 2

/-- Whether the dike lets what `src` sends reach `dst` on the mesh: both of one polder (R162). -/
def sameDike (s : State) (dst src : CtxId) : Bool := src.pkg != s.pkgId || (s.core src.core).polder == (s.core dst.core).polder

/-- Where the next record, or what is left of the one arriving, starts in a ring: the receiver counts what arrives (R165). -/
def ringPos (k : Ctx) : Nat :=
  match k.recs.find? fun q => !q.isWhole with
  | some q => q.start
  | none => (k.rd + k.fill) % max 1 (32 * ctxRingTiles k)

/-- A partial record at the end of a ring turned into a pad that keeps its UNITS (R184). -/
def cutRecord (r : ChnRecord) (k : Ctx) (s : State) : State :=
  let i := r.dst.core
  let h := patchAt (headerBytes { s.padFor i r.dst.ctx r.units with epoch := r.epoch, src := ⟨0, 0, 0⟩ }) 1 [2]
  let recs := (k.recs.filter (·.isWhole)) ++ [⟨ringPos k, r.units, 1, true, true, false⟩]
  let s := s.ringWrite i k (ringPos k) h
  let s := s.modCtx i r.dst.ctx fun k => { k with recs := recs }
  (s.modCore i fun c => c.bump Reg.CHN_CNT_FLUSH_UNITS_COUNT r.units).skipPads i r.dst.ctx

/-- What the arrival of one packet makes of its record. -/
inductive Arrival where
  /-- Further packets follow. -/
  | goes
  /-- The record is whole, or over, and acknowledged with a status. -/
  | finished (status : Nat)
  /-- The record is dropped with all its packets and will be acknowledged with a status. -/
  | dropped (status : Nat)
  deriving DecidableEq, Repr

/-- A packet of a record written to the ring; the last one makes the record whole, and a message on a reply context retires
the oldest outstanding request (R166 to R171, R185). -/
def writePacket (r : ChnRecord) (l : List Byte) (s : State) : State × Arrival :=
  let i := r.dst.core
  let n := r.dst.ctx
  let k := (s.core i).ctx n
  let s := s.ringWrite i k (ringPos k + (packetOf r r.arrived).1) l
  let last := decide (packetsOf r ≤ r.arrived + 1)
  let rec' : RingRec := ⟨ringPos k, r.units, r.arrived + 1, last, r.typ == 0x0F, r.isSealed⟩
  let s := s.modCtx i n fun k => { k with recs := k.recs.filter (·.isWhole) ++ [rec'] }
  if !last then (s, .goes)
  else
    (if 64 ≤ n ∧ r.typ ≠ 0x0F then s.modCtx i (n - 64) fun q => { q with outstanding := q.outstanding.tail } else s, .finished 0)

/-- A packet of a record reaches its context (R170, R178, R184). A record that finds its context not OPEN, or of another epoch,
is dropped and counted; one whose context closed or was flushed under it is dropped with that context's status. -/
def arrive (r : ChnRecord) (l : List Byte) (s : State) : State × Arrival :=
  let i := r.dst.core
  let k := (s.core i).ctx r.dst.ctx
  if r.arrived = 0 then
    (if !takes r k then (s.modCore i fun c => c.bump Reg.CHN_CNT_STALE_DROP_COUNT 1, .dropped chnEClosed)
     else if r.cut then (s.cutRecord r k, .finished chnEFlushed)
     else s.writePacket r l)
  else if k.state = .isOpen ∧ (k.recs.any fun q => !q.isWhole) ∧ k.epoch.toNat = r.epoch then
    (if r.cut then (s.cutRecord r k, .finished chnEFlushed) else s.writePacket r l)
  else (s.modCtx i r.dst.ctx fun k => { k with dropping := none }, .dropped (k.dropping.getD chnEClosed))

/-- The next packet of the record that is item `idx` on its way arrives. -/
def arriveMesh (r : ChnRecord) (idx : Nat) (s : State) : State :=
  if !s.sameDike r.dst r.src then s
  else
    let (s, o) := s.arrive r (packetOf r r.arrived).2
    match o with
    | .goes => { s with net := s.net.take idx ++ [.chn { r with arrived := r.arrived + 1 }] ++ s.net.drop idx }
    | .finished st => (s.ack r st 0).skipPads r.dst.core r.dst.ctx
    | .dropped st => s.ack r st 0

/-- The record whose first packet a lane packet is: its header read back (R166). -/
def recordAt (pkg : Nat) (q : LanePkt) : ChnRecord :=
  let h := q.payload
  let n := numAt h 6 2
  let srcPkg := bitsOf q.src 35 22
  { dst := ⟨pkg, bitsOf q.dst 19 7, bitsOf q.dst 6 0⟩, src := ⟨srcPkg, bitsOf q.src 21 9, bitsOf q.src 8 0 % 128⟩
    typ := numAt h 0 1, isSealed := bitOf (numAt h 1 1) 0, request := bitOf (numAt h 1 1) 2, epoch := numAt h 2 2
    units := numAt h 4 2, ntiles := n, len := numAt h 8 4, msgSeq := numAt h 0x0C 4, tide := numAt h 0x18 6
    pcrc := BitVec.ofNat 64 (numAt h 0x20 8)
    metas := (List.range n).map fun j => (BitVec.ofNat 64 (numAt h (64 + 16 * j) 8), BitVec.ofNat 64 (numAt h (72 + 16 * j) 8))
    payload := [], arrived := 0, cut := false }

/-- The end a CUT pad gives a record (R184): that of the packet it was dropped at, or that of a record that ends here. -/
def cutEnd (r : ChnRecord) (dropped : Option Nat) (s : State) : State × Nat :=
  if r.cut then (s, dropped.getD chnEClosed)
  else match s.arrive { r with cut := true } [] with
    | (s, .goes) => (s, chnEFlushed)
    | (s, .finished st) => (s, st)
    | (s, .dropped st) => (s, st)

/-- A CHN_DATA packet delivered from a lane. A record dropped at one packet is skipped to its last, and then acknowledged; a CUT pad
header ends the record that was arriving, or stands for one that had not begun (R184). -/
def arriveLane (q : LanePkt) (s : State) : State :=
  let i := bitsOf q.dst 19 7
  let n := bitsOf q.dst 6 0
  let k := (s.core i).ctx n
  let r := k.arriving.getD (recordAt s.pkgId q)
  let last := decide (packetsOf r ≤ r.arrived + 1)
  let keep (x : Option ChnRecord) (d : Option Nat) (s : State) : State :=
    s.modCtx i n fun k => { k with arriving := x, dropping := d }
  let skip (st : Nat) (s : State) : State :=
    if last then (keep none none s).ack r st q.lepoch
    else keep (some { r with arrived := r.arrived + 1, cut := true }) (some st) s
  if bitOf q.aux 0 then
    let (s, st) := s.cutEnd r k.dropping
    ((keep none none s).ack r st q.lepoch).skipPads i n
  else if r.cut then skip (k.dropping.getD chnEClosed) s
  else
    let (s, o) := s.arrive r q.payload
    match o with
    | .goes => s.modCtx i n fun k => { k with arriving := some { r with arrived := r.arrived + 1 } }
    | .finished st => ((s.modCtx i n fun k => { k with arriving := none }).ack r st q.lepoch).skipPads i n
    | .dropped st => skip st s

/-- Core and context that a channel packet names. -/
def pktCore (q : LanePkt) : Nat := bitsOf q.dst 19 7
def pktCtx (q : LanePkt) : Nat := bitsOf q.dst 6 0

/-- A channel packet of one kind delivered from a lane over its context's route (R373, R417). -/
def chnDeliver (p v : Nat) (kind : LanePkt → Bool) (f : LanePkt → State → State) (s : State) : State :=
  s.laneDeliver p v kind pktCore (fun q s => ctxRoute ((s.core (pktCore q)).ctx (pktCtx q))) f

end State

/-- CHN_DATA (R170, R178): a record's next packet reaches its receive context, from the mesh or from a lane. -/
def execChnData (src : From) (s : State) : Host.Outcome State Fault Refusal :=
  match src with
  | .mesh index =>
    (match netTake recKey index s.net with
    | some (.chn r, net) => .next (if r.dst.pkg = s.pkgId then { s with net := net }.arriveMesh r index else s)
    | _ => .next s)
  | .lane p v => .next (s.chnDeliver p v (fun q => q.ptype == 1) State.arriveLane)

namespace State

/-- A send context closed by its receiver (R180): its MSENDs end. -/
def closeSend (i n : Nat) (s : State) : State :=
  let k := (s.core i).ctx n
  let s := s.endFlights i chnEClosed (k.waiting ++ s.sentOn i n)
  s.modCtx i n fun k => { k with state := .closed, waiting := [], credits := 0 }

/-- An MSEND of a core that is in flight with its record on its way. -/
def sentFlight (s : State) (i : Nat) (q : BitVec 16) : Bool := (s.core i).sb.any fun e =>
  e.q.seq == q && opcodeOf e.q.cmd == 0x40 && (match e.flight with
    | some f => f.sent && !f.fin
    | none => false)

/-- An acknowledgement acts on the oldest unacknowledged record of its context (R171, R176, R180): its MSEND ends; a CLOSED one
without RX_OPEN closes the context, that of a pad too; one for a command no longer in flight is counted and ignored. -/
def ackMsend (i n status : Nat) (rxOpen : Bool) (s : State) : State :=
  let u := ((s.core i).ctx n).unacked.head?
  let s := s.modCtx i n fun k => { k with unacked := k.unacked.tail }
  match (u.bind (·.who)).filter fun q => s.sentFlight i q with
  | none =>
    if status ≠ chnEClosed then s
    else if u.any (·.isPad) && !rxOpen then s.closeSend i n
    else s.modCore i fun c => c.bump Reg.CHN_CNT_CLOSED_COUNT 1
  | some q =>
    let s := s.modCore i fun c => { c with sb := c.sb.map fun e =>
      if e.q.seq == q then { e with flight := e.flight.map fun f => { f with fin := true, status := status } } else e }
    if status = chnEClosed ∧ !rxOpen then s.closeSend i n else s

/-- Units come back to a send context that is OPEN; its credits never exceed the ring (R174). -/
def takeCredit (i n u : Nat) (s : State) : State :=
  s.modCtx i n fun k => if k.state = .isOpen then { k with credits := min k.ringUnits (k.credits + u) } else k

/-- An OPEN notice reaches a send context: in any state but OFF it adopts the epoch and becomes OPEN (R165, R181). -/
def takeOpen (i n ep ru : Nat) (s : State) : State :=
  s.modCtx i n fun k =>
    if k.state = .off ∨ ctxRole k ≠ 1 then k
    else { k with state := .isOpen, epoch := BitVec.ofNat 16 ep, ringUnits := ru, credits := ru, wr := 0, msgSeq := 0 }

/-- A CLOSED notice reaches a send context: it enters CLOSED and its MSENDs end (R180). -/
def takeClosed (i n : Nat) (s : State) : State :=
  if ((s.core i).ctx n).state = .off then s else s.closeSend i n

end State

/-- CHN_ACK (R171, R180): an acknowledgement reaches its send context. -/
def execChnAck (src : From) (s : State) : Host.Outcome State Fault Refusal :=
  match src with
  | .mesh index =>
    (match s.revItem index with
    | some (.chnAck d t st _ op _, s') => .next (if s'.sameDike d t then s'.ackMsend d.core d.ctx st op else s')
    | _ => .next s)
  | .lane p v =>
    .next (s.chnDeliver p v (fun q => q.ptype == 2) fun q s =>
      s.ackMsend (State.pktCore q) (State.pktCtx q) (bitsOf q.aux 15 0) (bitOf q.aux 32))

/-- CHN_CREDIT (R174): units return to a send context. -/
def execChnCredit (src : From) (s : State) : Host.Outcome State Fault Refusal :=
  match src with
  | .mesh index =>
    (match s.revItem index with
    | some (.chnCredit d t u, s') => .next (if s'.sameDike d t then s'.takeCredit d.core d.ctx u else s')
    | _ => .next s)
  | .lane p v =>
    .next (s.chnDeliver p v (fun q => q.ptype == 3) fun q s =>
      s.takeCredit (State.pktCore q) (State.pktCtx q) (bitsOf q.aux 11 0))

/-- OPEN_NOTICE (R165, R181). -/
def execOpenNotice (src : From) (s : State) : Host.Outcome State Fault Refusal :=
  match src with
  | .mesh index =>
    (match s.revItem index with
    | some (.openNotice d t ep ru, s') => .next (if s'.sameDike d t then s'.takeOpen d.core d.ctx ep ru else s')
    | _ => .next s)
  | .lane p v =>
    .next (s.chnDeliver p v (fun q => q.ptype == 4 && bitsOf q.aux 1 0 == 1) fun q s =>
      s.takeOpen (State.pktCore q) (State.pktCtx q) (bitsOf q.aux 31 16) (bitsOf q.aux 43 32))

/-- CLOSED_NOTICE (R180). -/
def execClosedNotice (src : From) (s : State) : Host.Outcome State Fault Refusal :=
  match src with
  | .mesh index =>
    (match s.revItem index with
    | some (.closedNotice d t _, s') => .next (if s'.sameDike d t then s'.takeClosed d.core d.ctx else s')
    | _ => .next s)
  | .lane p v =>
    .next (s.chnDeliver p v (fun q => q.ptype == 4 && bitsOf q.aux 1 0 == 2) fun q s =>
      s.takeClosed (State.pktCore q) (State.pktCtx q))

namespace State

/-- A receive context opens with an empty ring and sends its OPEN notice (R181). -/
def openRecv (i n : Nat) (s : State) : State :=
  let s := s.modCtx i n fun k =>
    { k with state := .isOpen, recs := [], rd := 0, ringUnits := 32 * ctxRingTiles k, wasOpen := false }
  let k := (s.core i).ctx n
  s.emit (.openNotice (ctxPeer k) (s.ctxId i n) k.epoch.toNat (32 * ctxRingTiles k))

/-- A context opens (R181). -/
def openCtx (i n : Nat) (s : State) : State :=
  let k := (s.core i).ctx n
  if k.state = .isOpen ∨ k.state = .opening then s
  else if ctxRole k = 2 then s.openRecv i n
  else if ctxRole k = 1 then s.modCtx i n fun k => { k with state := .opening, credits := 0 }
  else s

/-- A receive context closes (R179): epoch, ring, blocked MRECVs, and a CLOSED notice unless the step is abandoned. -/
def closeRecv (i n : Nat) (s : State) : State :=
  let k := (s.core i).ctx n
  let s := s.endFlights i chnEClosed k.waiting
  let s := (s.modCtx i n fun k => { k.close with waiting := [] }).modCore i fun c =>
    c.bump Reg.CHN_CNT_FLUSH_UNITS_COUNT k.fill
  s.emit (.closedNotice (ctxPeer k) (s.ctxId i n) (((s.core i).ctx n).epoch.toNat))

/-- A context closes, or turns OFF when it is CLOSED already (R179, R181). The MSENDs of a send context that still wait end;
one whose record is on its way ends with its acknowledgement. -/
def closeCtx (i n : Nat) (s : State) : State :=
  let k := (s.core i).ctx n
  match k.state with
  | .off => s
  | .closed => s.modCtx i n fun k => { k with state := .off }
  | _ =>
    if ctxRole k = 2 then s.closeRecv i n
    else (s.endFlights i chnEClosed k.waiting).modCtx i n fun k => { k with state := .closed, waiting := [] }

/-- The context that CHN_CTX_SEL selects. -/
def selCtx (s : State) (i : Nat) : Nat := (s.core i).getF Reg.CHN_CTX_SEL_CTX

end State

/-- CTX_OPEN (R181): CHN_CTX_CMD.OPEN written for the selected context. -/
def execCtxOpen (core : Nat) (s : State) : Host.Outcome State Fault Refusal := .next (s.openCtx core (s.selCtx core))

/-- CTX_CLOSE (R179, R181): CHN_CTX_CMD.CLOSE written for the selected context. -/
def execCtxClose (core : Nat) (s : State) : Host.Outcome State Fault Refusal := .next (s.closeCtx core (s.selCtx core))

/-- REPLY_TIMEOUT (R185): the oldest deadline of a send context has passed: the request retires, the count rises, and the
blocked or next MRECV on the reply context ends with CHN_E_TIMEOUT. -/
def execReplyTimeout (core ctx : Nat) (s : State) : Host.Outcome State Fault Refusal :=
  let l := ((s.core core).ctx ctx).outstanding
  match l.findIdx? fun r => r.2 == some 0 with
  | some j =>
    .next ((s.modCtx core ctx fun k => { k with outstanding := l.eraseIdx j, timedOut := k.timedOut + 1 }).modCore core fun c =>
      c.bump Reg.CHN_CNT_TIMEOUT_COUNT 1)
  | none => .next s

end Sys2Proof.Machine
end

