-- ==== Sys2Proof/Machine/CoreControl.lean ====
section
/-! DEFINITION. The commands of a core's control page: abandonment (R143), restart (R143, R182), core reset (R144, R183, R223), run,
halt and resume (R140, R223), and the debug registers (R137 to R141). -/

namespace Sys2Proof.Machine

/-- CORE_ABANDON (R143, R182): CORE_CTL.ABANDON written. -/
def execCoreAbandon (core : Nat) (s : State) : Host.Outcome State Fault Refusal := .next (s.abandonCore core false)

namespace State

/-- The receive contexts that an abandonment closed open again (R182). -/
def reopenCtxs (i : Nat) (s : State) : State :=
  (((s.core i).ctxs.filter fun e => e.2.wasOpen).map (·.1)).foldl (fun s n =>
    if ((s.core i).ctx n).state = .closed then s.openRecv i n else s) s

/-- Whether a restart of a core may happen now (R143): its scoreboard is empty, and its polder's turn has just started, or it
has no polder, or the polder does not run; no lost tile of the polder is still to be repaired (R157). -/
def restartDue (s : State) (i : Nat) : Bool :=
  let c := s.core i
  c.restart && c.sb.isEmpty && c.queued.isEmpty && !(s.power.fixes.any fun x => x.1 == c.polder) &&
    (decide (8 ≤ c.polder) || !(s.wheel c.polder).runs || c.wheel.fresh)

end State

/-- A sequencer placed at an index and running, unless CORE_CTL.HALT keeps it halted there (R140). -/
def Core.startAt (c : Core) (pc : Nat) : Core :=
  { c with pc := BitVec.ofNat 13 pc, wait := .none, halted := c.flag Reg.CORE_CTL_HALT, haltReq := c.flag Reg.CORE_CTL_HALT }

/-- STEP_ENTRY_RESTART (R143, R182): the sequencer restarts at CORE_STEP_ENTRY and the MGC opens the core's receive contexts. -/
def execStepEntryRestart (core : Nat) (s : State) : Host.Outcome State Fault Refusal :=
  if s.restartDue core then
    .next ((s.modCore core fun c => { c with restart := false }.startAt (c.getF Reg.CORE_STEP_ENTRY_PC)).reopenCtxs core)
  else .next s

/-- A context after a core reset (R183): at its reset values but the epoch, which rises; what is still on its way to it will
find it OFF, and what it awaits will find no command. -/
def Ctx.afterReset (k : Ctx) : Ctx :=
  { Ctx.empty with epoch := k.epoch + 1, unacked := k.unacked.map fun u => { u with who := none },
                   arriving := k.arriving.map fun r => { r with cut := true } }

/-- A core as its reset leaves it (R144, R183, R223): everything at its reset value but the polder (R369), ALLOWED once it is
locked, and each context's epoch, which rises by one; outside the turn membership of a polder that runs. -/
def Core.wiped (c : Core) (locked running : Bool) : Core :=
  let p := c.polder
  let a := c.getF Reg.CORE_CL_VERSION_ALLOWED
  let e := (Core.empty).setF Reg.CORE_IDENT_POLDER p
  let e := if locked then e.setF Reg.CORE_CL_VERSION_ALLOWED a else e
  let e := { e with wheel := { CoreWheel.empty with outside := running } }
  (List.range 128).foldl (fun k n => k.setCtx n (c.ctx n).afterReset) e

/-- The OPEN receive contexts of a core send their CLOSED notices, with the epoch they close into (R179, R145). -/
def State.noticeClosed (i : Nat) (s : State) : State :=
  (((s.core i).ctxs.filter fun e => e.2.state == .isOpen && ctxRole e.2 == 2).map (·.1)).foldl (fun s n =>
    let k := (s.core i).ctx n
    s.emitNow (.closedNotice (ctxPeer k) (s.ctxId i n) (k.epoch + 1).toNat)) s

/-- A core reset (R144): the step abandoned without records, the CLOSED notices of its receive contexts (R179), then the wipe. -/
def State.resetCore (i : Nat) (s : State) : State :=
  let s := (s.abandonCore i true).noticeClosed i
  let s := s.wipeRange (scratchAddr i 0) (scratchAddr i 0x60000)
  s.modCore i fun c => c.wiped (s.flag Reg.CFG_STATUS_LOCKED) (decide (c.polder < 8) && (s.wheel c.polder).runs)

/-- CORE_RESET (R144, R285, R328): the MGC abandons the step of the core's polder, on its other cores with records; no CAUSE is given
for it, and 0 is written (log 114). -/
def execCoreReset (core : Nat) (s : State) : Host.Outcome State Fault Refusal :=
  let p := (s.core core).polder
  if 8 ≤ p then .next (s.resetCore core)
  else
    let s := (State.forCores (fun i s => s.abandonCore i false) ((s.coresOf p).filter (· != core)) s).resetCore core
    .next (s.pend p .coreReset)

/-- HALT_REQUEST (R140): CORE_CTL.HALT written 1; a wait is interrupted. -/
def execHaltRequest (core : Nat) (s : State) : Host.Outcome State Fault Refusal :=
  .next (s.modCore core fun c =>
    let c := c.setF Reg.CORE_CTL_HALT 1
    if c.halted then c else { c with halted := true, haltReq := true, wait := .none })

/-- RESUME (R140): CORE_CTL.HALT written 0; after a halt made through it the sequencer goes on at CORE_PC. -/
def execResumeCore (core : Nat) (s : State) : Host.Outcome State Fault Refusal :=
  .next (s.modCore core fun c =>
    let c := c.setF Reg.CORE_CTL_HALT 0
    if c.haltReq then { c with halted := false, haltReq := false } else c)

/-- CORE_RUN (R223): CORE_CTL.RUN from 0 to 1 clears the fault and starts the sequencer at CORE_PC_START; a core outside its
polder's turn membership starts instead at the turn start at which it rejoins. -/
def execCoreRun (core : Nat) (s : State) : Host.Outcome State Fault Refusal :=
  .next (s.modCore core fun c =>
    if c.flag Reg.CORE_CTL_RUN then c
    else
      let c := { c.setF Reg.CORE_CTL_RUN 1 with faultCode := 0, faultPc := 0 }
      if c.wheel.outside ∧ c.polder < 8 then { c with wheel := { c.wheel with rejoin := true } }
      else c.startAt (c.getF Reg.CORE_PC_START_PC))

/-- DBG_ACC_SEL (R137): the row and bank are written; in debug mode that asks for a snapshot, which is not valid until it is
taken. -/
def execDbgAccSel (core : Nat) (value : Word) (s : State) : Host.Outcome State Fault Refusal :=
  .next (s.modCore core fun c =>
    let row := bitsOf value.toNat 6 2
    let bank := bitsOf value.toNat 1 0
    let c := (c.setF Reg.CORE_DBG_ACC_SEL_ROW row).setF Reg.CORE_DBG_ACC_SEL_BANK bank
    if c.flag Reg.CORE_CTL_DEBUG then { c with snapReq := some (row, bank) }.setF Reg.CORE_DBG_ACC_STAT_VALID 0 else c)

/-- A bank as a snapshot finds it (R137): while a command runs on it, at a tile-pair boundary of one of its passes, in a pass that is
later discarded or in the kept one; the array's place at that moment is a free value. -/
def State.bankNow (s : State) (i bank : Nat) : Bank :=
  let c := s.core i
  let b := c.bank bank
  let run := c.sb.findSome? fun e => e.flight.bind fun f =>
    (f.before.findIdx? fun x => x.1 == bank).bind fun u => (f.before[u]?).map fun x => (e.q, f.discs, u, x.2)
  match run with
  | none => b
  | some (q, discs, u, b0) =>
    let pass := s.fr 0 % (discs + 1)
    let ab := s.tilePairs i q.cmd
    let part := ab.take (s.fr 1 % (ab.length + 1))
    let sigma := b0.sigma + 4 * (pass : Int)
    let start := (List.range pass).foldl (fun l _ => l.map shrinkPair) b0.pairs
    let saturating := decide (replayLimit q.v2 q.cmd ≤ b0.replays + pass) || decide (123 < sigma)
    { b with pairs := (runPass saturating sigma start (mmProducts q.cmd part u)).1, sigma := sigma, replays := b0.replays + pass }

/-- The snapshot of one row of a bank (R137, R141). -/
def Core.snapshot (c : Core) (b : Bank) (row : Nat) : Core :=
  let pair (j : Nat) : AccPair := (renormStored (b.pairs.getD (row * 32 + j) AccPair.zero)).1
  let c := (List.range 32).foldl (fun c j =>
    let hi := if b.isSealed then 0xFFC1 else (pair j).hi.toNat
    let lo := if b.isSealed then 0xFFC1 else (pair j).lo.toNat
    (c.setF (Reg.CORE_DBG_ACC_DATA_HI j) hi).setF (Reg.CORE_DBG_ACC_DATA_LO j) lo) c
  let c := (c.setF Reg.CORE_DBG_ACC_STAT_SIGMA (unsignedOf 8 b.sigma)).setF Reg.CORE_DBG_ACC_STAT_PASS (b.replays % 4)
  let c := (c.setF Reg.CORE_DBG_ACC_STAT_SEALED (b2n b.isSealed)).setF Reg.CORE_DBG_ACC_STAT_IDLE (b2n (!b.isOpen))
  { c with snapReq := none }.setF Reg.CORE_DBG_ACC_STAT_VALID 1

/-- ACC_SNAPSHOT_READY (R137). -/
def execAccSnapshotReady (core : Nat) (s : State) : Host.Outcome State Fault Refusal :=
  match (s.core core).snapReq with
  | none => .next s
  | some (r, b) => .next ((s.modCore core fun c => c.snapshot (s.bankNow core b) r).useFree 2)

/-- CORE_DBG_XREG_WRITE (R87, R138, R139): half of X[n], only while the sequencer is halted in debug mode. -/
def execCoreDbgXregWrite (core n : Nat) (high : Bool) (value : Word) (s : State) : Host.Outcome State Fault Refusal :=
  .next (s.modCore core fun c =>
    if c.halted && c.flag Reg.CORE_CTL_DEBUG then
      let v := (c.getX (n % 32)).toNat
      c.setX (n % 32) (BitVec.ofNat 64 (if high then setBits v 63 32 value.toNat else setBits v 31 0 value.toNat))
    else c)

end Sys2Proof.Machine
end

