-- ==== Sys2Proof/Machine/Flags.lean ====
section
/-! DEFINITION. The condition tests the device computes: the sequencer's comparisons (R89) and the alignment and range tests of
its data store (R90). The block keeps no condition flags; every flag of the spec is a register bit and is written where its
rule says. -/

namespace Sys2Proof.Machine

/-- The test of a branch: equal, not equal, less, not less, signed (R89). -/
def branchTaken (op : Nat) (x y : DWord) : Bool :=
  match op with
  | 0x20 => x == y
  | 0x21 => x != y
  | 0x22 => x.slt y
  | _ => !x.slt y

/-- 1 or 0 (SLT, SLTU, POLLC). -/
def boolWord (b : Bool) : DWord := if b then 1 else 0

/-- Whether a data-store access of `n` bytes is refused: beyond 0x3FFF, or not aligned to its size (R90). -/
def dstoreBad (a : DWord) (n : Nat) : Bool := decide (0x4000 < a.toNat + n) || a.toNat % n != 0

/-- Whether an index lies in the instruction store (R90). -/
def pcOk (t : Int) : Bool := decide (0 ≤ t) && decide (t ≤ 8191)

end Sys2Proof.Machine
end

