-- ==== Sys2Proof/Machine/Sequencer.lean ====
section
/-! DEFINITION. The sequencer (R87 to R91, R140): the body of every operation of R89, the faults of R90, and the commands that
execute one instruction. Each command names a core and acts when that core's sequencer runs and stands at an instruction
of the command's operation; otherwise nothing happens. -/

namespace Sys2Proof.Machine

/-- The fields of an instruction (R88). -/
def insOp (w : Word) : Nat := (w.extractLsb' 26 6).toNat
def insD (w : Word) : Nat := (w.extractLsb' 21 5).toNat
def insA (w : Word) : Nat := (w.extractLsb' 16 5).toNat
def insB (w : Word) : Nat := (w.extractLsb' 11 5).toNat
def insImm (w : Word) : BitVec 16 := w.extractLsb' 0 16

/-- The operations of R89 by opcode. -/
def seqListed (op : Nat) : Bool :=
  decide (op ≤ 0x0B) || (decide (0x10 ≤ op) && decide (op ≤ 0x16)) || (decide (0x18 ≤ op) && decide (op ≤ 0x1B)) ||
    (decide (0x20 ≤ op) && decide (op ≤ 0x25)) || (decide (0x30 ≤ op) && decide (op ≤ 0x37)) || op == 0x3F

/-- The operations in register format (R88, R89). -/
def seqRegFormat (op : Nat) : Bool :=
  decide (op ≤ 0x0B) || op == 0x25 || (decide (0x30 ≤ op) && decide (op ≤ 0x35)) || op == 0x3F

/-- A bad field of an instruction: a non-zero bit where R88 or R89 asks for zero, CMDW beyond word 7, a reserved item of RDT
or WAITS (R90 code 1). -/
def badField (w : Word) : Bool :=
  let op := insOp w
  (seqRegFormat op && w.extractLsb' 0 11 != 0#11) ||
    (match op with
    | 0x14 | 0x15 => decide (64 ≤ (insImm w).toNat)
    | 0x16 | 0x24 => insA w != 0
    | 0x25 => insD w != 0 || insB w != 0
    | 0x30 => decide (7 < insD w) || insB w != 0
    | 0x36 => decide (1 < (insImm w).toNat)
    | 0x37 => decide (6 < (insImm w).toNat)
    | _ => false)

/-- The result of a register-format operation on two operands (R89). -/
def aluReg (op : Nat) (x y : DWord) : DWord :=
  match op with
  | 0x01 => x + y
  | 0x02 => x - y
  | 0x03 => x * y
  | 0x04 => x &&& y
  | 0x05 => x ||| y
  | 0x06 => x ^^^ y
  | 0x07 => x <<< (y.toNat % 64)
  | 0x08 => x >>> (y.toNat % 64)
  | 0x09 => x.sshiftRight (y.toNat % 64)
  | 0x0A => boolWord (x.slt y)
  | _ => boolWord (x.ult y)

/-- The result of an immediate-format operation (R89). -/
def aluImm (op : Nat) (x : DWord) (imm : BitVec 16) : DWord :=
  match op with
  | 0x10 => x + sext16 imm
  | 0x11 => x &&& zext16 imm
  | 0x12 => x ||| zext16 imm
  | 0x13 => x ^^^ zext16 imm
  | 0x14 => x <<< (imm.toNat % 64)
  | 0x15 => x >>> (imm.toNat % 64)
  | _ => sext16 imm <<< (16 : Nat)

/-- A register-format arithmetic instruction. -/
def aluRegBody (w : Word) (c : Core) : SeqRes :=
  .next (c.setX (insD w) (aluReg (insOp w) (c.getX (insA w)) (c.getX (insB w))))

/-- An immediate-format arithmetic instruction. -/
def aluImmBody (w : Word) (c : Core) : SeqRes :=
  .next (c.setX (insD w) (aluImm (insOp w) (c.getX (insA w)) (insImm w)))

/-- The data-store address of a load or store. -/
def dstoreAddr (w : Word) (c : Core) : DWord := c.getX (insA w) + sext16 (insImm w)

/-- LD and LDW of `n` bytes. -/
def loadBody (n : Nat) (w : Word) (c : Core) : SeqRes :=
  let a := dstoreAddr w c
  if dstoreBad a n then .fault 2
  else .next (c.setX (insD w) (BitVec.ofNat 64 (numLE (c.dread a.toNat n))))

/-- ST and STW of `n` bytes. -/
def storeBody (n : Nat) (w : Word) (c : Core) : SeqRes :=
  let a := dstoreAddr w c
  if dstoreBad a n then .fault 2
  else .next (c.dwrite a.toNat (bytesLE n (c.getX (insD w)).toNat))

/-- BEQ, BNE, BLT, BGE. -/
def branchBody (w : Word) (c : Core) : SeqRes :=
  if branchTaken (insOp w) (c.getX (insD w)) (c.getX (insA w)) then .jump c (c.pc.toNat + (insImm w).toInt)
  else .next c

/-- JAL. -/
def jalBody (w : Word) (c : Core) : SeqRes :=
  .jump (c.setX (insD w) (BitVec.ofNat 64 (c.pc.toNat + 1))) (c.pc.toNat + (insImm w).toInt)

/-- JR: the target is the whole of X[a]. -/
def jrBody (w : Word) (c : Core) : SeqRes := .jump c (c.getX (insA w)).toNat

/-- CMDW. -/
def cmdwBody (w : Word) (c : Core) : SeqRes :=
  .next { c with cbuf := SMap.set (fun _ => 0) c.cbuf (insD w) (c.getX (insA w)) }

/-- ISSUE: it stalls while a list dispatches or the queue is full (R91). -/
def issueBody (w : Word) (c : Core) : SeqRes :=
  if c.list.isSome then .stay c false
  else if c.queueFull c.cmdBuffer then .stay c true
  else match c.push false c.cmdBuffer with
    | .undef case => .undef case
    | .ok c n => .next (c.setX (insD w) (n.zeroExtend 64))

/-- WAITC: the number is X[a] modulo 2^16. -/
def waitcBody (w : Word) (c : Core) : SeqRes :=
  if c.seqComplete (BitVec.ofNat 16 (c.getX (insA w)).toNat) then .next { c with wait := .none }
  else .stay { c with wait := .waitc } false

/-- POLLC. -/
def pollcBody (w : Word) (c : Core) : SeqRes :=
  .next (c.setX (insD w) (boolWord (c.seqComplete (BitVec.ofNat 16 (c.getX (insA w)).toNat))))

/-- FENCE: no command issued so far, nor any entry of a dispatching list, is incomplete (R91). -/
def fenceBody (c : Core) : SeqRes :=
  if c.queued.isEmpty && c.sb.isEmpty && c.list.isNone then .next { c with wait := .none }
  else .stay { c with wait := .fence } false

/-- WAITS: it releases the slot in progress, and with item 1 every HOLD slot left in the turn (R218, R219). The start of
the next slot or turn ends the wait. -/
def waitsBody (w : Word) (c : Core) : SeqRes :=
  if insImm w = 0 then .stay { c with wait := .slotStart, wheel := { c.wheel with released := true } } false
  else .stay { c with wait := .turnStart, wheel := { c.wheel with released := true, relAll := true } } false

/-- Commands in flight: issued and not complete (R85). -/
def Core.inFlight (c : Core) : Nat := (c.sb.filter fun e => e.flight.isSome).length

/-- RDT (R89, R219). Outside a slot the spec states no slot index: a free value. -/
def rdtBody (env : SeqEnv) (w : Word) (c : Core) : SeqRes :=
  let v : Nat := match (insImm w).toNat with
    | 0 => env.tide
    | 1 => (match c.wheel.cur with
      | some k => c.wheel.first + k
      | none => env.free)
    | 2 => env.turn
    | 3 => env.id
    | 4 => env.step
    | 5 => c.tail
    | _ => c.inFlight
  .next (c.setX (insD w) (BitVec.ofNat 64 v))

/-- The body of any instruction (R89, R90). -/
def seqBody (env : SeqEnv) (w : Word) (c : Core) : SeqRes :=
  if !seqListed (insOp w) || badField w then .fault 1
  else match insOp w with
    | 0x00 => .next c
    | 0x16 => aluImmBody w c
    | 0x18 => loadBody 8 w c
    | 0x19 => loadBody 4 w c
    | 0x1A => storeBody 8 w c
    | 0x1B => storeBody 4 w c
    | 0x20 | 0x21 | 0x22 | 0x23 => branchBody w c
    | 0x24 => jalBody w c
    | 0x25 => jrBody w c
    | 0x30 => cmdwBody w c
    | 0x31 => issueBody w c
    | 0x32 => listBody env (insD w) (insA w) c
    | 0x33 => waitcBody w c
    | 0x34 => pollcBody w c
    | 0x35 => fenceBody c
    | 0x36 => waitsBody w c
    | 0x37 => rdtBody env w c
    | 0x3F => .stop c
    | op => if op ≤ 0x0B then aluRegBody w c else aluImmBody w c

/-- The sequencer goes on at an index, or faults when it lies outside the store (R90 code 3). -/
def Core.goto (c : Core) (t : Int) : Core × Option Nat :=
  if pcOk t then ({ c with pc := BitVec.ofNat 13 t.toNat }, none) else (c, some 3)

/-- A sequencer stopped with a fault (R90): code and pc recorded. -/
def Core.setFault (c : Core) (code : Nat) : Core :=
  { c with halted := true, haltReq := false, wait := .none, faultCode := code, faultPc := c.pc.toNat }

namespace State

/-- What instructions of a core see. -/
def seqEnv (s : State) (i : Nat) : SeqEnv :=
  { id := i, tide := s.now, turn := s.getF (Reg.WHL_TURN_VALUE (s.core i).polder) % 2 ^ 32,
    step := s.stepOf (s.core i).polder, free := s.fr 0, tile := s.spTile i, busy := s.tilePending i }

/-- A sequencer fault: the core stops, and its polder's step is abandoned (R90). -/
def seqFault (i code : Nat) (s : State) : State :=
  (s.modCore i fun c => c.setFault code).quiesce (s.core i).polder .sequencerFault

/-- A core placed after an instruction at an index, or stopped with a fault. -/
def placeCore (i : Nat) (c : Core) (t : Int) (s : State) : State :=
  match c.goto t with
  | (c, none) => s.setCore i c
  | (c, some code) => (s.setCore i c).seqFault i code

/-- What an instruction leaves to do, done. A list tile's glaze failure is captured for the dispatcher (R156). Two corners of R90 are
the model's: a jump whose target lies outside the store faults before anything else of the instruction takes effect, so that a JAL
then writes no register; and a HALT at index 8,191, after which CORE_PC could not hold the index plus 1, ends with fault 3: DESIGN
CHOICE (log 107). -/
def applySeq (i : Nat) (r : SeqRes) (s : State) : State :=
  let pc : Int := (s.core i).pc.toNat
  match r with
  | .next c => s.placeCore i c (pc + 1)
  | .jump c t => if pcOk t then s.placeCore i c t else s.seqFault i 3
  | .stay c full =>
    let s := s.setCore i c
    if full then (s.modCore i fun c => c.bump Reg.CORE_CNT_QFULL_COUNT (s.fr 0)).useFree 1 else s
  | .stop c => s.placeCore i { c with halted := true, haltReq := false } (pc + 1)
  | .fault code => s.seqFault i code
  | .glaze c tile => (s.placeCore i c (pc + 1)).glazeFail i tile 3
  | .undef _ => s

/-- The instruction a core's sequencer stands at. -/
def insAt (s : State) (i : Nat) : Word := SMap.get (fun _ => 0) (s.core i).istore (s.core i).pc.toNat

/-- Whether a core's sequencer runs. -/
def seqRuns (s : State) (i : Nat) : Bool := !(s.core i).halted

/-- Whether a core's sequencer runs and stands at an operation of the given opcode. -/
def seqAt (s : State) (i op : Nat) : Bool := s.seqRuns i && insOp (s.insAt i) == op

/-- Whether the wait a sequencer is in lets the instruction it stands at be executed: a WAITS already executed waits for the
wheel. -/
def notHeld (s : State) (i : Nat) : Bool :=
  (s.core i).wait != .slotStart && (s.core i).wait != .turnStart

end State

/-- One instruction of a core: the body's outcome applied, or the refusal of a case of R107. -/
def runIns (i : Nat) (r : SeqRes) (s : State) : Host.Outcome State Fault Refusal :=
  match r with
  | .undef case => .refused (.undefinedBehaviour case)
  | r => .next ((s.applySeq i r).useFree 1)

/-- One instruction of opcode `op` on core `i`: when the sequencer stands there, a bad field is fault 1 and otherwise the
body acts; when it does not stand there, nothing happens (log 4). -/
def seqOp (op : Nat) (body : SeqEnv → Word → Core → SeqRes) (i : Nat) (s : State) : Host.Outcome State Fault Refusal :=
  if s.seqAt i op && s.notHeld i then
    (if badField (s.insAt i) then .next (s.seqFault i 1) else runIns i (body (s.seqEnv i) (s.insAt i) (s.core i)) s)
  else .next s

/-- NOP (R89). -/
def execNop (core : Nat) (s : State) : Host.Outcome State Fault Refusal := seqOp 0x00 (fun _ _ c => .next c) core s
/-- ADD (R89). -/
def execAdd (core : Nat) (s : State) : Host.Outcome State Fault Refusal := seqOp 0x01 (fun _ => aluRegBody) core s
/-- SUB (R89). -/
def execSub (core : Nat) (s : State) : Host.Outcome State Fault Refusal := seqOp 0x02 (fun _ => aluRegBody) core s
/-- MUL (R89). -/
def execMul (core : Nat) (s : State) : Host.Outcome State Fault Refusal := seqOp 0x03 (fun _ => aluRegBody) core s
/-- AND (R89). -/
def execAndOp (core : Nat) (s : State) : Host.Outcome State Fault Refusal := seqOp 0x04 (fun _ => aluRegBody) core s
/-- OR (R89). -/
def execOrOp (core : Nat) (s : State) : Host.Outcome State Fault Refusal := seqOp 0x05 (fun _ => aluRegBody) core s
/-- XOR (R89). -/
def execXorOp (core : Nat) (s : State) : Host.Outcome State Fault Refusal := seqOp 0x06 (fun _ => aluRegBody) core s
/-- SHL (R89). -/
def execShl (core : Nat) (s : State) : Host.Outcome State Fault Refusal := seqOp 0x07 (fun _ => aluRegBody) core s
/-- SHR (R89). -/
def execShr (core : Nat) (s : State) : Host.Outcome State Fault Refusal := seqOp 0x08 (fun _ => aluRegBody) core s
/-- SRA (R89). -/
def execSra (core : Nat) (s : State) : Host.Outcome State Fault Refusal := seqOp 0x09 (fun _ => aluRegBody) core s
/-- SLT (R89). -/
def execSlt (core : Nat) (s : State) : Host.Outcome State Fault Refusal := seqOp 0x0A (fun _ => aluRegBody) core s
/-- SLTU (R89). -/
def execSltu (core : Nat) (s : State) : Host.Outcome State Fault Refusal := seqOp 0x0B (fun _ => aluRegBody) core s
/-- ADDI (R89). -/
def execAddi (core : Nat) (s : State) : Host.Outcome State Fault Refusal := seqOp 0x10 (fun _ => aluImmBody) core s
/-- ANDI (R89). -/
def execAndi (core : Nat) (s : State) : Host.Outcome State Fault Refusal := seqOp 0x11 (fun _ => aluImmBody) core s
/-- ORI (R89). -/
def execOri (core : Nat) (s : State) : Host.Outcome State Fault Refusal := seqOp 0x12 (fun _ => aluImmBody) core s
/-- XORI (R89). -/
def execXori (core : Nat) (s : State) : Host.Outcome State Fault Refusal := seqOp 0x13 (fun _ => aluImmBody) core s
/-- SHLI (R89). -/
def execShli (core : Nat) (s : State) : Host.Outcome State Fault Refusal := seqOp 0x14 (fun _ => aluImmBody) core s
/-- SHRI (R89). -/
def execShri (core : Nat) (s : State) : Host.Outcome State Fault Refusal := seqOp 0x15 (fun _ => aluImmBody) core s
/-- LUI (R89). -/
def execLui (core : Nat) (s : State) : Host.Outcome State Fault Refusal := seqOp 0x16 (fun _ => aluImmBody) core s
/-- LD (R89, R90). -/
def execLd (core : Nat) (s : State) : Host.Outcome State Fault Refusal := seqOp 0x18 (fun _ => loadBody 8) core s
/-- LDW (R89, R90). -/
def execLdw (core : Nat) (s : State) : Host.Outcome State Fault Refusal := seqOp 0x19 (fun _ => loadBody 4) core s
/-- ST (R89, R90); a store to 0x1000 moves the completion ring's head (R111). -/
def execSt (core : Nat) (s : State) : Host.Outcome State Fault Refusal := seqOp 0x1A (fun _ => storeBody 8) core s
/-- STW (R89, R90). -/
def execStw (core : Nat) (s : State) : Host.Outcome State Fault Refusal := seqOp 0x1B (fun _ => storeBody 4) core s
/-- BEQ (R89, R90). -/
def execBeq (core : Nat) (s : State) : Host.Outcome State Fault Refusal := seqOp 0x20 (fun _ => branchBody) core s
/-- BNE (R89, R90). -/
def execBne (core : Nat) (s : State) : Host.Outcome State Fault Refusal := seqOp 0x21 (fun _ => branchBody) core s
/-- BLT (R89, R90). -/
def execBlt (core : Nat) (s : State) : Host.Outcome State Fault Refusal := seqOp 0x22 (fun _ => branchBody) core s
/-- BGE (R89, R90). -/
def execBge (core : Nat) (s : State) : Host.Outcome State Fault Refusal := seqOp 0x23 (fun _ => branchBody) core s
/-- JAL (R89, R90). -/
def execJal (core : Nat) (s : State) : Host.Outcome State Fault Refusal := seqOp 0x24 (fun _ => jalBody) core s
/-- JR (R89, R90). -/
def execJr (core : Nat) (s : State) : Host.Outcome State Fault Refusal := seqOp 0x25 (fun _ => jrBody) core s
/-- CMDW (R89, R90). -/
def execCmdw (core : Nat) (s : State) : Host.Outcome State Fault Refusal := seqOp 0x30 (fun _ => cmdwBody) core s
/-- ISSUE (R89, R91, R96, R101). -/
def execIssue (core : Nat) (s : State) : Host.Outcome State Fault Refusal := seqOp 0x31 (fun _ => issueBody) core s
/-- LIST (R89, R91, R97 to R100). -/
def execListCmd (core : Nat) (s : State) : Host.Outcome State Fault Refusal :=
  seqOp 0x32 (fun env w => listBody env (insD w) (insA w)) core s
/-- WAITC (R89, R101). -/
def execWaitc (core : Nat) (s : State) : Host.Outcome State Fault Refusal := seqOp 0x33 (fun _ => waitcBody) core s
/-- POLLC (R89, R101). -/
def execPollc (core : Nat) (s : State) : Host.Outcome State Fault Refusal := seqOp 0x34 (fun _ => pollcBody) core s
/-- FENCE (R89, R91). -/
def execFence (core : Nat) (s : State) : Host.Outcome State Fault Refusal := seqOp 0x35 (fun _ _ => fenceBody) core s
/-- WAITS (R89, R218, R219). -/
def execWaits (core : Nat) (s : State) : Host.Outcome State Fault Refusal := seqOp 0x36 (fun _ => waitsBody) core s
/-- RDT (R89, R219). -/
def execRdt (core : Nat) (s : State) : Host.Outcome State Fault Refusal := seqOp 0x37 rdtBody core s
/-- HALT (R89, R140). -/
def execHaltOp (core : Nat) (s : State) : Host.Outcome State Fault Refusal := seqOp 0x3F (fun _ _ c => .stop c) core s

/-- RESERVED_SEQUENCER_OPCODE (R89, R90): an opcode R89 does not list stops the sequencer with fault 1. -/
def execReservedSequencerOpcode (core : Nat) (s : State) : Host.Outcome State Fault Refusal :=
  if s.seqRuns core && s.notHeld core && !seqListed (insOp (s.insAt core)) then .next (s.seqFault core 1) else .next s

/-- What SSTEP leaves of a wait: none, the instruction executes again (R140, log 15). -/
def SeqRes.unwait : SeqRes → SeqRes
  | .stay c full => .stay { c with wait := .none } full
  | r => r

/-- SSTEP (R140): while CORE_CTL.HALT is 1 and the sequencer is halted, one instruction is executed and the sequencer stays
halted. -/
def execSstep (core : Nat) (s : State) : Host.Outcome State Fault Refusal :=
  if (s.core core).flag Reg.CORE_CTL_HALT && (s.core core).halted then
    runIns core (seqBody (s.seqEnv core) (s.insAt core) (s.core core)).unwait s
  else .next s

end Sys2Proof.Machine
end

