-- ==== Sys2Proof/Machine/KilnNum.lean ====
section
/-! DEFINITION. The kiln's arithmetic (ch 9): coefficient tables (R340), the recurrence (R338, R339), the weight write (R71, R75), norms
(R356), delta tiles (R323) and the matrix rule's products and roots (R350, R353). -/

namespace Sys2Proof.Machine

/-! ### Coefficient tables (R340), by their bytes -/

/-- Flag `k` of a table's FLAGS and PFLAGS. -/
def ktFlag (t : List Byte) (k : Nat) : Bool := bitOf (numAt t 1 1) k
def ktPflag (t : List Byte) (k : Nat) : Bool := bitOf (numAt t 2 1) k
def ktPrecond (t : List Byte) : Bool := ktPflag t 0
def ktLeft (t : List Byte) : Bool := ktPrecond t && ktPflag t 1
def ktRight (t : List Byte) : Bool := ktPrecond t && ktPflag t 2
def ktFallback (t : List Byte) : Nat := numAt t 3 1 % 64

/-- A binary16 or bfloat16 coefficient at an offset. -/
def kt16 (t : List Byte) (o : Nat) : FV := fmtB16.decode (numAt t o 2)
def ktBf (t : List Byte) (o : Nat) : FV := fmtBf16.decode (numAt t o 2)

def ktIterMax (t : List Byte) : Nat := numAt t 0x1C 1
def ktInterval (t : List Byte) : Nat := numAt t 0x1D 1
def ktBlock (t : List Byte) : Nat := numAt t 0x1E 1

/-- A table that is unused: its first 8 bytes are zero. -/
def ktUnused (t : List Byte) : Bool := numAt t 0 8 == 0

/-- Whether a table of the 64 is malformed. -/
def ktBad (allowed : Nat) (all : List (List Byte)) (t : List Byte) : Bool :=
  let pre := ktPrecond t
  let range (v lo hi : Nat) : Bool := if pre then decide (lo ≤ v) && decide (v ≤ hi) else v == 0
  !ktUnused t &&
    (numAt t 0x1F 33 != 0 || bitsOf (numAt t 2 1) 7 4 != 0 || bitsOf (numAt t 3 1) 7 6 != 0 || !bitOf allowed (numAt t 0 1) ||
      decide (7 < numAt t 0 1) || (pre && !ktPflag t 1 && !ktPflag t 2) || (pre && ktPrecond (all.getD (ktFallback t) [])) ||
      !range (ktIterMax t) 1 64 || !range (ktInterval t) 1 255 || !range (ktBlock t) 1 32)

/-! ### Layer descriptors (R334), by their bytes -/

def kdTable (d : List Byte) : Nat := numAt d 0 1 % 64
def kdValid (d : List Byte) : Bool := bitOf (numAt d 1 1) 0
def kdFrozen (d : List Byte) : Bool := bitOf (numAt d 1 1) 1
def kdS16 (d : List Byte) : Bool := bitOf (numAt d 1 1) 2
def kdSlow (d : List Byte) : Bool := bitOf (numAt d 1 1) 3
def kdGroup (d : List Byte) : Nat := numAt d 2 1
def kdMu (d : List Byte) : Int := signed 8 (numAt d 3 1)
def kdLrM (d : List Byte) : FV := fmtB16.decode (numAt d 4 2)
def kdLambda (d : List Byte) : Int := signed 8 (numAt d 6 1)
def kdPstate (d : List Byte) : Nat := numAt d 7 1
def kdTiles (d : List Byte) : Nat := numAt d 8 4
def kdStep (d : List Byte) : Nat := numAt d 12 4
def kdW (d : List Byte) : Nat := numAt d 0x10 8
def kdM1 (d : List Byte) : Nat := numAt d 0x18 8
def kdM2 (d : List Byte) : Nat := numAt d 0x20 8
def kdLogical (d : List Byte) : Nat := numAt d 0x28 8 % 2 ^ 44
def kdPre (d : List Byte) : Nat := numAt d 0x30 8
def kdCols (d : List Byte) : Nat := numAt d 0x38 2
def kdTrust (d : List Byte) : FV := fmtB16.decode (numAt d 0x3A 2)
def kdClipf (d : List Byte) : FV := fmtB16.decode (numAt d 0x3C 2)
def kdBiasT (d : List Byte) : Nat := numAt d 0x3E 2

/-! ### The datapath (R339) -/

/-- The format that each line of R338 is rounded to: at least an 8-bit exponent and 16 significant bits; how many more is open
(log 34). -/
def fmtKiln : FpFmt := ⟨8 + Config.kilnExtra.1, 15 + Config.kilnExtra.2, 2 ^ (7 + Config.kilnExtra.1) - 1, .ieee⟩

def kRound (v : FV) : FV := fmtKiln.roundOp v

/-- What of an operand a value that the spec does not state depends on. -/
def openKey (a : FV) : Bool × Option Rat := (a.isNeg, if a.isFinite then some a.mag else none)

/-- A value that the spec does not state: a free one of the datapath's, the same for equal operands (R76, log 1). -/
def kFree (op : Nat) (a b : FV) : FV := fmtKiln.decode (Config.kilnOpen op (openKey a) (openKey b))

/-- A quotient; a division by zero states no value. -/
def kDiv (a b : FV) : FV :=
  match a, b with
  | .nan, _ | _, .nan => .nan
  | .inf _, .inf _ => .nan
  | .inf s, .fin t y => if y = 0 then kFree 0 a b else .inf (s != t)
  | .fin s _, .inf t => .fin (s != t) 0
  | .fin s x, .fin t y => if y = 0 then kFree 0 a b else .fin (s != t) (x / y)

/-- A square root; that of a negative value states none. -/
def kSqrt (a : FV) : FV :=
  match a with
  | .nan => .nan
  | .inf s => if s then kFree 1 a a else a
  | .fin s x => if x = 0 then a else if s then kFree 1 a a else .fin false (approxSqrt x)

/-- 1 / (1 − a^t) of R338; with a^t = 1 no value is stated. -/
def kBias (a : FV) (t : Nat) : FV :=
  match a with
  | .fin _ _ => kDiv (.fin false 1) (FV.ofRat (1 - a.toRat ^ t))
  | _ => kFree 2 a (FV.ofRat t)

def kSign : FV → FV
  | .fin s x => if x = 0 then .fin false 0 else .fin s 1
  | .inf s => .fin s 1
  | .nan => .nan

/-- One element's outcome: weight before rounding, moments, q (R71), whether G was skipped (R333), whether q was clamped. -/
structure KElem where
  v    : FV
  m1   : FV
  m2   : FV
  q    : FV
  skip : Bool
  clamped : Bool
  deriving DecidableEq, Repr

/-- The recurrence of R338 and the update of R71 for one element under table `t` and descriptor `d`; `pre` is the element of a
preconditioned block. -/
def kElem (t d : List Byte) (k1 k2 : FV) (G : FV) (pre : Option FV) (w m1 m2 : FV) : KElem :=
  if !G.isFinite then ⟨w, m1, m2, .fin false 0, true, false⟩
  else
    let g := kRound (G.mul (if ktPflag t 3 then kdClipf d else .fin false 1))
    let g := pre.getD g
    let n1 := if ktFlag t 0 then kRound (((kt16 t 4).mul m1).add ((kt16 t 6).mul g)) else m1
    let n2 := if ktFlag t 1 then
        kRound (((kt16 t 8).mul m2).add ((kt16 t 10).mul (if ktFlag t 2 then g.abs else g.mul g)))
      else m2
    let mn := if ktFlag t 3 then m1 else n1
    let n := kRound (((kt16 t 12).mul g).add (if ktFlag t 0 then ((kt16 t 14).mul k1).mul mn else .fin false 0))
    let n := if ktFlag t 4 then kSign n else n
    let n := if ktFlag t 5 then kRound (kDiv n ((kSqrt (k2.mul n2)).add (ktBf t 16))) else n
    let u := kRound (((if ktFlag t 7 then kdTrust d else .fin false 1).mul (n.add ((kt16 t 18).mul w))).neg)
    let q := fmtB16.roundOp (((kdLrM d).mul u).scale (kdMu d))
    let (q, clamped) := match q with
      | .inf s => (FV.fin s 65504, true)
      | x => (x, false)
    ⟨w.add (q.scale (kdLambda d - kdMu d)), n1, n2, q, false, clamped⟩

/-- The true values of a tile of 1,024 elements, row by row (R46). -/
def tileFV (t : Tile) : List FV := (List.range 1024).map fun e =>
  trueValue (tagFmt t.tag) (tagScale t.tag) 127 (elemPattern (tagFmt t.tag) t.data (e / 32) (e % 32))

/-- What applying one tile makes: the new tiles, elements skipped and clamped, the values whose squares the norms of w, g and Δw
sum, telemetry. -/
structure KTile where
  w    : Tile
  m1   : Tile
  m2   : Tile
  skip : Nat
  clamped : Nat
  wv   : List FV
  gv   : List FV
  dv   : List FV
  tel  : List (Nat × Nat)
  deriving DecidableEq, Repr

/-- Telemetry of values written in a format (R82, R357). -/
def kTel (code : Nat) (e : TileEnc) : List (Nat × Nat) :=
  [(4 * code, 1024), (4 * code + 1, e.ovf), (4 * code + 2, e.unf), (4 * code + 3, e.nan)]

/-- A tile of moments: S16, its block exponent by R47, to nearest (R339). -/
def momentTile (vs : List FV) : Tile × List (Nat × Nat) :=
  let e := encodeTile 0x2 0 vs
  (Tile.make e.data (mkTag 0x2 false e.s 0 0 0), kTel 0x2 e)

/-- A weight tile: the values written by round_sr in bfloat16 at the old tag's scale, or in S16 at the exponent that the values
give (R71, R75, R339). -/
def weightTile (isS16 : Bool) (old : DWord) (rnd : Nat → Nat) (vs : List FV) : Tile × List (Nat × Nat) :=
  let s := if isS16 then s16Scale (maxMag (vs.filter FV.isFinite)) else tagScale old
  let f := if isS16 then fmtB16 else fmtBf16
  let code := if isS16 then 2 else 0
  let rs := (List.range vs.length).map fun e => roundSr f ((vs.getD e .nan).scale (-s)) (rnd e)
  let unf := ((List.range vs.length).filter fun e => decide ((vs.getD e .nan).mag ≠ 0) && (rs.getD e (.nan, false)).1 == .fin (vs.getD e .nan).isNeg 0).length
  let tel := [(4 * code, 1024), (4 * code + 1, (rs.filter (·.2)).length), (4 * code + 2, unf), (4 * code + 3, (vs.filter (· == .nan)).length)]
  (Tile.make (packTile code (rs.map fun x => f.encode x.1)) (mkTag code false s 0 0 0), tel)

/-- The weights that a norm of w sums: those of elements whose gradient is finite (R333). -/
def keptOf (gs ws : List FV) : List FV := ((gs.zip ws).filter fun x => x.1.isFinite && x.2.isFinite).map (·.2)

/-- A tile applied (R338, R339, R71): weights, moments, norms. -/
def applyNum (t d : List Byte) (seed : DWord) (idx : Nat) (grad : Tile) (pre : Option (List FV)) (w m1 m2 : Tile) : KTile :=
  let k1 := if ktFlag t 6 then kBias (kt16 t 4) (kdBiasT d + 1) else .fin false 1
  let k2 := if ktFlag t 6 then kBias (kt16 t 8) (kdBiasT d + 1) else .fin false 1
  let gs := tileFV grad
  let ws := tileFV w
  let xs := tileFV m1
  let ys := tileFV m2
  let es := (List.range 1024).map fun e =>
    kElem t d k1 k2 (gs.getD e .nan) (pre.map fun l => l.getD e .nan) (ws.getD e .nan) (xs.getD e .nan) (ys.getD e .nan)
  let (nw, tw) := weightTile (kdS16 d) w.tag (fun e => srBits seed (kdStep d) (kdLogical d + 2048 * idx) e) (es.map (·.v))
  let (n1, t1) := momentTile (es.map (·.m1))
  let (n2, t2) := momentTile (es.map (·.m2))
  ⟨nw, if ktFlag t 0 then n1 else m1, if ktFlag t 1 then n2 else m2, (es.filter (·.skip)).length, (es.filter (·.clamped)).length,
    keptOf gs (tileFV nw), gs.filter FV.isFinite,
    (es.filter fun e => !e.skip && e.q.isFinite).map (fun e => e.q.scale (kdLambda d - kdMu d)),
    tw ++ (if ktFlag t 0 then t1 else []) ++ if ktFlag t 1 then t2 else []⟩

/-! ### Norms (R356) -/

def NormAcc.start (sigma : Int) : NormAcc := ⟨sigma, StatPair.zero, 0, StatPair.zero⟩

/-- A pair's sum added to another; a clamped one leaves the sum clamped (R81). -/
def StatPair.join (a b : StatPair) : StatPair :=
  if b.sat then { a with p := clampPair false, sat := true } else a.add b.p.value

/-- A tile's values: their squares summed in one pair, then with its group of 1,024 tiles, then with the groups before. -/
def NormAcc.addTile (a : NormAcc) (vs : List FV) : NormAcc :=
  let t := (vs.foldl (fun (s : StatPair) v => let y := v.scale (-a.sigma); s.add (y.mul y)) StatPair.zero).out
  let g := a.group.join t
  if a.count + 1 < 1024 then { a with group := g, count := a.count + 1 }
  else ⟨a.sigma, StatPair.zero, 0, a.total.join g.out⟩

/-- The norm so far. -/
def NormAcc.sum (a : NormAcc) : StatPair := (a.total.join a.group.out).out

/-- σ of the next step from a norm's true value (R356); a norm of zero states none (log 36). -/
def nextSigma (p : Rat) : Int := if p ≤ 0 then signed 8 Config.kilnSigma else clampInt (-64) 63 ((ceilLog2 p + 1) / 2 - 6)

/-- A positive quantity as the nearest binary16, held at the largest. -/
def toB16 (q : Rat) : Nat := fmtB16.encode (fmtB16.convert (FV.ofRat q)).1

/-! ### Delta tiles (R322, R323) -/

/-- The element tile and block scales of two weight tiles' differences. -/
def deltaTile (i : Nat) (a b : List FV) : Tile × List Nat :=
  let vs := (List.range 2048).map fun e =>
    let r := e / 64
    let c := e % 64
    if c < 32 then a.getD (32 * r + c) .nan else b.getD (32 * r + c - 32) .nan
  let e := encodeTile 0x5 0 vs
  (Tile.make e.data (mkTag 0x5 false 0 (i % 32) 0 (32 - i % 32 : Nat)), e.scales)

/-- The scale tile of a run, from the block scales by element tile. -/
def deltaScales (l : List (Nat × List Nat)) : Tile :=
  Tile.make (l.foldl (fun d e => patchAt d (64 * (e.1 % 32)) (e.2.map (BitVec.ofNat 8))) (List.replicate 2048 0)) (mkTag 0 false 0 0 1 0)

/-! ### Matrices (R350 to R353) -/

/-- A matrix, by rows. -/
abbrev Mat := List (List FV)

def Mat.at (m : Mat) (i j : Nat) : FV := (m.getD i []).getD j (.fin false 0)

def Mat.ofFn (r c : Nat) (f : Nat → Nat → FV) : Mat := (List.range r).map fun i => (List.range c).map fun j => f i j

def Mat.rats (m : Mat) : List (List Rat) := m.map fun l => l.map FV.toRat

def Mat.cols (m : Mat) : Nat := (m.getD 0 []).length

/-- A matrix as it is stored between operations: S16 tiles of 32 × 32, each at the exponent of R47 (R353). -/
def Mat.stored (m : Mat) : Mat :=
  let rows := m.length
  let cols := m.cols
  let exps := (List.range ((rows + 31) / 32)).map fun bi => (List.range ((cols + 31) / 32)).map fun bj =>
    s16Scale (maxMag (((m.drop (32 * bi)).take 32).flatMap fun l => ((l.drop (32 * bj)).take 32).filter FV.isFinite))
  Mat.ofFn rows cols fun i j =>
    let s := (exps.getD (i / 32) []).getD (j / 32) 0
    (fmtB16.decode (encodeElem 0x2 ((m.at i j).scale (-s))).1).scale s

/-- Products accumulated in an ACC pair at 2^σ from a value on (R54). -/
def pairSum (sigma : Int) (start : FV) (l : List FV) : FV :=
  let p := (accumulate true (l.map (FV.scale (-sigma))) (addSplit PairV.zero (start.scale (-sigma))) 1 false).1
  (renorm p).value.scale sigma

/-- The product of two matrices, before it is stored. -/
def Mat.mulRaw (a b : Mat) : Mat :=
  let sigma := Config.productSigma a.rats b.rats
  Mat.ofFn a.length b.cols fun i j => pairSum sigma (.fin false 0) ((List.range a.cols).map fun k => (a.at i k).mul (b.at k j))

/-- The product as it is stored. -/
def Mat.mul (a b : Mat) : Mat := (a.mulRaw b).stored

def Mat.transpose (m : Mat) : Mat := Mat.ofFn m.cols m.length fun i j => m.at j i

def Mat.diag (n : Nat) (v : FV) : Mat := Mat.ofFn n n fun i j => if i = j then v else .fin false 0

def Mat.finite (m : Mat) : Bool := m.all fun l => l.all FV.isFinite

/-- A statistic updated: β S + (1 − β) G Gᵀ (R350), with its scale: accumulated at a σ of its own. -/
def statUpdate (beta : FV) (old g : Mat) : Mat × Int :=
  let gt := g.transpose
  let sigma := Config.productSigma g.rats gt.rats
  let rest := (FV.fin false 1).sub beta
  (Mat.ofFn g.length g.length fun i j =>
    pairSum sigma (beta.mul (old.at i j)) ((List.range g.cols).map fun k => rest.mul ((g.at i k).mul (gt.at k j))), sigma)

/-- The iterations of R353: X when M comes near I. -/
def rootIter (p : Nat) : Nat → Mat → Mat → Option Mat
  | 0, _, _ => none
  | n + 1, x, m =>
    let size := m.length
    let t := (Mat.ofFn size size fun i j =>
      ((if i = j then FV.ofRat ((p : Rat) + 1) else .fin false 0).sub (m.at i j)).mul (FV.ofRat (1 / (p : Rat)))).stored
    let x := x.mul t
    let t2 := t.mul t
    let m := (if p = 4 then t2.mul t2 else t2).mul m
    if !x.finite || !m.finite then none
    else if (List.range size).all fun i => (List.range size).all fun j =>
      decide (((m.at i j).sub (if i = j then .fin false 1 else .fin false 0)).mag ≤ 1 / 256) then some x
    else rootIter p n x m

/-- z^(-1/p) for p = 2 and 4. -/
def invRoot (p : Nat) (z : Rat) : Rat := if p = 4 then approxSqrt (approxSqrt (1 / z)) else approxSqrt (1 / z)

/-- One attempt of R353 with B. -/
def rootTry (p iter : Nat) (b : Mat) : Option Mat :=
  let z := b.foldl (fun m l => max m (l.foldl (fun s v => s + v.mag) 0)) 0
  if !b.finite || decide (z = 0) then none
  else rootIter p iter (Mat.diag b.length (FV.ofRat (invRoot p z))).stored
    (Mat.ofFn b.length b.length fun i j => (b.at i j).mul (FV.ofRat (1 / z))).stored

/-- The inverse root of a statistic (R353): the first attempt that succeeds, and how many were damped. -/
def inverseRoot (p iter : Nat) (damp : FV) (a : Mat) : Option Mat × Nat :=
  let n := a.length
  let mean := ((List.range n).foldl (fun (s : FV) i => s.add (a.at i i)) (.fin false 0)).mul (FV.ofRat (1 / (max 1 n : Nat)))
  let b (k : Nat) : Mat :=
    if k = 0 then a
    else (Mat.ofFn n n fun i j => if i = j then (a.at i j).add ((damp.mul mean).scale (k - 1 : Nat)) else a.at i j).stored
  (List.range 5).foldl (fun (x : Option Mat × Nat) k =>
    if x.1.isSome then x else (rootTry p iter (b k), if k = 0 then 0 else k)) (none, 0)

end Sys2Proof.Machine
end

