-- ==== Sys2Proof/Machine/Kiln.lean ====
section
/-! DEFINITION. The kilns (ch 9): lent slots (R330), export records (R359 to R361), applying a tile (R337, R342 to R345), parking (R347),
fetches and write-backs (R347, R349, R473, R474), the matrix rule's blocks (R350 to R354), and the ends of a layer's step and of
a firing (R341, R344, R358). -/

namespace Sys2Proof.Machine

/-- Status codes of the KLN block (R362). -/
def klnELayer : Nat := 0x8001
def klnEStep : Nat := 0x8002
def klnEFormat : Nat := 0x8003
def klnEGlaze : Nat := 0x8004
def klnEFetch : Nat := 0x8005

namespace State

def kiln (s : State) (i : Nat) : Kiln := SMap.get (fun _ => Kiln.empty) s.kilns i

def modKiln (i : Nat) (f : Kiln → Kiln) (s : State) : State :=
  { s with kilns := SMap.set (fun _ => Kiln.empty) s.kilns i (f (s.kiln i)) }

/-- A layer's step under way on a kiln. -/
def klayer (s : State) (i n : Nat) : Option KLayer := SMap.get (fun _ => none) (s.kiln i).layers n

def setKlayer (i n : Nat) (l : Option KLayer) (s : State) : State :=
  s.modKiln i fun k => { k with layers := SMap.set (fun _ => none) k.layers n l }

/-- Descriptor `n` of K[i] (R334). -/
def ldesc (s : State) (i n : Nat) : List Byte := s.bytes (s.getF (Reg.KLN_LDESC_BASE_ADDR i) + 64 * n) 64

/-- Bytes of a descriptor written by the kiln (R335). -/
def putDesc (i n off : Nat) (l : List Byte) (s : State) : State := s.putPart (s.getF (Reg.KLN_LDESC_BASE_ADDR i) + 64 * n + off) l

/-- A loaded coefficient table (R340). -/
def ktable (s : State) (t : Nat) : List Byte := SMap.get (fun _ => []) s.ktables t

/-- The first refusal or failure captured (KLN_ERR_LAST). -/
def kilnError (i code layer tile : Nat) (s : State) : State :=
  if s.flag Reg.KLN_ERR_LAST_VALID then s
  else
    ((((s.setF Reg.KLN_ERR_LAST_VALID 1).setF Reg.KLN_ERR_LAST_KILN i).setF Reg.KLN_ERR_LAST_CODE code).setF Reg.KLN_ERR_LAST_TILE
      tile).setF Reg.KLN_ERR_LAST_LAYER layer

/-! ### Lent slots (R330) -/

/-- The cores of a polder in a slot that owns the kiln port of S[i]. -/
def lenders (s : State) (i p : Nat) : List Nat := (s.coresOf p).filter fun c =>
  (s.ownedRoutes c).any fun r => let d := s.route (dieOf c) r; d.kind == 2 && d.target == i

/-- Whether those slots lend the channel of an address. -/
def lent (s : State) (i p a : Nat) : Bool :=
  match region a with
  | .dram st ch => st == i && (s.lenders i p).any fun c =>
      (s.ownedRoutes c).any fun r => let d := s.route (dieOf c) r; d.kind == 0 && d.target == st * 32 + ch
  | _ => false

/-- Whether they lend the channels of all of some addresses. -/
def lentAll (s : State) (i p : Nat) (as : List Nat) : Bool := as.all fun a => s.lent i p a

/-- The status of a kiln's access: unmapped outside S[i], the dike, or 0 (R334, R372). -/
def kilnAccess (s : State) (i p a : Nat) : Nat :=
  match region a with
  | .dram st _ => if st ≠ i then memEUnmapped else if s.ownsAddr p a then 0 else memEDike
  | _ => memEUnmapped

/-- A tile passes the crossbar between slice and kiln (R375, R381). -/
def kilnMeter (p : Nat) (k : Access) (a : Nat) (s : State) : State :=
  match region a with
  | .dram st _ => (s.weirSpend st p 2 8).access p k a
  | _ => s

/-- A tile read, and written, by the kiln. -/
def kilnPut (p a : Nat) (t : Tile) (s : State) : State := (s.kilnMeter p writeTile a).putTile a t

/-! ### The export ring (R359 to R361) -/

/-- Units of a kiln's export ring for a polder; HEAD and TAIL run modulo them. -/
def exportUnits (s : State) (i p : Nat) : Nat := 32 * 2 ^ s.getF (Reg.KLN_EXPORT_CFG_LOG2_TILES i p)

def exportHead (s : State) (i p : Nat) : Nat := s.getF (Reg.KLN_EXPORT_IDX_HEAD i p)
def exportTail (s : State) (i p : Nat) : Nat := s.getF (Reg.KLN_EXPORT_IDX_TAIL i p)

/-- Device address of a unit of an export ring. -/
def exportAddr (s : State) (i p u : Nat) : Nat := s.getF (Reg.KLN_EXPORT_BASE_ADDR i p) + 64 * (u % s.exportUnits i p)

/-- A record before it gets its SEQ: header fields and payload (R360). -/
structure ExRec where
  typ     : Nat
  isSealed : Bool
  layer   : Nat
  step    : Nat
  tile    : Nat
  changed : Nat
  tag     : Nat
  glaze   : Nat
  payload : List Byte
  deriving DecidableEq, Repr

def ExRec.units (r : ExRec) : Nat := 1 + ceilDiv r.payload.length 64

/-- A record's bytes. -/
def ExRec.bytes (r : ExRec) (pkg i p units seq tide : Nat) : List Byte :=
  bytesLE 1 r.typ ++ bytesLE 1 (b2n r.isSealed) ++ bytesLE 2 r.layer ++ bytesLE 4 r.step ++ bytesLE 4 r.tile ++
    bytesLE 4 (if r.typ = 0x0F then 0 else r.step + 1) ++ bytesLE 2 pkg ++ bytesLE 1 i ++ bytesLE 1 p ++ bytesLE 2 r.changed ++ bytesLE 2 units ++
    bytesLE 8 r.tag ++ bytesLE 8 r.glaze ++ bytesLE 8 seq ++ bytesLE 8 tide ++ List.replicate 8 0 ++
    padTo (64 * (r.units - 1)) r.payload

/-- Units some records take from a tail on, pads included. -/
def exportNeed (size : Nat) : List ExRec → Nat → Nat
  | [], _ => 0
  | r :: t, tail =>
    let pad := if tail % size + r.units ≤ size then 0 else size - tail % size
    pad + r.units + exportNeed size t (tail + pad + r.units)

/-- Whether a ring has room for some records; a ring whose ENABLE is 0 takes none. -/
def exportFits (s : State) (i p : Nat) (rs : List ExRec) : Bool :=
  let size := s.exportUnits i p
  !s.flag (Reg.KLN_EXPORT_CFG_ENABLE i p) ||
    decide ((s.exportTail i p + size - s.exportHead i p) % size + exportNeed size rs (s.exportTail i p) < size)

/-- The ring addresses that some records take, pads included: at most those from TAIL on. -/
def exportAddrs (s : State) (i p : Nat) (rs : List ExRec) : List Nat :=
  if !s.flag (Reg.KLN_EXPORT_CFG_ENABLE i p) then []
  else (List.range (exportNeed (s.exportUnits i p) rs (s.exportTail i p))).map fun k => s.exportAddr i p (s.exportTail i p + k)

/-- One record written at TAIL. -/
def exportOne (i p units : Nat) (r : ExRec) (s : State) : State :=
  let tail := s.exportTail i p
  let seq := SMap.get (fun _ => 0) (s.kiln i).seqs p
  let l := r.bytes s.pkgId i p units seq s.now
  let s := (List.range r.units).foldl (fun s k => s.putPart (s.exportAddr i p (tail + k)) ((l.drop (64 * k)).take 64)) s
  let s := (s.setF (Reg.KLN_EXPORT_IDX_TAIL i p) ((tail + units) % s.exportUnits i p)).bump (Reg.KLN_CNT_EXPORT_UNITS_COUNT i) units
  let s := s.setF (Reg.KLN_STATUS_EXPORT_WAIT i) 0
  s.modKiln i fun k => { k with seqs := SMap.set (fun _ => 0) k.seqs p (seq + 1) }

/-- Records written, a pad before one that does not fit the tail. -/
def exportPut (i p : Nat) (rs : List ExRec) (s : State) : State :=
  if !s.flag (Reg.KLN_EXPORT_CFG_ENABLE i p) then s
  else rs.foldl (fun s r =>
    let size := s.exportUnits i p
    let tail := s.exportTail i p % size
    let s := if tail + r.units ≤ size then s else s.exportOne i p (size - tail) ⟨0x0F, false, 0, r.step, 0, 0, 0, 0, []⟩
    s.exportOne i p r.units r) s

/-- The waiting of a kiln whose export ring lacks space (R359). -/
def exportWait (i : Nat) (s : State) : State := (s.setF (Reg.KLN_STATUS_EXPORT_WAIT i) 1).bumpFree (Reg.KLN_CNT_EXPORT_WAIT_COUNT i)

/-- The record of a tile written over another, unless nothing changed (R360, R361). -/
def tileRecord (typ layer step idx : Nat) (old new : Tile) : List ExRec :=
  let pat (t : Tile) (e : Nat) : Nat := numAt t.data (2 * e) 2
  let ch := (List.range 1024).filter fun e => pat old e != pat new e
  if ch.isEmpty && old.tag == new.tag then []
  else
    let map := bytesLE 128 (ch.foldl (fun n e => n + 2 ^ e) 0)
    [⟨typ, false, layer, step, idx, ch.length, new.tag.toNat, new.glaze.toNat,
      map ++ ch.flatMap fun e => bytesLE 2 (pat old e ^^^ pat new e)⟩]

/-! ### Versions (R318, R342) -/

/-- The area a firing reads of a group: that of its CURRENT version; area 0 without one. -/
def readArea (s : State) (g : Nat) : Nat :=
  match s.verIn g 3 with
  | some j => s.getF (Reg.PIP_AREA_OFF_OFF g (s.getF (Reg.PIP_VER_FULL_AREA g j)))
  | none => s.getF (Reg.PIP_AREA_OFF_OFF g 0)

/-- Whether step `n` has ended for every VALID layer of a group on K[i]. -/
def sherdOver (s : State) (i g n : Nat) : Bool := (List.range 65536).all fun k =>
  let d := s.ldesc i k
  !kdValid d || kdGroup d != g || decide (n < kdStep d)

/-- The slot that version `v` of a group is written to, once it may be: a live one or a free one allocated; the firing begins
(R318, R325). A kiln whose layers of the group, all FROZEN, have ended the step before has reported already (R319, R344). -/
def beginFiring (g v : Nat) (s : State) : Option (Nat × State) :=
  let s := s.noReturn (s.groupPolder g) (v - 1)
  match s.verSlot g v with
  | some j => some (j, s)
  | none => match s.allocVer g v with
    | some s => (s.verSlot g v).map fun j =>
      let ended := (List.range 16).filter fun i => bitOf (s.getF (Reg.PIP_GROUP_SHERDS_SHERD_MASK g)) i && s.sherdOver i g (v - 1)
      (j, ended.foldl (fun s i => s.sherdDone g v i) s)
    | none => none

/-- Whether a slot for version `v` is there. -/
def slotFor (s : State) (g v : Nat) : Bool := (s.verSlot g v).isSome || (s.allocVer g v).isSome

/-! ### Fetches and write-backs (R347, R349, R473, R474) -/

/-- Package and device address of a rack-global address (R6). -/
def rackPkg (a : Nat) : Nat := bitsOf a 57 44
def rackAddr (a : Nat) : Nat := a % 2 ^ 44

/-- The lowest-numbered COLL port of IO[j] whose partner is a package, with a VC of the polder on it (R473). -/
def collPath (s : State) (j p pkg : Nat) : Option (Nat × Nat) :=
  (List.range 8).findSome? fun n =>
    let port := 8 * j + n
    if s.getF (Reg.LNK_PORT_CFG_ROLE port) = 2 ∧ s.portState port = 6 ∧ s.getF (Reg.LNK_PEER_PKG_ID port) = pkg then
      ((List.range 16).find? fun v => s.vcPolder port v == p).map fun v => (port, v)
    else none

/-- A fetch or write-back sent: on a lane, or, for an address of this package, through the host window by CE[0]; answers whether it
found a way. -/
def sendFetch (f : KFetch) (s : State) : Bool × State :=
  let j := f.kiln / 8
  let put (lane : Option (Nat × Nat)) (s : State) : State :=
    { s.bump (Reg.COL_CNT_FETCH_COUNT j) 1 with fetches := s.fetches ++ [{ f with lane := lane, left := 5000 }] }
  if f.pkg = s.pkgId then
    (match region f.addr with
    | .host => if j = 0 then (true, put none s) else (false, s)
    | _ => (false, s))
  else match s.collPath j f.polder f.pkg with
    | none => (false, s)
    | some (port, v) =>
      let q : LanePkt := match f.data with
        | none => ⟨0x26, false, false, 0, f.pkg, f.addr, laneSrc 0 0 s.pkgId, f.id % 65536 + 2 ^ 16, []⟩
        | some t => ⟨0x28, false, false, 0, f.pkg, f.addr, laneSrc 0 0 s.pkgId, f.id % 65536, tilePayload t⟩
      (true, (put (some (port, v)) s).sendLane port v q)

/-- A fetch has failed (R349): reported; the first time the step is abandoned and it is issued again, the second time the polder
is restored. -/
def fetchFailed (f : KFetch) (s : State) : State :=
  let e := (s.kiln f.kiln).parked.find? fun e => e.id == f.entry
  let s := (s.bump (Reg.KLN_CNT_FETCH_FAIL_COUNT f.kiln) 1).kilnError f.kiln klnEFetch ((e.map (·.layer)).getD 0) ((e.map (·.idx)).getD 0)
  let s := { s with fetches := s.fetches.filter fun x => x.id != f.id }
  if f.failed then s.dueRestore f.polder
  else
    let s := s.quiesce f.polder .kilnFetch
    let s := if f.data.isNone then s.bump (Reg.KLN_CNT_FETCH_COUNT f.kiln) 1 else s
    let (ok, s) := s.sendFetch { f with failed := true }
    if ok then s
    else
      ((s.bump (Reg.KLN_CNT_FETCH_FAIL_COUNT f.kiln) 1).dueRestore f.polder)

/-- A fetch (or, with a tile, a write-back) issued for a parked entry. -/
def issueFetch (i p entry slot a : Nat) (data : Option Tile) (s : State) : State :=
  let f : KFetch := ⟨s.serial % 65536, i, p, entry, slot, data, rackPkg a, rackAddr a, 0, false, none⟩
  let s := { s with serial := s.serial + 1 }
  let s := if data.isNone then s.bump (Reg.KLN_CNT_FETCH_COUNT i) 1 else s
  let (ok, s) := s.sendFetch f
  if ok then s else s.fetchFailed f

/-! ### Blocks of the matrix rule (R350, R351) -/

/-- Geometry of a layer on a kiln: rows and columns in tiles, block columns, block side. -/
structure Blocks where
  rows : Nat
  cols : Nat
  side : Nat
  across : Nat
  deriving DecidableEq, Repr

def blocksOf (d t : List Byte) : Blocks :=
  let cols := max 1 (kdCols d)
  let side := max 1 (ktBlock t)
  ⟨kdTiles d / cols, cols, side, ceilDiv cols side⟩

def Blocks.count (b : Blocks) : Nat := ceilDiv b.rows b.side * b.across
def Blocks.of (b : Blocks) (t : Nat) : Nat := t / b.cols / b.side * b.across + t % b.cols / b.side
def Blocks.high (b : Blocks) (k : Nat) : Nat := min b.side (b.rows - k / b.across * b.side)
def Blocks.wide (b : Blocks) (k : Nat) : Nat := min b.side (b.cols - k % b.across * b.side)

/-- The tiles of a block, row by row. -/
def Blocks.tiles (b : Blocks) (k : Nat) : List Nat := (List.range (b.high k)).flatMap fun r => (List.range (b.wide k)).map fun c =>
  (k / b.across * b.side + r) * b.cols + k % b.across * b.side + c

/-- Tiles that a block takes at PRE_BASE. -/
def Blocks.size (b : Blocks) (t : List Byte) (k : Nat) : Nat :=
  (if ktLeft t then 3 * b.high k ^ 2 else 0) + if ktRight t then 3 * b.wide k ^ 2 else 0

/-- Device addresses of a block's L, R and their roots (R351). -/
def Blocks.base (b : Blocks) (d t : List Byte) (k : Nat) : Nat :=
  kdPre d + 2048 * ((List.range k).map (b.size t)).foldl (· + ·) 0
def Blocks.rightStat (b : Blocks) (d t : List Byte) (k : Nat) : Nat :=
  b.base d t k + 2048 * if ktLeft t then 2 * b.high k ^ 2 else 0
def Blocks.leftRoot (b : Blocks) (d t : List Byte) (k : Nat) : Nat :=
  b.rightStat d t k + 2048 * if ktRight t then 2 * b.wide k ^ 2 else 0
def Blocks.rightRoot (b : Blocks) (d t : List Byte) (k : Nat) : Nat :=
  b.leftRoot d t k + 2048 * if ktLeft t then b.high k ^ 2 else 0

/-- A square matrix of `n` × 32 elements a side read from ACC tiles of 16 × 32 (R42), and from S16 tiles, in row-major tile order. -/
def readAcc (s : State) (a n : Nat) : Mat := Mat.ofFn (32 * n) (32 * n) fun i j =>
  let t := s.tile (a + 2048 * (i / 16 * n + j / 32))
  trueValue 0xB (tagScale t.tag) 127 (elemPattern 0xB t.data (i % 16) (j % 32))

def readS16 (s : State) (a n : Nat) : Mat := Mat.ofFn (32 * n) (32 * n) fun i j =>
  let t := s.tile (a + 2048 * (i / 32 * n + j / 32))
  trueValue 0x2 (tagScale t.tag) 127 (elemPattern 0x2 t.data (i % 32) (j % 32))

/-- The same written. -/
def putAcc (p a n : Nat) (m : Mat) (sigma : Int) (s : State) : State :=
  (List.range (2 * n * n)).foldl (fun s k =>
    let vs := (List.range 512).map fun e => (m.at (k / n * 16 + e / 32) (k % n * 32 + e % 32)).scale (-sigma)
    let ws := vs.map fun v => let x := split16 v; fmtB16.encode x.1 + 65536 * fmtB16.encode x.2
    s.kilnPut p (a + 2048 * k) (Tile.make (packTile 0xB ws) (mkTag 0xB false sigma 0 0 0))) s

def putS16 (p a n : Nat) (m : Mat) (s : State) : State :=
  (List.range (n * n)).foldl (fun s k =>
    let e := encodeTile 0x2 0 ((List.range 1024).map fun e => m.at (k / n * 32 + e / 32) (k % n * 32 + e % 32))
    s.kilnPut p (a + 2048 * k) (Tile.make e.data (mkTag 0x2 false e.s 0 0 0))) s

/-- The tiles of a block's statistics and roots. -/
def Blocks.addrs (b : Blocks) (d t : List Byte) (k : Nat) : List Nat := (List.range (b.size t k)).map fun x => b.base d t k + 2048 * x

/-- The gradient of a block, from its tiles. -/
def blockGrad (b : Blocks) (k : Nat) (tiles : Nat → Tile) : Mat :=
  let vs := (b.tiles k).map fun t => tileFV (tiles t)
  let c := b.wide k
  Mat.ofFn (32 * b.high k) (32 * c) fun i j => ((vs.getD (i / 32 * c + j / 32) []).getD (i % 32 * 32 + j % 32) (.fin false 0))

/-- The statistics of a block updated (R350 step 1). -/
def updateStats (p : Nat) (d t : List Byte) (b : Blocks) (k : Nat) (g : Mat) (s : State) : State :=
  let beta := kt16 t 0x1A
  let s := if ktLeft t then
      (let x := statUpdate beta (s.readAcc (b.base d t k) (b.high k)) g
       s.putAcc p (b.base d t k) (b.high k) x.1 x.2)
    else s
  if ktRight t then
    (let x := statUpdate beta (s.readAcc (b.rightStat d t k) (b.wide k)) g.transpose
     s.putAcc p (b.rightStat d t k) (b.wide k) x.1 x.2)
  else s

/-- The preconditioned block (R350 step 2). -/
def precondition (s : State) (d t : List Byte) (b : Blocks) (k : Nat) (g : Mat) : Mat :=
  let g := if ktLeft t then (s.readS16 (b.leftRoot d t k) (b.high k)).mul g else g
  if ktRight t then g.mul (s.readS16 (b.rightRoot d t k) (b.wide k)) else g

/-! ### Applying (R337, R342, R343, R361) -/

/-- How an attempt to apply an entry ends. -/
inductive Attempt where
  /-- Applied: the glazes to report (R464). -/
  | applied (s : State) (gw gm1 gm2 : DWord)
  | park (w : ParkWait) (s : State)
  | hold (s : State)
  | refuse (code : Nat) (s : State)

/-- The tiles of an entry as the kiln reads them: fetched for a SLOW layer, else from S[i]. -/
def entryTile (s : State) (d : List Byte) (e : Parked) (slot a : Nat) : Tile :=
  if kdSlow d then ((e.got.find? fun x => x.1 == slot).map (·.2)).getD ⟨[], 0, 0⟩ else s.tile a

/-- The base of an area of a layer's weights: the offset is added modulo 2^44, within the package of a SLOW layer (R320, R334). -/
def areaBase (d : List Byte) (off : Nat) : Nat := kdW d / 2 ^ 44 * 2 ^ 44 + (kdW d + off) % 2 ^ 44

/-- The delta area that the firing in slot `j` of a layer's group writes (R322). -/
def deltaBase (s : State) (d : List Byte) (j : Nat) : Nat :=
  areaBase d (s.getF (Reg.PIP_AREA_OFF_OFF (kdGroup d) (SMap.get (fun _ => (⟨0, 15⟩ : Firing)) s.firings (kdGroup d * 4 + j)).delta))

/-- The addresses a layer's tile is read from: weight, first moment, second moment; only those that the table keeps. -/
def tileAddrs (s : State) (d t : List Byte) (idx : Nat) : List (Nat × Nat) :=
  let o := 2048 * idx
  [(0, areaBase d (if kdFrozen d then 0 else s.readArea (kdGroup d)) + o)] ++
    (if kdFrozen d || !ktFlag t 0 then [] else [(1, kdM1 d + o)]) ++ if kdFrozen d || !ktFlag t 1 then [] else [(2, kdM2 d + o)]

/-- A tile that an entry writes: into S[i], or back to the slow tier (R347). -/
def putOut (i p entry slot a : Nat) (d : List Byte) (t : Tile) (s : State) : State :=
  if kdSlow d then s.issueFetch i p entry slot a (some t) else s.kilnPut p a t

/-- The element values C − N of a delta (R322). -/
def tileDiff (c n : Tile) : List FV := (List.range 1024).map fun k => ((tileFV c).getD k .nan).sub ((tileFV n).getD k .nan)

/-- Where the delta element tile and scale tile of a layer's tile lie in a delta area (R323). -/
def deltaAddrs (base idx : Nat) : Nat × Nat := (base + 2048 * (33 * (idx / 2 / 32) + idx / 2 % 32), base + 2048 * (33 * (idx / 2 / 32) + 32))

/-- The delta of a tile, from its CURRENT and its new weights (R323, R343): with its other half, an element tile; with the run's last,
the scale tile. -/
def putDelta (i p entry layer idx j : Nat) (d : List Byte) (c new : Tile) (s : State) : State :=
  match s.klayer i layer with
  | none => s
  | some l =>
    let at' := deltaAddrs (s.deltaBase d j) idx
    let n := idx / 2
    let run := idx / 64
    let last := min (run * 64 + 64) (kdTiles d)
    match l.deltas.find? fun x => x.1 == idx ^^^ 1 with
    | none => s.setKlayer i layer (some { l with deltas := (idx, c, new) :: l.deltas })
    | some o =>
      let x := tileDiff c new
      let y := tileDiff o.2.1 o.2.2
      let (t, sc) := if idx % 2 = 0 then deltaTile n x y else deltaTile n y x
      let s := s.putOut i p entry 3 at'.1 d t
      let scales := (n, sc) :: l.scales
      let l := { l with deltas := l.deltas.filter fun x => x.1 != idx ^^^ 1 }
      let mine := scales.filter fun x => x.1 / 32 == run
      if mine.length = (last - run * 64) / 2 then
        (s.putOut i p entry 4 at'.2 d (deltaScales mine)).setKlayer i layer
          (some { l with scales := scales.filter fun x => x.1 / 32 != run })
      else s.setKlayer i layer (some { l with scales := scales })

/-- A FROZEN layer's tile discarded (R337). -/
def discardTile (i : Nat) (e : Parked) (l : KLayer) (w : Tile) (s : State) : State :=
  let gs := tileFV e.grad
  let l := { l with done := e.idx :: l.done, discards := l.discards + 1, w2 := l.w2.addTile (keptOf gs (tileFV w))
                    g2 := l.g2.addTile (gs.filter FV.isFinite), d2 := l.d2.addTile [] }
  let s := (s.bump (Reg.KLN_CNT_DISCARD_COUNT i) 1).bump (Reg.KLN_CNT_NONFINITE_COUNT i) (gs.filter fun v => !v.isFinite).length
  s.setKlayer i e.layer (some l)

/-- The records of an applied tile (R361). -/
def applyRecords (s : State) (i p : Nat) (e : Parked) (d t : List Byte) (w m1 m2 : Tile) (r : KTile) : List ExRec :=
  if s.inSaggar (kdW d) then []
  else
    tileRecord 1 e.layer (kdStep d) e.idx w r.w ++
      if s.flag (Reg.KLN_EXPORT_CFG_STATE i p) then
        (if ktFlag t 0 then tileRecord 2 e.layer (kdStep d) e.idx m1 r.m1 else []) ++
          if ktFlag t 1 then tileRecord 3 e.layer (kdStep d) e.idx m2 r.m2 else []
      else []

/-- The full area that the firing in slot `j` of a layer's group writes (R342). -/
def newArea (s : State) (d : List Byte) (j : Nat) : Nat :=
  areaBase d (s.getF (Reg.PIP_AREA_OFF_OFF (kdGroup d) (s.getF (Reg.PIP_VER_FULL_AREA (kdGroup d) j))))

/-- The addresses of S[i] that applying a tile writes: its new weights, its moments and its delta unless the layer is SLOW, and its
export records (R330). -/
def writtenBy (s : State) (i p j : Nat) (d t : List Byte) (idx : Nat) (recs : List ExRec) : List Nat :=
  let o := 2048 * idx
  let x := deltaAddrs (s.deltaBase d j) idx
  (if kdSlow d then []
   else [s.newArea d j + o] ++ (if ktFlag t 0 then [kdM1 d + o] else []) ++ (if ktFlag t 1 then [kdM2 d + o] else []) ++
     if s.flag (Reg.PIP_GROUP_CFG_FORM (kdGroup d)) then [x.1, x.2] else []) ++ s.exportAddrs i p recs

/-- A tile applied: weights into the FILLING area, moments in place, or both back to the slow tier; counters, norms, deltas, records
(R342, R347, R356, R357, R361). -/
def writeApplied (i j : Nat) (e : Parked) (l : KLayer) (t : List Byte) (w : Tile) (r : KTile) (recs : List ExRec) (s : State) : State :=
  let d := l.desc
  let p := e.polder
  let o := 2048 * e.idx
  let new := s.newArea d j + o
  let outs := [(0, new, r.w)] ++ (if ktFlag t 0 then [(1, kdM1 d + o, r.m1)] else []) ++ if ktFlag t 1 then [(2, kdM2 d + o, r.m2)] else []
  let s := outs.foldl (fun s x => s.putOut i p e.id x.1 x.2.1 d x.2.2) s
  let s := ((s.bump (Reg.KLN_CNT_TILES_COUNT i) 1).bump (Reg.KLN_CNT_NONFINITE_COUNT i) r.skip).bump (Reg.KLN_CNT_QOVF_COUNT i) r.clamped
  let s := if s.rangeOn then s.applyTel p r.tel else s
  let l := { l with done := e.idx :: l.done, w2 := l.w2.addTile r.wv, g2 := l.g2.addTile r.gv, d2 := l.d2.addTile r.dv
                    qovf := l.qovf || decide (0 < r.clamped) }
  let s := s.setKlayer i e.layer (some l)
  let s := if s.flag (Reg.PIP_GROUP_CFG_FORM (kdGroup d)) then
      s.putDelta i p e.id e.layer e.idx j d w r.w
    else s
  s.exportPut i p recs

/-- An entry applied, or what it waits for (R342, R345, R347). -/
def attempt (i : Nat) (e : Parked) (s : State) : Attempt :=
  match s.klayer i e.layer with
  | none => .hold s
  | some l =>
    let d := l.desc
    let t := s.ktable l.table
    let p := e.polder
    let rs := s.tileAddrs d t e.idx
    let slow := kdSlow d
    if slow && !(rs.all fun x => e.got.any fun y => y.1 == x.1) then .park .fetch s
    else match if slow then none else rs.find? fun x => s.kilnAccess i p x.2 != 0 with
    | some x =>
      let st := s.kilnAccess i p x.2
      .refuse st (if st = memEDike then s.dikeFail 3 p x.2 else s)
    | none =>
      if !slow && !(rs.all fun x => s.lent i p x.2) then .hold s
      else
        let s1 := if slow then s else rs.foldl (fun s x => s.kilnMeter p readTile x.2) s
        let rd (k : Nat) : Tile := ((rs.find? fun x => x.1 == k).map fun x => s1.entryTile d e k x.2).getD ⟨[], 0, 0⟩
        match rs.find? fun x => !(rd x.1).ok with
        | some x => .park (.repair (rackAddr x.2)) (s.kilnError i klnEGlaze e.layer e.idx)
        | none =>
          if kdFrozen d then .applied (s1.discardTile i e l (rd 0)) 0 0 0
          else
            let g := kdGroup d
            if !s.slotFor g (kdStep d + 1) then .park .slot s
            else
              let r := applyNum t d (s.job p).seed e.idx e.grad e.pre (rd 0) (rd 1) (rd 2)
              let recs := s.applyRecords i p e d t (rd 0) (rd 1) (rd 2) r
              if !s.exportFits i p recs then .hold (s.exportWait i)
              else match s1.beginFiring g (kdStep d + 1) with
                | none => .hold s
                | some (j, s2) =>
                  if !s2.lentAll i p (s2.writtenBy i p j d t e.idx recs) then .hold s
                  else .applied (s2.writeApplied i j e l t (rd 0) r recs) r.w.glaze
                    (if ktFlag t 0 then r.m1.glaze else 0) (if ktFlag t 1 then r.m2.glaze else 0)

/-! ### The end of a firing (R344) -/

/-- The firing of version `n` + 1 of a group's sherd on K[i] is complete. -/
def endFiring (i g n : Nat) (s : State) : State :=
  if s.sherdOver i g n then
    ((s.sherdDone g (n + 1) i).bump (Reg.KLN_CNT_FIRINGS_COUNT i) 1).exportPut i (s.groupPolder g) [⟨0x11, false, 0, n, 0, 0, g, 0, []⟩]
  else s

/-! ### Root computations (R352, R354) -/

/-- The kilns that hold a VALID descriptor of a layer. -/
def holders (s : State) (layer : Nat) : List Nat := (List.range 16).filter fun i => kdValid (s.ldesc i layer)

/-- The root computations of a layer, on every kiln. -/
def rootsOf (s : State) (layer : Nat) : List RootJob := (s.holders layer).flatMap fun i => (s.kiln i).roots.filter fun r => r.layer == layer

/-- A block's computation has failed (R354): with the first of the layer the event is counted, KLN_PRECOND_STALE set, and the roots that
the layer has become stale. -/
def rootFailed (i layer : Nat) (s : State) : State :=
  if (s.rootsOf layer).any fun r => r.res == .failed then s
  else
    let s := ((s.bump (Reg.KLN_CNT_NEWTON_FAIL_COUNT i) 1).setF Reg.KLN_PRECOND_STALE_STALE 1).setF Reg.KLN_PRECOND_STALE_LAYER layer
    (s.holders layer).foldl (fun s k => if kdPstate (s.ldesc k layer) = 0 then s else s.putDesc k layer 7 [2]) s

/-- What the end of a layer's step makes of its computations (R352, R354): `none` while a block of it on some kiln has no result, or
none was queued; else whether all succeeded. -/
def rootsReady (s : State) (layer : Nat) : Option Bool :=
  let js := s.rootsOf layer
  if js.isEmpty || js.any (fun r => r.res == .pending) then none else some (!js.any fun r => r.res == .failed)

/-- The results of a layer's root computations on K[i] taken over, unless one of the layer failed (R352, R354). Answers the new PSTATE. -/
def installRoots (i layer : Nat) (ready : Option Bool) (l : KLayer) (t : List Byte) (s : State) : Nat × State :=
  let d := l.desc
  let b := blocksOf d t
  let p := s.groupPolder (kdGroup d)
  let js := (s.kiln i).roots.filter fun r => r.layer == layer
  let was := kdPstate (s.ldesc i layer)
  let clear (s : State) : State := s.modKiln i fun k => { k with roots := k.roots.filter fun r => r.layer != layer }
  match ready with
  | none => (was, s)
  | some false => (was, clear s)
  | some true =>
      (1, js.foldl (fun s r => match r.res with
        | .found x y =>
          let s := match x with
            | some m => s.putS16 p (b.leftRoot d t r.block) (b.high r.block) m
            | none => s
          (match y with
          | some m => s.putS16 p (b.rightRoot d t r.block) (b.wide r.block) m
          | none => s)
        | _ => s) (clear s))

/-- Root computations queued for every block of a layer at the end of a step, where its INTERVAL says so and `idle`, none of the layer
being left (R352). -/
def queueRoots (i layer : Nat) (idle : Bool) (l : KLayer) (t : List Byte) (s : State) : State :=
  let d := l.desc
  let b := blocksOf d t
  if !ktPrecond t || kdStep d % max 1 (ktInterval t) != 0 || !idle then s
  else s.modKiln i fun k => { k with roots := k.roots ++ (List.range b.count).map fun n =>
    ⟨layer, n, if ktLeft t then some (s.readAcc (b.base d t n) (b.high n)) else none,
      if ktRight t then some (s.readAcc (b.rightStat d t n) (b.wide n)) else none, .pending⟩ }

/-! ### The end of a layer's step (R341, R358) -/

/-- A norm summed over kilns. -/
def sumNorm (f : KLayer → NormAcc) (ls : List KLayer) : StatPair := (ls.foldl (fun a l => a.join (f l).sum) StatPair.zero).out

/-- What a layer's step leaves (R341): σ of its norms, the summed pairs, the next MU, TRUST and CLIPF, and the table in force. -/
structure LayerEnd where
  sigmas : List Int
  w2     : StatPair
  g2     : StatPair
  d2     : StatPair
  mu     : Int
  trust  : Nat
  clipf  : Nat
  deriving DecidableEq, Repr

/-- A summed norm's true value (R356). -/
def normValue (p : StatPair) (sigma : Int) : Rat := max 0 ((p.p.value).toRat * pow2 (2 * sigma))

def layerEnd (d t : List Byte) (ls : List KLayer) : LayerEnd :=
  let sg := [(ls.map fun l => l.w2.sigma).headD 0, (ls.map fun l => l.g2.sigma).headD 0, (ls.map fun l => l.d2.sigma).headD 0]
  let w2 := sumNorm (·.w2) ls
  let g2 := sumNorm (·.g2) ls
  let d2 := sumNorm (·.d2) ls
  let w := normValue w2 (sg.getD 0 0)
  let g := normValue g2 (sg.getD 1 0)
  let dv := normValue d2 (sg.getD 2 0)
  let n : Nat := 1024 * ls.foldl (fun n l => n + kdTiles l.desc) 0
  let rms2 := dv * pow2 (2 * (kdMu d - kdLambda d)) / (max 1 n : Nat)
  let mu := if rms2 = 0 then kdMu d else
    let m := clampInt (-24) 24 (kdMu d - floorLog2 rms2 / 2)
    if ls.any (·.qovf) then max (-24) (min m (kdMu d - 4)) else m
  let one := 0x3C00
  let clipf := if !ktPflag t 3 || decide (g = 0) then one else toB16 (min 1 ((ktBf t 0x16).toRat / approxSqrt g))
  let lr := (kdLrM d).toRat * pow2 (kdLambda d)
  let trust := if w = 0 ∨ dv = 0 then one else
    toB16 (min (kt16 t 0x14).toRat (approxSqrt w * lr * (kdTrust d).toRat / approxSqrt dv))
  ⟨sg, w2, g2, d2, mu, trust, clipf⟩

/-- A norms record (R358). -/
def normsRecord (layer : Nat) (l : KLayer) (ls : List KLayer) (x : LayerEnd) (stale : Bool) : List Byte :=
  let sat := x.w2.sat || x.g2.sat || x.d2.sat
  let flags := b2n (kdFrozen l.desc) + 2 * b2n l.fallback + 4 * b2n stale + 8 * b2n (ls.any (·.qovf)) + 16 * b2n sat
  bytesLE 2 layer ++ bytesLE 1 flags ++ bytesLE 1 (unsignedOf 8 x.mu) ++ bytesLE 4 (kdStep l.desc) ++ x.w2.p.bytes ++ x.g2.p.bytes ++
    x.d2.p.bytes ++ (x.sigmas.flatMap fun e => bytesLE 1 (unsignedOf 8 (2 * e))) ++ [0] ++ bytesLE 2 x.trust ++ bytesLE 2 x.clipf ++
    bytesLE 4 (ls.foldl (fun n l => n + l.discards) 0)

/-- A norms record appended to the norms ring while MODE is NORMS or BOTH, or dropped and counted (R358). -/
def putNorms (l : List Byte) (s : State) : State :=
  if s.getF Reg.TEL_RANGE_CTL_MODE % 2 = 0 then s
  else
    let size := 2 ^ s.getF Reg.KLN_NORMS_CFG_LOG2_SIZE
    let tail := s.getF Reg.KLN_NORMS_IDX_TAIL
    if size ≤ ringUsed tail (s.getF Reg.KLN_NORMS_IDX_HEAD) then s.bump Reg.KLN_CNT_NORMS_DROP_COUNT 1
    else (s.storeIn 4 (s.getF Reg.KLN_NORMS_BASE_ADDR + 32 * (tail % size)) l).setF Reg.KLN_NORMS_IDX_TAIL (tail + 1)

/-- The layer-end record (R360, R361). -/
def layerRecord (s : State) (layer : Nat) (d : List Byte) (norms : List Byte) : ExRec :=
  ⟨0x10, s.inSaggar (kdW d), layer, kdStep d, 0, 0, 0, 0, norms⟩

/-- One kiln at the end of a layer's step: roots, the fields it keeps, the record, the next computation (R341 steps 5 and 6,
R352). -/
def closeLayer (layer : Nat) (ready : Option Bool) (idle : Bool) (x : LayerEnd) (norms : List Byte) (s : State) (i : Nat) : State :=
  match s.klayer i layer with
  | none => s
  | some l =>
    let d := l.desc
    let t := s.ktable (kdTable d)
    let (ps, s) := s.installRoots i layer ready l t
    let s := s.queueRoots i layer idle l t
    let s := (s.putDesc i layer 3 (bytesLE 1 (unsignedOf 8 x.mu))).putDesc i layer 7 (bytesLE 1 ps)
    let s := (s.putDesc i layer 12 (bytesLE 4 (kdStep d + 1))).putDesc i layer 0x3A
      (bytesLE 2 x.trust ++ bytesLE 2 x.clipf ++ bytesLE 2 (min 65535 (kdBiasT d + 1)))
    let s := s.setKlayer i layer none
    let s := s.exportPut i (s.groupPolder (kdGroup d)) [s.layerRecord layer d norms]
    s.endFiring i (kdGroup d) (kdStep d)

/-- The addresses of S[i] that the end of a layer's step reads or writes on a kiln: its descriptor, its statistics and roots, and the
records of its export ring (R330). -/
def endAddrs (s : State) (i layer : Nat) (ready : Option Bool) : List Nat :=
  match s.klayer i layer with
  | none => []
  | some l =>
    let t := s.ktable (kdTable l.desc)
    let b := blocksOf l.desc t
    let roots := ktPrecond t && (ready.isSome || kdStep l.desc % max 1 (ktInterval t) == 0)
    [s.getF (Reg.KLN_LDESC_BASE_ADDR i) + 64 * layer] ++ (if roots then (List.range b.count).flatMap (b.addrs l.desc t) else []) ++
      s.exportAddrs i (s.groupPolder (kdGroup l.desc)) [⟨0x10, false, layer, 0, 0, 0, 0, 0, List.replicate 32 0⟩, ⟨0x11, false, 0, 0, 0, 0, 0, 0, []⟩]

/-- A layer's step ends when every kiln that holds it has applied or discarded its tiles (R341). It waits for room in the export
rings (R359). -/
def endLayer (layer : Nat) (s : State) : State :=
  let hs := s.holders layer
  let ls := hs.filterMap fun i => s.klayer i layer
  match ls with
  | [] => s
  | l :: _ =>
    if ls.length ≠ hs.length ∨ ls.any (fun x => decide (x.done.length < kdTiles x.desc)) then s
    else
      let x := layerEnd l.desc (s.ktable l.table) ls
      let fits (i : Nat) : Bool := s.exportFits i (s.groupPolder (kdGroup l.desc))
        [⟨0x10, false, layer, 0, 0, 0, 0, 0, List.replicate 32 0⟩, ⟨0x11, false, 0, 0, 0, 0, 0, 0, []⟩]
      match hs.find? fun i => !fits i with
      | some i => s.exportWait i
      | none =>
        let ready := s.rootsReady layer
        if !hs.all fun i => s.lentAll i (s.groupPolder (kdGroup l.desc)) (s.endAddrs i layer ready) then s
        else
          let norms := normsRecord layer l ls x (kdPstate (s.ldesc (hs.headD 0) layer) == 2)
          let v (k : Nat) (p : StatPair) : Int := nextSigma (normValue p (x.sigmas.getD k 0))
          let s := { s with sigmas := SMap.set (fun _ => [0, 0, 0]) s.sigmas layer [v 0 x.w2, v 1 x.g2, v 2 x.d2] }
          let idle := (s.rootsOf layer).isEmpty || ready.isSome
          (hs.foldl (closeLayer layer ready idle x norms) s).putNorms norms

/-! ### Parked entries -/

/-- Frames of a polder's share in use: ordinary ones and MATRIX ones (R346). -/
def framesUsed (s : State) (i p : Nat) (matrix : Bool) : Nat :=
  (s.kiln i).parked.foldl (fun n e => if e.polder ≠ p then n else n + (if matrix then b2n e.matrix else e.frames - b2n e.matrix)) 0

/-- Whether a share has room for an entry (R346, R348). -/
def framesFit (s : State) (i : Nat) (e : Parked) : Bool :=
  let m := s.getF (Reg.KLN_BASIN_SHARE_MATRIX i e.polder)
  let f := s.getF (Reg.KLN_BASIN_SHARE_FRAMES i e.polder)
  decide (s.framesUsed i e.polder true + b2n e.matrix ≤ m) &&
    decide (s.framesUsed i e.polder false + (e.frames - b2n e.matrix) ≤ f - m || e.frames = b2n e.matrix)

/-- An entry taken out of the basin: at once, or once its write-backs are acknowledged (R347). -/
def unpark (i : Nat) (id : Nat) (s : State) : State :=
  (s.setF (Reg.KLN_STATUS_BASIN_FULL i) 0).modKiln i fun k => { k with parked := k.parked.filter fun e => e.id != id }

def setParked (i : Nat) (e : Parked) (s : State) : State :=
  s.modKiln i fun k => { k with parked := k.parked.map fun x => if x.id = e.id then e else x }

/-- Whether a firing of a group waits for a version slot (R318, PIP_GROUP_STATUS.SLOT_WAIT). -/
def slotWait (s : State) (g : Nat) : Bool := s.kilns.any fun k => k.2.parked.any fun e => e.wait == .slot && e.wbs == 0 &&
  (match SMap.get (fun _ => none) k.2.layers e.layer with
  | some l => kdGroup l.desc == g && !s.slotFor g (kdStep l.desc + 1)
  | none => false)

/-- What else parking does: a firing that begins to wait is counted (R318); the MGC has a failed tile repaired, or restores the polder
where the tile has failed before in the step or the job has one replica (R345). -/
def notePark (i : Nat) (e : Parked) (w : ParkWait) (s : State) : State :=
  match w, s.klayer i e.layer with
  | .slot, some l => if s.slotWait (kdGroup l.desc) then s else s.bump (Reg.PIP_CNT_SLOT_WAIT_COUNT (kdGroup l.desc)) 1
  | .repair a, _ =>
    if e.mended.contains a || (s.colOp (i / 8) e.polder e.op).any fun o => decide (o.m ≤ 1) then s.dueRestore e.polder
    else s.askRepair e.polder a
  | _, _ => s

/-- What a delivering operation learns when a tile of step `n` has been applied (R464). -/
def reportTile (i p op n layer idx : Nat) (gw gm1 gm2 : DWord) (frozen parked : Bool) (s : State) : State :=
  match s.colOp (i / 8) p op with
  | none => s
  | some o =>
    let s := if frozen then s else s.foldGlaze (i / 8) o.group n (i % 8) layer idx gw gm1 gm2
    if parked then s.modOp (i / 8) p op fun o => { o with owing := SMap.set (fun _ => 0) o.owing n (SMap.get (fun _ => 0) o.owing n - 1) } else s

/-- A parked entry tried again: applied, or still waiting. -/
def retry (i : Nat) (e : Parked) (s : State) : State :=
  let l := s.klayer i e.layer
  match s.attempt i e with
  | .applied s gw gm1 gm2 =>
    let slow := (l.map fun l => kdSlow l.desc && !kdFrozen l.desc).getD false
    let frozen := (l.map fun l => kdFrozen l.desc).getD false
    let wbs := (s.fetches.filter fun f => f.kiln == i && f.entry == e.id && f.data.isSome).length
    let s := if slow && decide (0 < wbs) then s.setParked i { e with wait := .fetch, wbs := wbs } else s.unpark i e.id
    (s.reportTile i e.polder e.op ((l.map fun l => kdStep l.desc).getD 0) e.layer e.idx gw gm1 gm2 frozen true).endLayer e.layer
  | .park w s => if w = e.wait then s else (s.notePark i e w).setParked i { e with wait := w }
  | .hold s => s
  | .refuse code s => (s.kilnError i code e.layer e.idx).dueRestore e.polder

/-- A block whose tiles have all come: its statistics are updated, its gradient is preconditioned, and its tiles then wait for nothing of
the block's (R350). -/
def openBlock (i : Nat) (e : Parked) (s : State) : State :=
  match s.klayer i e.layer with
  | none => s
  | some l =>
    let t := s.ktable (kdTable l.desc)
    let b := blocksOf l.desc t
    let k := b.of e.idx
    let es := (b.tiles k).filterMap fun n => (s.kiln i).parked.find? fun x => x.layer == e.layer && x.idx == n && x.wait == .block
    if es.length ≠ (b.tiles k).length ∨ !s.lentAll i e.polder (b.addrs l.desc t k) then s
    else
      let g := blockGrad b k fun n => ((es.find? fun x => x.idx == n).map (·.grad)).getD ⟨[], 0, 0⟩
      let s := s.updateStats e.polder l.desc t b k g
      let pre := if l.fallback then none else some (s.precondition l.desc t b k g)
      let part (m : Mat) (n : Nat) : List FV := (List.range 1024).map fun x =>
        m.at (32 * (n / b.cols % b.side) + x / 32) (32 * (n % b.cols % b.side) + x % 32)
      es.foldl (fun s x => s.setParked i { x with wait := .fetch, pre := pre.map fun m => part m x.idx }) s

/-- A polder's work on a kiln that can go on (R347): blocks, parked entries, then layers whose step can end. -/
def kilnWork (i p : Nat) (s : State) : State :=
  if (s.lenders i p).isEmpty then s
  else
    let s := (s.kiln i).parked.foldl (fun s e => if e.polder = p ∧ e.wait = .block then s.openBlock i e else s) s
    let s := (s.kiln i).parked.foldl (fun s e =>
      if e.polder ≠ p ∨ 0 < e.wbs ∨ e.wait = .block then s
      else match e.wait with
        | .repair _ => s
        | _ => s.retry i e) s
    (s.kiln i).layers.foldl (fun s l => s.endLayer l.1) s

/-- A repaired tile is there (R345): the entries that waited for it read it again, those of a SLOW layer by a further fetch. -/
def mend (i p a : Nat) (s : State) : State :=
  let es := (s.kiln i).parked.filter fun e => e.polder == p && e.wait == .repair a
  let s := es.foldl (fun s e =>
    match (s.klayer i e.layer).filter fun l => kdSlow l.desc with
    | none => s.setParked i { e with wait := .fetch, mended := a :: e.mended }
    | some l =>
      let xs := (s.tileAddrs l.desc (s.ktable l.table) e.idx).filter fun x => rackAddr x.2 == a
      let s := s.setParked i { e with wait := .fetch, mended := a :: e.mended, got := e.got.filter fun g => !xs.any fun x => x.1 == g.1 }
      xs.foldl (fun s x => s.issueFetch i p e.id x.1 x.2 none) s) s
  if es.isEmpty then s else s.kilnWork i p

/-- A polder's work on every kiln that can go on. -/
def allKilnWork (p : Nat) (s : State) : State := (List.range 16).foldl (fun s i => s.kilnWork i p) s

end State

end Sys2Proof.Machine
end

