-- ==== Sys2Proof/Machine/Pip.lean ====
section
/-! DEFINITION. Stage groups and stage links (ch 8): QPUSH (R303, R304), TAKE, INJECT and RELEASE (R305 to R309), parts,
acknowledgements and HEAD notices (R294 to R299, R327), opening and closing of link ends (R292), and abandonment (R326). -/

namespace Sys2Proof.Machine

/-! ### Parts on their way -/

/-- The 32-byte part record of a PIP_PART packet (R414): the fields of R294 at their offsets, the link epoch at 0x10, PART at
0x12 (log 24). -/
def partRecord (p : PipPart) : List Byte :=
  bytesLE 4 p.mbSeq ++ bytesLE 4 p.step ++ bytesLE 2 p.index ++ bytesLE 1 p.cls ++
    bytesLE 1 (b2n p.infer + 2 * b2n p.isSealed) ++ bytesLE 4 p.vtag ++ bytesLE 2 p.epoch ++ bytesLE 2 p.part ++
    List.replicate 12 0

/-- A part read back from one packet: one tile, at the data tile AUX names. -/
def partAt (q : LanePkt) : PipPart :=
  let l := q.payload
  { mbSeq := numAt l 0 4, step := numAt l 4 4, index := numAt l 8 2, cls := numAt l 10 1 % 64, infer := bitOf (numAt l 11 1) 0
    isSealed := bitOf (numAt l 11 1) 1, vtag := numAt l 12 4, epoch := numAt l 16 2, part := numAt l 18 2, offset := q.aux
    tiles := [((l.drop 48).take 2048, BitVec.ofNat 64 (numAt l 32 8), BitVec.ofNat 64 (numAt l 40 8))] }

/-- The first 64 bytes of a header tile (R294). -/
def queueHeader (q : QueueRec) (partsIn tide : Nat) : List Byte :=
  bytesLE 4 q.mbSeq ++ bytesLE 4 q.step ++ bytesLE 2 q.index ++ bytesLE 1 q.cls ++
    bytesLE 1 (b2n q.infer + 2 * b2n q.isSealed) ++ bytesLE 4 q.vtag ++ bytesLE 2 q.epoch ++ bytesLE 2 partsIn ++
    List.replicate 4 0 ++ bytesLE 8 tide ++ List.replicate 32 0

/-- A header tile (R294). -/
def headerTile (q : QueueRec) (partsIn tide : Nat) : Tile := Tile.make (padTo 2048 (queueHeader q partsIn tide)) (mkTag 0 false 0 0 2 0)

/-- The queue entry that a part begins. -/
def entryOf (p : PipPart) : QueueRec :=
  ⟨p.mbSeq, p.step, p.index, p.cls, p.infer, p.isSealed, p.vtag, p.epoch, [], none, 0⟩

/-- Whether a part agrees with the header of its entry (R297). -/
def partFits (p : PipPart) (q : QueueRec) : Bool :=
  p.mbSeq == q.mbSeq && p.step == q.step && p.index == q.index && p.cls == q.cls && p.infer == q.infer &&
    p.isSealed == q.isSealed && p.vtag == q.vtag

namespace State

/-- Whether the whole queue region of an RX end lies in saggar regions (R302). -/
def queueSaggar (s : State) (d : Nat) : Bool := (List.range (ldDepth d)).all fun k => s.saggarRun (ldSlot d k) ((1 + ldSlotTiles d) * 2048)

/-- The status a part is dropped with; 0 when it is written (R296, R297, R302, R327, R371). -/
def partStatus (s : State) (l : Nat) (p : PipPart) : Nat :=
  let d := s.linkDesc l
  let a := ldSlot d p.mbSeq
  if !s.linkOpen l || ldRole d != 2 then pipELink
  else if p.epoch ≠ s.linkEpoch l then pipEStale
  else if p.isSealed && !s.queueSaggar d then pipESealed
  else if seqOlder p.mbSeq (s.linkHead l) then pipESeq
  else
    let same := (s.linkEnd l).queue.find? fun q => q.mbSeq % max 1 (ldDepth d) == p.mbSeq % max 1 (ldDepth d)
    if same.any fun q => !partFits p q then pipESeq
    else if ldParts d ≤ p.part ∨ (same.any fun q => q.parts.contains p.part) then pipERange
    else match region a with
      | .dram _ _ => if s.ownsAddr (s.linkPolder l) a then 0 else memEDike
      | _ => memEUnmapped

/-- A part's tiles written to its entry; with the part's last packet the part has arrived, and with the last part the entry
is ready (R293, R294, R297). -/
def writePart (l : Nat) (p : PipPart) (last : Bool) (s : State) : State :=
  let d := s.linkDesc l
  let a := ldSlot d p.mbSeq
  let pol := s.linkPolder l
  let old := (s.linkEnd l).queue.find? fun q => q.mbSeq == p.mbSeq
  let s := if old.isSome then s else (s.meter pol writeTile a).putTile a (headerTile (entryOf p) 0 0)
  let q := old.getD (entryOf p)
  let s := (List.range p.tiles.length).foldl (fun s k =>
    let t := p.tiles.getD k ([], 0, 0)
    let at' := a + (1 + p.offset + k) * 2048
    (s.meter pol writeTile at').putTile at' ⟨t.1, t.2.1, t.2.2⟩) s
  let parts := if last then q.parts ++ [p.part] else q.parts
  let whole := last && decide (ldParts d ≤ parts.length)
  let q := { q with parts := parts, ready := if whole then some s.now else none }
  let s := if whole then (s.meter pol writeTile a).putTile a (headerTile q parts.length s.now) else s
  s.modLink l fun x => { x with queue := x.queue.filter (fun r => r.mbSeq != p.mbSeq) ++ [q] }

/-- What a packet of a part does at its RX end: written, or dropped and counted; the answer is the part's status at its last
packet. -/
def takePart (l : Nat) (p : PipPart) (last : Bool) (s : State) : State × Option Nat :=
  let st := s.partStatus l p
  let s := if st = 0 then s.writePart l p last
    else if st = pipEStale then (if last then s.bump (Reg.PIP_CNT_STALE_COUNT l) 1 else s)
    else if st = memEDike then s.dikeFail 0 (s.linkPolder l) (ldSlot (s.linkDesc l) p.mbSeq)
    else s
  (s, if last then some st else none)

/-- Whether the weirs of the queue region's stack let a part in (R376). -/
def partPass (s : State) (l : Nat) (p : PipPart) : Bool :=
  s.partStatus l p != 0 || s.weirPass (s.linkPolder l) writeTile (ldSlot (s.linkDesc l) p.mbSeq + (1 + p.offset) * 2048)

/-- A part waits at the weirs. -/
def partHold (l : Nat) (p : PipPart) (s : State) : State := s.weirHold (s.linkPolder l) (ldSlot (s.linkDesc l) p.mbSeq)

/-- Whether some core of a group is in a slot that owns a route (R299). -/
def groupOwns (s : State) (g r : Nat) : Bool := s.cores.any fun e => s.groupOf e.1 == some g && s.ownsRoute e.1 r

/-- Whether the dike of a lane lets a packet reach a link end (R373). -/
def linkDike (s : State) (p v l : Nat) : Bool := s.vcPolder p v == s.linkPolder l && ldRole (s.linkDesc l) != 0

/-- A PIP packet of one kind at the head of a VC delivered to the link end it names. -/
def pipDeliver (p v ptype : Nat) (f : LanePkt → Nat → State → State) (s : State) : State :=
  match s.laneHead p v with
  | none => s
  | some q =>
    let l := q.dst % 512
    if q.ptype ≠ ptype then s
    else if !s.linkDike p v l then (s.laneTake p v).laneDrop
    else f q l s

/-- A PIP_PART packet delivered from a lane, over RX_ROUTE, in a slot of some core of the RX group that owns it (R299); its
answer goes back the way it came. -/
def partFromLane (p v : Nat) (last : Bool) (q : LanePkt) (l : Nat) (s : State) : State :=
  let d := s.linkDesc l
  let x := partAt q
  if !s.groupOwns (ldGroup d) (ldRxRoute d) then s
  else if !s.partPass l x then s.partHold l x
  else
    let (s, st) := (s.laneTake p v).takePart l x last
    match st with
    | none => s
    | some st =>
      let aux := x.mbSeq + x.part * 2 ^ 32 + st * 2 ^ 48
      s.sendLane p v { s.pipPkt l 0 0x11 aux [] with resp := true, lepoch := q.lepoch }

/-- A part that is item `k` on its way to a local RX end. -/
def partFromMesh (k : Nat) (s : State) : State :=
  match s.net[k]? with
  | some (.pipPart l x) =>
    if !s.partPass l x then s.partHold l x
    else
      let (s, st) := { s with net := s.net.eraseIdx k }.takePart l x true
      { s with net := s.net ++ [.pipAck (ldPeer (s.linkDesc l)) x.mbSeq x.part (st.getD 0) x.epoch] }
  | _ => s

end State

/-- PIP_PART (R293, R294, R297, R299): a part reaches its RX end; `last` says whether a lane packet is the last of its part. -/
def execPipPart (src : From) (last : Bool) (s : State) : Host.Outcome State Fault Refusal :=
  match src with
  | .mesh k => .next (s.partFromMesh k)
  | .lane p v => .next (s.pipDeliver p v 0x10 (State.partFromLane p v last))

/-! ### Answers at the TX end -/

/-- Whether a scoreboard entry is a QPUSH under way of a part (R304); an answer of the mesh names the epoch of the push too. -/
def isPush (l mb part : Nat) (epoch : Option Nat) (e : SbEntry) : Bool :=
  opcodeOf e.q.cmd == 0x48 && qLink e.q.cmd == l && e.q.cmd.u32 0x10 == mb && e.q.cmd.u16 0x16 == part &&
    (match e.flight with
    | some f => f.sent && !f.fin && epoch.all (f.stamp == ·)
    | none => false)

namespace State

/-- The QPUSH under way of a part. -/
def pushOf (s : State) (l mb part : Nat) (epoch : Option Nat) : Option (Nat × BitVec 16) :=
  s.cores.findSome? fun e => (e.2.sb.find? (isPush l mb part epoch)).map fun x => (e.1, x.q.seq)

/-- The parts of an entry that a TX end has seen acknowledged; with the last the entry is complete. -/
def countPart (l mb part : Nat) (s : State) : State :=
  let acked := (s.linkEnd l).acked ++ [(mb, part)]
  if (acked.filter (·.1 == mb)).length < ldParts (s.linkDesc l) then s.modLink l fun x => { x with acked := acked }
  else (s.modLink l fun x => { x with acked := acked.filter (·.1 != mb) }).bump (Reg.PIP_CNT_ENTRIES_COUNT l) 1

/-- What an acknowledgement of PIP_E_LINK reports to an OPEN end of a remote link: its peer is OPEN no longer, as a reset of the peer's
polder leaves it. This end is CLOSED and the step abandoned (R328, log 116). -/
def peerGone (l status : Nat) (s : State) : State :=
  if status = pipELink ∧ s.linkOpen l ∧ ldPeerPkg (s.linkDesc l) ≠ s.pkgId then
    (((s.setF (Reg.PIP_LINK_STATE_STATE l) 2).modLink l fun _ => LinkEnd.empty).quiesce (s.linkPolder l) .linkDown)
  else s

/-- An acknowledgement completes its QPUSH, if that is still in flight (R304, R327). -/
def ackPush (l mb part status : Nat) (epoch : Option Nat) (s : State) : State :=
  match s.pushOf l mb part epoch with
  | none => s
  | some (i, q) =>
    let s := if status = 0 then s.countPart l mb part else s
    s.modCore i fun c => { c with sb := c.sb.map fun e =>
      if e.q.seq == q then
        { e with flight := some { Flight.start with fin := true, status := status, count := 2048 * e.q.cmd.u8 0x0A } }
      else e }

/-- A HEAD notice reaches a TX end, which adopts HEAD and epoch. Each epoch it rises by answers an abandonment, of this end already
or to come; the first notice since the end opened can only answer one that waits. -/
def takeHead (l head epoch : Nat) (s : State) : State :=
  let rise : Int := ((epoch + 65536 - s.linkEpoch l) % 65536 : Nat)
  ((s.setF (Reg.PIP_LINK_HEAD_HEAD l) head).setF (Reg.PIP_LINK_STATE_EPOCH l) epoch).modLink l fun x =>
    { x with heard := true, acked := if rise = 0 then x.acked else []
             due := if x.heard then x.due - rise else if rise = 0 then x.due else max 0 (x.due - 1) }

/-- The link whose TX end an answer is for. -/
def answerKey : Pkt → Option Nat
  | .pipAck l _ _ _ _ => some l
  | .pipHead l _ _ => some l
  | _ => none

end State

/-- PIP_ACK (R304). -/
def execPipAck (src : From) (s : State) : Host.Outcome State Fault Refusal :=
  match src with
  | .mesh k =>
    (match netTake State.answerKey k s.net with
    | some (.pipAck l mb part st ep, net) => .next ({ s with net := net }.ackPush l mb part st (some ep))
    | _ => .next s)
  | .lane p v => .next (s.pipDeliver p v 0x11 fun q l s =>
      ((s.laneTake p v).ackPush l (bitsOf q.aux 31 0) (bitsOf q.aux 47 32) (bitsOf q.aux 63 48) none).peerGone l (bitsOf q.aux 63 48))

/-- PIP_HEAD (R296, R327). -/
def execPipHead (src : From) (s : State) : Host.Outcome State Fault Refusal :=
  match src with
  | .mesh k =>
    (match netTake State.answerKey k s.net with
    | some (.pipHead l h ep, net) => .next ({ s with net := net }.takeHead l h ep)
    | _ => .next s)
  | .lane p v => .next (s.pipDeliver p v 0x12 fun q l s =>
      (s.laneTake p v).takeHead l (bitsOf q.aux 31 0) (bitsOf q.aux 47 32))

/-! ### QPUSH (R303, R304) -/

/-- A reserved value in a QPUSH (R10, R303). -/
def qpReserved (c : CmdWord) : Bool := decide (191 < c.u8 8) || c.u8 0x0A == 0 || decide (192 < c.u8 0x0A)

namespace State

/-- A flight that goes on or ends, recorded. -/
def endWith (i : Nat) (e : SbEntry) (status : Nat) (s : State) : State :=
  s.setFlight i e.q.seq { Flight.start with fin := true, status := status }

/-- The part a QPUSH delivers (R304). -/
def partFor (s : State) (i l : Nat) (c : CmdWord) (e : StashEntry) : PipPart :=
  { mbSeq := e.mbSeq, step := e.step, index := e.index, cls := e.cls, infer := ldInfer (s.linkDesc l)
    isSealed := (qTiles c).any fun t => ((s.core i).attr t).isSealed, vtag := e.vtag, epoch := s.linkEpoch l
    part := c.u16 0x16, offset := c.u16 0x14
    tiles := (qTiles c).map fun t => let x := s.spTile i t; (x.data, x.tag, x.glaze) }

/-- The lane packets of a part: one tile each (R414). -/
def partPkts (s : State) (i l : Nat) (p : PipPart) : List LanePkt :=
  (List.range p.tiles.length).map fun k =>
    let t := p.tiles.getD k ([], 0, 0)
    { s.pipPkt l i 0x10 (p.offset + k) (partRecord p ++ bytesLE 8 t.2.1.toNat ++ bytesLE 8 t.2.2.toNat ++ padTo 2048 t.1) with
      isSealed := p.isSealed }

/-- The error a QPUSH completes with before it waits (R287, R302, R304, R311, R418, R443); 0 when there is none. -/
def pushStatus (s : State) (i : Nat) (c : CmdWord) : Nat :=
  let l := qLink c
  let d := s.linkDesc l
  let mb := c.u32 0x10
  let isSealed := (qTiles c).any fun t => ((s.core i).attr t).isSealed
  if s.groupOf i ≠ some (ldGroup d) then pipENogroup
  else if !s.linkOpen l || ldRole d != 1 then pipELink
  else if (s.stashOf (ldGroup d) (ldInfer d) mb).isNone then pipENostash
  else if ldSlotTiles d < c.u16 0x14 + c.u8 0x0A then pipERange
  else if seqOlder mb (s.linkHead l) then pipESeq
  else if isSealed && !(if ldPeerPkg d = s.pkgId then s.queueSaggar (s.linkDesc (ldPeer d)) else (s.linkEnd l).vault) then pipESealed
  else if ldPeerPkg d = s.pkgId then (if s.routeQuarantined (s.route (dieOf i) (qRoute c)) then lnkEQuarantine else 0)
  else s.routeStatus (dieOf i) (qRoute c) 0x10 isSealed

/-- An issued QPUSH goes on: it fails, waits for HEAD or for its peer's notice (R296, R326), or sends its part. A remote link's
route that ends at no lane lets nothing out (log 25). -/
def runPush (i : Nat) (e : SbEntry) (f : Flight) (s : State) : State :=
  let c := e.q.cmd
  let l := qLink c
  let d := s.linkDesc l
  let hold (s : State) : State := (s.bump (Reg.PIP_CNT_FLOW_WAIT_COUNT (ldGroup d)) (s.fr 0)).useFree 1
  if s.pushStatus i c ≠ 0 then s.endWith i e (s.pushStatus i c)
  else if (s.linkEnd l).paused || !seqOlder (c.u32 0x10) (s.linkHead l + ldDepth d) then hold s
  else match s.stashOf (ldGroup d) (ldInfer d) (c.u32 0x10) with
    | none => s
    | some x =>
      let p := s.partFor i l c x
      let sent := { f with sent := true, stamp := s.linkEpoch l }
      if ldPeerPkg d = s.pkgId then { s with net := s.net ++ [Pkt.pipPart (ldPeer d) p] }.setFlight i e.q.seq sent
      else match s.routeLane (dieOf i) (qRoute c) with
        | none => s
        | some (port, v) => ((s.partPkts i l p).foldl (fun s q => s.sendLane port v q) s).setFlight i e.q.seq sent

end State

/-- QPUSH (R303, R304): the command issues, or goes on; it ends when the RX end acknowledges its part. -/
def execQpush (core seq : Nat) (s : State) : Host.Outcome State Fault Refusal :=
  match s.going core seq 0x48 with
  | some (e, f) => if f.sent then .next s else .next (s.runPush core e f)
  | none =>
    match s.issuing core seq 0x48 with
    | none => .next s
    | some e =>
      if qpReserved e.q.cmd then .refused (.undefinedBehaviour "R10")
      else if s.tileRefusal core e ≠ 0 then .next (s.launchError core e (s.tileRefusal core e))
      else .next ((s.launch core e Flight.start).runPush core e Flight.start)

/-! ### QPOP (R305 to R309) -/

/-- A reserved value in a QPOP (R10, R305). -/
def qoReserved (c : CmdWord) : Bool :=
  qMode c == 3 || (qMode c == 0 && (decide (191 < c.u8 8) || decide (192 < c.u8 0x0A))) ||
    (decide (qMode c ≤ 1) && (c.u16 0x1C % 32 != 0 || decide (c.u16 0x1C < 0x1020) || decide (0x3FE0 < c.u16 0x1C)))

namespace State

/-- The binding record (R309). -/
def bindingRecord (s : State) (g : Nat) (infer first : Bool) (e : StashEntry) : List Byte :=
  let ds := (s.deltasOf g e.vslot).filter (· != 15)
  bytesLE 4 e.mbSeq ++ bytesLE 4 (if infer then 0 else e.step) ++ bytesLE 4 e.vtag ++ bytesLE 4 e.number ++ bytesLE 1 e.vslot ++
    bytesLE 1 (s.getF (Reg.PIP_VER_FULL_AREA g e.vslot)) ++ bytesLE 1 ds.length ++
    ((List.range 3).flatMap fun k => bytesLE 1 (ds.getD k 0xFF)) ++ bytesLE 1 (stashIdx infer e.mbSeq) ++ bytesLE 1 e.cls ++
    bytesLE 1 (b2n infer + 2 * b2n first) ++ List.replicate 3 0 ++ bytesLE 4 e.tide

/-- What a command that binds finds: a binding and whether it is new, a wait with its counter, or an error. -/
inductive Bound where
  | made (s : State) (e : StashEntry) (first : Bool)
  | wait (counter : FieldRef)
  | error (status : Nat)

/-- A group binds a micro-batch, or finds its binding (R312, R313). -/
def bind (g : Nat) (infer : Bool) (want : StashEntry) (s : State) : Bound :=
  match s.stashAt g (stashIdx infer want.mbSeq) with
  | some e => if e.mbSeq = want.mbSeq then .made s e false else .wait (Reg.PIP_CNT_STASH_WAIT_COUNT g)
  | none =>
    match s.bindTo g want.vtag with
    | .wait => .wait (Reg.PIP_CNT_VER_WAIT_COUNT g)
    | .refuse => .error pipEVersion
    | .slot j =>
      let s := s.makeBinding g j infer want
      match s.stashAt g (stashIdx infer want.mbSeq) with
      | some e => .made s e true
      | none => .error pipEVersion

/-- A wait counted. -/
def countWait (c : FieldRef) (s : State) : State := (s.bump c (s.fr 0)).useFree 1

/-- A binding record written to the core's data store. -/
def putBinding (i g : Nat) (c : CmdWord) (infer first : Bool) (e : StashEntry) (s : State) : State :=
  s.modCore i fun k => k.dwrite (c.u16 0x1C) (s.bindingRecord g infer first e)

/-- The error a TAKE completes with before it waits (R287, R306, R311, R443); 0 when there is none. -/
def takeStatus (s : State) (i : Nat) (c : CmdWord) : Nat :=
  let l := qLink c
  let d := s.linkDesc l
  if s.groupOf i ≠ some (ldGroup d) then pipENogroup
  else if !s.linkOpen l || ldRole d != 2 || ldInfer d != qInfer c then pipELink
  else if seqOlder (c.u32 0x10) (s.linkHead l) then pipESeq
  else if s.routeQuarantined (s.route (dieOf i) (qRoute c)) then lnkEQuarantine
  else 0

/-- A TAKE moves its tiles (R302, R306). -/
def takeTiles (i : Nat) (e : SbEntry) (s : State) : State :=
  let c := e.q.cmd
  let d := s.linkDesc (qLink c)
  let a := ldSlot d (c.u32 0x10)
  let n := c.u8 0x0A
  if ldSlotTiles d < c.u16 0x14 + n then s.endWith i e pipERange
  else
    let addr (k : Nat) : Nat := a + (1 + c.u16 0x14 + k) * 2048
    let s := (List.range n).foldl (fun s k => s.meter (s.core i).polder readTile (addr k)) s
    let ws := (List.range n).map fun k => (⟨(qTiles c).getD k 0, s.tile (addr k), s.inSaggar (addr k), none⟩ : TileWrite)
    s.setFlight i e.q.seq { Flight.start with fin := true, count := 2048 * n, writes := ws }

/-- A TAKE that holds a binding: the record is written, then the tiles move. -/
def takeBound (i g : Nat) (e : SbEntry) (b : StashEntry) (first : Bool) (s : State) : State :=
  (s.putBinding i g e.q.cmd (qInfer e.q.cmd) first b).takeTiles i e

/-- An issued TAKE goes on: it fails, waits for its entry, its stash entry, its version or the weirs, or takes (R306, R314). -/
def runTake (i : Nat) (e : SbEntry) (s : State) : State :=
  let c := e.q.cmd
  let l := qLink c
  let d := s.linkDesc l
  let g := ldGroup d
  let a := ldSlot d (c.u32 0x10) + (1 + c.u16 0x14) * 2048
  if s.takeStatus i c ≠ 0 then s.endWith i e (s.takeStatus i c)
  else match (s.linkEnd l).queue.find? fun q => q.mbSeq == c.u32 0x10 && q.ready.isSome with
    | none => (s.modCore i fun k => k.bump Reg.CHN_CNT_RECV_WAIT_COUNT (s.fr 0)).useFree 1
    | some q =>
      if c.u8 0x0A ≠ 0 ∧ !s.weirPass (s.core i).polder readTile a then s.weirHold (s.core i).polder a
      else if ldBwd d then
        (match s.stashOf g (qInfer c) q.mbSeq with
        | none => s.endWith i e pipENostash
        | some b => if b.vtag ≠ q.vtag then s.endWith i e pipEVersion else s.takeBound i g e b false)
      else match s.bind g (qInfer c) ⟨q.mbSeq, q.step, q.index, q.cls, q.vtag, 0, 0, 0, 0⟩ with
        | .made s b first => s.takeBound i g e b first
        | .wait k => s.countWait k
        | .error st => s.endWith i e st

/-- An issued INJECT goes on (R307, R312): it binds the CURRENT version, or finds the binding of an earlier one. -/
def runInject (i : Nat) (e : SbEntry) (s : State) : State :=
  let c := e.q.cmd
  match s.groupOf i with
  | none => s.endWith i e pipENogroup
  | some g =>
    let step := if qInfer c then 0 else c.u32 0x18
    let index := (c.u32 0x10 + 2 ^ 48 - step * s.getF (Reg.PIP_GROUP_MB_MB_PER_STEP g)) % 65536
    let tag := match s.verIn g 3 with
      | some j => s.verNumber g j
      | none => 0
    match s.bind g (qInfer c) ⟨c.u32 0x10, step, index, c.u8 0x16 % 64, tag, 0, 0, 0, 0⟩ with
    | .made s b first => (s.putBinding i g c (qInfer c) first b).endWith i e 0
    | .wait k => s.countWait k
    | .error st => s.endWith i e st

/-- A RELEASE counts one releaser; with the last the stash entry is freed (R308). -/
def runRelease (i : Nat) (c : CmdWord) (s : State) : State × Nat :=
  match s.groupOf i with
  | none => (s, pipENogroup)
  | some g =>
    let k := stashIdx (qInfer c) (c.u32 0x10)
    match s.stashOf g (qInfer c) (c.u32 0x10) with
    | none => (s, pipENostash)
    | some b =>
      if b.count + 1 < s.getF (Reg.PIP_GROUP_MB_RELEASERS g) + 1 then (s.setStash g k (some { b with count := b.count + 1 }), 0)
      else (((s.freeStash g k).bump (Reg.PIP_CNT_RELEASE_COUNT g) 1).allKilnWork (s.groupPolder g), 0)

end State

/-- TAKE (R305, R306): the command issues, or goes on waiting. -/
def execTake (core seq : Nat) (s : State) : Host.Outcome State Fault Refusal :=
  match s.going core seq 0x49 with
  | some (e, _) => if qMode e.q.cmd = 0 then .next (s.runTake core e) else .next s
  | none =>
    match s.issuing core seq 0x49 with
    | none => .next s
    | some e =>
      if qMode e.q.cmd ≠ 0 ∧ qMode e.q.cmd ≠ 3 then .next s
      else if qoReserved e.q.cmd then .refused (.undefinedBehaviour "R10")
      else if s.tileRefusal core e ≠ 0 then .next (s.launchError core e (s.tileRefusal core e))
      else .next ((s.launch core e Flight.start).runTake core e)

/-- INJECT (R307): the command issues, or goes on waiting. -/
def execInject (core seq : Nat) (s : State) : Host.Outcome State Fault Refusal :=
  match s.going core seq 0x49 with
  | some (e, _) => if qMode e.q.cmd = 1 then .next (s.runInject core e) else .next s
  | none =>
    match s.issuing core seq 0x49 with
    | none => .next s
    | some e =>
      if qMode e.q.cmd ≠ 1 then .next s
      else if qoReserved e.q.cmd then .refused (.undefinedBehaviour "R10")
      else .next ((s.launch core e Flight.start).runInject core e)

/-- RELEASE (R308). -/
def execRelease (core seq : Nat) (s : State) : Host.Outcome State Fault Refusal :=
  match s.issuing core seq 0x49 with
  | none => .next s
  | some e =>
    if qMode e.q.cmd ≠ 2 then .next s
    else
      let (s, st) := s.runRelease core e.q.cmd
      .next (s.launchError core e st)

/-! ### Link ends (R292) -/

namespace State

/-- STATE, ERR and OPEN_WAIT of a link end set. -/
def setLinkState (l st err wait : Nat) (s : State) : State :=
  ((s.setF (Reg.PIP_LINK_STATE_STATE l) st).setF (Reg.PIP_LINK_STATE_ERR l) err).setF (Reg.PIP_LINK_STATE_OPEN_WAIT l) wait

/-- The 32 bytes of a descriptor. -/
def descBytes (s : State) (l : Nat) : List Byte := bytesLE 32 (s.linkDesc l)

/-- AUX of a PIP_OPEN: bit 0 a reply (R414), bit 1 that the end's queue region lies in saggar regions (log 48). -/
def openAux (s : State) (l : Nat) (reply : Bool) : Nat :=
  b2n reply + 2 * b2n (ldRole (s.linkDesc l) == 2 && s.queueSaggar (s.linkDesc l))

/-- A PIP_OPEN sent for a link end whose peer is in another package. -/
def askPeer (l : Nat) (s : State) : State :=
  match s.stagePath l with
  | none => s.setLinkState l 2 2 0
  | some (p, v) =>
    ((s.setLinkState l 2 0 1).modLink l fun x => { x with asked := s.now }).sendLane p v (s.pipPkt l 0 0x13 (s.openAux l false) (s.descBytes l))

/-- A link end that is not OPEN opened. -/
def openLink (l : Nat) (s : State) : State :=
  let d := s.linkDesc l
  if s.linkOpen l then s
  else if ldPeerPkg d = s.pkgId then
    (if ldMatch s.pkgId l d s.pkgId (ldPeer d) (s.linkDesc (ldPeer d)) then s.setLinkState l 1 0 0 else s.setLinkState l 2 1 0)
  else s.askPeer l

/-- A link end closed: an OPEN end discards its queue and becomes CLOSED, a CLOSED end becomes OFF. -/
def closeLink (l : Nat) (s : State) : State :=
  match s.getF (Reg.PIP_LINK_STATE_STATE l) with
  | 1 => (s.setLinkState l 2 0 0).modLink l fun _ => LinkEnd.empty
  | 2 => s.setLinkState l 0 0 0
  | _ => s

/-- A PIP_OPEN packet: a request is answered with the end's own descriptor, a reply decides an end that waits for it. -/
def takeOpenPkt (p v : Nat) (q : LanePkt) (l : Nat) (s : State) : State :=
  let s := (s.laneTake p v).modLink l fun x => { x with vault := bitOf q.aux 1 }
  let d := s.linkDesc l
  let peer := numLE (q.payload.take 32)
  if !bitOf q.aux 0 then
    s.sendLane p v { s.pipPkt l 0 0x13 (s.openAux l true) (s.descBytes l) with
      resp := true, lepoch := q.lepoch, dstPkg := bitsOf q.src 35 22, dst := q.src % 512 }
  else if s.flag (Reg.PIP_LINK_STATE_OPEN_WAIT l) then
    (if ldMatch s.pkgId l d (bitsOf q.src 35 22) (q.src % 512) peer then s.setLinkState l 1 0 0 else s.setLinkState l 2 1 0)
  else s

end State

/-- LINK_OPEN (R292): PIP_LINK_CMD.OPEN written. -/
def execLinkOpen (link : Nat) (s : State) : Host.Outcome State Fault Refusal := .next (s.openLink link)

/-- LINK_CLOSE: PIP_LINK_CMD.CLOSE written. -/
def execLinkClose (link : Nat) (s : State) : Host.Outcome State Fault Refusal := .next (s.closeLink link)

/-- PIP_OPEN (R292, R414): a PIP_OPEN packet arrives. -/
def execPipOpen (port vc : Nat) (s : State) : Host.Outcome State Fault Refusal :=
  .next (s.pipDeliver port vc 0x13 (State.takeOpenPkt port vc))

/-- PIP_OPEN_RETRY (R292): 100 ticks have passed without a reply, and the PIP_OPEN is sent again, where a path to the peer is open. -/
def execPipOpenRetry (link : Nat) (s : State) : Host.Outcome State Fault Refusal :=
  if s.flag (Reg.PIP_LINK_STATE_OPEN_WAIT link) ∧ 100 ≤ (s.now + 2 ^ 48 - (s.linkEnd link).asked) % 2 ^ 48 then
    .next (if (s.stagePath link).isSome then s.askPeer link else s.modLink link fun x => { x with asked := s.now })
  else .next s

/-- GROUP_INIT (R316): slot 0 becomes CURRENT with the number written, every other slot FREE. -/
def execGroupInit (group : Nat) (number : Word) (s : State) : Host.Outcome State Fault Refusal :=
  .next ((List.range 4).foldl (fun s j =>
    let s := ((s.setF (Reg.PIP_VER_STATE group j) (if j = 0 then 3 else 0)).setF (Reg.PIP_VER_REFS group j) 0).setF
      (Reg.PIP_VER_NUMBER group j) (if j = 0 then number.toNat else 0)
    let s := (s.setF (Reg.PIP_VER_FULL_AREA group j) 0).setF (Reg.PIP_VER_DELTAS group j) 0xFFF
    { s with firings := SMap.erase s.firings (group * 4 + j) }) s)

/-! ### Abandonment (R326) -/

namespace State

/-- The training stash entries of step `n` or later of a group freed and counted, and its OLD versions without references
retired. -/
def abandonGroup (n g : Nat) (s : State) : State :=
  let s := (List.range 64).foldl (fun s k => match s.stashAt g k with
    | some e => if n ≤ e.step then (s.freeStash g k).bump (Reg.PIP_CNT_ABANDON_REL_COUNT g) 1 else s
    | none => s) s
  (List.range 4).foldl (fun s j => s.retireVer g j) s

/-- A training RX end under abandonment of step `n`: later entries discarded, HEAD at the step's first micro-batch unless an
older one is unconsumed (log 26), the epoch raised, the TX end told. A training TX end waits for its peer's notice. -/
def abandonLink (n l : Nat) (s : State) : State :=
  let d := s.linkDesc l
  if ldInfer d then s
  else if ldRole d = 2 then
    let first := n * s.getF (Reg.PIP_GROUP_MB_MB_PER_STEP (ldGroup d)) % 2 ^ 32
    let gone := (s.linkEnd l).queue.filter fun q => decide (n ≤ q.step)
    let parts := gone.foldl (fun k q => k + q.parts.length) 0
    let s := (s.modLink l fun x =>
      { x with queue := x.queue.filter (fun q => decide (q.step < n)), eaten := x.eaten.filter fun m => seqOlder m first }).bump
        (Reg.PIP_CNT_STALE_COUNT l) parts
    let s := if seqOlder (s.linkHead l) first then s else s.setF (Reg.PIP_LINK_HEAD_HEAD l) first
    (s.setF (Reg.PIP_LINK_STATE_EPOCH l) (s.linkEpoch l + 1)).sendHead l
  else s.modLink l fun x => { x with due := x.due + 1 }

/-- Step `n` of a polder abandoned in the PIP. -/
def abandonPip (p n : Nat) (s : State) : State :=
  let s := (s.groupsOf p).foldl (fun s g => s.abandonGroup n g) s
  ((s.linksOf p).foldl (fun s l => s.abandonLink n l) s).allKilnWork p

end State

/-- PIP_ABANDON (R326): PIP_POLDER_CTL.ABANDON written, for the step in PIP_POLDER_ABANDON_STEP. -/
def execPipAbandon (polder : Nat) (s : State) : Host.Outcome State Fault Refusal :=
  .next (s.abandonPip polder (s.getF (Reg.PIP_POLDER_ABANDON_STEP_STEP polder)))

end Sys2Proof.Machine
end

