-- ==== Sys2Proof/Machine/Link.lean ====
section
/-! DEFINITION. The Ciolha Link (R406 to R435): reception and replay of DATA frames, windows, training, retrains, link downs. -/

namespace Sys2Proof.Machine

/-- CTRL subtypes (R409). -/
def ctrlCaps : Nat := 1
def ctrlReq : Nat := 4
def ctrlReqAck : Nat := 5

/-- MAXW in lanes (R403). -/
def maxWidth (code : Nat) : Nat := 2 ^ code

namespace State

/-- The tide as a time stamp in units of 10 ns (R198). -/
def stamp (s : State) : Nat := s.now * 1000 + s.tide.phase

def portRole (s : State) (p : Nat) : Nat := s.getF (Reg.LNK_PORT_CFG_ROLE p)

def setPortState (p st : Nat) (s : State) : State := s.setF (Reg.LNK_PORT_STATUS_STATE p) st

/-- The polders that own a VC of a port. -/
def portPolders (s : State) (p : Nat) : List Nat := (List.range 8).filter fun q => (List.range 16).any fun v => s.vcPolder p v == q

/-! ### Link down (R434, R435) -/

/-- The contexts of a core whose route ends at a port. -/
def ctxsOn (s : State) (p i : Nat) : List Nat := (List.range 128).filter fun n => ((s.ctxLane ⟨s.pkgId, i, n⟩).map (·.1)) == some p

/-- The QPUSHes of a core in flight over a port. -/
def pushesOn (s : State) (p i : Nat) : List (BitVec 16) :=
  ((s.core i).sb.filter fun e => opcodeOf e.q.cmd == 0x48 && ((s.routeLane (dieOf i) (qRoute e.q.cmd)).map (·.1)) == some p &&
    (match e.flight with
    | some f => f.sent
    | none => false)).map (·.q.seq)

/-- The commands of a core that await a response over a port, or had packets on it, end with LNK_E_DOWN; what was arriving for
its contexts over the port is gone. -/
def downCore (p i : Nat) (s : State) : State :=
  let ns := s.ctxsOn p i
  let s := s.endFlights i lnkEDown ((ns.flatMap fun n => s.sentOn i n) ++ s.pushesOn p i)
  ns.foldl (fun s n => s.modCtx i n fun k => { k with unacked := [], arriving := none, dropping := none }) s

/-- Steps 1 to 4 of R435: the epoch rises, what the port holds is dropped, commands end, steps are quiesced. -/
def dropTraffic (p : Nat) (s : State) : State :=
  let lost := s.lostOps p
  let s := s.setF (Reg.LNK_PORT_EPOCH_LINK_EPOCH p) (s.getF (Reg.LNK_PORT_EPOCH_LINK_EPOCH p) + 1)
  let s := s.modPort p fun x =>
    { x with streams := [], going := [], replay := [], replayTo := none, rx := [], chunk := [], owed := [], lastSeq := [], awaited := false, nak := false }
  let s := { s with drains := s.drains.map fun d => if (d.2.lane.map (·.1)) = some p then (d.1, { d.2 with lane := none, units := 0 }) else d }
  let s := (State.forCores (downCore p) (s.cores.map (·.1)) s).failLost p lost
  (s.portPolders p).foldl (fun s q => s.quiesce q .linkDown) s

/-- A down counted and captured (R434, R435). -/
def countDown (p cause : Nat) (s : State) : State :=
  let s := s.bump (Reg.LNK_CNT_DOWN_COUNT p) 1
  if s.flag (Reg.LNK_DOWN_LAST_VALID p) then s
  else
    ((s.setF (Reg.LNK_DOWN_LAST_VALID p) 1).setF (Reg.LNK_DOWN_LAST_CAUSE p) cause).setF (Reg.LNK_DOWN_LAST_TIDE p) s.now

/-- The lanes of a port's active mask shown in their registers. -/
def setMask (p mask width : Nat) (s : State) : State :=
  let s := (s.setF (Reg.LNK_PORT_STATUS_MASK p) mask).setF (Reg.LNK_PORT_STATUS_WIDTH p) width
  (List.range 8).foldl (fun s n => s.setF (Reg.LNK_LANE_STATUS_ACTIVE (8 * p + n)) (b2n (bitOf mask n))) s

/-- A port at rest in DETECT or DISABLED: no mask, no version, no recovery. -/
def restPort (p st : Nat) (s : State) : State :=
  let s := (s.setMask p 0 0).setF (Reg.LNK_PORT_STATUS_VERSION p) 0
  let s := (s.setF (Reg.LNK_PORT_STATUS_RIP p) 0).setPortState p st
  s.modPort p fun x => { x with detected := true, retrain := false, req := none, seenSent := false, seenGot := false, good := 0, peerQual := 0 }

/-- A port goes down (R434, R435) and enters DETECT. -/
def goDown (p cause : Nat) (s : State) : State := ((s.countDown p cause).dropTraffic p).restPort p 1

/-- A port that loses its partner for good enters DISABLED; what a retrain held is dropped. -/
def disablePort (p err : Nat) (s : State) : State :=
  let s := if (s.port p).retrain then s.dropTraffic p else s
  (s.restPort p 0).setF (Reg.LNK_PORT_STATUS_ERR p) err

/-! ### Training (R426 to R431) -/

/-- EQUALISE entered: lanes are to qualify again, all eight when none stays excluded. -/
def toEqualise (p : Nat) (all : Bool) (s : State) : State :=
  let s := (List.range 8).foldl (fun s n =>
    let s := s.setF (Reg.LNK_LANE_STATUS_QUALIFIED (8 * p + n)) 0
    if all then s.setF (Reg.LNK_LANE_STATUS_EXCLUDED (8 * p + n)) 0 else s) s
  (s.setPortState p 2).modPort p fun x => { x with peerQual := 0, good := 0, seenSent := false, seenGot := false }

/-- A failed agreement (R431): back to EQUALISE, or DISABLED after three in a row. -/
def failAgreement (p : Nat) (all : Bool) (s : State) : State :=
  let n := s.getF (Reg.LNK_PORT_STATUS_FAILS p) + 1
  let s := s.setF (Reg.LNK_PORT_STATUS_FAILS p) n
  if n < 3 then s.toEqualise p all else (s.disablePort p 1).raise (.portDisabled p)

/-- No lane of a port stays excluded. -/
def excludeNone (p : Nat) (s : State) : State :=
  (List.range 8).foldl (fun s n => s.setF (Reg.LNK_LANE_STATUS_EXCLUDED (8 * p + n)) 0) s

/-- RETRAIN entered (R426, R433): traffic is held, everything kept; `all` when every lane is to qualify again (R432). -/
def enterRetrain (p : Nat) (all : Bool) (s : State) : State :=
  let s := (s.bump (Reg.LNK_CNT_RETRAIN_COUNT p) 1).setF (Reg.LNK_PORT_STATUS_RIP p) 1
  let s := if all then s.excludeNone p else s
  (s.setPortState p 7).modPort p fun x => { x with retrain := true, req := none, replayTo := none }

/-- The good lanes of a port (R428). -/
def goodLanes (s : State) (p : Nat) : List Nat := (List.range 8).filter fun n =>
  s.flag (Reg.LNK_LANE_STATUS_QUALIFIED (8 * p + n)) && bitOf (s.port p).peerQual n && !s.flag (Reg.LNK_LANE_STATUS_EXCLUDED (8 * p + n))

/-- EQUALISE ends (R428): the active mask is computed; with no good lane the agreement has failed. -/
def toAlign (p : Nat) (s : State) : State :=
  let good := s.goodLanes p
  let cap := min (maxWidth (s.getF (Reg.LNK_PORT_CFG_MAXW p))) good.length
  let w := if 8 ≤ cap then 8 else if 4 ≤ cap then 4 else if 2 ≤ cap then 2 else 1
  if good.isEmpty then s.failAgreement p false
  else ((s.setMask p ((good.take w).foldl (fun m n => m + 2 ^ n) 0) w).setPortState p 3).modPort p fun x => { x with good := 0 }

/-- CAPS of a port (R429). -/
def capsBytes (s : State) (p : Nat) (seen : Bool) : List Byte :=
  let x := s.port p
  bytesLE 1 ctrlCaps ++ bytesLE 1 (s.getF Reg.LNK_VERSION_ALLOWED) ++
    bytesLE 1 (b2n x.fresh + 2 * s.getF (Reg.LNK_PORT_CFG_REACH p) + 4 * b2n seen) ++ bytesLE 1 (s.getF (Reg.LNK_PORT_STATUS_MASK p)) ++
    bytesLE 2 (s.getF (Reg.LNK_PORT_EPOCH_LINK_EPOCH p)) ++ bytesLE 1 (s.getF (Reg.LNK_PORT_EPOCH_WIDTH_EPOCH p)) ++
    bytesLE 1 (s.getF (Reg.LNK_PORT_EPOCH_PEER_WIDTH_EPOCH p)) ++ bytesLE 8 (s.getF Reg.MGT_PKG_SERIAL_SERIAL) ++ bytesLE 1 p ++
    bytesLE 1 (s.portRole p) ++ bytesLE 2 s.pkgId ++ bytesLE 2 x.rxSeq ++ bytesLE 1 16 ++ bytesLE 1 0 ++ bytesLE 8 s.stamp ++
    bytesLE 8 x.echo ++ bytesLE 4 (if x.echo = 0 then 0 else s.stamp - x.capsAt)

/-- A port sends CAPS. -/
def sendCaps (p : Nat) (s : State) : State :=
  let seen := (s.port p).echo != 0
  (s.sendControl p 2 (s.capsBytes p seen)).modPort p fun x => { x with seenSent := x.seenSent || seen }

/-- NEGOTIATE entered. -/
def toNegotiate (p : Nat) (s : State) : State :=
  ((s.setPortState p 4).modPort p fun x => { x with seenSent := false, seenGot := false, echo := 0, capsAt := 0 }).sendCaps p

/-- What the checks of R429 find. -/
inductive CapsEnd where
  | disabled (err : Nat)
  | again (all : Bool)
  | agreed
  deriving DecidableEq, Repr

/-- The round trip that a CAPS shows. -/
def roundTrip (s : State) (l : List Byte) : Int := (s.stamp : Int) - numAt l 0x20 8 - numAt l 0x28 4

/-- The versions that both ends allow. -/
def commonVersions (s : State) (l : List Byte) : Nat := s.getF Reg.LNK_VERSION_ALLOWED &&& numAt l 1 1

/-- Whether the width epochs of a CAPS disagree with this end's (R430). -/
def epochsDiffer (s : State) (p : Nat) (l : List Byte) : Bool :=
  let differ (a b : Nat) : Bool := a != 0xFF && b != 0xFF && a != b
  differ (numAt l 6 1) (s.getF (Reg.LNK_PORT_EPOCH_PEER_WIDTH_EPOCH p)) || differ (numAt l 7 1) (s.getF (Reg.LNK_PORT_EPOCH_WIDTH_EPOCH p))

/-- Whether a lane of a port stays excluded. -/
def anyExcluded (s : State) (p : Nat) : Bool := (List.range 8).any fun n => s.flag (Reg.LNK_LANE_STATUS_EXCLUDED (8 * p + n))

/-- The checks of R429, in order. A CL2 partner has no width epochs and no LONG mode; after its reset all 8 lanes
are to qualify (R439). -/
def checkCaps (s : State) (p : Nat) (l : List Byte) : CapsEnd :=
  let long := bitOf (numAt l 2 1) 1
  let cl2 := s.commonVersions l == 4
  if numAt l 8 8 = s.getF Reg.MGT_PKG_SERIAL_SERIAL ∧ numAt l 0x10 1 = p then .disabled 5
  else if s.commonVersions l = 0 then .disabled 2
  else if numAt l 0x11 1 ≠ s.portRole p ∨ b2n long ≠ s.getF (Reg.LNK_PORT_CFG_REACH p) ∨ (cl2 && long) = true then .disabled 3
  else if (if long then 200 else 50) < s.roundTrip l then .disabled 4
  else if (if cl2 then bitOf (numAt l 2 1) 0 && s.anyExcluded p else s.epochsDiffer p l) = true then .again true
  else if numAt l 3 1 ≠ s.getF (Reg.LNK_PORT_STATUS_MASK p) then .again false
  else .agreed

/-- CREDIT_INIT of a port (R409): the buffers of its VCs, and the units of them free now. -/
def creditBytes (s : State) (p : Nat) : List Byte :=
  let buf (v : Nat) : Nat := s.getF (Reg.LNK_VC_BUF_BUF_UNITS p v)
  let held (v : Nat) : Nat := (SMap.get (fun _ => []) (s.port p).rx v).foldl (fun n q => n + lanePktUnits q) 0
  [2, 0] ++ ((List.range 16).flatMap fun v => bytesLE 2 (buf v)) ++ (List.range 16).flatMap fun v => bytesLE 2 (buf v - held v)

/-- A replay buffer without the frames that the peer has (R420): those before SEQ `n`. -/
def dropBefore (n : Nat) (l : List Frame) : List Frame := l.dropWhile fun f => decide (0 < (n + 4096 - f.seq) % 4096 ∧ (n + 4096 - f.seq) % 4096 < 2048)

/-- A negotiation agreed (R429): version and epoch adopted, sequence state kept or restarted, CREDIT entered. -/
def agree (p : Nat) (l : List Byte) (s : State) : State :=
  let x := s.port p
  let s := s.setF (Reg.LNK_PORT_STATUS_VERSION p) (if 8 ≤ s.commonVersions l then 3 else 2)
  let s := s.setF (Reg.LNK_PORT_EPOCH_LINK_EPOCH p) (max (s.getF (Reg.LNK_PORT_EPOCH_LINK_EPOCH p)) (numAt l 4 2))
  let s := s.setF (Reg.LNK_PORT_EPOCH_PEER_WIDTH_EPOCH p) (numAt l 6 1)
  let s := s.setF (Reg.LNK_PEER_RTT p) (min (s.roundTrip l).toNat 0x3FFF)
  let restart := bitOf (numAt l 2 1) 0 || x.fresh || x.detected
  let s := s.modPort p fun x =>
    if restart then
      { x with txSeq := 0, rxSeq := 0, ack := 0xFFF, accepted := false, awaited := false, nak := false, replay := [], going := [], chunk := [],
               lastSeq := [], fresh := false }
    else { x with replay := dropBefore (numAt l 0x14 2 % 4096) x.replay, fresh := false }
  (s.setPortState p 5).sendControl p 2 (s.creditBytes p)

/-- A CAPS taken in NEGOTIATE (R429). -/
def takeCaps (p : Nat) (l : List Byte) (s : State) : State :=
  let s := s.modPort p fun x => { x with echo := numAt l 0x18 8, capsAt := s.stamp, seenGot := x.seenGot || bitOf (numAt l 2 1) 2 }
  let s := (s.setF (Reg.LNK_PEER_SERIAL_SERIAL p) (numAt l 8 8)).setF (Reg.LNK_PEER_PORT p) (numAt l 0x10 1)
  let s := s.setF (Reg.LNK_PEER_PKG_ID p) (numAt l 0x12 2)
  let s := s.sendCaps p
  let s :=
    if bitOf (numAt l 2 1) 0 && (s.port p).retrain then
      (((s.countDown p 3).dropTraffic p).setF (Reg.LNK_PORT_STATUS_RIP p) 0).modPort p fun x => { x with retrain := false, detected := true }
    else s
  if (s.port p).seenSent && (s.port p).seenGot then
    match s.checkCaps p l with
    | .disabled e => s.disablePort p e
    | .again all =>
      let s := if all then s.setF (Reg.LNK_PORT_EPOCH_PEER_WIDTH_EPOCH p) (numAt l 6 1) else s
      s.failAgreement p all
    | .agreed => s.agree p l
  else s

/-- Frames sent again with REPLAY set (R420). -/
def resend (p : Nat) (fs : List Frame) (s : State) : State := fs.foldl (fun s f => s.sendFrame p { f with isReplay := true }) s

/-- ACTIVE entered: traffic goes on, what the peer lacks is sent again. -/
def becomeActive (p : Nat) (s : State) : State :=
  let s := ((s.setPortState p 6).setF (Reg.LNK_PORT_STATUS_FAILS p) 0).setF (Reg.LNK_PORT_STATUS_RIP p) 0
  let s := (s.setF (Reg.LNK_PORT_STATUS_ERR p) 0).setF (Reg.LNK_PORT_STATUS_LEADER p) 0
  let s := s.modPort p fun x => { x with retrain := false, detected := false, owed := [], words := 0, uncorr := 0 }
  (s.resend p (s.port p).replay).pump p

/-- The windows that a CREDIT_INIT sets (R423). -/
def setWindows (p : Nat) (l : List Byte) (s : State) : State :=
  (List.range 16).foldl (fun s v =>
    ((s.setF (Reg.LNK_VC_STATE_INIT p v) (numAt l (2 + 2 * v) 2)).setF (Reg.LNK_VC_STATE_WINDOW p v) (numAt l (34 + 2 * v) 2)).setF
      (Reg.LNK_VC_STATE_PEER_EMPTY p v) 0) s

/-! ### Requests (R432, R433) -/

/-- A port asks for a retrain (0) or a width change (1). -/
def askReq (p kind exclude : Nat) (s : State) : State :=
  if s.portState p = 6 then
    (s.modPort p fun x => { x with req := some (kind, exclude) }).sendControl p 2 [BitVec.ofNat 8 ctrlReq, BitVec.ofNat 8 kind, BitVec.ofNat 8 exclude]
  else s

/-- The lanes that an answered request leaves out (R428). -/
def excludeLanes (p mask : Nat) (s : State) : State :=
  (List.range 8).foldl (fun s n => if bitOf mask n then s.setF (Reg.LNK_LANE_STATUS_EXCLUDED (8 * p + n)) 1 else s) s

/-- A request is adopted: a retrain of KIND 0 qualifies every lane again (R432). -/
def adoptReq (p kind exclude : Nat) (s : State) : State :=
  if kind = 0 then s.enterRetrain p true else (s.excludeLanes p exclude).enterRetrain p false

/-- The control frame that an ACTIVE port sends in a control position: its REQ until it is answered (R433), otherwise VC_STATUS,
which CL2 has not (R410, R439). In NEGOTIATE a port repeats its CAPS (R429). -/
def controlPosition (p : Nat) (s : State) : State :=
  let held (v : Nat) : Bool := !(SMap.get (fun _ => []) (s.port p).rx v).isEmpty
  if s.portState p = 4 then s.sendCaps p
  else if s.portState p ≠ 6 then s
  else match (s.port p).req with
    | some (k, e) => s.askReq p k e
    | none =>
      if s.isCl2 p then s
      else s.sendControl p 2 ([3, 0] ++ bytesLE 2 ((List.range 16).foldl (fun m v => if held v then m else m + 2 ^ v) 0))

/-- Whether this end leads over its peer: the lower link-end identifier (R433). -/
def leads (s : State) (p : Nat) : Bool :=
  decide (s.getF Reg.MGT_PKG_SERIAL_SERIAL * 16 + p < s.getF (Reg.LNK_PEER_SERIAL_SERIAL p) * 16 + s.getF (Reg.LNK_PEER_PORT p))

/-! ### Reception (R406 to R409, R419 to R424) -/

/-- A codeword received (R407, R432, R434): corrections counted by lane, uncorrectable frames by window; a lane that corrects
too much asks to be left out, a window with too many bad frames takes the port down. -/
def codeword (p : Nat) (w : Codeword) (s : State) : State :=
  let s := s.bump (Reg.LNK_CNT_FRAMES_RX_COUNT p) 1
  let s := if w.fixed.isEmpty then s else s.bump (Reg.LNK_CNT_CORRECTED_COUNT p) 1
  let s := w.fixed.foldl (fun s f =>
    let l := 8 * p + f.1 % 8
    s.setF (Reg.LNK_LANE_STATUS_CORR l) (min 0xFFFF (s.getF (Reg.LNK_LANE_STATUS_CORR l) + f.2))) s
  let s := if w.intact then s else s.bump (Reg.LNK_CNT_UNCORR_COUNT p) 1
  if s.portState p ≠ 6 then s
  else
    let bad := (List.range 8).find? fun n => decide (4096 ≤ s.getF (Reg.LNK_LANE_STATUS_CORR (8 * p + n))) &&
      s.flag (Reg.LNK_LANE_STATUS_ACTIVE (8 * p + n))
    let s : State := match bad with
      | some n => if (s.port p).req.isNone then (s.askReq p 1 (2 ^ n)).note (.laneExcluded (8 * p + n)) else s
      | none => s
    let x : Port := s.port p
    let s := if x.corrWords + 1 < 2 ^ 20 then s.modPort p fun x => { x with corrWords := x.corrWords + 1 }
      else (List.range 8).foldl (fun s n => s.setF (Reg.LNK_LANE_STATUS_CORR (8 * p + n)) 0) (s.modPort p fun x => { x with corrWords := 0 })
    let u := x.uncorr + b2n (!w.intact)
    if x.thresh < u then s.goDown p 1
    else if x.words + 1 < 2 ^ s.getF (Reg.LNK_DOWN_CFG_LOG2_WINDOW p) then s.modPort p fun x => { x with words := x.words + 1, uncorr := u }
    else s.modPort p fun x => { x with words := 0, uncorr := 0, thresh := s.getF (Reg.LNK_DOWN_CFG_THRESH p) }

/-- A replay from frame SEQ `n` on (R420, R421). -/
def startReplay (p n : Nat) (s : State) : State :=
  let fs := dropBefore n (s.port p).replay
  match fs.getLast? with
  | none => s
  | some z =>
    let s := (s.bump (Reg.LNK_CNT_REPLAY_COUNT p) 1).setF (Reg.LNK_PORT_STATUS_RIP p) 1
    (s.modPort p fun x => { x with replayTo := some z.seq }).resend p fs

/-- ACK and NAK of a received header (R420, R421). -/
def takeAck (p : Nat) (f : Frame) (s : State) : State :=
  let x := s.port p
  let kept := if f.ack = 0xFFF ∧ !x.replay.any (fun g => g.seq == 0xFFF) then x.replay else dropBefore ((f.ack + 1) % 4096) x.replay
  let ended := match x.replayTo with
    | some z => !kept.any fun g => g.seq == z
    | none => false
  let s := s.modPort p fun x => { x with replay := kept, replayTo := if ended then none else x.replayTo }
  let s := if ended then s.setF (Reg.LNK_PORT_STATUS_RIP p) 0 else s
  if f.nak then s.startReplay p ((f.ack + 1) % 4096) else s

/-- CRED of a received header (R423). -/
def takeCred (p : Nat) (f : Frame) (s : State) : State :=
  if f.cred = 0 then s else s.setF (Reg.LNK_VC_STATE_WINDOW p f.cvc) (s.getF (Reg.LNK_VC_STATE_WINDOW p f.cvc) + f.cred)

/-- The header of a frame that is not a DATA frame (R409). -/
def takeHeader (p : Nat) (f : Frame) (s : State) : State := ((s.takeAck p f).takeCred p f).pump p

/-- Units of a packet that is dropped as it leaves the buffer. -/
def owe (p v n : Nat) (s : State) : State :=
  if n = 0 then s else s.modPort p fun x => { x with owed := SMap.set (fun _ => 0) x.owed v (SMap.get (fun _ => 0) x.owed v + n) }

/-- A whole packet enters its VC's receive buffer (R414 to R416, R504), or is dropped and counted. -/
def takePacket (p v : Nat) (q : LanePkt) (s : State) : State :=
  let drop (s : State) : State := s.owe p v (lanePktUnits q)
  if !roleAllows (s.portRole p) q.ptype || (s.isCl2 p && !cl2Type q.ptype) then drop (s.bump (Reg.LNK_CNT_DROP_ROLE_COUNT p) 1)
  else if q.dstPkg ≠ s.pkgId then drop (s.bump (Reg.LNK_CNT_MISROUTE_COUNT p) 1)
  else if q.lepoch ≠ s.getF (Reg.LNK_PORT_EPOCH_LINK_EPOCH p) then drop (s.bump (Reg.LNK_CNT_STALE_EPOCH_COUNT p) 1)
  else
    let push (q : LanePkt) (s : State) : State :=
      s.modPort p fun x => { x with rx := SMap.set (fun _ => []) x.rx v (SMap.get (fun _ => []) x.rx v ++ [q]) }
    if !q.isSealed then push q s
    else
      let h := (packetBytes q).take 32
      match Config.aeadOpen (s.vcKey p v) ((h.drop 0x10).take 12) h q.payload with
      | some pl => (push { q with payload := pl } s).owe p v (lanePktUnits q - lanePktUnits { q with payload := pl })
      | none => (drop (s.bump Reg.SEC_CNT_LANE_AUTH_COUNT 1)).quiesce (s.vcPolder p v) .sealedPacket

/-- The whole packets at the front of a VC's bytes taken; a zero byte where a header would begin ends them (R412). -/
def takePackets (p v : Nat) : Nat → List Byte → State → State
  | 0, _, s => s
  | fuel + 1, l, s =>
    let keep (l : List Byte) (s : State) : State := s.modPort p fun x => { x with chunk := SMap.set (fun _ => []) x.chunk v l }
    match l with
    | [] => keep [] s
    | b :: _ =>
      if b = 0 then keep [] s
      else match packetAt l with
        | none => keep l s
        | some (q, rest) => takePackets p v fuel rest (s.takePacket p v q)

/-- An intact DATA frame (R419, R423): accepted when its SEQ is the one expected; discarded silently when it is older; discarded
with NAK otherwise. -/
def takeData (p : Nat) (f : Frame) (s : State) : State :=
  let x := s.port p
  let s := s.takeAck p f
  if f.seq = x.rxSeq then
    let s := s.modPort p fun x => { x with rxSeq := (x.rxSeq + 1) % 4096, ack := f.seq, accepted := true, awaited := false, nak := false }
    let s := s.takeCred p f
    (s.takePackets p f.vc 32 (SMap.get (fun _ => []) x.chunk f.vc ++ padTo 628 f.payload)).pump p
  else if 2048 ≤ (f.seq + 4096 - x.rxSeq) % 4096 then s
  else s.modPort p fun x => { x with nak := x.accepted, awaited := x.accepted }

/-- A frame that cannot be used, after one that was accepted, asks for a replay (R407, R419). -/
def badFrame (p : Nat) (s : State) : State := s.modPort p fun x => { x with nak := x.accepted, awaited := x.accepted }

/-- The frame a port sends next, when it has nothing else to send: an IDLE frame (R410). -/
def answer (p : Nat) (s : State) : State := if s.portState p = 6 then s.sendControl p 0 [] else s

/-- A good codeword in ALIGN; after eight in a row the port enters NEGOTIATE (R426). -/
def alignWord (p : Nat) (intact : Bool) (s : State) : State :=
  if s.portState p ≠ 3 then s
  else if !intact then s.modPort p fun x => { x with good := 0 }
  else if (s.port p).good + 1 < 8 then s.modPort p fun x => { x with good := x.good + 1 }
  else s.toNegotiate p

/-- What every received codeword does, and then, for an intact frame, what the frame does. -/
def receive (p : Nat) (w : Codeword) (act : State → State) (s : State) : State :=
  let s := (s.codeword p w).alignWord p w.intact
  if w.intact then act s else if s.portState p = 6 then (s.badFrame p).answer p else s

/-! ### Training blocks (R427, R558) -/

/-- What an unlisted tap stands at: its preset. -/
def tapPreset (k : Nat) : Int := [-4, 52, -8].getD (k % 3) 0

/-- The range of each tap. -/
def tapRange (k : Nat) : Int × Int := [((-16 : Int), (0 : Int)), (32, 64), (-24, 0)].getD (k % 3) (0, 0)

/-- One request for a tap of a lane carried out: the taps, and STS: 0 not updated, 1 updated, 2 at limit. -/
def tapStep (taps : SMap Int) (lane k req : Nat) : SMap Int × Nat :=
  let get (j : Nat) : Int := SMap.get tapPreset taps (lane * 3 + j)
  let c := get k
  let want := match req with
    | 1 => c + 1
    | 2 => c - 1
    | 3 => tapPreset k
    | _ => c
  let sum := (if k = 0 then want else get 0).natAbs + (if k = 1 then want else get 1).natAbs + (if k = 2 then want else get 2).natAbs
  if req = 0 then (taps, 0)
  else if want < (tapRange k).1 ∨ (tapRange k).2 < want ∨ 64 < sum then (taps, 2)
  else (SMap.set tapPreset taps (lane * 3 + k) want, 1)

/-- The requests of a training block carried out, and their answers. -/
def takeTaps (p : Nat) (b : TrainBlock) (s : State) : State :=
  (List.range 3).foldl (fun s k => s.modPort p fun x =>
    let (t, a) := tapStep x.taps b.lane k (bitsOf b.req (2 * k + 1) (2 * k))
    { x with taps := t, sts := SMap.set (fun _ => 0) x.sts (b.lane * 3 + k) a }) s

/-- Whether every lane up to MAXW is qualified at both ends. -/
def allQualified (s : State) (p : Nat) : Bool :=
  (List.range (maxWidth (s.getF (Reg.LNK_PORT_CFG_MAXW p)))).all fun n => (s.goodLanes p).contains n

/-- A training block in EQUALISE. -/
def equaliseBlock (p : Nat) (b : TrainBlock) (s : State) : State :=
  let s := s.takeTaps p b
  let s := s.setF (Reg.LNK_LANE_STATUS_QUALIFIED (8 * p + b.lane)) (b2n b.own)
  let s := s.modPort p fun x => { x with peerQual := setBits x.peerQual b.lane b.lane (b2n b.qual) }
  if s.allQualified p then s.toAlign p else s

/-- Whether an ACK covers the last DATA frame that carried a VC's bytes (R425). -/
def statCovers (x : Port) (v : Nat) : Bool :=
  match x.lastSeq.find? fun e => e.1 == v with
  | none => true
  | some (_, n) => x.statAck != 0xFFF && decide ((x.statAck + 4096 - n) % 4096 < 2048)

/-- Whether a VC's leak timer runs (R425, R439). -/
def leaking (s : State) (p v : Nat) : Bool :=
  s.portState p == 6 && decide (4 * s.getF (Reg.LNK_VC_STATE_WINDOW p v) < s.getF (Reg.LNK_VC_STATE_INIT p v)) &&
    (s.isCl2 p || (s.flag (Reg.LNK_VC_STATE_PEER_EMPTY p v) && statCovers (s.port p) v))

end State

/-- DATA_FRAME (R419, R420, R423). -/
def execDataFrame (port : Nat) (f : Frame) (w : Codeword) (s : State) : Host.Outcome State Fault Refusal :=
  .next (s.receive port w fun s => if s.portState port = 6 then (s.takeData port f).answer port else s)

/-- IDLE_FRAME (R409, R420, R423). -/
def execIdleFrame (port : Nat) (f : Frame) (w : Codeword) (s : State) : Host.Outcome State Fault Refusal :=
  .next (s.receive port w fun s => if s.portState port = 6 then s.takeHeader port f else s)

/-- CAPS (R429). -/
def execCapsFrame (port : Nat) (f : Frame) (w : Codeword) (s : State) : Host.Outcome State Fault Refusal :=
  .next (s.receive port w fun s => if s.portState port = 4 then s.takeCaps port f.payload else s)

/-- CREDIT_INIT (R423): in CREDIT, the windows are set and the port is ACTIVE. -/
def execCreditInit (port : Nat) (f : Frame) (w : Codeword) (s : State) : Host.Outcome State Fault Refusal :=
  .next (s.receive port w fun s => if s.portState port = 5 then (s.setWindows port f.payload).becomeActive port else s)

/-- VC_STATUS (R425): the newest EMPTY bits. A CL2 partner sends none (R439). -/
def execVcStatus (port : Nat) (f : Frame) (w : Codeword) (s : State) : Host.Outcome State Fault Refusal :=
  .next (s.receive port w fun s =>
    if s.portState port ≠ 6 then s
    else
      let s := s.takeHeader port f
      if s.isCl2 port then s
      else
        ((List.range 16).foldl (fun s v => s.setF (Reg.LNK_VC_STATE_PEER_EMPTY port v) (b2n (bitOf (numAt f.payload 2 2) v))) s).modPort
          port fun x => { x with statAck := f.ack })

/-- REQ (R433): answered with REQ_ACK and adopted, unless this end leads with a request of its own. -/
def execReqFrame (port : Nat) (f : Frame) (w : Codeword) (s : State) : Host.Outcome State Fault Refusal :=
  .next (s.receive port w fun s =>
    if s.portState port ≠ 6 then s
    else
      let s := s.takeHeader port f
      if (s.port port).req.isSome && s.leads port then s.setF (Reg.LNK_PORT_STATUS_LEADER port) 1
      else
        let s := (s.setF (Reg.LNK_PORT_STATUS_LEADER port) 0).sendControl port 2 (BitVec.ofNat 8 ctrlReqAck :: (f.payload.drop 1).take 2)
        s.adoptReq port (numAt f.payload 1 1) (numAt f.payload 2 1))

/-- REQ_ACK (R433). -/
def execReqAckFrame (port : Nat) (f : Frame) (w : Codeword) (s : State) : Host.Outcome State Fault Refusal :=
  .next (s.receive port w fun s =>
    if s.portState port = 6 && (s.port port).req.isSome then (s.takeHeader port f).adoptReq port (numAt f.payload 1 1) (numAt f.payload 2 1)
    else s)

/-- CTRL_BAD (R409): ignored and counted. -/
def execCtrlBad (port : Nat) (w : Codeword) (s : State) : Host.Outcome State Fault Refusal :=
  .next (s.receive port w fun s => s.bump (Reg.LNK_CNT_CTRL_BAD_COUNT port) 1)

/-- TRAINING_BLOCK (R426, R427, R434). -/
def execTrainingBlock (port : Nat) (b : TrainBlock) (s : State) : Host.Outcome State Fault Refusal :=
  if 7 < b.lane then .next s
  else
    match s.portState port with
    | 1 => .next (((s.setF (Reg.LNK_LANE_STATUS_POLARITY (8 * port + b.lane)) (b2n b.inverted)).toEqualise port false).equaliseBlock port b)
    | 2 => .next (s.equaliseBlock port b)
    | 6 => .next (s.goDown port 4)
    | 7 => .next ((s.toEqualise port false).equaliseBlock port b)
    | _ => .next s

/-- ACK_TIMEOUT (R420): a replay from the oldest unacknowledged frame. -/
def execAckTimeout (port : Nat) (s : State) : Host.Outcome State Fault Refusal :=
  match (s.port port).replay with
  | f :: _ => if s.portState port = 6 then .next (s.startReplay port f.seq) else .next s
  | [] => .next s

/-- NAK_REPEAT (R419): until the expected frame arrives. -/
def execNakRepeat (port : Nat) (s : State) : Host.Outcome State Fault Refusal :=
  if (s.port port).awaited && s.portState port == 6 then .next ((s.modPort port fun x => { x with nak := true }).answer port) else .next s

/-- REPLAY_BOUND (R421). -/
def execReplayBound (port : Nat) (s : State) : Host.Outcome State Fault Refusal :=
  if (s.port port).replayTo.isSome && s.portState port == 6 then
    .next ((s.bump (Reg.LNK_CNT_REPLAY_BOUND_COUNT port) 1).enterRetrain port true)
  else .next s

/-- LEAK_TIMER (R425): the timer of a VC that leaks reaches 1 ms. -/
def execLeakTimer (port vc : Nat) (s : State) : Host.Outcome State Fault Refusal :=
  if s.leaking port vc then .next ((s.bump (Reg.LNK_CNT_LEAK_RETRAIN_COUNT port) 1).enterRetrain port true) else .next s

/-- TRAINING_LIMIT (R426): the limit of the training state a port is in passes. -/
def execTrainingLimit (port : Nat) (s : State) : Host.Outcome State Fault Refusal :=
  match s.portState port with
  | 2 => .next (s.toAlign port)
  | 3 | 4 | 5 => .next (s.failAgreement port false)
  | _ => .next s

/-- RETRAIN_LIMIT (R434): a retrain has not reached ACTIVE within 2 ms. -/
def execRetrainLimit (port : Nat) (s : State) : Host.Outcome State Fault Refusal :=
  if (s.port port).retrain then .next (s.goDown port 2) else .next s

/-- REQ_TIMEOUT (R433): the end enters RETRAIN alone; no lane is excluded. -/
def execReqTimeout (port : Nat) (s : State) : Host.Outcome State Fault Refusal :=
  if (s.port port).req.isSome && s.portState port == 6 then .next (s.enterRetrain port false) else .next s

/-- PORT_ENABLE (R426): a DISABLED port enters DETECT; a SPARE port is never trained (R404). -/
def execPortEnable (port : Nat) (s : State) : Host.Outcome State Fault Refusal :=
  if s.portState port = 0 ∧ s.portRole port ≠ 0 then
    .next (((s.restPort port 1).setF (Reg.LNK_PORT_STATUS_FAILS port) 0).setF (Reg.LNK_PORT_STATUS_ERR port) 0)
  else .next s

/-- The width epoch after a reset; it skips 0xFF (R430). -/
def nextWidthEpoch (n : Nat) : Nat := if n + 1 = 0xFF then 0 else (n + 1) % 256

/-- A port's reset (R430): WIDTH_EPOCH rises and FRESH is set for the next negotiation. -/
def State.freshPort (p : Nat) (s : State) : State :=
  (s.setF (Reg.LNK_PORT_EPOCH_WIDTH_EPOCH p) (nextWidthEpoch (s.getF (Reg.LNK_PORT_EPOCH_WIDTH_EPOCH p)))).modPort p fun x =>
    { x with fresh := true }

/-- PORT_RESET (R430, R434); a DISABLED port stays so. -/
def execPortReset (port : Nat) (s : State) : Host.Outcome State Fault Refusal :=
  let s := s.freshPort port
  let s := if s.isCl2 port then s.excludeNone port else s
  if s.portState port = 0 then .next s else .next (s.goDown port 5)

/-- PORT_DOWN (R434). -/
def execPortDown (port : Nat) (s : State) : Host.Outcome State Fault Refusal :=
  if s.portState port = 0 then .next s else .next (s.goDown port 5)

/-- PORT_RETRAIN (R433): a retrain of KIND 0 is requested. -/
def execPortRetrain (port : Nat) (s : State) : Host.Outcome State Fault Refusal := .next (s.askReq port 0 0)

end Sys2Proof.Machine
end

