-- ==== Sys2Proof/Machine/Export.lean ====
section
/-! DEFINITION. The difference stream on its way out of a package and into a sink (R359, R437, R438). -/

namespace Sys2Proof.Machine

namespace State

/-! ### The sink (R438) -/

/-- Units of a port's sink ring. -/
def sinkUnits (s : State) (p : Nat) : Nat := 2 ^ s.getF (Reg.LNK_SINK_BASE_LOG2_UNITS p)

/-- Device address of a unit of a sink ring. -/
def sinkAddr (s : State) (p u : Nat) : Nat := s.getF (Reg.LNK_SINK_BASE_ADDR p) + 64 * (u % s.sinkUnits p)

/-- Source of an export record: package, kiln, polder (R360). -/
def exportKey (l : List Byte) : Nat × Nat × Nat := (numAt l 0x10 2 % 16384, numAt l 0x12 1, numAt l 0x13 1)

/-- Whether a record's SEQ is not above the last one received from its source. -/
def exportSeen (s : State) (p : Nat) (l : List Byte) : Bool :=
  (s.port p).sink.any fun e => e.1 == exportKey l && decide (numAt l 0x28 8 ≤ e.2)

/-- A record written into a sink ring, unit by unit. -/
def sinkWrite (p : Nat) (l : List Byte) (s : State) : State :=
  let n := ceilDiv l.length 64
  let tail := s.getF (Reg.LNK_SINK_IDX_TAIL p)
  let s := (List.range n).foldl (fun s k => s.putPart (s.sinkAddr p (tail + k)) (padTo 64 ((l.drop (64 * k)).take 64))) s
  (s.setF (Reg.LNK_SINK_IDX_TAIL p) (tail + n)).modPort p fun x =>
    { x with sink := (exportKey l, numAt l 0x28 8) :: x.sink.filter fun e => e.1 != exportKey l }

end State

/-- EXPORT (R438): the EXPORT packet at the head of a VC is written into the port's sink ring, dropped as a duplicate, or held while
the ring is full or the weirs hold it. -/
def execExportPkt (port vc : Nat) (s : State) : Host.Outcome State Fault Refusal :=
  match s.laneHead port vc with
  | none => .next s
  | some q =>
    let tail := s.getF (Reg.LNK_SINK_IDX_TAIL port)
    let a := s.sinkAddr port tail
    let pol := s.vcPolder port vc
    if q.ptype ≠ 0x30 then .next s
    else if s.exportSeen port q.payload then .next ((s.laneTake port vc).bump (Reg.LNK_CNT_EXPORT_DUP_COUNT port) 1)
    else if s.sinkUnits port < State.ringUsed tail (s.getF (Reg.LNK_SINK_IDX_HEAD port)) + ceilDiv q.payload.length 64 then .next s
    else if !s.ownsAddr pol a then .next ((s.laneTake port vc).dikeFail 2 pol a)
    else if !s.weirPass pol writeShort a then .next (s.weirHold pol a)
    else .next (((s.laneTake port vc).meter pol writeShort a).sinkWrite port q.payload)

namespace State

/-! ### The drain (R437) -/

def drainOf (s : State) (p : Nat) : Drain := SMap.get (fun _ => Drain.empty) s.drains p

def setDrain (p : Nat) (d : Drain) (s : State) : State := { s with drains := SMap.set (fun _ => Drain.empty) s.drains p d }

/-- HEAD moves past a record. -/
def passRecord (i p units : Nat) (s : State) : State :=
  s.setF (Reg.KLN_EXPORT_IDX_HEAD i p) ((s.exportHead i p + units) % s.exportUnits i p)

/-- The record at the HEAD of a ring that is not empty. -/
def exportRecord (s : State) (i p : Nat) : List Byte :=
  let h := s.exportHead i p
  let n := max 1 (numAt (s.bytes (s.exportAddr i p h) 64) 0x16 2)
  (List.range n).flatMap fun k => s.bytes (s.exportAddr i p (h + k)) 64

/-- Pad records at the HEAD skipped. -/
def skipExportPads (i p : Nat) : Nat → State → State
  | 0, s => s
  | n + 1, s =>
    if s.exportHead i p = s.exportTail i p then s
    else
      let l := s.exportRecord i p
      if numAt l 0 1 = 0x0F then skipExportPads i p n (s.passRecord i p (l.length / 64)) else s

/-- A record written into the host ring: it stays within the image's window or is dropped and counted (R529). -/
def hostWrite (l : List Byte) (s : State) : State :=
  let size := 2 ^ s.getF Reg.LNK_EXPORT_HOST_LOG2_UNITS
  let tail := s.getF Reg.LNK_EXPORT_HOST_IDX_TAIL
  let s := (List.range (l.length / 64)).foldl (fun s k =>
    s.storeIn 1 (s.getF Reg.LNK_EXPORT_HOST_ADDR + 64 * ((tail + k) % size)) ((l.drop (64 * k)).take 64)) s
  s.setF Reg.LNK_EXPORT_HOST_IDX_TAIL (tail + l.length / 64)

/-- Whether the host ring has room for a record. -/
def hostRoom (s : State) (n : Nat) : Bool :=
  decide (ringUsed (s.getF Reg.LNK_EXPORT_HOST_IDX_TAIL) (s.getF Reg.LNK_EXPORT_HOST_IDX_HEAD) + n ≤
    2 ^ s.getF Reg.LNK_EXPORT_HOST_LOG2_UNITS)

/-- Whether every frame that carried a VC's packets has been sent and acknowledged. -/
def vcQuiet (s : State) (p v : Nat) : Bool :=
  (SMap.get (fun _ => []) (s.port p).streams v).isEmpty && (SMap.get (fun _ => []) (s.port p).going v).isEmpty && !(s.port p).replay.any fun f => f.vc == v

/-- The drain visits its next kiln: one whole record is sent, to the lane or to the host ring. -/
def visitKiln (p : Nat) (s : State) : State :=
  let d := s.drainOf p
  let i := d.kiln
  let on : Drain := ⟨(i + 1) % 16, 0, none⟩
  let s := skipExportPads i p (s.exportUnits i p) s
  if s.exportHead i p = s.exportTail i p then s.setDrain p on
  else
    let a := s.exportAddr i p (s.exportHead i p)
    let l := s.exportRecord i p
    let n := l.length / 64
    let port := s.getF (Reg.LNK_EXPORT_CFG_PORT p)
    let v := s.getF (Reg.LNK_EXPORT_CFG_VC p)
    if !s.ownsAddr p a then (s.dikeFail 2 p a).setDrain p on
    else if !s.weirPass p readShort a then s.weirHold p a
    else if s.getF (Reg.LNK_EXPORT_CFG_TARGET p) = 2 then
      (if s.hostRoom n then (((s.meter p readShort a).hostWrite l).passRecord i p n).setDrain p on else s)
    else if s.laneStatus port 0x30 = 0 then
      ((s.meter p readShort a).sendLane port v
        ⟨0x30, false, false, 0, s.getF (Reg.LNK_PEER_PKG_ID port), 0, laneSrc 0 0 s.pkgId, 0, l⟩).setDrain p ⟨i, n, some (port, v)⟩
    else s

end State

/-- EXPORT_DRAIN (R437): the drain of a polder's difference stream goes on: a record under way on a lane is passed once it is
acknowledged, and otherwise the next kiln is visited. -/
def execExportDrain (polder : Nat) (s : State) : Host.Outcome State Fault Refusal :=
  let d := s.drainOf polder
  if s.getF (Reg.LNK_EXPORT_CFG_TARGET polder) = 0 ∨ s.getF (Reg.LNK_EXPORT_CFG_TARGET polder) = 3 then .next s
  else match d.lane with
    | some (p, v) =>
      if s.vcQuiet p v then .next ((s.passRecord d.kiln polder d.units).setDrain polder ⟨(d.kiln + 1) % 16, 0, none⟩) else .next s
    | none => .next (s.visitKiln polder)

end Sys2Proof.Machine
end

