-- ==== Sys2Proof/Machine/Tide.lean ====
section
/-! DEFINITION. The tide (R189 to R195, R202): loading the count, TMARK edges, realignment, TREF, and how a wheel starts its plan
and stops (R213, R567). -/

namespace Sys2Proof.Machine

/-- `a - b` of two `n`-bit counts that wrap, as the distance nearest to zero. -/
def wrapDiff (n a b : Nat) : Int := signed n (a + 2 ^ n - b % 2 ^ n)

namespace State

/-- Whether any polder runs (R567). -/
def anyRuns (s : State) : Bool := (List.range 8).any fun p => (s.wheel p).runs

/-- The time mode: forerunner (R196). -/
def forerunner (s : State) : Bool := s.flag Reg.WHL_TIME_CTL_MODE

/-- LOCKED as it reads: 1 in native mode, and for the time master, whose count the others lock to (R199). -/
def locked (s : State) : Bool := !s.forerunner || s.flag Reg.WHL_TIME_CTL_MASTER || s.flag Reg.WHL_TIME_STATUS_LOCKED

/-- When a plan starts next: at the next multiple of 100,000 for an anchored polder, at the next tick for a free one (R213). -/
def planStart (s : State) (p : Nat) : Nat :=
  if s.flag (Reg.WHL_POLDER_CTL_ANCHOR p) then min ((s.now / 100000 + 1) * 100000) (2 ^ 48) % 2 ^ 48 else (s.now + 1) % 2 ^ 48

/-- A polder runs, its plan at its beginning (R213, R567). -/
def startPlan (p : Nat) (s : State) : State := s.setWheel p ⟨true, false, 0, 0, s.planStart p, none⟩

/-- The INFER stash entries of a group freed, and counted (R315). -/
def freeInfer (g : Nat) (s : State) : State :=
  (List.range 16).foldl (fun s k =>
    if (s.stashAt g (64 + k)).isSome then (s.freeStash g (64 + k)).bump (Reg.PIP_CNT_RELEASE_COUNT g) 1 else s) s

/-- What every end of a turn does, a dropped one's too (R281, R315): INFER entries are freed, which can give kilns the version slots
they wait for (R347), and landing buffers return. -/
def returnTurn (p : Nat) (s : State) : State :=
  (((s.groupsOf p).foldl (fun s g => s.freeInfer g) s).returnSets p).allKilnWork p

/-- The turn of a polder ends on every core where it stands. -/
def dropTurn (p : Nat) (s : State) : State :=
  let s := if (s.wheel p).turnOpen then s.returnTurn p else s
  (State.forCores (fun i s => s.modCore i fun c => { c with wheel := { c.wheel with cur := none, ended := true } }) (s.coresOf p) s).setF
    (Reg.WHL_POLDER_STATUS_RUNNING p) 0

/-- The channels a polder owns, as (stack, channel). -/
def chansOf (s : State) (p : Nat) : List (Nat × Nat) :=
  (List.range 512).filterMap fun k => if s.chanOwner (k / 32) (k % 32) = p then some (k / 32, k % 32) else none

/-- A polder's wheel has stopped (R383, R567): its deferred queues are performed. -/
def stopWheel (p : Nat) (s : State) : State :=
  let s := (s.dropTurn p).setWheel p Wheel.empty
  let s := s.setF (Reg.WHL_POLDER_CTL_RUN p) 0
  (s.chansOf p).foldl (fun s k => s.performAll k.1 k.2) s

/-- The TMARK output's pulse starts at each count that is a multiple of 100,000 (R202). -/
def markPulse (s : State) : State :=
  if s.forerunner && s.flag Reg.WHL_TIME_CTL_TMARK_OUT && s.now % 100000 == 0 then
    { s with tide := { s.tide with markOut := true, markLeft := 10 } }
  else s

/-- The count set, at phase 0. -/
def jumpCount (n : Nat) (s : State) : State := { s with tide := { s.tide with count := BitVec.ofNat 48 n, phase := 0 } }.markPulse

/-- A jump of the count while wheels run (R194): every running polder's step is quiesced and its wheel stopped, the count steps,
and the wheels restart at their next plan period, but those that a write of RUN 0 was stopping. -/
def realignTo (n : Nat) (s : State) : State :=
  let ps := (List.range 8).filter fun p => (s.wheel p).runs
  let s := ps.foldl (fun s p => (s.quiesce p .realignment).dropTurn p) s
  let s := s.jumpCount n
  ps.foldl (fun s p => if s.flag (Reg.WHL_POLDER_CTL_RUN p) then s.startPlan p else s.stopWheel p) s

/-- A realignment reported (R194, R201). -/
def realign (n : Nat) (s : State) : State :=
  ((s.realignTo n).bump Reg.WHL_CNT_REALIGN_COUNT 1).raise .realign

/-! ### Loads (R191, R192) -/

/-- SECONDS × 100,000. -/
def loadCount (s : State) : Nat := s.getF Reg.WHL_TIDE_LOAD_SECONDS * 100000

/-- A LOAD that is refused: while a polder runs, when the count would not fit, on a forerunner package that is not master. -/
def loadBad (s : State) : Bool :=
  s.anyRuns || decide (2814749767 < s.getF Reg.WHL_TIDE_LOAD_SECONDS) || (s.forerunner && !s.flag Reg.WHL_TIME_CTL_MASTER)

/-- WHL_TIME_CTL.LOAD written 1. -/
def armLoad (s : State) : State :=
  if s.loadBad then s.setF Reg.WHL_TIME_STATUS_LOAD_REFUSED 1 else s.setF Reg.WHL_TIME_STATUS_LOAD_PENDING 1

/-- The count of an accepted edge: that of a pending load, or the predicted one (R191, R193). -/
def edgeCount (n : Nat) (s : State) : Nat := if s.flag Reg.WHL_TIME_STATUS_LOAD_PENDING then s.loadCount else n

/-- A pending load is done. -/
def loaded (s : State) : State := s.setF Reg.WHL_TIME_STATUS_LOAD_PENDING 0

/-! ### TMARK (R193, R194) -/

/-- The multiple of 100,000 nearest to a position of the tide in TREF cycles; the lower one when two are as near. The count's
wrap at 2^48 is the multiple 0. -/
def nearestMark (pos : Nat) : Nat :=
  let low := pos / 100000000 * 100000
  let high := min (low + 100000) (2 ^ 48)
  if (pos : Int) - low * 1000 ≤ (high * 1000 : Int) - pos then low else high

/-- An accepted edge clears TMARK_FAULT and TMARK_MISSING and is the last accepted one. -/
def acceptEdge (s : State) : State :=
  let s := (s.setF Reg.WHL_TIME_STATUS_TMARK_FAULT 0).setF Reg.WHL_TIME_STATUS_TMARK_MISSING 0
  { s with tide := { s.tide with firstEdge := false, ignored := [], quiet := 0, missAt := 100001 } }

/-- An ignored edge: only edges ignored while TREF is present lead to a realignment. -/
def ignoreEdge (d : Int) (s : State) : State :=
  let s := (s.setF Reg.WHL_TIME_STATUS_TMARK_FAULT 1).bump Reg.WHL_CNT_TMARK_BAD_COUNT 1
  let old := s.tide.ignored
  let hist := if s.flag Reg.WHL_TIME_STATUS_TREF_LOST then [] else (if old.length = 2 then old.drop 1 else old) ++ [d]
  { s with tide := { s.tide with ignored := hist, quiet := 0, missAt := 100001 } }

/-- Whether a third edge agrees with the two ignored before it (R194). -/
def agrees (s : State) (d : Int) : Bool :=
  match s.tide.ignored with
  | [a, b] => decide ((b - a).natAbs ≤ 2) && decide ((d - a).natAbs ≤ 2) && !s.flag Reg.WHL_TIME_STATUS_TREF_LOST
  | _ => false

/-- A rising TMARK edge at the present position. -/
def tmarkEdge (s : State) : State :=
  let pos := s.now * 1000 + s.tide.phase
  let n := nearestMark pos
  let d : Int := (pos : Int) - n * 1000
  let adjust (s : State) : State := if 2 < d.natAbs then s.bump Reg.WHL_CNT_TMARK_ADJUST_COUNT 1 else s
  if s.tide.firstEdge then
    (((adjust s).realignTo (s.edgeCount n)).loaded).acceptEdge
  else if d.natAbs ≤ 1000 then
    let s := adjust s
    let s := if 2 < d.natAbs ∨ s.flag Reg.WHL_TIME_STATUS_LOAD_PENDING then (s.jumpCount (s.edgeCount n)).loaded else s
    s.acceptEdge
  else if s.agrees d then ((s.realign (s.edgeCount n)).loaded).acceptEdge
  else s.ignoreEdge d

end State

/-- LOAD (R191, R192). -/
def execLoadArm (s : State) : Host.Outcome State Fault Refusal := .next s.armLoad

/-- TIDE_LOAD (R191, R507): SECONDS is written, then LOAD; the answer follows once the load is armed or refused. -/
def execTideLoad (seconds : Nat) (s : State) : Host.Outcome State Fault Refusal :=
  let s := s.setF Reg.WHL_TIDE_LOAD_SECONDS seconds
  .next (s.armLoad.send (.reply 4 (b2n s.loadBad) []))

/-- TMARK_EDGE (R193, R194), at a TREF phase; TMARK is an input in native mode only (R196). -/
def execTmarkEdge (phase : Nat) (s : State) : Host.Outcome State Fault Refusal :=
  if s.power.vaux && !s.forerunner then .next { s with tide := { s.tide with phase := phase } }.tmarkEdge else .next s

/-- TMARK_MISSING (R193): no edge for 100,001 ticks, and again for each further 100,000. -/
def execTmarkMissing (s : State) : Host.Outcome State Fault Refusal :=
  if s.power.vaux && !s.forerunner && decide (s.tide.missAt ≤ s.tide.quiet) then
    let s := (s.setF Reg.WHL_TIME_STATUS_TMARK_MISSING 1).bump Reg.WHL_CNT_TMARK_BAD_COUNT 1
    .next { s with tide := { s.tide with missAt := s.tide.missAt + 100000 } }
  else .next s

/-- TREF_LOST (R195): the count goes on, on the always-on oscillator. -/
def execTrefLost (s : State) : Host.Outcome State Fault Refusal :=
  if s.flag Reg.WHL_TIME_STATUS_TREF_LOST then .next s
  else
    let s := (s.setF Reg.WHL_TIME_STATUS_TREF_LOST 1).bump Reg.WHL_CNT_TREF_LOSS_COUNT 1
    .next ({ s with tide := { s.tide with ignored := [] } }.raise .trefLost)

/-- TREF_RETURN (R195). -/
def execTrefReturn (s : State) : Host.Outcome State Fault Refusal := .next (s.setF Reg.WHL_TIME_STATUS_TREF_LOST 0)

/-- TMARK_PULSE_END (R202): 100 µs, ten ticks, after its rising edge. -/
def execTmarkPulseEnd (s : State) : Host.Outcome State Fault Refusal :=
  if s.tide.markOut && s.tide.markLeft == 0 then .next { s with tide := { s.tide with markOut := false } } else .next s

end Sys2Proof.Machine
end

