-- ==== Sys2Proof/Machine/Delivery.lean ====
section
/-! DEFINITION. Deliveries to the kilns (R332, R343, R348, R462), the slow tier's fetches and write-backs (R347, R349, R473, R474), root
computations (R352, R353) and the loading of coefficient tables (R340). -/

namespace Sys2Proof.Machine

/-- How a kiln answers a delivery (R332, R348). -/
inductive Offer where
  | taken (s : State) (parked : Bool)
  | waits (s : State)
  | refused (code : Nat) (s : State)
  | undef (case : String)

namespace State

/-- A layer's step begun on a kiln: the descriptor and table are read; a layer of the matrix rule without roots runs under its
FALLBACK table (R336, R350). -/
def startLayer (s : State) (i n : Nat) : KLayer :=
  let d := s.ldesc i n
  let t := s.ktable (kdTable d)
  let fb := ktPrecond t && kdPstate d == 0
  let sg := SMap.get (fun _ => [0, 0, 0]) s.sigmas n
  ⟨d, if fb then ktFallback t else kdTable d, fb, [], [], 0, NormAcc.start (sg.getD 0 0), NormAcc.start (sg.getD 1 0),
    NormAcc.start (sg.getD 2 0), false, [], []⟩

/-- Whether a tile may come after those of the run or block in progress (R343, R350); `delta` and `b` say which orders bind. -/
def orderOk (delta : Bool) (b : Option Blocks) (layer t : Nat) : Option (Nat × List Nat) → Bool
  | none => !delta || t % 64 == 0
  | some (ly, ts) =>
    let last := ts.headD 0
    layer == ly && (!delta || (if last % 64 = 63 then t % 64 == 0 else t == last + 1)) &&
      (match b with
      | some b => b.of t == b.of last || decide ((b.tiles (b.of last)).length ≤ (ts.filter fun x => b.of x == b.of last).length)
      | none => true)

/-- The run or block in progress after a tile. -/
def orderNext (delta : Bool) (b : Option Blocks) (tiles layer t : Nat) (o : Option (Nat × List Nat)) : Option (Nat × List Nat) :=
  let ts := t :: (o.map (·.2)).getD []
  let runOver := !delta || t % 64 == 63 || t + 1 == tiles
  let blockOver := match b with
    | some b => decide ((b.tiles (b.of t)).length ≤ (ts.filter fun x => b.of x == b.of t).length)
    | none => true
  if runOver && blockOver then none else some (layer, ts)

/-- The tile is on its way through the kiln: the layer's step goes on with it. -/
def seeTile (i p layer t : Nat) (l : KLayer) (o : Option (Nat × List Nat)) (s : State) : State :=
  let s := if (s.klayer i layer).isNone && l.fallback then s.bump (Reg.KLN_CNT_FALLBACK_COUNT i) 1 else s
  (s.setKlayer i layer (some { l with seen := t :: l.seen })).modKiln i fun k => { k with order := SMap.set (fun _ => none) k.order p o }

/-- The cycles that a polder's deliveries are held (R348). -/
def basinWait (i : Nat) (s : State) : State := (s.setF (Reg.KLN_STATUS_BASIN_FULL i) 1).bumpFree (Reg.KLN_CNT_BASIN_FULL_COUNT i)

/-- An entry parked (R347), its fetches issued; held when the share has no frames for it (R348). -/
def parkEntry (i : Nat) (e : Parked) (w : ParkWait) (s s0 : State) : Offer :=
  if !s.framesFit i e then .waits (s0.basinWait i)
  else
    let s := (s.notePark i e w).modKiln i fun k => { k with parked := k.parked ++ [{ e with wait := w }] }
    let s := s.bump (Reg.KLN_CNT_PARKED_COUNT i) 1
    match s.klayer i e.layer with
    | none => .waits s0
    | some l =>
      let s := if kdSlow l.desc then
          (s.tileAddrs l.desc (s.ktable l.table) e.idx).foldl (fun s x => s.issueFetch i e.polder e.id x.1 x.2 none) s
        else s
      let s := s.modOp (i / 8) e.polder e.op fun o => { o with owing := SMap.set (fun _ => 0) o.owing o.step (SMap.get (fun _ => 0) o.owing o.step + 1) }
      .taken (if w = .block then (s.openBlock i e).kilnWork i e.polder else s) true

/-- A tile of the layer's next step, accepted by the checks (R332 step 4). -/
def takeGradient (i p op layer t : Nat) (c : ColTile) (s : State) : Offer :=
  let l := (s.klayer i layer).getD (s.startLayer i layer)
  let base := s.ktable (kdTable l.desc)
  let delta := s.flag (Reg.PIP_GROUP_CFG_FORM (kdGroup l.desc)) && !kdFrozen l.desc
  let b := if ktPrecond base && !kdFrozen l.desc then some (blocksOf l.desc base) else none
  let o := SMap.get (fun _ => none) (s.kiln i).order p
  if l.seen.contains t ∨ !orderOk delta b layer t o then .undef "R343"
  else
    let slow := kdSlow l.desc
    let s' := s.seeTile i p layer t l (orderNext delta b (kdTiles l.desc) layer t o)
    let frames := 1 + if slow then (s.tileAddrs l.desc (s.ktable l.table) t).length else 0
    let e : Parked := ⟨s.serial, p, op, layer, t, c.tile, frames, b.isSome, .slot, [], 0, none, []⟩
    let s' := { s' with serial := s.serial + 1 }
    if b.isSome then s'.parkEntry i e .block s
    else if slow then s'.parkEntry i e .fetch s
    else match s'.attempt i e with
      | .applied s gw gm1 gm2 =>
        .taken ((s.reportTile i p op (kdStep l.desc) layer t gw gm1 gm2 (kdFrozen l.desc) false).endLayer layer) false
      | .park w s'' => s''.parkEntry i e w s
      | .hold s'' => .waits ({ s with regs := s''.regs, free := s''.free }.basinWait i)
      | .refuse code s => .refused code s

/-- The checks of R332, in order, once the channel of the layer's descriptor is lent (R330). A tile of the next step waits while this
kiln has been given every tile of the present one (R341). -/
def offerTile (i p op step layer t : Nat) (c : ColTile) (s : State) : Offer :=
  let l := s.klayer i layer
  let d := (l.map (·.desc)).getD (s.ldesc i layer)
  let next := kdStep (s.ldesc i layer)
  let table := (l.map (·.table)).getD (s.startLayer i layer).table
  if !s.lent i p (s.getF (Reg.KLN_LDESC_BASE_ADDR i) + 64 * layer) then .waits s
  else if !c.tile.ok then .refused klnEGlaze s
  else if tagKind c.tile.tag ≠ 0 ∨ 2 < tagFmt c.tile.tag then .refused klnEFormat s
  else if !kdValid d ∨ kdTiles d ≤ t ∨ ktUnused (s.ktable table) then .refused klnELayer s
  else if step < next then .taken (s.bump (Reg.KLN_CNT_STALE_COUNT i) 1) false
  else if next < step then
    (if step = next + 1 ∧ l.any (fun l => decide (kdTiles l.desc ≤ l.seen.length)) then .waits (s.basinWait i) else .refused klnEStep s)
  else s.takeGradient i p op layer t c

/-! ### The collective engine's side (R462, R466) -/

/-- The delivery of a polder that waits at a kiln, while its operation still has it to give (R332, R341, R348). -/
def heldAt (s : State) (i p : Nat) : Option (Nat × Nat) :=
  (SMap.get (fun _ => none) (s.kiln i).held p).filter fun x => (s.colOp (i / 8) p x.1).any fun o =>
    o.code == 0 && (SMap.get (fun _ => none) o.results x.2).isSome

def setHeld (i p : Nat) (x : Option (Nat × Nat)) (s : State) : State :=
  s.modKiln i fun k => { k with held := SMap.set (fun _ => none) k.held p x }

/-- Whether another run of the polder is partly delivered to a kiln (R462). -/
def kilnBusy (s : State) (j p n i : Nat) (run : Nat) : Bool := s.ops.any fun e =>
  e.1 / 1024 == j * 8 + p && (match e.2 with
    | none => false
    | some o => o.kind == 1 && o.code == 0 && o.done.any fun t => !(e.1 % 1024 == n && o.runOf t == run) && o.kilnOf j t == some i &&
        (!o.owner || o.ownerOf t == o.self) &&
        (List.range o.run).any fun k => decide (o.runOf t * o.run + k < o.tiles) && !o.done.contains (o.runOf t * o.run + k))

/-- Whether a bucket tile is the next of its run, all of whose results are there (R462). -/
def runReady (o : ColOp) (t : Nat) : Bool :=
  let ts := (List.range o.run).map (fun k => o.runOf t * o.run + k) |>.filter (· < o.tiles)
  ts.all fun k => if k < t then o.done.contains k else (SMap.get (fun _ => none) o.results k).isSome

/-- Whether deliveries of a group's step wait for a repair of this member (R466). -/
def repairHolds (s : State) (j p g : Nat) : Bool := s.ops.any fun e =>
  e.1 / 1024 == j * 8 + p && (match e.2 with
    | some o => o.group == g && o.fixing != 0
    | none => false)

/-- A kiln's refusal (R332, R362, R462): counted and captured; a first KLN_E_GLAZE lets the tile be delivered once more, any other
fails the operation, and the MGC restores the polder. -/
def refuseTile (i p op layer t idx code : Nat) (again : Bool) (s : State) : State :=
  let s := (s.bump (Reg.KLN_CNT_REFUSED_COUNT i) 1).kilnError i code layer t
  if code = klnEGlaze && !again then s.modOp (i / 8) p op fun o => { o with again := idx :: o.again }
  else (((s.markFailed (i / 8) p op code).note (.kilnRefused i)).quiesce p .kilnRefusal).dueRestore p

end State

/-- DELIVERY (R329, R330, R332, R348, R462): CE[j] delivers a bucket tile of an operation to its kiln, in a slot that lends the kiln its
port. One that must wait there holds back the polder's later ones. -/
def execDelivery (ce polder op index : Nat) (s : State) : Host.Outcome State Fault Refusal :=
  match s.colOp ce polder op with
  | none => .next s
  | some o =>
    match SMap.get (fun _ => none) o.results index, o.entryOf index with
    | some c, some (e, n) =>
      let i := 8 * ce + e.kiln
      if o.kind ≠ 1 ∨ o.code ≠ 0 ∨ !State.runReady o index ∨ s.kilnBusy ce polder op i (o.runOf index) ∨ s.repairHolds ce polder o.group ∨
          (s.lenders i polder).isEmpty ∨ (s.heldAt i polder).any (· != (op, index)) then .next s
      else if s.weirLevel i polder 1 < 8 then .next ((s.weirWait i polder).setHeld i polder (some (op, index)))
      else match (s.weirSpend i polder 1 8).offerTile i polder op o.step e.layer (e.ltile + n) c with
        | .undef case => .refused (.undefinedBehaviour case)
        | .waits s' => .next ({ s' with weirs := s.weirs }.setHeld i polder (some (op, index)))
        | .refused code s => .next ((s.setHeld i polder none).refuseTile i polder op e.layer (e.ltile + n) index code (o.again.contains index))
        | .taken s _ =>
          let s := (s.setHeld i polder none).modOp ce polder op fun o =>
            { o with results := SMap.set (fun _ => none) o.results index none, done := index :: o.done }
          .next ((s.bump (Reg.COL_CNT_DELIVERED_COUNT ce) 1).advanceOp ce polder op)
    | _, _ => .next s

namespace State

/-! ### Serving other packages (R472, R473) -/

/-- The status of a service access of some tiles for a polder (R372, R473). -/
def serveStatus (s : State) (p a n : Nat) : Nat :=
  match (List.range n).find? fun k => s.colAccess p (a + 2048 * k) != 0 with
  | some k => s.colAccess p (a + 2048 * k)
  | none => 0

/-- An answer on the VC a request came on. -/
def laneReply (p v : Nat) (q : LanePkt) (ptype dst aux : Nat) (isSealed : Bool) (pl : List Byte) (s : State) : State :=
  s.sendLane p v ⟨ptype, isSealed, true, q.lepoch, q.src / 2 ^ 22 % 16384, dst, laneSrc 0 0 s.pkgId, aux, pl⟩

/-- A FETCH_REQ served: its tiles sent back, or its refusal. -/
def serveFetch (p v : Nat) (q : LanePkt) (s : State) : State :=
  let pol := s.vcPolder p v
  let a := q.dst % 2 ^ 44
  let id := q.aux % 65536
  let n := bitsOf q.aux 22 16
  let st := s.serveStatus pol a n
  if st ≠ 0 then ((s.laneTake p v).colRefuse pol a st).laneReply p v q 0x27 id st false []
  else if !(List.range n).all fun k => s.serviceOk (p / 8) pol (a + 2048 * k) then s
  else if !s.weirPass pol readTile a then s.weirHold pol a
  else if s.inSaggar a && (s.vcKey p v).isEmpty then (s.laneTake p v).laneReply p v q 0x27 id secENokey false []
  else
    (List.range n).foldl (fun s k =>
      let s := s.meter pol readTile (a + 2048 * k)
      s.laneReply p v q 0x27 (id + k * 2 ^ 16) 0 (s.inSaggar (a + 2048 * k)) (tilePayload (s.tile (a + 2048 * k)))) (s.laneTake p v)

/-- A WB_DATA served: its tile written, or refused. -/
def serveWb (p v : Nat) (q : LanePkt) (s : State) : State :=
  let pol := s.vcPolder p v
  let a := q.dst % 2 ^ 44
  let id := q.aux % 65536
  let st := s.serveStatus pol a 1
  if st ≠ 0 then ((s.laneTake p v).colRefuse pol a st).laneReply p v q 0x29 id st false []
  else if !s.serviceOk (p / 8) pol a then s
  else if !s.weirPass pol writeTile a then s.weirHold pol a
  else ((((s.laneTake p v).meter pol writeTile a).putTile a (payloadTile q.payload)).laneReply p v q 0x29 id 0 false [])

/-! ### Answers for this package's kilns (R347, R349) -/

/-- A fetch's tile, or its failure. Its glaze is verified when the kiln reads it (R345). -/
def fetched (f : KFetch) (status : Nat) (t : Tile) (s : State) : State :=
  match (s.kiln f.kiln).parked.find? fun e => e.id == f.entry with
  | none => { s with fetches := s.fetches.filter fun x => x.id != f.id }
  | some e =>
    if status ≠ 0 then s.fetchFailed f
    else
      let s := { s with fetches := s.fetches.filter fun x => x.id != f.id }
      (s.setParked f.kiln { e with got := e.got ++ [(f.slot, t)] }).kilnWork f.kiln f.polder

/-- A write-back acknowledged, or its failure; with the last one the entry's frames are free. -/
def wroteBack (f : KFetch) (status : Nat) (s : State) : State :=
  if status ≠ 0 then s.fetchFailed f
  else
    let s := { s with fetches := s.fetches.filter fun x => x.id != f.id }
    match (s.kiln f.kiln).parked.find? fun e => e.id == f.entry with
    | none => s
    | some e => if e.wbs ≤ 1 then (s.unpark f.kiln e.id).kilnWork f.kiln f.polder else s.setParked f.kiln { e with wbs := e.wbs - 1 }

/-- The fetch, or with `wb` the write-back, that a lane answer belongs to. -/
def fetchOf (s : State) (id : Nat) (p v : Nat) (wb : Bool) : Option KFetch :=
  s.fetches.find? fun f => f.id == id && f.lane == some (p, v) && f.data.isSome == wb

/-- A packet of one type at the head of a VC. -/
def headOf (s : State) (p v ptype : Nat) : Option LanePkt := (s.laneHead p v).filter fun q => q.ptype == ptype

end State

/-- FETCH_REQ (R473). -/
def execFetchReq (port vc : Nat) (s : State) : Host.Outcome State Fault Refusal :=
  match s.headOf port vc 0x26 with
  | some q => .next (s.serveFetch port vc q)
  | none => .next s

/-- FETCH_DATA (R347, R473, R474): an answer at the head of a VC, or a host-window fetch served by CE[0]. -/
def execFetchData (src : FetchFrom) (s : State) : Host.Outcome State Fault Refusal :=
  match src with
  | .lane port vc =>
    (match s.headOf port vc 0x27 with
    | none => .next s
    | some q =>
      let s := s.laneTake port vc
      match s.fetchOf (q.dst % 65536) port vc false with
      | some f => .next (s.fetched f (q.aux % 65536) (State.payloadTile q.payload))
      | none => .next s)
  | .host id =>
    match s.fetches.find? fun f => f.id == id && f.lane.isNone && f.data.isNone with
    | some f => .next (s.fetched f 0 (s.farTile 0 f.addr))
    | none => .next s

/-- FETCH_TIMEOUT (R349). -/
def execFetchTimeout (id : Nat) (s : State) : Host.Outcome State Fault Refusal :=
  match s.fetches.find? fun f => f.id == id && f.left == 0 with
  | some f => .next (s.fetchFailed f)
  | none => .next s

/-- WB_DATA (R473). -/
def execWbData (port vc : Nat) (s : State) : Host.Outcome State Fault Refusal :=
  match s.headOf port vc 0x28 with
  | some q => .next (s.serveWb port vc q)
  | none => .next s

/-- WB_ACK (R347, R473, R474): an acknowledgement at the head of a VC, or a host-window write-back made by CE[0]. -/
def execWbAck (src : FetchFrom) (s : State) : Host.Outcome State Fault Refusal :=
  match src with
  | .lane port vc =>
    (match s.headOf port vc 0x29 with
    | none => .next s
    | some q =>
      let s := s.laneTake port vc
      match s.fetchOf (q.dst % 65536) port vc true with
      | some f => .next (s.wroteBack f (q.aux % 65536))
      | none => .next s)
  | .host id =>
    match s.fetches.find? fun f => f.id == id && f.lane.isNone && f.data.isSome with
    | some f => .next ((s.putFar 0 f.addr (f.data.getD ⟨[], 0, 0⟩)).wroteBack f 0)
    | none => .next s

/-- The 12 MiB work area of a kiln (R352): its tile addresses, and what a computation leaves there, which the spec does not give. -/
def State.workTiles (s : State) (i : Nat) : List Nat := (List.range 6144).map fun k => s.getF (Reg.KLN_WORK_BASE_ADDR i) + 2048 * k

def State.useWork (i p : Nat) (s : State) : State :=
  let put (s : State) (a : Nat) : State :=
    (s.kilnPut p a ⟨(List.range 2048).map fun k => BitVec.ofNat 8 (s.fr k), BitVec.ofNat 64 (s.fr 2048), BitVec.ofNat 64 (s.fr 2049)⟩).useFree 2050
  (s.workTiles i).foldl put s

/-- ROOT_COMPUTATION (R352 to R354): a block's computation finishes, in a slot that lends the work area, while no delivery of the
polder waits. -/
def execRootComputation (kiln layer block : Nat) (s : State) : Host.Outcome State Fault Refusal :=
  let d := s.ldesc kiln layer
  let t := s.ktable (kdTable d)
  let p := s.groupPolder (kdGroup d)
  let waiting := (s.opsOf p).any fun k => k.1 == kiln / 8 && ((s.colOp k.1 p k.2).any fun o =>
    o.results.any fun r => o.kilnOf k.1 r.1 == some kiln)
  match (s.kiln kiln).roots.find? fun r => r.layer == layer && r.block == block && r.res == .pending with
  | none => .next s
  | some r =>
    if (s.lenders kiln p).isEmpty ∨ waiting ∨ !s.lentAll kiln p (s.workTiles kiln) then .next s
    else
      let pw := if r.left.isSome && r.right.isSome then 4 else 2
      let run (a : Option Mat) : Option (Option Mat) × Nat := match a with
        | none => (some none, 0)
        | some m => let x := inverseRoot pw (ktIterMax t) (kt16 t 0x18) m; (x.1.map some, x.2)
      let x := run r.left
      let y := run r.right
      let res : RootRes := match x.1, y.1 with
        | some a, some b => .found a b
        | _, _ => .failed
      let s := ((s.bump (Reg.KLN_CNT_NEWTON_COUNT kiln) 1).bump (Reg.KLN_CNT_NEWTON_DAMPED_COUNT kiln) (x.2 + y.2)).useWork kiln p
      let s := if res = .failed then s.rootFailed kiln layer else s
      .next (s.modKiln kiln fun k => { k with roots := k.roots.map fun q => if q == r then { r with res := res } else q })

namespace State

/-- The coefficient tables at KLN_TBL_BASE. -/
def tablesAt (s : State) : List (List Byte) := (List.range 64).map fun t => s.bytes (s.getF Reg.KLN_TBL_BASE_ADDR + 64 * t) 64

/-- The bits of the tables in use (KLN_TBL_USED). -/
def tablesUsed (l : List (List Byte)) : Nat :=
  (List.range l.length).foldl (fun n k => if ktUnused (l.getD k []) then n else n + 2 ^ k) 0

end State

/-- TBL_LOAD (R340): KLN_TBL_CTL.LOAD written 1. -/
def execTblLoad (s : State) : Host.Outcome State Fault Refusal :=
  let ts := s.tablesAt
  let err (e t : Nat) : State := (s.setF Reg.KLN_TBL_CTL_ERR e).setF Reg.KLN_TBL_CTL_ERR_TABLE t
  if s.anyRuns then .next (err 2 0)
  else if [Region.unmapped, Region.control].contains (region (s.getF Reg.KLN_TBL_BASE_ADDR)) then .next (err 3 0)
  else match (List.range 64).find? fun k => ktBad (s.getF Reg.KLN_TBL_VERSION_ALLOWED) ts (ts.getD k []) with
    | some k => .next (err 1 k)
    | none =>
      let m : SMap (List Byte) := (List.range 64).foldl (fun m k => SMap.set (fun _ => []) m k (ts.getD k [])) []
      .next { (err 0 0).setF Reg.KLN_TBL_USED_USED (State.tablesUsed ts) with ktables := m }

end Sys2Proof.Machine
end

