-- ==== Sys2Proof/Machine/Col.lean ====
section
/-! DEFINITION. The collectives (ch 12): pulls (R458, R459), reductions (R460 to R463), digests and repairs (R465 to R467), gathers (R468)
and permutes (R470). -/

namespace Sys2Proof.Machine

/-! ### Combination (R461) -/

/-- The true values of a tile to be reduced; one whose format the rule does not speak of has values that it does not state. -/
def colFV (t : Tile) (free : Nat → Nat) : List FV :=
  if tagKind t.tag = 0 ∧ tagFmt t.tag ≤ 2 then tileFV t else (List.range 1024).map fun e => fmtB16.decode (free e)

/-- SAT of a tag (R147). -/
def tagSat (t : DWord) : Bool := bitOf t.toNat 4

/-- Tiles combined: the exact sum of each element, at the owner's last combination multiplied by `post`, rounded once into S16.
Answers the tile and what R82 counts. -/
def combine (post : Option FV) (free : Nat → Nat) (ts : List ColTile) : ColTile × List (Nat × Nat) :=
  let vss := (List.range ts.length).map fun k => colFV (ts.getD k ⟨⟨[], 0, 0⟩, false, 0⟩).tile fun e => free (1024 * k + e)
  let vs := (List.range 1024).map fun e =>
    let xs := vss.map fun l => l.getD e .nan
    if xs.all FV.isFinite then
      let v := match xs with
        | [] => FV.fin false 0
        | x :: t => t.foldl FV.add x
      (match post with
      | some m => v.mul m
      | none => v)
    else .nan
  let r := encodeTile 0x2 0 vs
  (⟨Tile.make r.data (mkTag 0x2 (ts.any fun c => tagSat c.tile.tag) r.s 0 0 0), ts.any (·.isSealed), 0⟩, convTel 0x2 1024 r)

namespace State

/-- POST_MUL × 2^POST_EXP. -/
def postFactor (o : ColOp) : FV := (fmtB16.decode o.postMul).scale o.postExp

/-- Two tiles combined for a polder, telemetry counted. -/
def colCombine (p : Nat) (post : Option FV) (ts : List ColTile) (s : State) : ColTile × State :=
  let (c, tel) := combine post s.fr ts
  let s := s.useFree 2048
  (c, if s.rangeOn then s.applyTel p tel else s)

/-! ### Reductions (R460 to R462) -/

/-- Whether the result share has a frame for one more tile (R451). -/
def resultRoom (s : State) (j p : Nat) : Bool := decide (s.resultUsed j p < s.getF (Reg.COL_SHARE_RESULT j p))

/-- The owner's reduced tile: into the result buffer, and on to the members (R460, R462). -/
def finishTile (j p n t : Nat) (c : ColTile) (s : State) : State :=
  match s.colOp j p n with
  | none => s
  | some o =>
    let s := s.setOp j p n (some { o with contrib := SMap.set (fun _ => none) o.contrib t none, results := SMap.set (fun _ => none) o.results t (some c) })
    if o.owner then s
    else (o.downOf t).foldl (fun s m => s.colSend j p n m (o.runOf t) (colPkt 0x21 n t o.step 1 c)) s

/-- A sum that goes on to the next member; with OWNER set this member is then done with the tile. -/
def passPart (j p n t hops : Nat) (c : ColTile) (s : State) : State :=
  match s.colOp j p n with
  | none => s
  | some o =>
    let s := s.setOp j p n (some { o with contrib := SMap.set (fun _ => none) o.contrib t none, done := if o.owner then t :: o.done else o.done })
    (s.colSend j p n (o.upOf t) (o.runOf t) (colPkt 0x20 n t o.step hops c)).advanceOp j p n

/-- A tile pulled into the contribution buffer: a member that no partial comes to sends it on at once; alone, it is the
result. -/
def addContrib (j p n t : Nat) (c : ColTile) (s : State) : State :=
  match s.colOp j p n with
  | none => s
  | some o =>
    if o.partials t ≠ 0 then s.modOp j p n fun o => { o with contrib := SMap.set (fun _ => none) o.contrib t (some c) }
    else if o.ownerOf t = o.self then
      (let (c, s) := s.colCombine p (some (postFactor o)) [c]
       s.finishTile j p n t c)
    else s.passPart j p n t 1 c

/-- A tile pulled; a failed glaze is pulled once more, and fails the operation the second time (R459). -/
def pullTile (j p n k : Nat) (o : ColOp) (e : PullEntry) (s : State) : State :=
  let pos := SMap.get (fun _ => 0) o.pos k
  let t := (e.tile + pos) % 192
  let x := s.spTile e.core t
  if !x.ok then
    (if o.glazed.contains k then s.failOp j p n colEGlaze
     else (s.modOp j p n fun o => { o with glazed := k :: o.glazed }).bump (Reg.COL_CNT_PULL_AGAIN_COUNT j) 1)
  else
    let s := s.modOp j p n fun o => { o with pos := SMap.set (fun _ => 0) o.pos k (pos + 1), glazed := o.glazed.filter (· != k) }
    ((s.bump (Reg.COL_CNT_PULLED_COUNT j) 1).addContrib j p n (e.index + pos) ⟨x, ((s.core e.core).attr t).isSealed, 0⟩)

/-- What to do with a packet of a step (R463, R476). -/
inductive StepCheck where
  | drop (stale : Bool)
  | wait
  | take (o : ColOp)

/-- The check of an operation's packet: one of no such operation is dropped, one of an earlier step or of a failed operation is dropped
and counted, one of a later step waits. -/
def stepCheck (s : State) (j p n kind v step : Nat) : StepCheck :=
  match s.colOp j p n with
  | none => .drop false
  | some o =>
    if o.kind ≠ kind ∨ o.vc ≠ v then .drop false
    else if o.code ≠ 0 ∨ step < o.step then .drop true
    else if o.step < step then .wait
    else .take o

/-- A collective packet dropped. -/
def colDrop (p v : Nat) (stale : Bool) (s : State) : State :=
  let s := s.laneTake p v
  if stale then s.bump (Reg.COL_CNT_STALE_COUNT (p / 8)) 1 else s

/-- A partial combined with the contribution (R460, R461). -/
def takePartial (port v n t hops : Nat) (o : ColOp) (c x : ColTile) (s : State) : State :=
  let j := port / 8
  let p := s.vcPolder port v
  let last := decide (o.partials t ≤ c.got + 1)
  let own := o.ownerOf t == o.self
  let s := s.laneTake port v
  if !x.tile.ok then s.failOp j p n colEGlaze
  else
    let (y, s) := s.colCombine p (if last && own then some (postFactor o) else none) [x, c]
    if !last then s.modOp j p n fun o => { o with contrib := SMap.set (fun _ => none) o.contrib t (some { y with got := c.got + 1 }) }
    else if own then s.finishTile j p n t y
    else s.passPart j p n t (hops + 1) y

/-! ### Digests and repairs (R465 to R467) -/

/-- A repair map's entries (R467): base and tiles, the base of weights in the area of a version of a group. -/
def repairMap (s : State) (g n : Nat) : Nat → Nat → List (Nat × Nat)
  | 0, _ => []
  | fuel + 1, a =>
    let l := s.bytes a 16
    let tiles := numAt l 8 4
    if tiles = 0 then []
    else
      let area := match s.verSlot g n with
        | some j => s.getF (Reg.PIP_AREA_OFF_OFF g (s.getF (Reg.PIP_VER_FULL_AREA g j)))
        | none => 0
      ((numAt l 0 8 + (if bitOf (numAt l 12 1) 0 then area else 0)) % 2 ^ 44, tiles) :: repairMap s g n fuel (a + 16)

/-- The tiles of a repair map that lie on a stack. -/
def repairTiles (s : State) (o : ColOp) (step stack : Nat) : List Nat :=
  ((s.repairMap o.group (step + 1) 65536 o.src).filter fun e => e.1 / 0x1000000000 == stack).flatMap fun e =>
    (List.range e.2).map fun k => e.1 + 2048 * k

/-- The majority among the members' values, by member: the value more of them hold, a tie going to the lowest member's. -/
def majority (l : List DWord) : DWord :=
  let votes (v : DWord) : Nat := (l.filter (· == v)).length
  match l.foldl (fun (b : Option DWord) v => match b with
    | some w => if votes w < votes v then some v else some w
    | none => some v) none with
  | some v => v
  | none => 0

/-- With every member's record of a step there, each stack is decided (R465) and its repair begins (R466). -/
def decideDigest (j p n step : Nat) (s : State) : State :=
  match s.colOp j p n with
  | none => s
  | some o =>
    let val (m k : Nat) : DWord := (((o.recs.find? fun r => r.step == step && r.origin == m).map (·.subs)).getD []).getD (8 * j + k) 0
    let all := (List.range o.m).all fun m => o.recs.any fun r => r.step == step && r.origin == m
    if !all then s
    else
      let maj (k : Nat) : DWord := majority ((List.range o.m).map fun m => val m k)
      let bad := (List.range 8).filter fun k => (List.range o.m).any fun m => val m k != maj k
      let source (k : Nat) : Nat := ((List.range o.m).find? fun m => val m k == maj k).getD 0
      let s := ((s.clearSubs j o.group step).bump (Reg.COL_CNT_DIGEST_COUNT j) 1).bump (Reg.COL_CNT_MISMATCH_COUNT j) bad.length
      let s := s.modOp j p n fun o =>
        { o with recs := o.recs.filter fun r => r.step != step
                 repairs := o.repairs ++ bad.flatMap fun k =>
                   if source k = o.self then
                     ((List.range o.m).filter fun m => val m k != maj k).flatMap fun m => (s.repairTiles o step (8 * j + k)).map fun a => (a, m)
                   else []
                 fixing := o.fixing + (bad.filter fun k => val o.self k != maj k).foldl (fun x k => x + (s.repairTiles o step (8 * j + k)).length) 0 }
      if bad.isEmpty then s
      else
        let s := s.note (.digestMismatch j)
        if s.flag (Reg.COL_DIGEST_LAST_VALID j) then s
        else
          ((((s.setF (Reg.COL_DIGEST_LAST_VALID j) 1).setF (Reg.COL_DIGEST_LAST_GROUP j) o.group).setF (Reg.COL_DIGEST_LAST_STACKS j)
            (bad.foldl (fun x k => x + 2 ^ k) 0)).setF (Reg.COL_DIGEST_LAST_SOURCE j) (source (bad.headD 0))).setF (Reg.COL_DIGEST_LAST_STEP j) step

/-- A digest record taken by an operation, and passed on until it has crossed M − 1 members. -/
def takeDigest (j p n : Nat) (r : DigestRec) (s : State) : State :=
  match s.colOp j p n with
  | none => s
  | some o =>
    let s := s.modOp j p n fun o => { o with recs := o.recs ++ [r] }
    let s := if o.ahead 1 = r.origin then s
      else s.colSend j p n (o.ahead 1) 0 ⟨0x22, false, false, 0, 0, n, 0, r.step + r.origin * 2 ^ 32, r.subs.flatMap fun d => bytesLE 8 d.toNat⟩
    s.decideDigest j p n r.step

/-- This member's record of the oldest step to be compared, once every tile it delivered has been reported. -/
def ownDigest (j p n : Nat) (s : State) : State :=
  match s.colOp j p n with
  | none => s
  | some o =>
    match o.digests with
    | [] => s
    | step :: t =>
      if SMap.get (fun _ => 0) o.owing step ≠ 0 ∨ o.code ≠ 0 then s
      else
        let subs := (List.range 16).map fun k => if k / 8 = j then s.sub j o.group step (k % 8) else 0
        (s.modOp j p n fun o => { o with digests := t }).takeDigest j p n ⟨step, o.self, subs⟩

/-- Whether an operation still wants records of a step. -/
def wantsDigest (o : ColOp) (step : Nat) : Bool :=
  step == o.step || o.digests.contains step || o.recs.any fun r => r.step == step && r.origin == o.self

/-! ### Writes (R466, R468, R470) -/

/-- Whether the engine may make an access now: its service set and the weirs allow it; a wait is counted. -/
def serviceNow (s : State) (j p : Nat) (k : Access) (a : Nat) : Bool := s.serviceOk j p a && s.weirPass p k a

def serviceHold (j p a : Nat) (s : State) : State := if s.serviceOk j p a then s.weirHold p a else s

/-- A tile written by a collective engine. -/
def colPut (p a : Nat) (t : Tile) (s : State) : State := (s.meter p writeTile a).putTile a t

/-- A repaired tile written: parked gradients that waited for it go on (R345). -/
def repaired (p a : Nat) (s : State) : State :=
  let s := { s with power := { s.power with fixes := s.power.fixes.filter (· != (p, a)) } }
  (List.range 16).foldl (fun s i => s.mend i p a) s

/-- A gathered tile written at DEST and passed on (R468). -/
def gatherTile (j p n t : Nat) (o : ColOp) (c : ColTile) (s : State) : State :=
  let a := o.dest + 2048 * t
  if c.isSealed && !s.inSaggar a then s.failOp j p n colESealed
  else if s.colAccess p a ≠ 0 then (s.colRefuse p a (s.colAccess p a)).failOp j p n (s.colAccess p a)
  else
    let s := (s.colPut p a c.tile).modOp j p n fun o => { o with done := t :: o.done }
    ((o.downOf t).foldl (fun s m => s.colSend j p n m (o.runOf t) (colPkt 0x23 n t o.step 1 c)) s).advanceOp j p n

/-- The run of a PERMUTE operation that its `k`-th outgoing tile belongs to, and its place there. -/
def permTile : List PermRun → Nat → Option (PermRun × Nat)
  | [], _ => none
  | r :: t, k => if k < r.tiles then some (r, k) else permTile t (k - r.tiles)

/-- Whether a PERMUTE operation is complete (R470). -/
def permDone (o : ColOp) : Bool :=
  let n := o.runs.foldl (fun n r => n + r.tiles) 0
  decide (n ≤ o.sent) && decide (n ≤ o.acked) && decide (o.inTiles ≤ o.came)

/-- The lowest port of an operation that links directly to a package. -/
def permPort (o : ColOp) (j pkg : Nat) : Option Nat :=
  (List.range 8).find? (fun n => o.members.any fun m => m.1 == pkg && bitOf m.2 n) |>.map fun n => 8 * j + n

/-- The next repair tile, or the next tile of a PERMUTE operation, sent. -/
def sendPerm (j p n : Nat) (s : State) : State :=
  match s.colOp j p n with
  | none => s
  | some o =>
    if o.code ≠ 0 then s
    else match o.repairs with
    | (a, m) :: t =>
      if s.colAccess p a ≠ 0 then (s.colRefuse p a (s.colAccess p a)).failOp j p n (s.colAccess p a)
      else if !s.serviceNow j p readTile a then s.serviceHold j p a
      else
        let s := (s.meter p readTile a).modOp j p n fun o => { o with repairs := t }
        s.colSend j p n (o.ahead 1) 0 ⟨0x24, s.inSaggar a, false, 0, 0, a, 0, n + m * 2 ^ 11, tilePayload (s.tile a)⟩
    | [] =>
      if o.kind ≠ 3 ∨ !o.active then s
      else match permTile o.runs o.sent with
        | none => s
        | some (r, k) =>
          let a := r.src + 2048 * k
          match permPort o j r.pkg with
          | none => s.failOp j p n colERoute
          | some port =>
            if s.colAccess p a ≠ 0 then (s.colRefuse p a (s.colAccess p a)).failOp j p n (s.colAccess p a)
            else if !s.serviceNow j p readTile a then s.serviceHold j p a
            else
              let s := (s.meter p readTile a).modOp j p n fun o => { o with sent := o.sent + 1 }
              s.colOut j p n port r.pkg ⟨0x24, s.inSaggar a, false, 0, 0, r.dst + 2048 * k, 0, n + 0xFF * 2 ^ 11, tilePayload (s.tile a)⟩

/-- A PERM_DATA packet that has reached this member: written, or passed on towards its final member. -/
def takePerm (port v : Nat) (q : LanePkt) (o : ColOp) (s : State) : State :=
  let j := port / 8
  let p := s.vcPolder port v
  let n := q.aux % 2048
  let fin := bitsOf q.aux 18 11
  let a := q.dst % 2 ^ 44
  if fin ≠ 0xFF ∧ fin ≠ o.self then (s.laneTake port v).colSend j p n (o.ahead 1) 0 { q with lepoch := 0 }
  else if fin = 0xFF ∧ (o.kind ≠ 3 ∨ !o.active) then s
  else if s.colAccess p a ≠ 0 then ((s.laneTake port v).colRefuse p a (s.colAccess p a)).failOp j p n (s.colAccess p a)
  else if !s.serviceNow j p writeTile a then s.serviceHold j p a
  else
    let s := (s.laneTake port v).colPut p a (payloadTile q.payload)
    if fin = 0xFF then
      (s.modOp j p n fun o => { o with came := o.came + 1 }).laneReply port v q 0x25 n 1 false []
    else
      ((s.modOp j p n fun o => { o with fixing := o.fixing - 1 }).bump (Reg.COL_CNT_REPAIR_TILES_COUNT j) 1).repaired p a

end State

/-- CONTRIBUTION_PULL (R458, R459): the next tile of a started entry, in a slot of its core that owns ROUTE. -/
def execContributionPull (ce polder op entry : Nat) (s : State) : Host.Outcome State Fault Refusal :=
  match s.colOp ce polder op with
  | none => .next s
  | some o =>
    match o.pulls[entry]? with
    | none => .next s
    | some e =>
      let pos := SMap.get (fun _ => 0) o.pos entry
      let t := (e.tile + pos) % 192
      if o.kind ≠ 1 ∨ o.code ≠ 0 ∨ !o.started.contains entry ∨ e.tiles ≤ pos ∨ !s.ownsRoute e.core e.route ∨ s.tilePending e.core t then .next s
      else if s.routeQuarantined (s.route (State.dieOf e.core) e.route) then .next (s.failOp ce polder op lnkEQuarantine)
      else if s.getF (Reg.COL_SHARE_CONTRIB ce polder) ≤ s.contribUsed ce polder then
        .next (s.bumpFree (Reg.COL_CNT_CONTRIB_FULL_COUNT ce))
      else if o.m ≤ 1 ∧ !s.resultRoom ce polder then .next s
      else .next (s.pullTile ce polder op entry o e)

/-- RED_PART (R460 to R463): a partial at the head of a VC, combined once its contribution is there. -/
def execRedPart (port vc : Nat) (s : State) : Host.Outcome State Fault Refusal :=
  match s.headOf port vc 0x20 with
  | none => .next s
  | some q =>
    let j := port / 8
    let p := s.vcPolder port vc
    let n := q.dst % 2048
    let t := q.dst / 2048 % 16384
    match s.stepCheck j p n 1 vc (q.aux % 2 ^ 32) with
    | .drop stale => .next (s.colDrop port vc stale)
    | .wait => .next s
    | .take o =>
      match SMap.get (fun _ => none) o.contrib t with
      | none => .next s
      | some c =>
        if o.ownerOf t = o.self ∧ !s.resultRoom j p then .next s
        else .next (s.takePartial port vc n t (q.aux / 2 ^ 32 % 256) o c ⟨State.payloadTile q.payload, q.isSealed, 0⟩)

/-- RED_RESULT (R460, R462, R463): a result at the head of a VC enters the result buffer and is passed on. -/
def execRedResult (port vc : Nat) (s : State) : Host.Outcome State Fault Refusal :=
  match s.headOf port vc 0x21 with
  | none => .next s
  | some q =>
    let j := port / 8
    let p := s.vcPolder port vc
    let n := q.dst % 2048
    let t := q.dst / 2048 % 16384
    match s.stepCheck j p n 1 vc (q.aux % 2 ^ 32) with
    | .drop stale => .next (s.colDrop port vc stale)
    | .wait => .next s
    | .take o =>
      if o.owner then .next (s.colDrop port vc false)
      else if !s.resultRoom j p then .next s
      else
        let c : ColTile := ⟨State.payloadTile q.payload, q.isSealed, 0⟩
        let s := (s.laneTake port vc).modOp j p n fun o => { o with results := SMap.set (fun _ => none) o.results t (some c) }
        .next ((o.downOf t).foldl (fun s m => s.colSend j p n m (o.runOf t) (State.colPkt 0x21 n t o.step (q.aux / 2 ^ 32 % 256 + 1) c)) s)

/-- DIGEST (R465): this member's own record is sent, or one at the head of a VC is taken and passed on. -/
def execDigestRec (src : ColFrom) (s : State) : Host.Outcome State Fault Refusal :=
  match src with
  | .own ce polder op _ => .next (s.ownDigest ce polder op)
  | .lane port vc =>
    match s.headOf port vc 0x22 with
    | none => .next s
    | some q =>
      let j := port / 8
      let p := s.vcPolder port vc
      let n := q.dst % 2048
      let step := q.aux % 2 ^ 32
      match s.colOp j p n with
      | none => .next (s.colDrop port vc false)
      | some o =>
        if o.kind ≠ 1 ∨ o.vc ≠ vc then .next (s.colDrop port vc false)
        else if o.step < step then .next s
        else if !State.wantsDigest o step then .next (s.colDrop port vc true)
        else .next ((s.laneTake port vc).takeDigest j p n
          ⟨step, q.aux / 2 ^ 32 % 256, (List.range 16).map fun k => BitVec.ofNat 64 (numAt q.payload (8 * k) 8)⟩)

/-- GATHER_DATA (R468): the owner's next tile is read and sent, or a tile at the head of a VC is written and passed on. -/
def execGatherData (src : ColFrom) (s : State) : Host.Outcome State Fault Refusal :=
  match src with
  | .own ce p n t =>
    (match s.colOp ce p n with
    | none => .next s
    | some o =>
      let a := o.src + 2048 * t
      if o.kind ≠ 2 ∨ o.code ≠ 0 ∨ o.tiles ≤ t ∨ o.ownerOf t ≠ o.self ∨ o.done.contains t then .next s
      else if s.colAccess p a ≠ 0 then .next ((s.colRefuse p a (s.colAccess p a)).failOp ce p n (s.colAccess p a))
      else if !s.serviceNow ce p readTile a ∨ !s.serviceNow ce p writeTile (o.dest + 2048 * t) then .next (s.serviceHold ce p a)
      else
        let s := s.meter p readTile a
        .next (s.gatherTile ce p n t o ⟨s.tile a, s.inSaggar a, 0⟩))
  | .lane port vc =>
    match s.headOf port vc 0x23 with
    | none => .next s
    | some q =>
      let j := port / 8
      let p := s.vcPolder port vc
      let n := q.dst % 2048
      let t := q.dst / 2048 % 16384
      match s.stepCheck j p n 2 vc (q.aux % 2 ^ 32) with
      | .drop stale => .next (s.colDrop port vc stale)
      | .wait => .next s
      | .take o =>
        if s.colAccess p (o.dest + 2048 * t) = 0 ∧ !s.serviceNow j p writeTile (o.dest + 2048 * t) then
          .next (s.serviceHold j p (o.dest + 2048 * t))
        else .next ((s.laneTake port vc).gatherTile j p n t o ⟨State.payloadTile q.payload, q.isSealed, 0⟩)

/-- PERM_DATA (R466, R470): this package's operation sends its next tile, or a tile at the head of a VC is written or passed on. -/
def execPermData (src : ColFrom) (s : State) : Host.Outcome State Fault Refusal :=
  match src with
  | .own ce polder op _ => .next (s.sendPerm ce polder op)
  | .lane port vc =>
    match s.headOf port vc 0x24 with
    | none => .next s
    | some q =>
      match s.colOp (port / 8) (s.vcPolder port vc) (q.aux % 2048) with
      | none => .next (s.colDrop port vc false)
      | some o => if o.vc ≠ vc then .next (s.colDrop port vc false) else .next (s.takePerm port vc q o)

/-- PERM_ACK (R470). -/
def execPermAck (port vc : Nat) (s : State) : Host.Outcome State Fault Refusal :=
  match s.headOf port vc 0x25 with
  | none => .next s
  | some q => .next ((s.laneTake port vc).modOp (port / 8) (s.vcPolder port vc) (q.dst % 2048) fun o =>
      { o with acked := o.acked + q.aux % 2 ^ 32 })

end Sys2Proof.Machine
end

