-- ==== Sys2Proof/Machine/Media.lean ====
section
/-! DEFINITION. What the media front-ends compute: the options they take (R262 to R264), the shaping of pictures (R271) and sound
(R272), text and tokens (R273, R275), and the tiles of a sample by unit (R225, R277). What the decoders of the standards that the
spec names find in a bitstream stands in Config (log 27). -/

namespace Sys2Proof.Machine

/-! ### Bitstreams (R262 to R264) -/

/-- What kind of sample: 0 picture or video, 1 sound, 2 text. -/
def sdGroup (d : List Byte) : Nat := if sdKind d ≤ 4 then 0 else if sdKind d ≤ 8 then 1 else 2

/-- PCM samples of s16 or s24. -/
def sdRaw (d : List Byte) : Bool := sdKind d == 7 || sdKind d == 8

/-- Bytes of a PCM sample. -/
def pcmBytes (d : List Byte) : Nat := if sdKind d = 7 then 2 else 3

/-- Samples of each channel that `len` bytes of PCM hold. -/
def pcmLen (d : List Byte) (len : Nat) : Nat := len / (pcmBytes d * max 1 (sdPcm d % 256))

/-- What a bitstream of `len` bytes gives, of which `src` can be read; PCM and text have no headers. -/
def infoOf (d src : List Byte) : Config.MediaInfo :=
  let i := Config.mediaInfo (sdKind d) src
  if sdRaw d then
    { i with header := true, broken := false, comps := sdPcm d % 256, bits := 8 * pcmBytes d, rate := rateHz (sdPcm d / 256)
             frames := pcmLen d (sdLen d) }
  else i

/-- Whether R262 lists a sample's coding options. Of a PNG's ancillary chunks only those of an animation count against it (log 27). -/
def optionsListed (d : List Byte) (i : Config.MediaInfo) : Bool :=
  let depth10 := i.bits == 8 || i.bits == 10
  match sdKind d with
  | 1 => decide (i.form ≤ 1) && i.bits == 8 && (i.comps == 1 || (i.comps == 3 && decide (i.chroma ≤ 2)))
  | 2 => i.form == 0 && decide (1 ≤ i.bits ∧ i.bits ≤ 16)
  | 3 => i.form == 0 && i.profile == 0 && depth10 && i.chroma == 2 && decide (i.level ≤ 51)
  | 4 => i.form == 0 && (i.profile == 1 || i.profile == 2) && depth10 && i.chroma == 2 && decide (i.level ≤ 51) && !i.high
  | 5 => i.form == 0 && decide (8 ≤ i.bits ∧ i.bits ≤ 24) && decide (1 ≤ i.comps ∧ i.comps ≤ 8) && decide (i.rate ≤ 192000)
  | 6 => i.form == 0 && (i.comps == 1 || i.comps == 2)
  | 7 => decide (1 ≤ i.comps ∧ i.comps ≤ 8)
  | 8 => decide (1 ≤ i.comps ∧ i.comps ≤ 8)
  | _ => true

/-- A big-endian number in bytes. -/
def numBE (l : List Byte) (o n : Nat) : Nat := numLE ((l.drop o).take n).reverse

/-- Whether the cyclic codes of a PNG's chunks hold, from a chunk on (R264). -/
def pngChunksOk : Nat → List Byte → Bool
  | 0, _ => true
  | n + 1, l =>
    let len := numBE l 0 4
    if l.length < len + 12 then true
    else (crc32Png ((l.drop 4).take (len + 4))).toNat == numBE l (len + 8) 4 && pngChunksOk n (l.drop (len + 12))

/-- Whether the cyclic codes of a FLAC stream's frames hold (R264). -/
def flacFramesOk (src : List Byte) (parts : List (Nat × Nat)) : Bool :=
  parts.all fun f => (crc16Flac ((src.drop f.1).take (f.2 - 2))).toNat == numBE src (f.1 + f.2 - 2) 2

/-- Whether a bitstream breaks its standard, or a cyclic code fails, or a video has no random-access point at its beginning or not the
frames it is asked for (R263, R264). -/
def streamBroken (d src : List Byte) (i : Config.MediaInfo) : Bool :=
  match sdKind d with
  | 2 => i.broken || !pngChunksOk src.length (src.drop 8)
  | 3 => i.broken || !i.entry || decide (i.frames < sdFirst d + sdFrames d)
  | 4 => i.broken || !i.entry || decide (i.frames < sdFirst d + sdFrames d)
  | 5 => i.broken || !flacFramesOk src i.parts
  | 9 => false
  | _ => i.broken

/-! ### Pictures (R271) -/

/-- Output channels of a frame. -/
def pfChans (p : List Byte) : Nat := if pfRgb p then 3 else 1

/-- The crop, clamped to the source: X, Y, width, height. -/
def cropOf (p : List Byte) (i : Config.MediaInfo) : Nat × Nat × Nat × Nat :=
  if pfCrop p 2 = 0 then (0, 0, i.width, i.height)
  else
    let x := min (pfCrop p 0) (i.width - 1)
    let y := min (pfCrop p 1) (i.height - 1)
    (x, y, min (pfCrop p 2) (i.width - x), min (pfCrop p 3) (i.height - y))

/-- Bits of a source sample: a palette gives 8. -/
def pixelBits (i : Config.MediaInfo) : Nat := match i.colours with
  | .indexed _ => 8
  | _ => i.bits

/-- The weights of red and blue in luma, by the matrix coefficients' code; BT.709 where none are signalled (R271 step 1). -/
def lumaWeights (m : Nat) : Option (Rat × Rat) :=
  match m with
  | 1 => some (2126 / 10000, 722 / 10000)
  | 2 => some (2126 / 10000, 722 / 10000)
  | 4 => some (30 / 100, 11 / 100)
  | 5 => some (299 / 1000, 114 / 1000)
  | 6 => some (299 / 1000, 114 / 1000)
  | 7 => some (212 / 1000, 87 / 1000)
  | 9 => some (2627 / 10000, 593 / 10000)
  | _ => none

/-- Channel `k` of RGB from luma and two colour differences (R271 step 1): JPEG by the full-range BT.601 matrix of JFIF, video by its
own coefficients; nothing is clipped (log 27). -/
def toRgb (d : List Byte) (i : Config.MediaInfo) (a b c k : Nat) : Rat :=
  let half : Rat := (2 ^ (i.bits - 1) : Nat)
  let unit : Rat := (2 ^ i.bits - 1 : Nat)
  let step : Rat := (2 ^ (i.bits - 8) : Nat)
  let jpeg := sdKind d == 1
  let full := jpeg || i.full
  let y : Rat := if full then (a : Nat) else ((a : Nat) - 16 * step) * unit / (219 * step)
  let diff (v : Nat) : Rat := if full then (v : Nat) - half else ((v : Nat) - half) * unit / (224 * step)
  match lumaWeights (if jpeg then 5 else i.matrix) with
  | some (kr, kb) =>
    let red := y + 2 * (1 - kr) * diff c
    let blue := y + 2 * (1 - kb) * diff b
    if k = 0 then red else if k = 2 then blue else (y - kr * red - kb * blue) / (1 - kr - kb)
  | none => Config.colour i.matrix i.bits a b c k

/-- A source sample of one output channel, counted over all frames (R271 steps 1 and 2). -/
def srcSample (d src : List Byte) (p : List Byte) (i : Config.MediaInfo) (c x y : Nat) : Rat :=
  let px (k : Nat) : Nat := Config.pixel (sdKind d) src (sdFirst d + c / pfChans p) k x y
  let rgb (k : Nat) : Rat := match i.colours with
    | .grey => (px 0 : Nat)
    | .ycc => toRgb d i (px 0) (px 1) (px 2) k
    | .rgb => (px k : Nat)
    | .indexed pal =>
      let e := pal.getD (px 0) (0, 0, 0)
      ((if k = 0 then e.1 else if k = 1 then e.2.1 else e.2.2 : Nat) : Rat)
  let own := match i.colours with
    | .grey => true
    | .ycc => true
    | _ => false
  if pfRgb p then rgb (c % 3)
  else if own then (px 0 : Nat)
  else 299 / 1000 * rgb 0 + 587 / 1000 * rgb 1 + 114 / 1000 * rgb 2

/-- The two source positions and the weight of the second that bilinear resizing takes for output position `o` of `n` from `w`
source positions, pixel centres aligned. -/
def bilinear (o n w : Nat) : Nat × Nat × Rat :=
  let q : Rat := ((2 * o + 1 : Nat) : Rat) * (w : Nat) / ((2 * max 1 n : Nat) : Rat) - 1 / 2
  let q := if q < 0 then 0 else if (w - 1 : Nat) < q then ((w - 1 : Nat) : Rat) else q
  let k := q.floor.toNat
  (k, min (k + 1) (w - 1), q - (k : Nat))

/-- The source positions that output position `o` of `n` covers of `w`, each with how much of it is covered. -/
def covered (o n w : Nat) : List (Nat × Rat) :=
  let lo : Rat := ((o * w : Nat) : Rat) / ((max 1 n : Nat) : Rat)
  let hi : Rat := (((o + 1) * w : Nat) : Rat) / ((max 1 n : Nat) : Rat)
  (List.range w).filterMap fun k =>
    let a := max lo (k : Nat)
    let b := min hi ((k + 1 : Nat) : Rat)
    if a < b then some (k, b - a) else none

/-- One sample of the resized picture (R271 steps 3 and 4). -/
def resized (d src p : List Byte) (i : Config.MediaInfo) (c x y : Nat) : Rat :=
  let (cx, cy, cw, ch) := cropOf p i
  let at' (u v : Nat) : Rat := srcSample d src p i c (cx + u) (cy + v)
  if pfArea p then
    let xs := covered x (pfOutW p) cw
    let ys := covered y (pfOutH p) ch
    let sum := ys.foldl (fun a v => xs.foldl (fun a u => a + u.2 * v.2 * at' u.1 v.1) a) 0
    let area := ys.foldl (fun a v => xs.foldl (fun a u => a + u.2 * v.2) a) 0
    if area = 0 then 0 else sum / area
  else
    let (x0, x1, wx) := bilinear x (pfOutW p) cw
    let (y0, y1, wy) := bilinear y (pfOutH p) ch
    (1 - wy) * ((1 - wx) * at' x0 y0 + wx * at' x1 y0) + wy * ((1 - wx) * at' x0 y1 + wx * at' x1 y1)

/-- A normalised value rounded once into OUT_FMT. It is computed with at least 24 significant bits: the exact value may be off
by a free part of at most 2^-24 of itself (log 29). -/
def roundShaped (fmt : Nat) (v : FV) (r : Nat) : Nat :=
  let err : Rat := (((r % 257 : Nat) : Int) - 128 : Int)
  let f := if fmt = 0 then fmtBf16 else fmtB16
  f.encode (f.convert (v.mul (FV.ofRat (1 + err * pow2 (-31))))).1

/-- A value normalised by MEAN and INV_STD of a channel (R271 step 5, R272 step 5). -/
def normalise (p : List Byte) (k : Nat) (v : Rat) (r : Nat) : Nat :=
  roundShaped (pfFmt p) (((FV.ofRat v).sub (pfMean p k)).mul (pfInvStd p k)) r

/-- One value of a shaped picture (R271 step 5). -/
def shapedPixel (d src p : List Byte) (i : Config.MediaInfo) (c x y r : Nat) : Nat :=
  normalise p (c % pfChans p) (resized d src p i c x y / ((2 ^ pixelBits i - 1 : Nat) : Rat)) r

/-! ### Sound (R272) -/

/-- Sample `n` of a decoded sound: its channels averaged, scaled to [-1, 1) (R272 step 1). -/
def monoSample (d src : List Byte) (i : Config.MediaInfo) (n : Nat) : Rat :=
  let ch := max 1 i.comps
  let point (k : Nat) : Int :=
    if sdRaw d then signed i.bits (numAt src ((n * ch + k) * pcmBytes d) (pcmBytes d)) else Config.soundPoint (sdKind d) src n k
  if i.frames ≤ n then 0
  else (((List.range ch).foldl (fun a k => a + point k) (0 : Int) : Int) : Rat) / ((ch * 2 ^ (i.bits - 1) : Nat) : Rat)

/-- Samples of a sound after resampling: at the profile's own rate it is as it is. -/
def soundLen (d src p : List Byte) : Nat :=
  let i := infoOf d src
  if i.rate = rateHz (pfRate p) then i.frames else Config.resampleLen i.rate (rateHz (pfRate p)) i.frames

/-- Sample `n` of a resampled sound: from `rate` to the profile's rate, a polyphase filter over the samples with zeros between them. -/
def soundSample (d src p : List Byte) (n : Nat) : Rat :=
  let i := infoOf d src
  let out := rateHz (pfRate p)
  if soundLen d src p ≤ n then 0
  else if i.rate = out then monoSample d src i n
  else
    let g := max 1 (Nat.gcd i.rate out)
    let at' := n * (i.rate / g) + Config.resampleDelay i.rate out
    (Config.resampleTaps i.rate out).zipIdx.foldl (fun a h =>
      if h.2 ≤ at' ∧ (at' - h.2) % (out / g) = 0 then a + h.1 * monoSample d src i ((at' - h.2) / (out / g)) else a) 0

/-- Frames of a sound (R272 step 2). -/
def soundFrames (d src p : List Byte) : Nat := ceilDiv (soundLen d src p) (max 1 (pfHop p))

/-- A windowed sample of frame `t`: periodic Hann over WIN points (R272 steps 2 and 3). -/
def windowed (d src p : List Byte) (t j : Nat) : Rat :=
  if j < pfWin p then
    soundSample d src p (t * pfHop p + j) * ((1 - approxCosTurn (((j : Nat) : Rat) / ((max 1 (pfWin p) : Nat) : Rat))) / 2)
  else 0

/-- The power of bin `b` of frame `t`; the sine of a turn is the cosine a quarter earlier. -/
def powerBin (d src p : List Byte) (t b : Nat) : Rat :=
  let n := 2 ^ pfFft p
  let turn (j : Nat) : Rat := ((b * j : Nat) : Rat) / (n : Nat)
  let re := (List.range (pfWin p)).foldl (fun a j => a + windowed d src p t j * approxCosTurn (turn j)) 0
  let im := (List.range (pfWin p)).foldl (fun a j => a + windowed d src p t j * approxCosTurn (turn j - 1 / 4)) 0
  re * re + im * im

def melOf (f : Rat) : Rat := 2595 * approxLog10 (1 + f / 700)
def melInv (m : Rat) : Rat := 700 * (approxPow10 (m / 2595) - 1)

/-- Edge `k` of the mel filters in Hz: MELS + 2 edges equally spaced on the mel scale (R272 step 4). -/
def melEdge (p : List Byte) (k : Nat) : Rat :=
  let lo := melOf (pfLo p : Nat)
  let hi := melOf (pfHi p : Nat)
  melInv (lo + (hi - lo) * (k : Nat) / ((pfMels p + 1 : Nat) : Rat))

/-- The triangular filter `k` at a frequency: 1 at its middle edge, 0 at its outer edges (log 27). -/
def melWeight (p : List Byte) (k : Nat) (f : Rat) : Rat :=
  let a := melEdge p k
  let b := melEdge p (k + 1)
  let c := melEdge p (k + 2)
  if f ≤ a ∨ c ≤ f then 0 else if f ≤ b then (f - a) / (b - a) else (c - f) / (c - b)

/-- Mel energy `k` of frame `t`. -/
def melEnergy (d src p : List Byte) (t k : Nat) : Rat :=
  let n := 2 ^ pfFft p
  (List.range (n / 2 + 1)).foldl (fun a b =>
    a + powerBin d src p t b * melWeight p k (((b * rateHz (pfRate p) : Nat) : Rat) / (n : Nat))) 0

/-- One value of a shaped sound (R272 step 5); columns behind the last frame hold +0. -/
def shapedSound (d src p : List Byte) (t k r : Nat) : Nat :=
  if soundFrames d src p ≤ t then 0
  else normalise p 0 (approxLn (max (melEnergy d src p t k) (pow2 (-24)))) r

/-! ### Text (R273) -/

/-- Continuation bytes a lead byte asks for, with the range of the first of them (RFC 3629). -/
def utf8Lead (b : Nat) : Option (Nat × Nat × Nat) :=
  if b < 0x80 then some (0, 0, 0)
  else if 0xC2 ≤ b ∧ b ≤ 0xDF then some (1, 0x80, 0xBF)
  else if b = 0xE0 then some (2, 0xA0, 0xBF)
  else if b = 0xED then some (2, 0x80, 0x9F)
  else if 0xE1 ≤ b ∧ b ≤ 0xEF then some (2, 0x80, 0xBF)
  else if b = 0xF0 then some (3, 0x90, 0xBF)
  else if b = 0xF4 then some (3, 0x80, 0x8F)
  else if 0xF1 ≤ b ∧ b ≤ 0xF3 then some (3, 0x80, 0xBF)
  else none

/-- The continuation bytes that follow a lead byte, as many as are well formed. -/
def utf8Tail : Nat → Nat → Nat → List Nat → List Nat
  | 0, _, _, _ => []
  | _, _, _, [] => []
  | n + 1, lo, hi, b :: t => if lo ≤ b ∧ b ≤ hi then b :: utf8Tail n 0x80 0xBF t else []

/-- Code points of bytes; `none` for an ill-formed sequence, taken as the longest beginning of a well-formed one (log 28). -/
def utf8Decode : Nat → List Nat → List (Option Nat)
  | 0, _ => []
  | _, [] => []
  | fuel + 1, b :: t =>
    match utf8Lead b with
    | none => none :: utf8Decode fuel t
    | some (n, lo, hi) =>
      let tail := utf8Tail n lo hi t
      let rest := utf8Decode fuel (t.drop tail.length)
      if tail.length < n then none :: rest
      else
        let head := if n = 0 then b else b % 2 ^ (6 - n)
        some (tail.foldl (fun v c => v * 64 + c % 64) head) :: rest

/-- The UTF-8 bytes of a code point. -/
def utf8Encode (c : Nat) : List Nat :=
  if c < 0x80 then [c]
  else if c < 0x800 then [0xC0 + c / 64, 0x80 + c % 64]
  else if c < 0x10000 then [0xE0 + c / 4096, 0x80 + c / 64 % 64, 0x80 + c % 64]
  else [0xF0 + c / 262144, 0x80 + c / 4096 % 64, 0x80 + c / 64 % 64, 0x80 + c % 64]

/-- Steps 1 and 2: the code points of a text; `none` when it is ill-formed and not to be replaced. -/
def textPoints (p src : List Byte) : Option (List Nat) :=
  let cs := utf8Decode src.length (src.map (·.toNat))
  let cs := if cs.head? = some (some 0xFEFF) then cs.tail else cs
  if pfReplace p then some (cs.map fun c => c.getD 0xFFFD)
  else if cs.all Option.isSome then some (cs.map fun c => c.getD 0) else none

/-- The parts of a Hangul syllable, and the syllable of two parts (The Unicode Standard, 3.12). -/
def hangulParts (c : Nat) : Option (List Nat) :=
  if 0xAC00 ≤ c ∧ c ≤ 0xD7A3 then
    let k := c - 0xAC00
    some ([0x1100 + k / 588, 0x1161 + k % 588 / 28] ++ if k % 28 = 0 then [] else [0x11A7 + k % 28])
  else none

def hangulJoin (a b : Nat) : Option Nat :=
  if 0x1100 ≤ a ∧ a ≤ 0x1112 ∧ 0x1161 ≤ b ∧ b ≤ 0x1175 then some (0xAC00 + ((a - 0x1100) * 21 + (b - 0x1161)) * 28)
  else if 0xAC00 ≤ a ∧ a ≤ 0xD7A3 ∧ (a - 0xAC00) % 28 = 0 ∧ 0x11A8 ≤ b ∧ b ≤ 0x11C2 then some (a + (b - 0x11A7))
  else none

/-- A code point put before others in canonical order: behind the combining marks of lower classes. -/
def putMark (c : Nat) : List Nat → List Nat
  | [] => [c]
  | d :: t =>
    if Config.combining c ≠ 0 ∧ Config.combining d ≠ 0 ∧ Config.combining d < Config.combining c then d :: putMark c t
    else c :: d :: t

/-- What two code points compose to. -/
def composed (a b : Nat) : Option Nat := match hangulJoin a b with
  | some c => some c
  | none => Config.composite a b

/-- Composition behind a starter, with the code points after it that did not compose. -/
def composeOn (starter : Nat) (kept : List Nat) : List Nat → List Nat
  | [] => starter :: kept
  | c :: t =>
    let k := Config.combining c
    let free := match kept.getLast? with
      | none => true
      | some d => decide (Config.combining d < k)
    match if free then composed starter c else none with
    | some x => composeOn x kept t
    | none => if k = 0 then starter :: kept ++ composeOn c [] t else composeOn starter (kept ++ [c]) t

/-- Composition of code points in canonical order. -/
def compose : List Nat → List Nat
  | [] => []
  | c :: t => if Config.combining c = 0 then composeOn c [] t else c :: compose t

/-- Step 3: NFC (1) or NFKC (2), by the forms' algorithm over the data of Unicode 15.1.0; ASCII is unchanged by either. -/
def normalised (form : Nat) (cs : List Nat) : List Nat :=
  if form = 0 ∨ cs.all (· < 0x80) then cs
  else
    let parts (c : Nat) : List Nat := match hangulParts c with
      | some l => l
      | none => (Config.decomposition (form == 2) c).getD [c]
    compose ((cs.flatMap parts).foldr putMark [])

/-- The code points with the property White_Space. -/
def whiteSpace (c : Nat) : Bool :=
  decide (9 ≤ c ∧ c ≤ 13) || decide (0x2000 ≤ c ∧ c ≤ 0x200A) ||
    [0x20, 0x85, 0xA0, 0x1680, 0x2028, 0x2029, 0x202F, 0x205F, 0x3000].contains c

/-- The class of a code point: 0 letter, 1 number, 2 space, 3 other. -/
def pointClass (c : Nat) : Nat :=
  if whiteSpace c then 2
  else if c < 0x80 then
    (if (0x41 ≤ c ∧ c ≤ 0x5A) ∨ (0x61 ≤ c ∧ c ≤ 0x7A) then 0 else if 0x30 ≤ c ∧ c ≤ 0x39 then 1 else 3)
  else match Config.category c with
    | .letter => 0
    | .mark => 0
    | .number => 1
    | .other => 3

/-- Maximal runs of one class. -/
def runsOf : List Nat → List (Nat × List Nat)
  | [] => []
  | c :: t =>
    match runsOf t with
    | (k, l) :: rest => if k = pointClass c then (k, c :: l) :: rest else (pointClass c, [c]) :: (k, l) :: rest
    | [] => [(pointClass c, [c])]

/-- A space U+0020 directly before a run that is no space run joins it. -/
def joinSpaces : List (Nat × List Nat) → List (Nat × List Nat)
  | (2, l) :: (k, m) :: rest =>
    if l.getLast? = some 0x20 then
      (if l.dropLast.isEmpty then [] else [(2, l.dropLast)]) ++ (k, 0x20 :: m) :: joinSpaces rest
    else (2, l) :: (k, m) :: joinSpaces rest
  | x :: rest => x :: joinSpaces rest
  | [] => []

/-- A number run cut into groups of at most three digits from its start; a joined space stays with the first. -/
def cutDigits (l : List Nat) : List (List Nat) :=
  let lead := if l.head? = some 0x20 then 1 else 0
  let first := l.take (lead + 3)
  first :: chunks 3 l.length (l.drop (lead + 3)) |>.filter (!·.isEmpty)

/-- Step 4: the pieces, as bytes. -/
def piecesOf (cs : List Nat) : List (List Nat) :=
  let groups := (joinSpaces (runsOf cs)).flatMap fun r => if r.1 = 1 then cutDigits r.2 else [r.2]
  groups.flatMap fun g =>
    let b := g.flatMap utf8Encode
    (chunks 256 b.length b).filter (!·.isEmpty)

/-- Rank of a pair of adjacent tokens: its merge's index. -/
def rankOf (merges : List (Nat × Nat)) (a b : Nat) : Option Nat := merges.findIdx? fun m => m == (a, b)

/-- The lowest rank among the adjacent pairs, leftmost first: its place and rank. -/
def bestPair (merges : List (Nat × Nat)) (l : List Nat) : Option (Nat × Nat) :=
  (List.range (l.length - 1)).foldl (fun (best : Option (Nat × Nat)) k =>
    match rankOf merges (l.getD k 0) (l.getD (k + 1) 0), best with
    | some r, some (_, q) => if r < q then some (k, r) else best
    | some r, none => some (k, r)
    | none, _ => best) none

/-- Step 5: merges, one at a time. -/
def bpe (merges : List (Nat × Nat)) : Nat → List Nat → List Nat
  | 0, l => l
  | n + 1, l =>
    match bestPair merges l with
    | none => l
    | some (k, r) => bpe merges n (l.take k ++ (256 + r) :: l.drop (k + 2))

/-- Steps 3 to 6: tokens, and whether any were dropped. -/
def tokensOf (merges : List (Nat × Nat)) (p : List Byte) (cs : List Nat) : List Nat × Bool :=
  let ts := (piecesOf (normalised (pfNorm p) cs)).flatMap fun l => bpe merges l.length l
  let ts := (if pfBos p then [pfBosId p] else []) ++ ts
  let room := if pfEos p then pfMaxTokens p - 1 else pfMaxTokens p
  (ts.take room ++ (if pfEos p then [pfEosId p] else []), decide (room < ts.length))

/-! ### A sample's tiles and record (R275, R277, R279, R280) -/

/-- The duration of a sound in ms (R276). -/
def soundMs (d src : List Byte) : Nat :=
  let i := infoOf d src
  i.frames * 1000 / max 1 i.rate

/-- Why a sample fails whose source could be read; 0 when it does not (R262 to R264, R273, R284). -/
def sampleStatus (p d src : List Byte) : Nat :=
  let i := infoOf d src
  let stream := if !optionsListed d i then mfeEFormat else if streamBroken d src i then mfeECorrupt else 0
  match sdGroup d with
  | 0 =>
    if (sdKind d ≤ 2 ∧ (16384 < i.width ∨ 16384 < i.height)) ∨ 1024 < pfOutW p + 2 * pfMargin p ∨ pfOutH p = 0 ∨ 16384 < pfOutH p ∨
        32 < pfMargin p then mfeELimit
    else stream
  | 1 =>
    if 128 < pfMels p ∨ pfMels p = 0 ∨ pfFft p < 8 ∨ 11 < pfFft p ∨ 2 ^ pfFft p < pfWin p ∨ pfHop p = 0 ∨ pfWin p < pfHop p ∨
        rateHz (pfRate p) < 2 * pfHi p ∨ 1024 < pfOutW p + 2 * pfMargin p ∨ 32 < pfMargin p then mfeELimit
    else stream
  | _ =>
    if pfMaxTokens p = 0 ∨ 65536 < pfMaxTokens p then mfeELimit
    else if (textPoints p src).isNone then mfeEUtf8 else 0

/-- A plane tile (R225, R279): `v n` is the value at column n of the row. -/
def planeTile (p : List Byte) (v : Nat → Nat) : Tile :=
  let ws := (List.range 1024).map fun n =>
    if pfMargin p ≤ n ∧ n < pfMargin p + pfOutW p then v (n - pfMargin p) else 0
  Tile.make (packTile (pfFmt p) ws) (mkTag (pfFmt p) false 0 0 0 0)

/-- A token tile (R275). -/
def tokenTile (p : List Byte) (ts : List Nat) (u : Nat) : Tile :=
  Tile.make ((List.range 512).flatMap fun k => bytesLE 4 (ts.getD (512 * u + k) (pfPadId p))) (mkTag 0 false 0 0 2 0)

/-- Unit `u` of a sample; `fr` are free values. -/
def unitTile (merges : List (Nat × Nat)) (p d src : List Byte) (u : Nat) (fr : Nat → Nat) : Tile :=
  match sdGroup d with
  | 0 =>
    let h := max 1 (pfOutH p)
    planeTile p fun x => shapedPixel d src p (infoOf d src) (u / h) x (u % h) (fr x)
  | 1 => planeTile p fun x => shapedSound d src p x (u % max 1 (pfMels p)) (fr x)
  | _ => tokenTile p (tokensOf merges p ((textPoints p src).getD [])).1 u

/-- Units of a sample. -/
def unitsOf (p d : List Byte) : Nat :=
  match sdGroup d with
  | 0 => (if sdKind d ≤ 2 then 1 else sdFrames d) * pfChans p * pfOutH p
  | 1 => pfMels p
  | _ => ceilDiv (pfMaxTokens p) 512

/-- The 64-byte sample record of a filled position (R280). A failed sample drops no frames or tokens and skips no grain (log 30). -/
def sampleRecord (merges : List (Nat × Nat)) (p d src : List Byte) (idx status tide : Nat) : List Byte :=
  let i := infoOf d src
  let text := tokensOf merges p ((textPoints p src).getD [])
  let ok := decide (status = 0)
  let g := sdGroup d
  let trunc := ok && ((g == 1 && decide (pfOutW p < soundFrames d src p)) || (g == 2 && text.2))
  let grain := ok && g == 0 && i.grain
  let (c, h, w) := match g with
    | 0 => ((if sdKind d ≤ 2 then 1 else sdFrames d) * pfChans p, pfOutH p, pfOutW p)
    | 1 => (1, pfMels p, min (soundFrames d src p) (pfOutW p))
    | _ => (0, 0, 0)
  let (sw, sh) := if g == 0 && i.header then (i.width, i.height) else (0, 0)
  let measure := if g = 1 then (if i.header then soundMs d src else 0) else if g = 2 ∧ ok then text.1.length else 0
  bytesLE 8 (sdId d) ++ bytesLE 1 (if ok then 1 else 2) ++ bytesLE 1 (b2n trunc + 2 * b2n grain) ++ bytesLE 2 status ++
    bytesLE 2 c ++ bytesLE 2 h ++ bytesLE 2 w ++ bytesLE 2 sw ++ bytesLE 2 sh ++ List.replicate 2 0 ++ bytesLE 4 measure ++
    bytesLE 4 idx ++ bytesLE 8 tide ++ List.replicate 24 0

end Sys2Proof.Machine
end

