-- ==== Sys2Proof/Machine/Mfe.lean ====
section
/-! DEFINITION. The media front-ends' commands (ch 7): the ring poll (R266), slices (R260), landing (R279, R280), the tokenizer
table (R274), RUN with its checks (R278), MARK and REWIND (R285). -/

namespace Sys2Proof.Machine

namespace State

/-! ### Fetching (R261, R269, R372) -/

/-- Whether a media front-end may read an address for a polder: the host window, or a channel of its own die's stacks that the
polder owns and that is listed for it. -/
def mfeReach (s : State) (m p a : Nat) : Bool :=
  match region a with
  | .host => true
  | .dram st ch => st / 4 == m && s.chanOwner st ch == p && bitOf (s.getF (Reg.MFE_FETCH_CHANS_CHANS m p (st % 4))) ch
  | _ => false

/-- Bytes from `a` that can be read, at most `n`: reading stops at the first tile that cannot. -/
def mfeBytes (s : State) (m p a n : Nat) : List Byte :=
  let tiles := (List.range ((a % 2048 + n + 2047) / 2048)).takeWhile fun k => s.mfeReach m p (a / 2048 * 2048 + 2048 * k)
  s.bytes a (min n (2048 * tiles.length - a % 2048))

/-- A fetch looks the slices up, and a channel of another owner counts as a dike failure (R372). -/
def mfeFetch (m p a n : Nat) (s : State) : State :=
  (List.range ((a % 2048 + n + 2047) / 2048)).foldl (fun s k =>
    let t := a / 2048 * 2048 + 2048 * k
    if s.mfeReach m p t then s.meter p readTile t
    else match region t with
      | .dram st ch => if st / 4 = m ∧ s.chanOwner st ch ≠ p then s.dikeFail 1 p t else s
      | _ => s) s

/-- The source bytes of a sample that can be read. -/
def sourceOf (s : State) (m p : Nat) (d : List Byte) : List Byte := s.mfeBytes m p (sdAddr d % 2 ^ 44) (sdLen d)

/-! ### Classes (R276) -/

/-- Whether a class takes a sample. A measure from headers needs the headers among the bytes that can be read; bit 0 of KINDS is VALID
and stands for no KIND. -/
def classTakes (d src : List Byte) (c : MfeClass) : Bool :=
  let i := infoOf d src
  let inside (v k : Nat) : Bool := decide (bitsOf c.dimMin (k + 15) k ≤ v) && decide (v ≤ bitsOf c.dimMax (k + 15) k)
  c.stream == sdStream d && sdKind d != 0 && bitOf c.kinds (sdKind d) &&
    (match sdGroup d with
    | 0 => i.header && inside i.width 0 && inside i.height 16
    | 1 => i.header && inside (soundMs d src) 0
    | _ => inside (sdLen d) 0)

/-- A failed sample counted and captured (R284). -/
def mfeFail (m p idx code : Nat) (s : State) : State :=
  let s := s.bump (Reg.MFE_CNT_FAILED_COUNT m p) 1
  if s.flag (Reg.MFE_ERR_LAST_VALID m p) then s
  else ((s.setF (Reg.MFE_ERR_LAST_VALID m p) 1).setF (Reg.MFE_ERR_LAST_CODE m p) code).setF (Reg.MFE_ERR_LAST_RING_IDX m p) idx

/-- Whether a set takes another sample. -/
def setOpen (c : MfeClass) (t : LandSet) : Bool :=
  t.cls == c.cls && t.phase == LandPhase.filling && decide (t.assigned < c.positions) && !t.closed

/-- The sets with a position given to a sample of a class: in its current buffer, or in a free one (R279, R283); `none` while
there is neither. -/
def givePosition (c : MfeClass) (close : Bool) (sets : List LandSet) : Option (List LandSet × Nat × Nat) :=
  match sets.find? (setOpen c) with
  | some t =>
    some (sets.map (fun u => if u = t then { u with assigned := u.assigned + 1, closed := close } else u), t.buf, t.assigned)
  | none =>
    ((List.range c.bufs).find? fun b => !sets.any fun t => t.cls == c.cls && t.buf == b).map fun b =>
      (sets ++ [⟨c.cls, b, .filling, [], 1, close, 0⟩], b, 0)

/-- Index of the next descriptor, its address and bytes. -/
def nextIdx (s : State) (m p : Nat) : Nat := s.getF (Reg.MFE_RING_IDX_NEXT m p)

def descAddr (s : State) (m p i : Nat) : Nat :=
  s.getF (Reg.MFE_RING_BASE_ADDR m p) + 64 + 32 * (i % 2 ^ s.getF (Reg.MFE_RING_CFG_LOG2_SIZE m p))

/-- Descriptors taken in index order, at most `n`, until one's class has no free buffer. -/
def takeSamples (m p : Nat) : Nat → State → State
  | 0, s => s
  | n + 1, s =>
    let i := s.nextIdx m p
    let a := s.descAddr m p i
    let d := s.mfeBytes m p a 32
    let s := s.mfeFetch m p a 32
    if d.length < 32 then s
    else
      let src := s.sourceOf m p d
      let whole := src.length == sdLen d
      let s := s.mfeFetch m p (sdAddr d % 2 ^ 44) (sdLen d)
      match (s.mfe m p).classes.find? (classTakes d src) with
      | none => takeSamples m p n ((s.mfeFail m p i (if whole then mfeENoclass else mfeEFetch)).setF (Reg.MFE_RING_IDX_NEXT m p) (i + 1))
      | some c =>
        match givePosition c (sdClose d) (s.mfe m p).sets with
        | none => (s.bump (Reg.MFE_CNT_BLOCKED_COUNT m p) (s.fr 0)).useFree 1
        | some (sets, b, k) =>
          takeSamples m p n ((s.modMfe m p fun x =>
            { x with sets := sets, flows := x.flows ++ [⟨i, d, src, whole, c.cls, b, k, [], false⟩] }).setF (Reg.MFE_RING_IDX_NEXT m p) (i + 1))

end State

/-- RING_POLL (R266): once per tick, a media front-end reads a running polder's ring header and takes descriptors up to TAIL. -/
def execRingPoll (mf polder : Nat) (s : State) : Host.Outcome State Fault Refusal :=
  if !s.flag (Reg.MFE_PCTL_RUN mf polder) ∨ (s.mfe mf polder).polled = some s.now then .next s
  else
    let a := s.getF (Reg.MFE_RING_BASE_ADDR mf polder)
    let h := s.mfeBytes mf polder a 64
    let s := (s.mfeFetch mf polder a 64).modMfe mf polder fun x => { x with polled := some s.now }
    let n := (numAt h 0 4 + 2 ^ 32 - s.nextIdx mf polder) % 2 ^ 32
    .next (if h.length < 64 then s else s.takeSamples mf polder (min n (2 ^ s.getF (Reg.MFE_RING_CFG_LOG2_SIZE mf polder))))

/-- MFE_SLICE_END (R260): the next of the 16 slices of a tide tick begins; the first begins with the tick. -/
def execMfeSliceEnd (mf : Nat) (s : State) : Host.Outcome State Fault Refusal :=
  .next { s with mfSlice := SMap.set (fun _ => 0) s.mfSlice mf (min 15 (SMap.get (fun _ => 0) s.mfSlice mf + 1)) }

namespace State

/-- Whether a media front-end works for a polder now: its slice is the polder's, and the polder's RUN is set (R260). -/
def mfeWorks (s : State) (m p : Nat) : Bool := s.sliceOwner m == p && s.flag (Reg.MFE_PCTL_RUN m p)

/-- A sample under way and its class. -/
def flowOf (s : State) (m p idx : Nat) : Option (Sample × MfeClass) :=
  match (s.mfe m p).flows.find? fun f => f.idx == idx with
  | none => none
  | some f => ((s.mfe m p).classes.find? fun c => c.cls == f.cls).map fun c => (f, c)

/-- The engine that decodes a sample: image, video, audio or text (R259). -/
def mfeEngine (d : List Byte) : Nat := if sdKind d ≤ 2 then 0 else if sdKind d ≤ 4 then 1 else if sdKind d ≤ 8 then 2 else 3

/-- Samples of a polder under way that were taken before one, in the order of the ring. -/
def earlier (s : State) (m p idx : Nat) : List Sample := (s.mfe m p).flows.takeWhile fun f => f.idx != idx

/-- Whether a sample is the one its engine works on (R259): no earlier one of the polder is in that engine. -/
def inEngine (s : State) (m p : Nat) (f : Sample) : Bool :=
  !(s.earlier m p f.idx).any fun g => mfeEngine g.desc == mfeEngine f.desc

/-- Whether tile `j` of map entry `e` is one of a sample's outputs. -/
def landsAt (f : Sample) (c : MfeClass) (e j : Nat) : Bool :=
  decide (e < c.entries) && decide (j < meTiles (c.entry f.buf f.pos e)) &&
    decide (meUnit (c.entry f.buf f.pos e) + j < unitsOf c.profile f.desc)

/-- A tile on its way into a core waits for the core's slot to own the route. -/
def landHold (m p : Nat) (s : State) : State := (s.bump (Reg.MFE_CNT_OUT_WAIT_COUNT m p) (s.fr 0)).useFree 1

/-- One landing tile written. -/
def land (m p : Nat) (e j : Nat) (t : Tile) (s : State) : State :=
  (s.putTile (tileAddr (meCore e) ((meTile e + j) % 192)) t).bump (Reg.MFE_CNT_TILES_COUNT m p) 1

end State

namespace State

/-- Why a sample fails; 0 when it does not (R269, R284). -/
def flowStatus (f : Sample) (c : MfeClass) : Nat :=
  if !f.whole then mfeEFetch else sampleStatus c.profile f.desc f.src

/-- Whether every output tile of a sample has landed. -/
def allLanded (f : Sample) (c : MfeClass) : Bool :=
  (List.range c.entries).all fun e => (List.range (meTiles (c.entry f.buf f.pos e))).all fun j =>
    !landsAt f c e j || f.landed.contains (e, j)

/-- Whether the shaper has done with a sample: its tiles have landed, or it has failed. -/
def shaped (s : State) (m p : Nat) (f : Sample) : Bool :=
  f.failed || (match (s.mfe m p).classes.find? fun c => c.cls == f.cls with
    | some c => allLanded f c
    | none => true)

/-- Whether a sample is the one that the shaper works on (R259). -/
def inShaper (s : State) (m p : Nat) (f : Sample) : Bool :=
  s.inEngine m p f && (s.earlier m p f.idx).all fun g => s.shaped m p g

/-- A sample under way changed. -/
def modFlow (m p idx : Nat) (f : Sample → Sample) (s : State) : State :=
  s.modMfe m p fun x => { x with flows := x.flows.map fun g => if g.idx = idx then f g else g }

end State

/-- LANDING_WRITE (R277, R279): the shaper writes a sample's tile for one place of one map entry, in a slot of the destination core
that owns the entry's route. -/
def execLandingWrite (mf polder idx entry tile : Nat) (s : State) : Host.Outcome State Fault Refusal :=
  match s.flowOf mf polder idx with
  | none => .next s
  | some (f, c) =>
    let e := c.entry f.buf f.pos entry
    if !s.mfeWorks mf polder ∨ !s.inShaper mf polder f ∨ !State.landsAt f c entry tile ∨ f.landed.contains (entry, tile) ∨ !f.whole ∨
        f.failed then .next s
    else if !s.ownsRoute (meCore e) (meRoute e) then .next (s.landHold mf polder)
    else
      let t := unitTile (SMap.get (fun _ => []) s.toks mf) c.profile f.desc f.src (meUnit e + tile) fun k => s.fr k
      .next (((s.land mf polder e tile t).modFlow mf polder idx fun g => { g with landed := g.landed ++ [(entry, tile)] }).useFree 1024)

namespace State

/-- Tiles that a failed position had written, as a wipe leaves them (R158, R279). -/
def wipeLanded (f : Sample) (c : MfeClass) (ts : List (Nat × Nat)) (s : State) : State :=
  ts.foldl (fun s k =>
    let e := c.entry f.buf f.pos k.1
    let a := tileAddr (meCore e) ((meTile e + k.2) % 192)
    s.wipeRange a (a + 2048)) s

/-- A sample fails: it lands nothing more, and what it had written is rewritten where a slot owns the route now. -/
def failFlow (m p : Nat) (f : Sample) (c : MfeClass) (s : State) : State :=
  let open' (k : Nat × Nat) : Bool := let e := c.entry f.buf f.pos k.1; s.ownsRoute (meCore e) (meRoute e)
  (s.wipeLanded f c (f.landed.filter open')).modFlow m p f.idx fun g =>
    { g with failed := true, landed := g.landed.filter fun k => !open' k }

/-- The set a sample belongs to. -/
def setOf' (s : State) (m p : Nat) (f : Sample) : Option LandSet :=
  (s.mfe m p).sets.find? fun t => t.cls == f.cls && t.buf == f.buf && t.phase == LandPhase.filling

/-- A record added to a set; a complete set is ready and joins the end of the class queue (R280, R281). -/
def addRecord (m p : Nat) (t : LandSet) (r : List Byte) (ready : Bool) (s : State) : State :=
  let t' := { t with recs := t.recs ++ [r] }
  s.modMfe m p fun x =>
    if ready then { x with sets := x.sets.filter (· != t) ++ [{ t' with phase := .ready, readyAt := s.now }] }
    else { x with sets := x.sets.map fun u => if u = t then t' else u }

/-- The record tile of a set (R280). -/
def recordTile (recs : List (List Byte)) : Tile := Tile.make (padTo 2048 recs.flatten) (mkTag 0 false 0 0 2 0)

/-- A sample fills its position, landed or failed; with the last of a set, the record tile is written and the set is ready. -/
def fillPosition (m p : Nat) (f : Sample) (c : MfeClass) (t : LandSet) (s : State) : State :=
  let st := flowStatus f c
  let n := t.recs.length + 1
  let ready := n == c.positions || (t.closed && n == t.assigned)
  let re := c.recs.getD t.buf 0
  if ready ∧ !s.ownsRoute (meCore re) (meRoute re) then s.landHold m p
  else
    let r := sampleRecord (SMap.get (fun _ => []) s.toks m) c.profile f.desc f.src f.idx st s.now
    let s := if st = 0 then s.bump (Reg.MFE_CNT_LANDED_COUNT m p) 1 else s.mfeFail m p f.idx st
    let s := s.modMfe m p fun x => { x with flows := x.flows.filter fun g => g.idx != f.idx }
    let s := s.addRecord m p t r ready
    if ready then (s.land m p re 0 (recordTile (t.recs ++ [r]))).bump (Reg.MFE_CNT_SETS_COUNT m p) 1 else s

/-- An engine finishes a sample: a failed one rewrites its tiles first; positions of a set are filled in ring order. -/
def finishSample (m p : Nat) (f : Sample) (c : MfeClass) (s : State) : State :=
  let st := flowStatus f c
  if st = 0 ∧ !allLanded f c then s
  else
    let s := if st = 0 then s else s.failFlow m p f c
    if (s.mfe m p).flows.any (fun g => g.idx == f.idx && g.failed && !g.landed.isEmpty) then s.landHold m p
    else match s.setOf' m p f with
      | none => s
      | some t => if t.recs.length = f.pos then s.fillPosition m p f c t else s

end State

/-- POSITION_FILLED (R279, R280): an engine finishes the sample it works on. -/
def execPositionFilled (mf polder idx : Nat) (s : State) : Host.Outcome State Fault Refusal :=
  match s.flowOf mf polder idx with
  | none => .next s
  | some (f, c) => if s.mfeWorks mf polder ∧ s.inEngine mf polder f then .next (s.finishSample mf polder f c) else .next s

/-! ### The tokenizer table (R274) -/

/-- The merges of a table's bytes. -/
def tokMerges (l : List Byte) : List (Nat × Nat) :=
  (List.range (numAt l 0x0C 4)).map fun k =>
    let v := numAt l (0x40 + 8 * k) 8
    (bitsOf v 17 0, bitsOf v 35 18)

/-- Whether a tokenizer table's header is well formed. -/
def tokHeaderOk (h : List Byte) : Bool :=
  numAt h 0 4 == 0x4B4F5442 && numAt h 4 1 == 1 && numAt h 5 3 == 0 && decide (257 ≤ numAt h 8 4) &&
    decide (numAt h 8 4 ≤ 262144) && decide (1 ≤ numAt h 0x0C 4) && decide (numAt h 0x0C 4 + 256 ≤ numAt h 8 4) &&
    numAt h 0x10 48 == 0

/-- Whether a table's merges are well formed: merge i joins IDs below 256 + i. -/
def tokMergesOk (l : List Byte) : Bool :=
  (List.range (numAt l 0x0C 4)).all fun k =>
    let v := numAt l (0x40 + 8 * k) 8
    decide (bitsOf v 17 0 < 256 + k) && decide (bitsOf v 35 18 < 256 + k) && bitsOf v 63 36 == 0

namespace State

/-- Bytes of a tokenizer table: one of the media front-end's polders must let it read them. -/
def tokBytes (s : State) (m a n : Nat) : List Byte :=
  (List.range 8).foldl (fun b p => let c := s.mfeBytes m p a n; if b.length < c.length then c else b) []

/-- Whether a polder that holds a slice of a media front-end runs. -/
def mfeBusy (s : State) (m : Nat) : Bool :=
  (List.range 16).any fun k =>
    let p := bitsOf (s.getF (Reg.MFE_SHARE_SLICE m)) (4 * k + 3) (4 * k)
    decide (p < 8) && (s.wheel p).runs

/-- ERR of the last load. -/
def tokErr (m e : Nat) (s : State) : State := s.setF (Reg.MFE_TOK_CTL_ERR m) e

end State

/-- TOK_LOAD (R274): MFE_TOK_CTL.LOAD written; a table that does not load leaves the previous one. -/
def execTokLoad (mf : Nat) (s : State) : Host.Outcome State Fault Refusal :=
  let a := s.getF (Reg.MFE_TOK_BASE_ADDR mf)
  let h := s.tokBytes mf a 64
  let l := s.tokBytes mf a (64 + 8 * numAt h 0x0C 4)
  .next (if s.mfeBusy mf then s.tokErr mf 2
    else if h.length < 64 then s.tokErr mf 3
    else if !tokHeaderOk h then s.tokErr mf 1
    else if l.length < 64 + 8 * numAt h 0x0C 4 then s.tokErr mf 3
    else if !tokMergesOk l then s.tokErr mf 1
    else ({ s with toks := SMap.set (fun _ => []) s.toks mf (tokMerges l) }.setF (Reg.MFE_TOK_CTL_VOCAB mf) (numAt h 8 4)).tokErr mf 0)

/-! ### RUN (R278) -/

namespace State

/-- A class descriptor read with its profile and map; `none` when the class is not VALID, `some none` when something of it
cannot be read. -/
def readClass (s : State) (m p k : Nat) : Option (Option MfeClass) :=
  let d := s.mfeBytes m p (s.getF (Reg.MFE_CLASS_BASE_ADDR m p) + 64 * k) 64
  if d.length < 64 then some none
  else if !bitOf (numAt d 0 2) 0 then none
  else
    let prof := s.mfeBytes m p (s.getF (Reg.MFE_PROFILE_BASE_ADDR m p) + 64 * numAt d 3 1) 64
    let n := numAt d 6 1 * numAt d 5 1 * numAt d 7 1
    let mp := s.mfeBytes m p (numAt d 0x10 8 % 2 ^ 44) (8 * n)
    let ok := prof.length == 64 && mp.length == 8 * n && bitsOf (numAt d 0 2) 15 10 == 0 && numAt d 2 1 / 16 == 0 &&
      decide (1 ≤ numAt d 5 1 ∧ numAt d 5 1 ≤ 32) && decide (1 ≤ numAt d 6 1 ∧ numAt d 6 1 ≤ 2) &&
      decide (1 ≤ numAt d 7 1 ∧ numAt d 7 1 ≤ 64) && numAt d 0x10 8 % 64 == 0 && decide (numAt d 0x10 8 < 2 ^ 44) &&
      numAt d 0x28 24 == 0 && !pfBad prof
    some (if ok then some
      { cls := k, kinds := numAt d 0 2, stream := numAt d 2 1, profile := prof, group := numAt d 4 1, positions := numAt d 5 1
        bufs := numAt d 6 1, entries := numAt d 7 1, dimMin := numAt d 8 4, dimMax := numAt d 0x0C 4
        recs := [numAt d 0x18 8, numAt d 0x20 8], map := (List.range n).map fun j => numAt mp (8 * j) 8 }
      else none)

/-- Whether a map entry is sound: no reserved bit, tiles in range, a core of the polder, a route of KIND 5. -/
def entryOk (s : State) (p e : Nat) : Bool :=
  bitsOf e 63 59 == 0 && decide (meTile e < 192) && decide (1 ≤ meTiles e ∧ meTiles e ≤ 192) &&
    (s.core (meCore e)).polder == p && (s.route (dieOf (meCore e)) (meRoute e)).kind == 5

/-- Whether the entries of a class are sound and no two tiles of a buffer meet on a core. -/
def classOk (s : State) (p : Nat) (c : MfeClass) : Bool :=
  (List.range c.bufs).all fun b =>
    let es := c.bufEntries b
    let ts := es.flatMap fun e => (meRun e).map fun t => (meCore e, t)
    es.all (s.entryOk p) && meTiles (c.recs.getD b 0) == 1 && decide ts.Nodup

/-- The polder's tables as RUN reads them, or the lowest class that R278 refuses. -/
def readTables (s : State) (m p : Nat) : Except Nat (List MfeClass) :=
  (List.range 64).foldl (fun r k => match r with
    | .error e => .error e
    | .ok l => match s.readClass m p k with
      | none => .ok l
      | some none => .error k
      | some (some c) => if s.classOk p c then .ok (l ++ [c]) else .error k) (.ok [])

/-- A refused RUN, or its error cleared. -/
def pctlErr (m p e k : Nat) (s : State) : State := (s.setF (Reg.MFE_PCTL_ERR m p) e).setF (Reg.MFE_PCTL_ERR_DETAIL m p) k

end State

/-- MFE_RUN (R278): RUN written 1: the polder's tables are read and checked, and the media front-end starts on them. -/
def execMfeRun (mf polder : Nat) (s : State) : Host.Outcome State Fault Refusal :=
  if s.flag (Reg.MFE_PCTL_RUN mf polder) then .next s
  else match s.readTables mf polder with
    | .error k => .next (s.pctlErr mf polder 1 k)
    | .ok l =>
      .next (((s.pctlErr mf polder 0 0).setF (Reg.MFE_PCTL_RUN mf polder) 1).modMfe mf polder fun x => { x with classes := l })

/-! ### Step boundaries and abandonment (R285) -/

namespace State

/-- MARK: the next descriptor index recorded, and DONE set to it in the ring's header. -/
def markRing (m p : Nat) (s : State) : State :=
  let n := s.nextIdx m p
  let a := s.getF (Reg.MFE_RING_BASE_ADDR m p) + 4
  let s := s.setF (Reg.MFE_RING_IDX_MARKED m p) n
  if s.mfeReach m p a then (s.meter p writeShort a).store a (bytesLE 4 n) else s

/-- REWIND: samples dropped, filling and ready sets discarded and counted, reading back at the recorded index. -/
def rewindRing (m p : Nat) (s : State) : State :=
  let gone := (s.mfe m p).sets.filter fun t => t.phase != .taken
  let s := s.modMfe m p fun x => { x with flows := [], sets := x.sets.filter fun t => t.phase == .taken }
  (s.bump (Reg.MFE_CNT_SETS_DISCARDED_COUNT m p) gone.length).setF (Reg.MFE_RING_IDX_NEXT m p)
    (s.getF (Reg.MFE_RING_IDX_MARKED m p))

end State

/-- MARK (R285): MFE_PCTL.MARK written. -/
def execMark (mf polder : Nat) (s : State) : Host.Outcome State Fault Refusal := .next (s.markRing mf polder)

/-- REWIND (R285): MFE_PCTL.REWIND written. -/
def execRewind (mf polder : Nat) (s : State) : Host.Outcome State Fault Refusal := .next (s.rewindRing mf polder)

end Sys2Proof.Machine
end

