-- ==== Sys2Proof/Machine/Turn.lean ====
section
/-! DEFINITION. The wheel (R205 to R224): the checks of RUN, the tables' data port, turns, slots and the guard. -/

namespace Sys2Proof.Machine

/-- Why a wheel is refused: ERR and DETAIL of WHL_POLDER_STATUS (R224). -/
abbrev WheelErr := Option (Nat × Nat)

/-! ### The checks of RUN (R206, R207, R212, R213, R224) -/

/-- Row and column of a mesh stop lie in a quadrant of its die (R203). -/
def stopInQuadrant (stop m : Nat) : Bool := stop / 8 / 4 == m / 2 && stop % 8 / 4 == m % 2

/-- Whether a path's end is a stop where its target attaches (R203, R207, R566). -/
def attaches (r : Route) (w : State.Walk) : Bool :=
  match r.kind with
  | 0 =>
    let st := r.target / 32
    let k := r.target % 32 / 2
    decide (st < 16) && w.die == st / 4 && w.stop == (st % 4 / 2 * 4 + k / 4) * 8 + (st % 4 % 2 * 4 + k % 4)
  | 1 | 2 => decide (r.target < 16) && w.die == r.target / 4 && stopInQuadrant w.stop (r.target % 4)
  | 3 => decide (r.target < 8192) && w.die == State.dieOf r.target && w.stop == State.clusterOf r.target % 64
  | 4 => decide (4 ≤ w.die) && decide (r.target < 128)
  | 5 => decide (r.target < 4) && w.die == r.target && [27, 28, 35, 36].contains w.stop
  | _ => false

/-- The valid variants of a core, with their program. -/
def CoreWheel.valid (w : CoreWheel) : List (Nat × Variant) :=
  (List.range 512).filterMap fun k => if (w.variant (k / 64) (k % 64)).valid then some (k / 64, w.variant (k / 64) (k % 64)) else none

/-- The slots of a variant. -/
def CoreWheel.slots (w : CoreWheel) (v : Variant) : List SlotEntry := (List.range v.count).map fun k => w.slot (v.first + k)

/-- Whether a list rises strictly. -/
def rising : List Nat → Bool
  | a :: b :: t => decide (a < b) && rising (b :: t)
  | _ => true

/-- The checks of R212 on a variant of a program that runs turns of `len` ticks, where the plan has such. -/
def variantOk (w : CoreWheel) (v : Variant) (len : Option Nat) : Bool :=
  let st := (w.slots v).map (·.start)
  decide (v.first + v.count ≤ 4096) &&
    (match st with
    | [] => true
    | a :: _ => a == 0 && rising st) &&
    (match len, st.getLast? with
    | some l, some z => decide (z < 8 * l)
    | _, _ => true)

namespace State

/-- Whether a route's target lies in a polder (R207). -/
def targetOwned (s : State) (p : Nat) (r : Route) : Bool :=
  match r.kind with
  | 0 => s.chanOwner (r.target / 32) (r.target % 32) == p
  | 1 | 2 => (List.range 32).any fun c => s.chanOwner r.target c == p
  | 3 => (s.core r.target).polder == p
  | 4 => (match routePort r with
    | some q => s.vcPolder q (r.target % 16) == p
    | none => false)
  | _ => (List.range 16).any fun k => bitsOf (s.getF (Reg.MFE_SHARE_SLICE r.target)) (4 * k + 3) (4 * k) == p

/-- The entries of a core's wheel store that have been written; every other one is zero and names set 0 (R210). -/
def writtenSlots (w : CoreWheel) : List SlotEntry := ((w.store.map (fun e : Nat × Word => e.1 / 2)).eraseDups).map w.slot

/-- The sets that a polder's tables name, by die: those of every slot entry, but set 0, which is always empty (R206, R224). -/
def tableSets (s : State) (p : Nat) : List (Nat × Nat) :=
  (s.coresOf p).flatMap fun i => ((writtenSlots (s.core i).wheel).filter fun e => e.set != 0).map fun e => (dieOf i, e.set)

/-- The routes that those sets name, by die. -/
def tableRoutes (s : State) (p : Nat) : List (Nat × Nat) := (s.tableSets p).flatMap fun d => (s.setRoutes d.1 d.2).map fun r => (d.1, r)

/-- The routes of other polders whose wheels run. -/
def othersRoutes (s : State) (p : Nat) : List Route :=
  ((List.range 8).filter fun q => q != p && (s.wheel q).runs).flatMap fun q => (s.tableRoutes q).map fun d => s.route d.1 d.2

/-- The checks of R207 on a route of a die's table for polder `p`. -/
def routeOk (s : State) (p : Nat) (others : List Route) (die r : Nat) : Bool :=
  let d := s.route die r
  d.die == die && d.phases != 0 && s.targetOwned p d &&
    (match walk d with
    | none => false
    | some w => decide (w.culv ≤ 2) && attaches d w) && !s.ownsReserved d && !others.any fun o => sharePhase d o

/-- The shortest turn of a plan that runs a program (R212). -/
def programLen (s : State) (p prog : Nat) : Option Nat :=
  ((s.planEntries p).filter fun e => (s.plan p e).program == prog).foldl (fun (b : Option Nat) e => match b with
    | some l => some (min l (s.plan p e).len)
    | none => some (s.plan p e).len) none

/-- The checks of R213 on a plan. -/
def planOk (s : State) (p : Nat) : Bool :=
  !(s.planEntries p).isEmpty && (!s.flag (Reg.WHL_POLDER_CTL_ANCHOR p) || s.planPeriod p == 100000)

/-- The lowest element of a list that a test refuses, by `key`. -/
def lowestBad {α : Type} (key : α → Nat) (bad : α → Bool) (l : List α) : Option α :=
  (l.filter bad).foldl (fun (b : Option α) x => match b with
    | some y => if key x < key y then some x else some y
    | none => some x) none

/-- The checks of R224 but that of the lock, in order. -/
def tablesErr (s : State) (p : Nat) : WheelErr :=
  if !s.planOk p then some (3, 0)
  else match (s.coresOf p).find? fun i => !(s.core i).wheel.valid.all fun v => variantOk (s.core i).wheel v.2 (s.programLen p v.1) with
    | some i => some (2, i)
    | none =>
      match lowestBad (·.2) (fun d => decide (15 < s.setCount d.1 d.2) || (s.setRoutes d.1 d.2).any fun r => decide (16383 < r))
        (s.tableSets p) with
      | some d => some (5, d.2)
      | none =>
        (lowestBad (fun d => d.1 * 16384 + d.2) (fun d => !s.routeOk p (s.othersRoutes p) d.1 d.2) (s.tableRoutes p)).map fun d => (1, d.2)

/-- The checks of R224. -/
def wheelErr (s : State) (p : Nat) : WheelErr := if !s.locked then some (4, 0) else s.tablesErr p

/-- A wheel's refusal reported, or its plan started with full weir buckets (R224, R376). -/
def runWheel (p : Nat) (s : State) : State :=
  if (s.wheel p).runs then s.setF (Reg.WHL_POLDER_CTL_RUN p) 1
  else match s.wheelErr p with
    | some (e, d) =>
      ((s.setF (Reg.WHL_POLDER_CTL_RUN p) 0).setF (Reg.WHL_POLDER_STATUS_ERR p) e).setF (Reg.WHL_POLDER_STATUS_DETAIL p) d
    | none =>
      let s := ((s.setF (Reg.WHL_POLDER_CTL_RUN p) 1).setF (Reg.WHL_POLDER_STATUS_ERR p) 0).setF (Reg.WHL_POLDER_STATUS_DETAIL p) 0
      (s.startPlan p).weirFull p

/-! ### The end of a turn -/

/-- The cores that a polder's turns wait for (R216, R223). -/
def members (s : State) (p : Nat) : List Nat := (s.coresOf p).filter fun i => !(s.core i).wheel.outside

/-- Whether every core has ended the turn. -/
def turnOver (s : State) (p : Nat) : Bool := (s.members p).all fun i => (s.core i).wheel.ended

/-- The groups of a polder with a sherd (R534). -/
def sherdGroups (s : State) (p : Nat) : List Nat := (s.groupsOf p).filter fun g => s.getF (Reg.PIP_GROUP_SHERDS_SHERD_MASK g) != 0

/-- MARK on every media front-end (R285). -/
def markAll (p : Nat) (s : State) : State := (List.range 4).foldl (fun s m => s.markRing m p) s

/-- A turn ends (R281, R285, R315, R567): INFER entries are freed, landing buffers return, a polder without sherds marks its rings,
and a wheel whose RUN is 0 stops. -/
def endTurn (p : Nat) (s : State) : State :=
  let s := s.returnTurn p
  let s := if (s.sherdGroups p).isEmpty then s.markAll p else s
  let s := s.setWheel p { s.wheel p with turnOpen := false }
  if s.flag (Reg.WHL_POLDER_CTL_RUN p) then s else s.stopWheel p

/-- The turn in progress ended, when every core has. -/
def closeTurn (p : Nat) (s : State) : State := if (s.wheel p).turnOpen && s.turnOver p then s.endTurn p else s

/-- A slot's overrun of `over` TREF cycles counted (R218). -/
def countOverrun (p i idx : Nat) (excess : Int) (s : State) : State :=
  if excess ≤ 0 then s
  else
    let e := ceilDiv excess.toNat 125
    let s := (s.bump (Reg.WHL_CNT_OVERRUN_COUNT p) 1).bump (Reg.WHL_CNT_OVERRUN_EIGHTHS_COUNT p) e
    if s.flag (Reg.WHL_OVERRUN_LAST_VALID p) then s
    else
      (((s.setF (Reg.WHL_OVERRUN_LAST_VALID p) 1).setF (Reg.WHL_OVERRUN_LAST_CORE_ID p) i).setF (Reg.WHL_OVERRUN_LAST_SLOT p)
        idx).setF (Reg.WHL_OVERRUN_LAST_EIGHTHS p) (min e 0xFFFF)

/-! ### Slot times (R212, R217) -/

/-- TREF cycles from a moment `eighths` after a turn's start, nominal or actual for a slot with RT, to now. -/
def sinceSlot (s : State) (p : Nat) (rt : Bool) (eighths : Nat) : Int :=
  let base := if rt then s.getF (Reg.WHL_TURN_START_VALUE p) else s.getF (Reg.WHL_TURN_NOMINAL_VALUE p)
  wrapDiff 48 s.now base * 1000 + s.tide.phase - 125 * eighths

/-- The nominal end of slot `k` of a core, in eighths from its turn's start: the next slot's START, or the turn's length. -/
def slotEndEighths (s : State) (p : Nat) (w : CoreWheel) (k : Nat) : Nat :=
  if k + 1 < w.count then (w.slot (w.first + k + 1)).start else 8 * (s.plan p (s.getF (Reg.WHL_POLDER_STATUS_ENTRY p))).len

/-- TREF cycles from the nominal end of slot `k` of a core to now. -/
def slotOver (s : State) (p i k : Nat) : Int :=
  let w := (s.core i).wheel
  s.sinceSlot p (w.slot (w.first + k)).rt (s.slotEndEighths p w k)

/-! ### The start of a turn (R214, R216, R219, R301, R319, R534) -/

/-- The entry at HEAD of an RX end, ready before the present tick (R301). -/
def headReady (s : State) (l : Nat) : Option QueueRec :=
  (s.linkEnd l).queue.find? fun q => q.mbSeq == s.linkHead l && (match q.ready with
    | some t => t != s.now
    | none => false)

/-- The class a group runs in the turn, with what taking it does (R214). -/
def selectClass (p g : Nat) (s : State) : State :=
  let idx := s.getF (Reg.WHL_GROUP_SEL_INDEX g)
  let idle (s : State) : State :=
    (s.setF (Reg.WHL_GROUP_SEL_LAST_CLASS g) (s.getF (Reg.WHL_GROUP_SEL_IDLE_CLASS g))).bump (Reg.WHL_CNT_IDLE_SEL_COUNT p) 1
  match s.getF (Reg.WHL_GROUP_SEL_SRC g) with
  | 0 => s.setF (Reg.WHL_GROUP_SEL_LAST_CLASS g) (s.getF (Reg.WHL_GROUP_SEL_FIXED_CLASS g))
  | 1 =>
    (match s.readySet (idx % 4) p g with
    | some t => (s.setF (Reg.WHL_GROUP_SEL_LAST_CLASS g) t.cls).takeSet (idx % 4) p t
    | none => idle s)
  | 2 =>
    (match s.headReady idx with
    | some q => s.setF (Reg.WHL_GROUP_SEL_LAST_CLASS g) q.cls
    | none => idle s)
  | _ => idle s

/-- The variant a core runs: of its group's class, or of class 0; one that is not VALID is idle, with FALLTHRU (R214). -/
def variantOf (s : State) (i prog : Nat) : Variant :=
  let cl := match s.groupOf i with
    | some g => s.getF (Reg.WHL_GROUP_SEL_LAST_CLASS g)
    | none => 0
  let v := (s.core i).wheel.variant prog cl
  if v.valid then v else ⟨0, 0, 0, true, false⟩

/-- A core enters a turn (R214, R216, R219, R223): its variant is selected, a WAITS 1 returns, a core that rejoins starts. -/
def coreTurn (prog i : Nat) (s : State) : State :=
  let v := s.variantOf i prog
  let joins := (s.core i).wheel.rejoin
  let s := s.modCore i fun c =>
    { c with wheel := { c.wheel with outside := false, rejoin := false, first := v.first, count := v.count, pc := v.pc, fallthru := v.fallthru,
                                     next := 0, cur := none, released := false, relAll := false, ended := v.count == 0,
                                     fresh := c.sb.isEmpty } }
  let c := s.core i
  if joins then s.setCore i (c.startAt v.pc)
  else if c.wait = .turnStart then
    let c := { c with wait := .none }
    if v.fallthru then s.placeCore i c (c.pc.toNat + 1) else s.setCore i { c with pc := BitVec.ofNat 13 v.pc }
  else s

/-- The step a polder's groups have all reached: the lowest CURRENT version of those with sherds (R534). -/
def reachedStep (s : State) (p : Nat) : Option Nat :=
  match s.sherdGroups p with
  | [] => none
  | gs => gs.foldl (fun (b : Option Nat) g => match b, s.verIn g 3 with
    | some x, some j => some (min x (s.verNumber g j))
    | _, _ => none) (some (2 ^ 32))

/-- A step boundary (R534): MARK is written and the watchdog restarts. -/
def stepBoundary (p : Nat) (s : State) : State :=
  match s.reachedStep p with
  | none => s
  | some n =>
    if s.stepOf p < n then
      let s := (s.setJob p { s.job p with step := n }).markAll p
      { s with power := { s.power with watch := SMap.set (fun _ => 0) s.power.watch p 0 } }
    else s

/-- The registers and counters of a turn's start (R216). -/
def countTurn (p : Nat) (s : State) : State :=
  let w := s.wheel p
  let slip := (wrapDiff 48 s.now w.nextStart).toNat
  let s := s.setF (Reg.WHL_TURN_VALUE p) ((s.getF (Reg.WHL_TURN_VALUE p) + 1) % 2 ^ 32)
  let s := (s.setF (Reg.WHL_TURN_NOMINAL_VALUE p) w.nextStart).setF (Reg.WHL_TURN_START_VALUE p) s.now
  let s := (s.setF (Reg.WHL_POLDER_STATUS_RUNNING p) 1).setF (Reg.WHL_POLDER_STATUS_ENTRY p) w.nextEntry
  let s := s.bump (Reg.WHL_CNT_TURNS_COUNT p) 1
  if slip = 0 then s
  else
    let s := (s.bump (Reg.WHL_CNT_SLIPPED_COUNT p) 1).bump (Reg.WHL_CNT_SLIP_TICKS_COUNT p) slip
    if s.getF (Reg.WHL_CNT_MAX_SLIP_COUNT p) < slip then s.setF (Reg.WHL_CNT_MAX_SLIP_COUNT p) slip else s

/-- The turn after the one that starts (R213). -/
def nextTurn (s : State) (p : Nat) : Wheel :=
  let w := s.wheel p
  let e := s.plan p w.nextEntry
  let t := (w.nextStart + e.len) % 2 ^ 48
  if w.nextRep + 1 < e.rep then ⟨true, true, w.nextEntry, w.nextRep + 1, t, none⟩
  else if w.nextEntry + 1 < (s.planEntries p).length then ⟨true, true, w.nextEntry + 1, 0, t, none⟩
  else ⟨true, true, 0, 0, if s.flag (Reg.WHL_POLDER_CTL_ANCHOR p) then
      min ((w.nextStart / 100000 + 1) * 100000) (2 ^ 48) % 2 ^ 48 else t, none⟩

/-- A turn starts (R216): queues are performed, FIRED versions become CURRENT, classes are selected, cores enter the turn. -/
def startTurn (p : Nat) (s : State) : State :=
  let prog := (s.plan p (s.wheel p).nextEntry).program
  let nxt := s.nextTurn p
  let s := (s.countTurn p).setWheel p nxt
  let s := (s.chansOf p).foldl (fun s k => s.performQueue k.1 k.2) s
  let s := ((s.groupsOf p).foldl (fun s g => s.commitGroup g) s).stepBoundary p
  let s := (s.groupsOf p).foldl (fun s g => s.selectClass p g) s
  let s := State.forCores (coreTurn prog) ((s.coresOf p).filter fun i => !(s.core i).wheel.outside || (s.core i).wheel.rejoin) s
  { s with sq := 100 }

/-- A turn that the guard has cut short ends where its cores stand (R220). -/
def cutTurn (p : Nat) (s : State) : State :=
  State.forCores (fun i s =>
    match (s.core i).wheel.cur with
    | some k =>
      let s := s.countOverrun p i (((s.core i).wheel.first + k) % 4096) (s.slotOver p i k)
      s.modCore i fun c => { c with wheel := { c.wheel with cur := none, ended := true } }
    | none => s.modCore i fun c => { c with wheel := { c.wheel with ended := true } }) (s.members p) s

/-- Whether a guarded turn may end: every scoreboard is empty, at a tick after the guard acted (R220). -/
def guardClear (s : State) (p : Nat) : Bool :=
  match (s.wheel p).guarded with
  | some t => t != s.now && (s.members p).all fun i => (s.core i).sb.isEmpty
  | none => false

/-- The turn that keeps the next one from starting ended, where it may be. -/
def settleTurn (p : Nat) (s : State) : State := (if s.guardClear p then s.cutTurn p else s).closeTurn p

/-- Whether a turn may start: the wheel runs, its nominal start has come, at a tick, and the turn before is over. -/
def mayTurn (s : State) (p : Nat) : Bool :=
  (s.wheel p).runs && !(s.wheel p).turnOpen && decide (0 ≤ wrapDiff 48 s.now (s.wheel p).nextStart) && s.tide.phase == 0 &&
    ((s.wheel p).guarded.isNone || s.guardClear p)

/-! ### Slots -/

/-- Whether two nominal intervals of a turn overlap (R208). -/
def overlapping (a b : Nat × Nat) : Bool := decide (a.1 < b.2) && decide (b.1 < a.2)

/-- The routes of a slot of a core. -/
def slotRoutes (s : State) (i : Nat) (e : SlotEntry) : List Route := (s.setRoutes (dieOf i) e.set).map fun r => s.route (dieOf i) r

/-- Whether a slot owns a resource that an overlapping slot of another core of the turn also owns (R208). -/
def slotClash (s : State) (p i k : Nat) : Bool :=
  let span (w : CoreWheel) (k : Nat) : Nat × Nat := ((w.slot (w.first + k)).start, s.slotEndEighths p w k)
  let w := (s.core i).wheel
  let mine := s.slotRoutes i (w.slot (w.first + k))
  (s.members p).any fun o => o != i && (List.range (s.core o).wheel.count).any fun m =>
    let x := (s.core o).wheel
    overlapping (span w k) (span x m) && (s.slotRoutes o (x.slot (x.first + m))).any fun r => mine.any fun q => routesMeet q r

/-- Whether a slot owns a DRAM channel reserved to a media front-end of its polder (R261). -/
def slotFetch (s : State) (p i k : Nat) : Bool :=
  let w := (s.core i).wheel
  (s.slotRoutes i (w.slot (w.first + k))).any fun r => r.kind == 0 && decide (r.target < 512) &&
    bitOf (s.getF (Reg.MFE_FETCH_CHANS_CHANS (r.target / 128) p (r.target / 32 % 4))) (r.target % 32)

/-- Whether slot `k` of a core may start now: its time has come, in a turn in progress, and no slot of the core is. -/
def slotDue (s : State) (i : Nat) : Bool :=
  let w := (s.core i).wheel
  let p := (s.core i).polder
  let e := w.slot (w.first + w.next)
  decide (p < 8) && (s.wheel p).turnOpen && !w.ended && !w.outside && w.cur.isNone && decide (w.next < w.count) &&
    decide (0 ≤ s.sinceSlot p e.rt e.start)

/-- A slot starts (R217, R219): its set takes effect, a WAITS 0 returns, what waits for its routes in the reverse direction
goes (R175), its pulls start (R458), and the kilns it lends channels to go on (R330). -/
def startSlot (i : Nat) (s : State) : State :=
  let s := s.modCore i fun c =>
    { c with wheel := { c.wheel with cur := some c.wheel.next, next := c.wheel.next + 1, released := c.wheel.relAll, fresh := false } }
  let c := s.core i
  let s := if c.wait = .slotStart then s.placeCore i { c with wait := .none } (c.pc.toNat + 1) else s
  ((s.releaseRev i).markPulls i).allKilnWork (s.core i).polder

/-- Whether a command in flight uses a resource of the slot (R134, R135): a transfer but XFILL, a message that sends, a TAKE; a blocked
MRECV has not started, and INJECT and RELEASE use none (R307, R308). -/
def usesSlot (e : SbEntry) : Bool :=
  e.flight.isSome && ([0x30, 0x31, 0x40, 0x48].contains e.q.op || (e.q.op == 0x49 && qMode e.q.cmd == 0))

/-- Whether the slot in progress may end (R135, R218). -/
def slotDone (s : State) (i k : Nat) : Bool :=
  let c := s.core i
  decide (0 ≤ s.slotOver c.polder i k) && (!(c.wheel.slot (c.wheel.first + k)).hold || c.wheel.released) && !c.sb.any usesSlot

/-- A slot ends (R218), and with the last one the core's turn. -/
def endSlot (i k : Nat) (s : State) : State :=
  let p := (s.core i).polder
  let s := s.countOverrun p i (((s.core i).wheel.first + k) % 4096) (s.slotOver p i k)
  let s := s.modCore i fun c => { c with wheel := { c.wheel with cur := none, ended := decide (c.wheel.count ≤ c.wheel.next) } }
  s.closeTurn p

/-- The TREF phase moves on within a tick. -/
def atPhase (ph : Nat) (s : State) : State := { s with tide := { s.tide with phase := max s.tide.phase ph } }

/-! ### The tables' data port (R210) -/

/-- Bytes of the table that WHL_TBL_ADDR selects. -/
def tableSize (t : Nat) : Nat := [0x8000, 0x1000, 0x40000, 0x80000].getD t 0

/-- Whether a table may be written now: no polder that uses the die's route and set tables runs; a core's polder does not run, or
the core is outside its turn membership. -/
def tableOpen (s : State) (t u : Nat) : Bool :=
  if t < 2 then !(decide ((s.core u).polder < 8) && (s.wheel (s.core u).polder).runs) || (s.core u).wheel.outside
  else !(List.range 8).any fun p => (s.wheel p).runs && (s.coresOf p).any fun i => dieOf i == u % 4

/-- The word of a table. -/
def tableWord (s : State) (t u k : Nat) : Word :=
  match t with
  | 0 => SMap.get (fun _ => 0) (s.core u).wheel.store k
  | 1 => SMap.get (fun _ => 0) (s.core u).wheel.variants k
  | 2 => SMap.get (fun _ => 0) s.routes (u % 4 * 65536 + k)
  | _ => SMap.get (fun _ => 0) s.sets (u % 4 * 131072 + k)

/-- A word of a table written. -/
def putTableWord (t u k : Nat) (v : Word) (s : State) : State :=
  match t with
  | 0 => s.modCore u fun c => { c with wheel := { c.wheel with store := SMap.set (fun _ => 0) c.wheel.store k v } }
  | 1 => s.modCore u fun c => { c with wheel := { c.wheel with variants := SMap.set (fun _ => 0) c.wheel.variants k v } }
  | 2 => { s with routes := SMap.set (fun _ => 0) s.routes (u % 4 * 65536 + k) v }
  | _ => { s with sets := SMap.set (fun _ => 0) s.sets (u % 4 * 131072 + k) v }

/-- OFFSET advances by 4 after each access. -/
def nextOffset (s : State) : State := s.setF Reg.WHL_TBL_ADDR_OFFSET (s.getF Reg.WHL_TBL_ADDR_OFFSET + 4)

end State

/-- WHEEL_RUN (R224): WHL_POLDER_CTL[p].RUN written 1. -/
def execWheelRun (polder : Nat) (s : State) : Host.Outcome State Fault Refusal := .next (s.runWheel polder)

/-- WHEEL_STOP (R567): RUN written 0; the wheel stops at the end of the turn in progress, at once when there is none. -/
def execWheelStop (polder : Nat) (s : State) : Host.Outcome State Fault Refusal :=
  let s := s.setF (Reg.WHL_POLDER_CTL_RUN polder) 0
  .next (if !(s.wheel polder).runs then s
    else if !(s.wheel polder).turnOpen then s.stopWheel polder
    else s.closeTurn polder)

/-- A read of WHL_TBL_DATA: DATA takes the word at OFFSET, 0 beyond the table's end. -/
def State.readTable (s : State) : State :=
  let t := s.getF Reg.WHL_TBL_ADDR_TARGET
  let o := s.getF Reg.WHL_TBL_ADDR_OFFSET
  let v := if o < State.tableSize t then s.tableWord t (s.getF Reg.WHL_TBL_ADDR_UNIT) (o / 4) else 0
  (s.setF Reg.WHL_TBL_DATA_DATA v.toNat).nextOffset

/-- WHL_TBL_DATA_READ (R210). -/
def execWhlTblDataRead (s : State) : Host.Outcome State Fault Refusal := .next s.readTable

/-- WHL_TBL_DATA_WRITE (R210, R223). -/
def execWhlTblDataWrite (value : Word) (s : State) : Host.Outcome State Fault Refusal :=
  let t := s.getF Reg.WHL_TBL_ADDR_TARGET
  let o := s.getF Reg.WHL_TBL_ADDR_OFFSET
  let u := s.getF Reg.WHL_TBL_ADDR_UNIT
  .next ((if o < State.tableSize t && s.tableOpen t u then s.putTableWord t u (o / 4) value else s).nextOffset)

/-- TURN_START (R216): the turn before ends if it still stands, and the next one starts where it may. -/
def execTurnStart (polder : Nat) (s : State) : Host.Outcome State Fault Refusal :=
  let s := s.settleTurn polder
  if s.mayTurn polder then .next (s.startTurn polder) else .next s

/-- SLOT_START (R217, R219). Two overlapping slots that own one resource, and a slot that owns a channel reserved to a media front-end,
are undefined behaviour (R208, R261). -/
def execSlotStart (core phase : Nat) (s : State) : Host.Outcome State Fault Refusal :=
  let s := s.atPhase phase
  if !s.slotDue core then .next s
  else if s.slotClash (s.core core).polder core (s.core core).wheel.next then .refused (.undefinedBehaviour "R208")
  else if s.slotFetch (s.core core).polder core (s.core core).wheel.next then .refused (.undefinedBehaviour "R261")
  else .next (s.startSlot core)

/-- SLOT_END (R218). -/
def execSlotEnd (core phase : Nat) (s : State) : Host.Outcome State Fault Refusal :=
  let s := s.atPhase phase
  match (s.core core).wheel.cur with
  | none => .next s
  | some k => if s.slotDone core k then .next (s.endSlot core k) else .next s

/-- GUARD_EXPIRY (R220): a turn still in progress RT_GUARD ticks after the nominal start of a real-time entry's first turn. -/
def execGuardExpiry (polder : Nat) (s : State) : Host.Outcome State Fault Refusal :=
  let w := s.wheel polder
  let g := (s.plan polder w.nextEntry).guardT
  if w.runs && w.turnOpen && g != 0 && w.nextRep == 0 && w.guarded.isNone && !s.turnOver polder &&
      decide (0 ≤ wrapDiff 48 s.now w.nextStart - g) then
    let s := (s.bump (Reg.WHL_CNT_GUARD_ABANDON_COUNT polder) 1).quiesce polder .guardExpiry
    .next (s.setWheel polder { s.wheel polder with guarded := some s.now })
  else .next s

end Sys2Proof.Machine
end

