-- ==== Sys2Proof/Machine/Culvert.lean ====
section
/-! DEFINITION. Culverts (R441 to R446): beats and replays, recovery, quarantine, rejoining, and the end of a training. -/

namespace Sys2Proof.Machine

namespace State

def culvert (s : State) (c : Nat) : Culvert := SMap.get (fun _ => Culvert.empty) s.culverts c

def modCulvert (c : Nat) (f : Culvert → Culvert) (s : State) : State :=
  { s with culverts := SMap.set (fun _ => Culvert.empty) s.culverts c (f (s.culvert c)) }

/-- STATE of a culvert (R443). -/
def culvState (s : State) (c : Nat) : Nat := s.getF (Reg.LNK_CULV_STATUS_STATE c)

/-- The dies a culvert joins, numbered as R18 lists the culverts; IO[0] and IO[1] are dies 4 and 5. -/
def culvEnds (c : Nat) : Nat × Nat := [(0, 1), (2, 3), (0, 2), (1, 3), (0, 4), (1, 4), (2, 5), (3, 5)].getD c (0, 0)

/-- The culverts of a die. -/
def culvertsOf (die : Nat) : List Nat := (List.range 8).filter fun c => (culvEnds c).1 == die || (culvEnds c).2 == die

/-- Spare wires in each direction (R441). -/
def culvSpares (c : Nat) : Nat := if c < 4 then 96 else 24

/-! ### Beats (R441) -/

/-- The sequence number expected next in a direction. -/
def nextBeat (s : State) (c dir : Nat) : Nat := if dir = 0 then (s.culvert c).next0 else (s.culvert c).next1

def setBeat (c dir n : Nat) (s : State) : State :=
  s.modCulvert c fun x => if dir = 0 then { x with next0 := n % 1024 } else { x with next1 := n % 1024 }

/-- A replay asked for: recovery is in progress. -/
def askBeats (c dir : Nat) (s : State) : State :=
  let s := (s.bump (Reg.LNK_CNT_CULV_REPLAY_COUNT c) 1).setF (Reg.LNK_CULV_STATUS_RIP c) 1
  s.modCulvert c fun x => { x with replays := dir :: x.replays.filter (· != dir) }

/-- A replay over in one direction. -/
def endBeats (c dir : Nat) (s : State) : State :=
  let s := s.modCulvert c fun x => { x with replays := x.replays.filter (· != dir) }
  if (s.culvert c).replays.isEmpty then s.setF (Reg.LNK_CULV_STATUS_RIP c) 0 else s

/-- A beat of an ACTIVE culvert. -/
def takeBeat (c dir seq : Nat) (intact last : Bool) (s : State) : State :=
  let under := (s.culvert c).replays.contains dir
  if !intact then (s.bump (Reg.LNK_CNT_CULV_CRC_COUNT c) 1).askBeats c dir
  else if seq = s.nextBeat c dir then
    let s := s.setBeat c dir (seq + 1)
    if under && last then s.endBeats c dir else s
  else if under then s
  else s.askBeats c dir

/-! ### Quarantine (R443, R445) -/

/-- Whether a route of a die's table crosses a culvert. -/
def crosses (s : State) (c die r : Nat) : Bool := (routeCulverts (s.route die r)).contains c

/-- The contexts of a core whose route crosses a culvert. -/
def ctxsOver (s : State) (c i : Nat) : List Nat := (List.range 128).filter fun n => s.crosses c (dieOf i) (ctxRoute ((s.core i).ctx n))

/-- The commands of a core in flight over a culvert end with LNK_E_QUARANTINE. -/
def quarantineCore (c i : Nat) (s : State) : State :=
  let ns := s.ctxsOver c i
  let pushes := ((s.core i).sb.filter fun e => opcodeOf e.q.cmd == 0x48 && s.crosses c (dieOf i) (qRoute e.q.cmd)).map (·.q.seq)
  let s := s.endFlights i lnkEQuarantine ((ns.flatMap fun n => ((s.core i).ctx n).waiting ++ s.sentOn i n) ++ pushes)
  ns.foldl (fun s n => s.modCtx i n fun k => { k with unacked := [], waiting := if ctxRole k = 1 then [] else k.waiting }) s

/-- Whether an item on its way inside the package crosses a culvert: over the route of the context that sent it. -/
def netOver (s : State) (c : Nat) (p : Pkt) : Bool :=
  match pktEnds p with
  | some (_, src) => src.pkg == s.pkgId && s.crosses c (dieOf src.core) (ctxRoute ((s.core src.core).ctx src.ctx))
  | none => false

/-- MGT_STATUS.DEGRADED and the dies' QUARANTINE bits as the culverts stand (R532, R533). A die that lost its clock or failed its
identity keeps its own. -/
def showDegraded (s : State) : State :=
  s.setF Reg.MGT_STATUS_DEGRADED (b2n ((List.range 8).any (fun c => s.culvState c == 4) ||
    (List.range 6).any fun d => s.flag (Reg.MGT_DIE_STATUS_QUARANTINE d)))

/-- A culvert enters QUARANTINE (R443, R445). -/
def quarantine (c : Nat) (s : State) : State :=
  if s.culvState c = 4 then s
  else
    let s := ((s.setF (Reg.LNK_CULV_STATUS_STATE c) 4).setF (Reg.LNK_CULV_STATUS_RIP c) 0).bump (Reg.LNK_CNT_CULV_QUAR_COUNT c) 1
    let s := s.modCulvert c fun x => { x with replays := [] }
    let s := State.forCores (quarantineCore c) (s.cores.map (·.1)) s
    let s := { s with net := s.net.filter fun p => !s.netOver c p }
    ((s.raise (.culvertQuarantined c)).trace 2 0xFF 4 c 0 0).showDegraded

/-- The polders whose tables name a route over a culvert. -/
def poldersOver (s : State) (c : Nat) : List Nat := (List.range 8).filter fun p =>
  (s.tableRoutes p).any fun d => s.crosses c d.1 d.2

/-! ### Training (R443, R444, R446) -/

/-- A culvert trains. -/
def trainCulvert (c : Nat) (s : State) : State := (s.setF (Reg.LNK_CULV_STATUS_STATE c) 1).setF (Reg.LNK_CULV_STATUS_FAILS c) 0

/-- Whether the wire epochs that the two ends tell each other disagree: the far end's own, and what it recorded of this one
(R430, R446). -/
def wireDiffer (s : State) (c own recorded : Nat) : Bool :=
  let differ (a b : Nat) : Bool := a != 0xFF && b != 0xFF && a != b
  differ own (s.getF (Reg.LNK_CULV_STATUS_PEER_WIRE_EPOCH c)) || differ recorded (s.getF (Reg.LNK_CULV_STATUS_WIRE_EPOCH c))

/-- A failed agreement; the third in a row leaves the culvert in QUARANTINE with DISABLED (R446). -/
def failCulvert (c : Nat) (s : State) : State :=
  let n := s.getF (Reg.LNK_CULV_STATUS_FAILS c) + 1
  let s := s.setF (Reg.LNK_CULV_STATUS_FAILS c) n
  if n < 3 then s else ((s.quarantine c).setF (Reg.LNK_CULV_STATUS_DISABLED c) 1).raise (.culvertQuarantined c)

/-- A die whose culverts all carry traffic again is no longer quarantined (R533). -/
def freeDie (d : Nat) (s : State) : State :=
  if (culvertsOf d).all (fun c => s.culvState c == 2 || s.culvState c == 3) && s.getF (Reg.MGT_DIE_STATUS_ERR d) == 0 &&
      !s.power.noClock.any (fun x => x.1 == d) then s.setF (Reg.MGT_DIE_STATUS_QUARANTINE d) 0 else s

/-- A training ends: the failing wires of each direction have spares and the epochs agree, or the agreement has failed. -/
def endTraining (c bad0 bad1 own recorded : Nat) (s : State) : State :=
  if s.wireDiffer c own recorded then
    ((s.setF (Reg.LNK_CULV_STATUS_PEER_WIRE_EPOCH c) own).modCulvert c fun x => { x with fresh := true }).failCulvert c
  else if culvSpares c < bad0 ∨ culvSpares c < bad1 then s.failCulvert c
  else
    let s := (s.setF (Reg.LNK_CULV_STATUS_SPARES_USED c) (bad0 + bad1)).setF (Reg.LNK_CULV_STATUS_PEER_WIRE_EPOCH c) own
    let s := s.modCulvert c fun x => { x with fresh := false, next0 := if s.culvState c = 1 then 0 else x.next0,
                                              next1 := if s.culvState c = 1 then 0 else x.next1 }
    let s := ((s.setF (Reg.LNK_CULV_STATUS_STATE c) 2).setF (Reg.LNK_CULV_STATUS_RIP c) 0).setF (Reg.LNK_CULV_STATUS_FAILS c) 0
    ((((s.trace 2 0xFF 2 c 0 0).freeDie (culvEnds c).1).freeDie (culvEnds c).2)).showDegraded

end State

/-- CULVERT_BEAT (R441, R443): a beat of one direction: its sequence number, whether its CRC is right, whether it is the last one a
replay resends. Only an ACTIVE culvert takes beats. -/
def execCulvertBeat (culv dir seq : Nat) (intact last : Bool) (s : State) : Host.Outcome State Fault Refusal :=
  if s.culvState culv = 2 then .next (s.takeBeat culv dir seq intact last) else .next s

/-- CULVERT_REPLAY_BOUND (R441, R443): a replay not over within its bound. -/
def execCulvertReplayBound (culv : Nat) (s : State) : Host.Outcome State Fault Refusal :=
  if s.culvState culv = 2 ∧ (s.culvert culv).replays ≠ [] then
    let s := (s.setF (Reg.LNK_CULV_STATUS_STATE culv) 3).setF (Reg.LNK_CULV_STATUS_RIP culv) 1
    .next ((s.bump (Reg.LNK_CNT_CULV_RETRAIN_COUNT culv) 1).modCulvert culv fun x => { x with replays := [] })
  else .next s

/-- CULVERT_RECOVERY_LIMIT (R445, R535): RECOVERING has not ended within 2 ms. -/
def execCulvertRecoveryLimit (culv : Nat) (s : State) : Host.Outcome State Fault Refusal :=
  if s.culvState culv = 3 then
    .next ((s.poldersOver culv).foldl (fun s p => s.quiesce p .linkDown) (s.quarantine culv))
  else .next s

/-- REJOIN (R27, R446): LNK_CULV_CTL.REJOIN written; a disabled culvert stays, and one of a die whose identity failed or whose clock
is absent. -/
def execRejoin (culv : Nat) (s : State) : Host.Outcome State Fault Refusal :=
  let bad (d : Nat) : Bool := s.getF (Reg.MGT_DIE_STATUS_ERR d) != 0 || s.power.noClock.any fun x => x.1 == d
  if s.culvState culv = 4 ∧ !s.flag (Reg.LNK_CULV_STATUS_DISABLED culv) ∧ !bad (State.culvEnds culv).1 ∧ !bad (State.culvEnds culv).2 then .next ((s.trainCulvert culv).showDegraded) else .next s

end Sys2Proof.Machine
end

