-- ==== Sys2Proof/Machine/Dram.lean ====
section
/-! DEFINITION. The stacks' upkeep (R397 to R401): soft repairs, margin tests and wipes; the weirs' refill (R376). -/

namespace Sys2Proof.Machine

namespace State

/-! ### Wipes (R400, R401) -/

/-- The WIPING bits as the wipes stand. -/
def showWiping (s : State) : State :=
  (List.range 16).foldl (fun s st =>
    (s.setF (Reg.MEM_STACK_STATUS_WIPING st) (b2n (s.wiping.any fun c => c / 32 == st))).setF Reg.MEM_WIPE_STATUS_WIPING
      (setBits (s.getF Reg.MEM_WIPE_STATUS_WIPING) st st (b2n (s.wiping.any fun c => c / 32 == st)))) s

/-- Channels start to be wiped. -/
def startWipe (cs : List Nat) (s : State) : State := { s with wiping := s.wiping ++ cs.filter fun c => !s.wiping.contains c }.showWiping

/-- The wipe of channels has ended. -/
def endWipe (cs : List Nat) (s : State) : State :=
  let mine := s.wiping.filter cs.contains
  let s := mine.foldl (fun s c => s.wipeChan (c / 32) (c % 32)) s
  { s with wiping := s.wiping.filter fun c => !cs.contains c }.showWiping

/-- Channels of a polder, as stack × 32 + channel. -/
def chanList (s : State) (p : Nat) : List Nat := (s.chansOf p).map fun k => k.1 * 32 + k.2

/-- The wipe of one polder asked for by MEM_WIPE_CTL. -/
def wipePolder (p : Nat) (s : State) : State :=
  if (s.wheel p).runs then s.setF Reg.MEM_WIPE_STATUS_REFUSED (setBits (s.getF Reg.MEM_WIPE_STATUS_REFUSED) p p 1)
  else s.startWipe (s.chanList p)

/-! ### Soft repairs (R397, R398) -/

/-- Fields of a repair entry. -/
def repChan (e : Nat) : Nat := bitsOf e 4 0
def repDie (e : Nat) : Nat := bitsOf e 8 5
def repBank (e : Nat) : Nat := bitsOf e 12 9
def repRow (e : Nat) : Nat := bitsOf e 21 13
def repKind (e : Nat) : Nat := bitsOf e 23 22
def repSpare (e : Nat) : Nat := bitsOf e 26 24

/-- The factory repair map of a stack: in the fuse block of its base die, where REPAIR_SUMMARY says (R24, R397). -/
def factoryMap (s : State) (st : Nat) : List Nat :=
  let b := SMap.get (fun _ => []) s.idents (6 + st)
  (List.range (numAt b 0x1C 2 / 4)).map fun k => numAt b (numAt b 0x18 4 + 4 * k) 4

/-- Whether two entries use one spare: a row's is of a channel and die, a lane's of a channel. -/
def sameSpare (a b : Nat) : Bool :=
  repChan a == repChan b && repKind a == repKind b && repSpare a == repSpare b && (repKind a == 1 || repDie a == repDie b)

/-- Whether an entry sets a field to a reserved value. -/
def repReserved (e : Nat) : Bool :=
  bitsOf e 31 27 != 0 || decide (2 ≤ repKind e) || decide (12 ≤ repDie e) ||
    (repKind e == 1 && (repBank e != 0 || decide (288 ≤ repRow e) || decide (4 ≤ repSpare e)))

/-- ERR of an APPLY (R398). -/
def repairErr (s : State) (st : Nat) : Nat :=
  let e := s.getF (Reg.MEM_REPAIR_ENTRY_ENTRY st)
  if (s.factoryMap st).any (sameSpare e) || s.soft.any (fun x => x.1 == st && sameSpare e x.2) then 1
  else if s.chanRuns st (repChan e) then 2
  else if repReserved e then 3
  else 0

/-- What a repair wipes: its row's eight tiles (R364), or, for a TSV lane, which every tile of the channel uses, the channel. -/
def wipeRepair (st e : Nat) (s : State) : State :=
  if repKind e = 1 then s.wipeChan st (repChan e)
  else
    let a := st * 0x1000000000 + repChan e * 0x80000000 + repDie e * 0x8000000 + repRow e * 262144 + repBank e * 16384
    s.wipeDram a (a + 16384)

/-! ### Margin tests (R399) -/

/-- The channels that a margin test of a stack takes. -/
def marginChans (s : State) (st : Nat) : List Nat :=
  if s.flag (Reg.MEM_MARGIN_CTL_ALL st) then (List.range 32).map fun c => st * 32 + c
  else [st * 32 + s.getF (Reg.MEM_MARGIN_CTL_CHANNEL st)]

/-- The voltage offset of a stack's test, in 5 mV steps. -/
def marginVolt (s : State) (st : Nat) : Int := signed 8 (s.getF (Reg.MEM_MARGIN_CTL_VOLT st))

/-- Whether START is refused. -/
def marginBad (s : State) (st : Nat) : Bool :=
  let v := s.marginVolt st
  let t := signed 8 (s.getF (Reg.MEM_MARGIN_CTL_TIMING st))
  (s.marginChans st).any (fun c => s.chanRuns st (c % 32)) || (v != 0 && !s.flag (Reg.MEM_MARGIN_CTL_ALL st)) ||
    decide (16 < v.natAbs) || decide (48 < t.natAbs)

/-- The offset of a stack's supply set: the supply moves from the offset before to the new one. -/
def moveVolt (st : Nat) (v : Int) (s : State) : State :=
  let old := SMap.get (fun _ => 0) s.moved st
  let s := s.setF (Reg.PWR_DOM_VOLT (256 + st)) (unsignedOf 8 ((s.getF (Reg.PWR_DOM_VOLT (256 + st)) : Int) + v - old))
  { s with moved := SMap.set (fun _ => 0) s.moved st v }

end State

/-- WEIR_REFILL (R376). -/
def execWeirRefill (s : State) : Host.Outcome State Fault Refusal := .next s.weirRefill

/-- APPLY (R398): the entry in MEM_REPAIR_ENTRY of a stack takes effect, or ERR says why not. -/
def execApplyRepair (stack : Nat) (s : State) : Host.Outcome State Fault Refusal :=
  let e := s.getF (Reg.MEM_REPAIR_ENTRY_ENTRY stack)
  let err := s.repairErr stack
  let s := s.setF (Reg.MEM_REPAIR_CTL_ERR stack) err
  if err ≠ 0 then .next s
  else
    let s := s.bump (Reg.MEM_REPAIR_CTL_SOFT_USED stack) 1
    .next { (s.wipeRepair stack e) with soft := s.soft ++ [(stack, e)] }

/-- MARGIN_START (R399), by the settings of MEM_MARGIN_CTL of a stack; while a test of the stack runs, it does nothing (log 37). -/
def execMarginStart (stack : Nat) (s : State) : Host.Outcome State Fault Refusal :=
  if s.flag (Reg.MEM_STACK_STATUS_MARGIN stack) then .next s
  else if s.marginBad stack then .next (s.setF (Reg.MEM_MARGIN_RESULT_FAIL stack) 1)
  else
    let s := ((s.setF (Reg.MEM_MARGIN_RESULT_FAIL stack) 0).setF (Reg.MEM_MARGIN_RESULT_DONE stack) 0).setF
      (Reg.MEM_STACK_STATUS_MARGIN stack) 1
    .next { (s.moveVolt stack (s.marginVolt stack)) with testing := s.testing ++ s.marginChans stack }

/-- MARGIN_DONE (R399): the bit errors seen, saturating; the offsets are removed and the tested channels are wiped. -/
def execMarginDone (stack errors : Nat) (s : State) : Host.Outcome State Fault Refusal :=
  if s.flag (Reg.MEM_STACK_STATUS_MARGIN stack) then
    let cs := s.testing.filter fun c => c / 32 == stack
    let s := ((s.setF (Reg.MEM_STACK_STATUS_MARGIN stack) 0).setF (Reg.MEM_MARGIN_RESULT_DONE stack) 1).setF
      (Reg.MEM_MARGIN_RESULT_BIT_ERRORS stack) (min errors 0xFFFFFFFF)
    let s := s.moveVolt stack 0
    .next ({ s with testing := s.testing.filter fun c => c / 32 != stack }.startWipe cs)
  else .next s

/-- WIPE (R401): MEM_WIPE_CTL written with a mask of polders. -/
def execWipe (polders : Nat) (s : State) : Host.Outcome State Fault Refusal :=
  .next (((List.range 8).filter (bitOf polders)).foldl (fun s p => s.wipePolder p) s)

/-- WIPE_DONE (R400, R401): the wipe of a scope of channels, as stack × 32 + channel, has ended. -/
def execWipeDone (chans : List Nat) (s : State) : Host.Outcome State Fault Refusal := .next (s.endWipe chans)

end Sys2Proof.Machine
end

