-- ==== Sys2Proof/Machine/JobRing.lean ====
section
/-! DEFINITION. The job ring (R221, R510 to R513): samples, the descriptor taken, completions. The MGC's writes that span tiles. -/

namespace Sys2Proof.Machine

/-! ### Status codes of MGT and SEC (R514) -/

def mgtEFormat : Nat := 0xA001
def mgtEBusy : Nat := 0xA002
def mgtEScope : Nat := 0xA003
def mgtEChannel : Nat := 0xA004
def mgtEPipe : Nat := 0xA005
def mgtECollective : Nat := 0xA006
def mgtERegistry : Nat := 0xA007
def mgtEModel : Nat := 0xA008
def mgtEWheel : Nat := 0xA009
def mgtESaggar : Nat := 0xA00A
def secEPresence : Nat := 0x9001
def secESignature : Nat := 0x9002
def secERollback : Nat := 0x9003
def secEStale : Nat := 0x9004
def secEAuth : Nat := 0x9005
def secEState : Nat := 0x9007
def secEKeyblob : Nat := 0x9008

/-! ### Descriptors (R511) -/

def jdKind (d : List Byte) : Nat := numAt d 0 1
def jdVersion (d : List Byte) : Nat := numAt d 1 1
def jdPolder (d : List Byte) : Nat := numAt d 2 1
def jdNotify (d : List Byte) : Bool := bitOf (numAt d 3 1) 0
def jdVector (d : List Byte) : Nat := numAt d 4 2 % 2048
def jdToken (d : List Byte) : Nat := numAt d 8 8
def jdAddr (d : List Byte) : Nat := numAt d 0x10 8
def jdLen (d : List Byte) : Nat := numAt d 0x18 4
def jdStep (d : List Byte) : Nat := numAt d 0x1C 4
def jdSeed (d : List Byte) : Nat := if jdVersion d = 2 then 0 else numAt d 0x20 8
def jdModels (d : List Byte) : Nat := if jdVersion d = 2 then 0 else numAt d 0x40 32
def jdNonce (d : List Byte) : List Byte := (d.drop 0x60).take 32

/-- Whether a descriptor has the form of R511; `allowed` is MGT_JD_VERSION.ALLOWED. -/
def jdOk (allowed : Nat) (d : List Byte) : Bool :=
  (jdVersion d == 2 || jdVersion d == 3) && bitOf allowed (jdVersion d) && decide (1 ≤ jdKind d) &&
    decide (jdKind d ≤ (if jdVersion d = 2 then 2 else 7)) && decide (jdPolder d < 8) && decide (numAt d 3 1 < 2) &&
    decide (numAt d 4 2 < 2048) && numAt d 6 2 == 0 && numAt d 0x28 24 == 0

namespace State

/-- The mapped part of a device address space that the MGC may read or write for a descriptor, to the end of its tile. -/
def reachable (a : Nat) : Bool :=
  match region a with
  | .dram _ _ | .scratch _ | .host => true
  | _ => false

/-- Bytes written by the MGC from a device address on, tile by tile (R150, R151). Nothing is written where nothing is mapped. -/
def storeSpan (s : State) (a : Nat) (l : List Byte) : State :=
  (List.range (l.length / 2048 + 2)).foldl (fun s k =>
    let lo := max a ((a / 2048 + k) * 2048)
    let hi := min (a + l.length) ((a / 2048 + k + 1) * 2048)
    if lo < hi ∧ reachable lo = true then s.store lo ((l.drop (lo - a)).take (hi - lo)) else s) s

/-! ### The completion ring (R513) -/

/-- Entries in use of the completion ring, and whether a record can be written. -/
def cqRoom (s : State) : Bool :=
  s.flag Reg.MGT_CQ_CFG_ENABLE &&
    decide (ringUsed (s.getF Reg.MGT_CQ_IDX_TAIL) (s.getF Reg.MGT_CQ_IDX_HEAD) < ringSize (s.getF Reg.MGT_CQ_CFG_LOG2_SIZE))

/-- A completion record written at TAIL. -/
def putCq (s : State) (l : List Byte) : State :=
  let t := s.getF Reg.MGT_CQ_IDX_TAIL
  (s.storeIn 3 (s.getF Reg.MGT_CQ_BASE_ADDR + 32 * (t % ringSize (s.getF Reg.MGT_CQ_CFG_LOG2_SIZE))) l).setF
    Reg.MGT_CQ_IDX_TAIL (t + 1)

/-- Completions that found no room are written as the host returns space, in order. -/
def flushCq : Nat → State → State
  | 0, s => s
  | n + 1, s =>
    match s.owedCq with
    | [] => s
    | (l, v) :: t =>
      if s.cqRoom then
        let s := { s with owedCq := t }.putCq l
        flushCq n (match v with
          | some v => s.send (.msix v)
          | none => s)
      else s

/-- A completion (R513): counted, traced, written once there is room, with the vector of a descriptor that set NOTIFY. -/
def complete (s : State) (token kind polder status detail idx len : Nat) (vector : Option Nat) : State :=
  let s := if status = 0 then s.bump Reg.MGT_CNT_ACCEPTED_COUNT 1 else s.bump Reg.MGT_CNT_REFUSED_COUNT 1
  let s := s.trace 3 polder status (idx % 65536) 0 token
  let l := bytesLE 8 token ++ bytesLE 1 kind ++ bytesLE 1 polder ++ bytesLE 2 status ++ bytesLE 4 detail ++ bytesLE 4 idx ++
    bytesLE 4 len ++ bytesLE 8 s.now
  let s := { s with owedCq := s.owedCq ++ [(l, vector)] }
  s.flushCq s.owedCq.length

/-- The completion of a descriptor. -/
def completeDesc (s : State) (d : List Byte) (idx status detail len : Nat) : State :=
  s.complete (jdToken d) (jdKind d) (jdPolder d) status detail idx len (if jdNotify d then some (jdVector d) else none)

/-! ### The submission ring (R221, R510) -/

/-- A polder's descriptor in progress. -/
def takenOf (s : State) (p : Nat) : Option Taken := SMap.get (fun _ => none) s.taken p

def setTaken (p : Nat) (t : Option Taken) (s : State) : State := { s with taken := SMap.set (fun _ => none) s.taken p t }

/-- The descriptor in progress of a polder, if it is of a kind. -/
def takenKind (s : State) (p k : Nat) : Option Taken := (s.takenOf p).filter fun t => jdKind t.desc == k

/-- A polder's descriptor is done, and the next one taken for the polder is in progress (R510). -/
def finish (p : Nat) (t : Taken) (status detail len : Nat) (s : State) : State :=
  let s := (s.setTaken p none).completeDesc t.desc t.idx status detail len
  match s.lined.find? fun x => jdPolder x.desc == p with
  | none => s
  | some x => { s with lined := s.lined.erase x }.setTaken p (some x)

/-- The descriptor at an index of the submission ring. -/
def descAt (s : State) (i : Nat) : List Byte :=
  s.bytes (s.getF Reg.MGT_SQ_BASE_ADDR + 2048 + 128 * (i % ringSize (s.getF Reg.MGT_SQ_CFG_LOG2_SIZE))) 128

/-- HEAD moves on: in the register, and in the ring's first tile. -/
def setHead (n : Nat) (s : State) : State :=
  (s.setF Reg.MGT_SQ_IDX_HEAD n).store (s.getF Reg.MGT_SQ_BASE_ADDR + 4) (bytesLE 4 n)

/-- The next descriptor taken, where there is one and the completion ring has room; it waits while its polder has one in progress, so
that it holds back no other polder's (R221, R510). One that does not have the form of R511 completes at once with MGT_E_FORMAT. -/
def takeDesc (s : State) : State :=
  let h := s.getF Reg.MGT_SQ_IDX_HEAD
  if ringUsed (s.getF Reg.MGT_SQ_IDX_TAIL) h = 0 ∨ s.cqRoom = false ∨ s.owedCq ≠ [] then s
  else
    let d := s.descAt h
    if jdOk (s.getF Reg.MGT_JD_VERSION_ALLOWED) d then
      (if (s.takenOf (jdPolder d)).isSome then { s.setHead (h + 1) with lined := s.lined ++ [⟨d, h⟩] }
       else (s.setHead (h + 1)).setTaken (jdPolder d) (some ⟨d, h⟩))
    else (s.setHead (h + 1)).completeDesc d h mgtEFormat 0 0

/-- A sample of TAIL, which takes descriptors in ring order. -/
def sampleSq (s : State) : State :=
  let s := (s.flushCq s.owedCq.length).bump Reg.MGT_CNT_SAMPLES_COUNT 1
  let s := { s.setF Reg.MGT_SQ_IDX_TAIL (s.memNat (s.getF Reg.MGT_SQ_BASE_ADDR) 4) with sq := 0 }
  (List.range (min 4096 (ringUsed (s.getF Reg.MGT_SQ_IDX_TAIL) (s.getF Reg.MGT_SQ_IDX_HEAD)))).foldl (fun s _ => s.takeDesc) s

end State

/-- SQ_SAMPLE (R221, R510): at a turn start of a running polder, or 100 ticks after the sample before. -/
def execSqSample (s : State) : Host.Outcome State Fault Refusal :=
  if s.flag Reg.MGT_STATUS_MAIN_UP && s.flag Reg.MGT_SQ_CFG_ENABLE && decide (100 ≤ s.sq) then .next s.sampleSq else .next s

end Sys2Proof.Machine
end

