-- ==== Sys2Proof/Machine/Registry.lean ====
section
/-! DEFINITION. The model registry (R391 to R396), sealed models (R500, R501), saggar regions (R502) and the jobs that name models
(R393, R395, R512). -/

namespace Sys2Proof.Machine

/-- The number of set bits among the low `n`. -/
def popCount (n v : Nat) : Nat := ((List.range n).filter (bitOf v)).length

/-- Fields of a registry entry (R391). -/
def reModel (e : List Byte) : Nat := numAt e 0 8
def reState (e : List Byte) : Nat := numAt e 8 1
def rePinned (e : List Byte) : Bool := bitOf (numAt e 9 1) 0
def reSealed (e : List Byte) : Bool := bitOf (numAt e 9 1) 1
def rePolder (e : List Byte) : Nat := numAt e 0x0A 1
def reSp (e : List Byte) : Nat := numAt e 0x0B 1
def reStacks (e : List Byte) : Nat := numAt e 0x0C 2
def reChans (e : List Byte) : Nat := numAt e 0x10 4
def reTpc (e : List Byte) : Nat := numAt e 0x14 4
def reOffset (e : List Byte) : Nat := numAt e 0x18 4
def reUsers (e : List Byte) : Nat := numAt e 0x1C 4
def reHome (e : List Byte) : Nat := bitsOf (numAt e 0x20 8) 57 0
def reLast (e : List Byte) : Nat := bitsOf (numAt e 0x28 8) 47 0

/-- The tiles of a model. -/
def reTiles (e : List Byte) : Nat := popCount 16 (reStacks e) * popCount 32 (reChans e) * reTpc e

/-- The runs of tiles of a region, in order of stack, then channel (R391): the first device address of each. -/
def regionRuns (stks chans off : Nat) : List Nat :=
  ((List.range 16).filter (bitOf stks)).flatMap fun st =>
    ((List.range 32).filter (bitOf chans)).map fun ch => st * 0x1000000000 + ch * 0x80000000 + off

/-- Two models overlap (R392). -/
def overlap (a b : List Byte) : Bool :=
  reStacks a &&& reStacks b != 0 && reChans a &&& reChans b != 0 && decide (reOffset a < reOffset b + 2048 * reTpc b) &&
    decide (reOffset b < reOffset a + 2048 * reTpc a)

/-- Whether an entry is LOADING or HOT. -/
def reLive (e : List Byte) : Bool := reState e == 2 || reState e == 3

namespace State

/-! ### Saggar regions (R502) -/

/-- The tiles of a saggar region wiped. -/
def wipeSaggar (n : Nat) (s : State) : State :=
  (regionRuns (s.getF (Reg.SEC_SAGGAR_STACKS n)) (s.getF (Reg.SEC_SAGGAR_CHANS n)) (s.getF (Reg.SEC_SAGGAR_OFFSET n))).foldl
    (fun s a => s.wipeDram a (a + 2048 * s.getF (Reg.SEC_SAGGAR_TILES n))) s

/-- A region entered in SEC_SAGGAR, where there is a free place. -/
def addSaggar (polder source entry stks chans off tiles : Nat) (s : State) : Option State :=
  ((List.range 64).find? fun n => !s.flag (Reg.SEC_SAGGAR_VALID n)).map fun n =>
    let s := ((s.setF (Reg.SEC_SAGGAR_VALID n) 1).setF (Reg.SEC_SAGGAR_SOURCE n) source).setF (Reg.SEC_SAGGAR_POLDER n) polder
    let s := ((s.setF (Reg.SEC_SAGGAR_ENTRY n) entry).setF (Reg.SEC_SAGGAR_STACKS n) stks).setF (Reg.SEC_SAGGAR_CHANS n) chans
    (s.setF (Reg.SEC_SAGGAR_OFFSET n) off).setF (Reg.SEC_SAGGAR_TILES n) tiles

/-- A region wiped, and live no longer. -/
def dropSaggar (n : Nat) (s : State) : State :=
  let s := s.wipeSaggar n
  { s with regs := (List.range 4).foldl (fun r w => SMap.set winReset r (0x801000 + 16 * n + 4 * w) 0) s.regs }

/-- The live regions of a source that a test picks. -/
def saggars (s : State) (source : Nat) (f : Nat → Bool) : List Nat :=
  (List.range 64).filter fun n => s.flag (Reg.SEC_SAGGAR_VALID n) && s.getF (Reg.SEC_SAGGAR_SOURCE n) == source && f n

/-! ### Entries -/

/-- A registry entry. -/
def entry (s : State) (n : Nat) : List Byte := s.bytes (s.getF Reg.MEM_REG_BASE_ADDR + 64 * n) 64

/-- Bytes of an entry written by the MGC. -/
def putEntry (n off : Nat) (l : List Byte) (s : State) : State := s.store (s.getF Reg.MEM_REG_BASE_ADDR + 64 * n + off) l

/-- MEM_REG_USED as the entries stand (R392). -/
def showUsed (p : Nat) (s : State) : State :=
  let es := ((List.range 256).map s.entry).filter fun e => rePolder e == p && reLive e
  (s.setF (Reg.MEM_REG_USED_TILES p) ((es.map reTiles).foldl (· + ·) 0)).setF (Reg.MEM_REG_USED_SP_TILES p)
    ((es.map reSp).foldl (· + ·) 0)

/-- STATE of an entry set, with a trace record. -/
def setEntryState (n st : Nat) (s : State) : State :=
  let s := s.putEntry n 8 (bytesLE 1 st)
  (s.showUsed (rePolder (s.entry n))).trace 4 (rePolder (s.entry n)) st n 0 0

/-- A flag of an entry set or cleared: 0 PINNED, 2 FAILED. -/
def setEntryFlag (n bit : Nat) (v : Bool) (s : State) : State :=
  s.putEntry n 9 (bytesLE 1 (setBits (numAt (s.entry n) 9 1) bit bit (b2n v)))

/-- A use of an entry now. -/
def useEntry (n : Nat) (s : State) : State := s.putEntry n 0x28 (bytesLE 8 s.now)

/-- USERS of an entry raised or lowered, which is a use. -/
def addUser (n : Nat) (s : State) : State := (s.putEntry n 0x1C (bytesLE 4 (reUsers (s.entry n) + 1))).useEntry n
def dropUser (n : Nat) (s : State) : State := (s.putEntry n 0x1C (bytesLE 4 (reUsers (s.entry n) - 1))).useEntry n

/-- A SEALED entry's region, wiped, live no longer (R502). -/
def closeRegion (n : Nat) (s : State) : State :=
  (s.saggars 0 fun k => s.getF (Reg.SEC_SAGGAR_ENTRY k) == n).foldl (fun s k => s.dropSaggar k) s

/-- An eviction (R394). -/
def evictOne (n : Nat) (s : State) : State :=
  ((s.closeRegion n).setEntryState n 1).bump Reg.MEM_CNT_REG_EVICT_COUNT 1

/-! ### Making room (R392, R393) -/

/-- The model key of an entry's polder for its model (R499); empty for none. -/
def modelKey (s : State) (e : List Byte) : List Byte :=
  match (List.range 16).find? fun k =>
      let x := SMap.get (fun _ => []) s.keys (rePolder e * 17 + k)
      !x.isEmpty && numAt x 0 8 == reModel e with
  | some k => (SMap.get (fun _ => []) s.keys (rePolder e * 17 + k)).drop 8
  | none => []

/-- Whether an entry may be evicted to make room: HOT, not PINNED, without users. -/
def evictable (e : List Byte) : Bool := reState e == 3 && !rePinned e && reUsers e == 0

/-- An entry put in its place in a list that starts with the least recently used one; of two used at one tick, the lower number is
taken first. -/
def insertUse (s : State) (n : Nat) : List Nat → List Nat
  | [] => [n]
  | k :: t => if reLast (s.entry n) ≤ reLast (s.entry k) then n :: k :: t else k :: s.insertUse n t

/-- Entries, least recently used first. -/
def byUse (s : State) (l : List Nat) : List Nat := l.foldr s.insertUse []

/-- Whether R392 holds for an entry made LOADING now. -/
def budgetOk (s : State) (e : List Byte) : Bool :=
  let p := rePolder e
  decide (s.getF (Reg.MEM_REG_USED_TILES p) + reTiles e ≤ s.getF (Reg.MEM_REG_BUDGET_TILES p)) &&
    decide (s.getF (Reg.MEM_REG_USED_SP_TILES p) + reSp e ≤ s.getF (Reg.MEM_REG_BUDGET_SP_TILES p))

/-- Evictions until the budget holds, least recently used first; nothing where they do not suffice. -/
def freeBudget (e : List Byte) : List Nat → State → Option State
  | [], s => if s.budgetOk e then some s else none
  | n :: t, s => if s.budgetOk e then some s else freeBudget e t (s.evictOne n)

/-- Room made for an entry: the overlapping models evicted, then as many as the budget takes; nothing where no set of evictions
makes room. -/
def makeRoom (n : Nat) (s : State) : Option State :=
  let e := s.entry n
  let live := (List.range 256).filter fun k => k != n && reLive (s.entry k)
  let met := live.filter fun k => overlap e (s.entry k)
  if !met.all (fun k => evictable (s.entry k) && rePolder (s.entry k) == rePolder e) then none
  else
    let s := (s.byUse met).foldl (fun s k => s.evictOne k) s
    s.freeBudget e (s.byUse (live.filter fun k => !met.contains k && rePolder (s.entry k) == rePolder e && evictable (s.entry k)))

/-- A load started: the entry becomes LOADING, and the region of a SEALED one a saggar region; nothing where R392 cannot hold or no
region is free. -/
def startLoad (n : Nat) (s : State) : Option State :=
  (s.makeRoom n).bind fun s =>
    let s := (s.setEntryFlag n 2 false).setEntryState n 2
    let e := s.entry n
    if reSealed e then s.addSaggar (rePolder e) 0 n (reStacks e) (reChans e) (reOffset e) (reTpc e) else some s

/-- Whether an entry waits for its model key (R501). -/
def waitsKey (s : State) (e : List Byte) : Bool := reSealed e && (s.modelKey e).isEmpty

/-! ### Jobs that name entries -/

/-- The entries that a mask names. -/
def namedBy (m : Nat) : List Nat := (List.range 256).filter (bitOf m)

/-- The job bit of a polder in MGT_STATUS. -/
def showJob (p : Nat) (s : State) : State :=
  s.setF Reg.MGT_STATUS_JOBS (setBits (s.getF Reg.MGT_STATUS_JOBS) p p (b2n (s.job p).active))

/-- A job gone: its declared saggar regions are wiped and its registry uses released (R502, R512). One whose sections are still being
written ends its INSTALL with MGT_E_MODEL. -/
def dropJob (p : Nat) (s : State) : State :=
  let j := s.job p
  let s := match (if j.writing then s.takenKind p 1 else none) with
    | some x => s.finish p x mgtEModel 0 0
    | none => s
  let s := (s.saggars 1 fun k => s.getF (Reg.SEC_SAGGAR_POLDER k) == p).foldl (fun s k => s.dropSaggar k) s
  let s := if j.active then (namedBy j.models).foldl (fun s n => s.dropUser n) s else s
  (s.setJob p Job.none).showJob p

/-- Loads of COLD entries that a job names and that can now start (R393, R501). -/
def loadNamed (p : Nat) (s : State) : State :=
  if (s.job p).active then
    (namedBy (s.job p).models).foldl (fun s n =>
      let e := s.entry n
      if reState e = 1 ∧ s.waitsKey e = false then (s.startLoad n).getD s else s) s
  else s

/-- RUN set by the MGC once an installed job's entries are HOT and no PERMUTE that it started still copies (R512, R538). -/
def tryRun (p : Nat) (s : State) : State :=
  let j := s.job p
  if j.active && !j.writing && !j.started && (namedBy j.models).all (fun n => reState (s.entry n) == 3) &&
      (s.opsOf p).all (fun k => match s.colOp k.1 p k.2 with
        | some o => o.kind != 3 || !o.active || permDone o
        | none => true) then
    (s.setJob p { j with started := true }).runWheel p
  else s

/-- A failed load: COLD with FAILED, the jobs that name the entry retired with MGT_E_MODEL (R395, R512). -/
def failLoad (n : Nat) (s : State) : State :=
  let s := ((s.closeRegion n).setEntryState n 1).setEntryFlag n 2 true
  let s := ((s.bump Reg.MEM_CNT_REG_FAIL_COUNT 1).setF Reg.MEM_REG_STATUS_INDEX n).setF Reg.MEM_REG_STATUS_ERR 4
  ((List.range 8).filter fun p => (s.job p).active && bitOf (s.job p).models n).foldl (fun s p =>
    let j := s.job p
    (s.dropJob p).complete j.token 2 p mgtEModel n j.ringIdx 0 (if j.notify then some j.vector else none)) s

/-! ### Loads (R394, R500, R501) -/

/-- Whether a home lies in host memory of this package. -/
def hostHome (s : State) (e : List Byte) : Bool :=
  reHome e / 2 ^ 44 == s.pkgId && decide (region (reHome e % 2 ^ 44) = .host)

/-- The bytes of a sealed image: the header, and each chunk's records, tiles and tag. -/
def sealedSize (tiles : Nat) : Nat := 128 + 2064 * tiles + 16 * ceilDiv tiles 64

/-- Whether a sealed image's header is right (R500). -/
def sealedHeader (e img : List Byte) : Bool :=
  numAt img 0 4 == 0x4C414553 && numAt img 4 1 == 1 && numAt img 5 3 == 0 && numAt img 8 8 == reModel e &&
    numAt img 0x10 4 == reTiles e && numAt img 0x14 4 == 0 && numLE ((img.drop 0x20).take 96) == 0 && sealedSize (reTiles e) == img.length

/-- The tiles of a sealed image's chunks from chunk `c` on, `n` tiles left; nothing when a tag does not verify. -/
def openChunks (key img : List Byte) : Nat → Nat → List Byte → Option (List Tile)
  | 0, _, _ => some []
  | f + 1, c, rest =>
    if rest.isEmpty then some []
    else
      let k := min (64 * 2064 + 16) rest.length
      let iv := (img.drop 0x18).take 8 ++ bytesLE 4 c
      match Config.gcmOpen key iv (img.take 32 ++ bytesLE 4 c) (rest.take k) with
      | none => none
      | some plain =>
        let tile (i : Nat) : Tile :=
          let r := (plain.drop (2064 * i)).take 2064
          ⟨r.drop 16, BitVec.ofNat 64 (numAt r 0 8), BitVec.ofNat 64 (numAt r 8 8)⟩
        (openChunks key img f (c + 1) (rest.drop k)).map ((List.range ((k - 16) / 2064)).map tile ++ ·)

/-- The home of a model as read: its bytes for a SEALED one, its tiles otherwise; nothing where the read failed. -/
def homeTiles (s : State) (e : List Byte) (r : LoadResult) : Option (List Tile) :=
  let a := reHome e % 2 ^ 44
  match r with
  | .failed => none
  | .host =>
    if s.hostHome e then some ((List.range (reTiles e)).map fun k => s.farTile 0 (a + 2048 * k)) else none
  | .tiles l => if reHome e / 2 ^ 44 ≠ s.pkgId ∧ l.length = reTiles e then some (l.map fun t => ⟨t.1, t.2.1, t.2.2⟩) else none

/-- A SEALED home as read. -/
def homeImage (s : State) (e : List Byte) (r : LoadResult) : Option (List Byte) :=
  let n := sealedSize (reTiles e)
  match r with
  | .failed => none
  | .host => if s.hostHome e then some (s.bytes (reHome e % 2 ^ 44) n) else none
  | .tiles l => if reHome e / 2 ^ 44 ≠ s.pkgId ∧ n ≤ (l.flatMap (·.1)).length then some ((l.flatMap (·.1)).take n) else none

/-- The tiles written into a model's region, in its order; a channel that the model's polder does not own ends the load (R372). -/
def writeModel (e : List Byte) (ts : List Tile) (s : State) : Option State :=
  let runs := regionRuns (reStacks e) (reChans e) (reOffset e)
  match runs.find? fun a => !s.ownsAddr (rePolder e) a with
  | some _ => none
  | none =>
    some ((List.range ts.length).foldl (fun s k =>
      match ts[k]?, runs[k / max 1 (reTpc e)]? with
      | some t, some a => s.putTile (a + 2048 * (k % max 1 (reTpc e))) t
      | _, _ => s) s)

/-- The load of an entry ended well: HOT, and what waited for it goes on. -/
def goHot (n : Nat) (s : State) : State :=
  let s := (s.setEntryState n 3).bump Reg.MEM_CNT_REG_LOAD_COUNT 1
  (List.range 8).foldl (fun s p => s.tryRun p) s

/-- The tiles found are written, or the dike refuses the load. -/
def endLoad (n : Nat) (e : List Byte) (ts : List Tile) (s : State) : State :=
  match s.writeModel e ts with
  | some s => s.goHot n
  | none =>
    let bad := ((regionRuns (reStacks e) (reChans e) (reOffset e)).find? fun a => !s.ownsAddr (rePolder e) a).getD 0
    (s.dikeFail 4 (rePolder e) bad).failLoad n

/-- A load ended: tiles as they are, or opened under the model key. -/
def loadDone (n : Nat) (r : LoadResult) (s : State) : State :=
  let e := s.entry n
  if reSealed e then
    match s.homeImage e r with
    | none => s.failLoad n
    | some img =>
      let opened := if sealedHeader e img then openChunks (s.modelKey e) img (reTiles e + 1) 0 (img.drop 128) else none
      (match opened with
      | some ts =>
        let s := { s with rtp := { s.rtp with models := SMap.set (fun _ => []) s.rtp.models n (Config.sha384 img) } }
        s.endLoad n e ts
      | none => ((s.bump Reg.SEC_CNT_AUTH_FAIL_COUNT 1).security (rePolder e) secEAuth n).failLoad n)
  else
    match s.homeTiles e r with
    | none => s.failLoad n
    | some ts => s.endLoad n e ts

/-! ### MEM_REG_CMD (R396) -/

/-- The status of the last operation. -/
def regStatus (n err : Nat) (s : State) : State := (s.setF Reg.MEM_REG_STATUS_INDEX n).setF Reg.MEM_REG_STATUS_ERR err

end State

/-- PIN (R396). -/
def execPinEntry (index : Nat) (s : State) : Host.Outcome State Fault Refusal :=
  if reState (s.entry index) = 0 then .next (s.regStatus index 5)
  else .next (((s.setEntryFlag index 0 true).useEntry index).regStatus index 0)

/-- UNPIN (R396). -/
def execUnpinEntry (index : Nat) (s : State) : Host.Outcome State Fault Refusal :=
  if reState (s.entry index) = 0 then .next (s.regStatus index 5)
  else .next ((s.setEntryFlag index 0 false).regStatus index 0)

/-- EVICT (R394, R396): of an entry that is neither LOADING nor HOT there is nothing to evict. -/
def execEvictEntry (index : Nat) (s : State) : Host.Outcome State Fault Refusal :=
  let e := s.entry index
  if reUsers e ≠ 0 then .next (s.regStatus index 1)
  else if rePinned e then .next (s.regStatus index 3)
  else if reLive e then .next ((s.evictOne index).regStatus index 0)
  else .next (s.regStatus index 0)

/-- LOAD (R393, R396): a COLD entry starts to load, unless it waits for its key; of any other there is nothing to load. -/
def execRegLoad (index : Nat) (s : State) : Host.Outcome State Fault Refusal :=
  let e := s.entry index
  if reState e = 1 ∧ s.waitsKey e = false then
    match s.startLoad index with
    | some t => .next ((t.useEntry index).regStatus index 0)
    | none => .next (s.regStatus index 2)
  else .next ((s.useEntry index).regStatus index 0)

/-- REG_LOAD_COMPLETE (R394, R395, R501): the load of a LOADING entry ends. -/
def execRegLoadComplete (index : Nat) (r : LoadResult) (s : State) : Host.Outcome State Fault Refusal :=
  if reState (s.entry index) = 2 then .next (s.loadDone index r) else .next s

end Sys2Proof.Machine
end

