-- ==== Sys2Proof/Machine/Loader.lean ====
section
/-! DEFINITION. Signed manifests (R484, R485), firmware slots (R486, R487) and the configuration loader (R523 to R529). -/

namespace Sys2Proof.Machine

/-! ### Manifests (R484) -/

def mfKind (m : List Byte) : Nat := numAt m 5 1
def mfIndex (m : List Byte) : Nat := numAt m 6 1
def mfSvn (m : List Byte) : Nat := numAt m 8 4
def mfBind (m : List Byte) : Nat := numAt m 0x10 8

/-- TYPE, LENGTH, LOCATION and DIGEST of a component. -/
def mfType (m : List Byte) (k : Nat) : Nat := numAt m (0x20 + 64 * k) 4
def mfLength (m : List Byte) (k : Nat) : Nat := numAt m (0x24 + 64 * k) 4
def mfLocation (m : List Byte) (k : Nat) : Nat := numAt m (0x28 + 64 * k) 8
def mfDigest (m : List Byte) (k : Nat) : List Byte := (m.drop (0x30 + 64 * k)).take 48

/-- Components of a manifest. -/
def mfComps (m : List Byte) : List Nat := List.range (numAt m 7 1)

/-- Whether a manifest has the form of R484, as a KIND. -/
def mfForm (kind : Nat) (m : List Byte) : Bool :=
  decide (17152 ≤ m.length) && numAt m 0 4 == 0x4E414D51 && numAt m 4 1 == 1 && mfKind m == kind &&
    decide (1 ≤ numAt m 7 1) && decide (numAt m 7 1 ≤ 8) && decide (mfSvn m < 128) && numAt m 0xC 4 == 0 && numAt m 0x18 8 == 0 &&
    (if kind = 1 ∨ kind = 4 then decide (mfIndex m < 4) else mfIndex m == 0) &&
    (List.range 8).all fun k => decide (k < numAt m 7 1) || numLE ((m.drop (0x20 + 64 * k)).take 64) == 0

/-- Whether both signatures of a manifest verify under a key set (R485). -/
def mfSigned (keys m : List Byte) : Bool :=
  let r := Config.signed keys (m.take 0x220) ((m.drop 0x220).take 384) ((m.drop 0x3A0).take 16224)
  r.1 && r.2

namespace State

/-- Whether a manifest is bound to no package or to this one. -/
def bound (s : State) (m : List Byte) : Bool := mfBind m == 0 || mfBind m == s.getF Reg.MGT_PKG_SERIAL_SERIAL

/-- Whether a manifest verifies under the Quobriak pair it names (R485). -/
def quobriakOk (s : State) (m : List Byte) : Bool :=
  s.bound m && decide (s.rtp.revoke ≤ mfIndex m) && mfSigned (Config.quobriakKey (mfIndex m)) m

/-! ### Flash (R523) -/

/-- Bytes of the flash. -/
def flashN (s : State) (a n : Nat) : List Byte := (List.range n).map fun k => SMap.get (fun _ => 0xFF) s.flash (a + k)

/-- Bytes written to the flash. -/
def putFlash (a : Nat) (l : List Byte) (s : State) : State :=
  { s with flash := (List.range l.length).foldl (fun m k => SMap.set (fun _ => 0xFF) m (a + k) (l.getD k 0xFF)) s.flash }

/-- Where a firmware slot and a configuration copy lie. -/
def slotBase (b : Bool) : Nat := if b then 0x1A00000 else 0x200000
def copyBase (b : Bool) : Nat := if b then 0x4200000 else 0x3200000

/-! ### The owner record (R482, R483) -/

/-- The owner record in use: one whose OWNER_GEN equals the counter cells'. -/
def owner (s : State) : Option OwnerRec :=
  ([s.rtp.ownerA, s.rtp.ownerB].filterMap id).find? fun r => r.gen == s.rtp.ownerGen

/-- The record in use, or the one that is written where there is none. -/
def ownerOr (s : State) : OwnerRec := s.owner.getD ⟨s.rtp.ownerGen, 1, [], false, none⟩

/-- The owner record written to both copies. -/
def putOwner (r : OwnerRec) (s : State) : State := { s with rtp := { s.rtp with ownerA := some r, ownerB := some r } }

/-! ### Firmware (R486, R487) -/

/-- SEC_BOOT_STATUS of a slot tried now: 1 booted, 2 signature, 3 rollback, 4 component digest, 5 malformed. -/
def slotStatus (s : State) (b : Bool) : Nat :=
  let m := s.flashN (slotBase b) 17152
  if !mfForm 1 m then 5
  else if !s.quobriakOk m then 2
  else if mfSvn m < s.rtp.fwSvn ∧ s.ownerOr.rollback ≠ some (mfSvn m, true) then 3
  else if !(mfComps m).all fun k => padTo 48 (Config.sha384 (s.flashN (mfLocation m k) (mfLength m k))) == mfDigest m k then 4
  else 1

/-- A slot booted: the MGC starts. A boot below FW_SVN uses up its permission. -/
def runSlot (b : Bool) (s : State) : State :=
  let m := s.flashN (slotBase b) 17152
  let low := decide (mfSvn m < s.rtp.fwSvn)
  let s := if low then s.putOwner { s.ownerOr with rollback := none } else s
  let s := ((s.setF Reg.SEC_STATUS_SLOT (b2n b)).setF Reg.SEC_STATUS_ROLLBACK (b2n low)).setF Reg.SEC_SVN_IMAGE_SVN (mfSvn m)
  { s with rtp := { s.rtp with mgc := true, svn := mfSvn m, bundle := (mfComps m).map fun k => (mfType m k, mfDigest m k) } }

/-- A slot tried, its status shown. -/
def trySlot (b : Bool) (s : State) : State :=
  let st := s.slotStatus b
  let s := s.setF (if b then Reg.SEC_BOOT_STATUS_SLOT_B else Reg.SEC_BOOT_STATUS_SLOT_A) st
  if st = 1 then s.runSlot b else s

/-- Steps 1 to 4 of R486. When both slots fail, ALERT# is raised. -/
def bootFirmware (s : State) : State :=
  let s := { (s.setF Reg.SEC_BOOT_STATUS_SLOT_A 0).setF Reg.SEC_BOOT_STATUS_SLOT_B 0 with rtp := { s.rtp with mgc := false } }
  let b := s.ownerOr.namesB
  let s := s.trySlot b
  let s := if s.rtp.mgc then s else s.trySlot (!b)
  if s.rtp.mgc then s else s.raise .bootFailed

end State

/-! ### Configuration images (R525, R526) -/

def imgVersion (i : List Byte) : Nat := numAt i 4 1
def imgLength (i : List Byte) : Nat := numAt i 8 4
def imgPkg (i : List Byte) : Nat := numAt i 0xC 2 % 2 ^ 14
def imgSeq (i : List Byte) : Nat := numAt i 0x10 4

/-- Section `k` of an image: TYPE, COUNT, OFFSET. -/
def imgSection (i : List Byte) (k : Nat) : Nat × Nat × Nat :=
  (numAt i (0x40 + 16 * k) 1, numAt i (0x42 + 16 * k) 2, numAt i (0x44 + 16 * k) 4)

/-- Record size of a section type. -/
def recSize (t : Nat) : Nat := [0, 16, 48, 32, 16, 4].getD t 0

/-- The records of a type, each with its section's number and its own within the section. -/
def imgRecs (i : List Byte) (t : Nat) : List (Nat × Nat × List Byte) :=
  ((List.range (numAt i 6 2)).filter fun k => (imgSection i k).1 == t).flatMap fun k =>
    (List.range (imgSection i k).2.1).map fun r => (k, r, (i.drop ((imgSection i k).2.2 + recSize t * r)).take (recSize t))

/-- The register writes of an image: section, offset, value. -/
def imgRegs (i : List Byte) : List (Nat × Nat × Nat) := (imgRecs i 1).map fun r => (r.1, numAt r.2.2 0 8 % 2 ^ 26, numAt r.2.2 8 8)

/-- The SYSTEM record. -/
def imgSystem (i : List Byte) : List Byte := ((imgRecs i 3).head?.map (·.2.2)).getD []

/-- Whether bytes of a record are zero. -/
def zeroIn (l : List Byte) (o n : Nat) : Bool := numAt l o n == 0

/-- Whether a register may be a target of REGS (R526): one with an RWL field, or one with an RW field of a block that R526 names,
outside the core pages. -/
def regsTarget (off : Nat) : Bool :=
  if 0x1000000 ≤ off then
    (match findReg ((off - 0x1000000) % 0x1000) pageRegs with
    | some d => d.1.fields.any fun f => f.acc == .rwl
    | none => false)
  else match findReg off winRegs with
    | some d =>
      d.1.fields.any (fun f => f.acc == .rwl) ||
        (d.1.fields.any (fun f => f.acc == .rw) && ["PWR", "TEL", "MEM", "KLN", "LNK", "COL", "MFE", "WHL"].contains ((d.1.name.take 3).toString))
    | none => false

/-- Whether a record of a section type has its form. -/
def recOk (ver t : Nat) (l : List Byte) : Bool :=
  match t with
  | 1 => decide (numAt l 0 8 < 2 ^ 26) && regsTarget (numAt l 0 8)
  | 2 => decide (numAt l 32 1 < 2) && zeroIn l 33 15
  | 3 => decide (numAt l 0 1 < 2) && decide (numAt l 1 1 < 4) && decide (numAt l 2 1 < 16) && decide (numAt l 3 1 < 4) &&
      decide (numAt l 4 1 < 4) && zeroIn l 5 3 && zeroIn l 12 20
  | 4 => decide (1 ≤ numAt l 0 1) && decide (numAt l 0 1 ≤ 4) && zeroIn l 1 3 && decide (12 ≤ numAt l 4 1) && decide (numAt l 4 1 ≤ 40) &&
      zeroIn l 5 3 && numAt l 8 8 % 2 ^ numAt l 4 1 == 0
  | _ => ver != 1 && decide (numAt l 0 1 < 16) && decide (1 ≤ numAt l 1 1) && decide (numAt l 1 1 ≤ 3) && zeroIn l 3 1 &&
      (if numAt l 1 1 = 1 then decide (numAt l 2 1 < 8) else numAt l 2 1 == 0xFF)

namespace State

/-- A register word as it stands, and written, wherever it lives; no lock or access kind is looked at. -/
def rawWord (s : State) (off : Nat) : Word :=
  if off < 0x1000000 then SMap.get winReset s.regs off
  else SMap.get pageReset (s.core ((off - 0x1000000) / 0x1000)).page (off % 0x1000)

def putWord (off : Nat) (v : Word) (s : State) : State :=
  if off < 0x1000000 then { s with regs := SMap.set winReset s.regs off v }
  else s.modCore ((off - 0x1000000) / 0x1000) fun c => { c with page := SMap.set pageReset c.page (off % 0x1000) v }

/-- 32-bit words of the register at an offset. -/
def regWords (off : Nat) : Nat :=
  match (if off < 0x1000000 then findReg off winRegs else findReg ((off - 0x1000000) % 0x1000) pageRegs) with
  | some (d, w) => d.words - w
  | none => 0

/-- A record of REGS written: the fields that can be written take the value's bits. -/
def putRegs (off v : Nat) (s : State) : State :=
  let write (off v : Nat) (s : State) : State :=
    match (if off < 0x1000000 then findReg off winRegs else findReg ((off - 0x1000000) % 0x1000) pageRegs) with
    | some (d, w) =>
      let old := (s.rawWord off).toNat
      s.putWord off (BitVec.ofNat 32 (d.fields.foldl (fun x f =>
        if (f.acc = .rwl ∨ f.acc = .rw) ∧ 32 * w ≤ f.hi ∧ f.lo < 32 * w + 32 then
          setBits x (min 31 (f.hi - 32 * w)) (f.lo - 32 * w) (v / 2 ^ (f.lo - 32 * w))
        else x) old))
    | none => s
  let s := write off (v % 2 ^ 32) s
  if 2 ≤ regWords off then write (off + 4) (v / 2 ^ 32) s else s

/-! ### Claims (R528) -/

/-- The claims of an image, as (class, index, section): of timers, clusters, and what one register each assigns. A version 1 image's
timers are claimed by the loader. -/
def claims (img : List Byte) : List (Nat × Nat × Nat) :=
  let sys := imgSystem img
  let sysSec := ((imgRecs img 3).head?.map (·.1)).getD 0
  let tmark := (if numAt sys 0 1 = 0 then [(1, 0, sysSec)] else []) ++ if bitOf (numAt sys 1 1) 1 then [(1, 0, sysSec)] else []
  let timers := (imgRecs img 5).map fun r => (2, numAt r.2.2 0 1, r.1)
  let clusters := (imgRecs img 2).flatMap fun r =>
    if bitOf (numAt r.2.2 32 1) 0 then ((List.range 256).filter (bitOf (numAt r.2.2 0 32))).map fun c => (4, c, r.1) else []
  let rec' := imgRegs img
  let chans := rec'.flatMap fun r => (List.range 16).flatMap fun st => (List.range 4).flatMap fun j =>
    if r.2.1 = (Reg.MEM_CHAN_OWNER_OWNER st j).off then
      ((List.range 8).filter fun k => bitsOf r.2.2 (4 * k + 3) (4 * k) != 15).map fun k => (5, st * 32 + 8 * j + k, r.1) else []
  let ways := rec'.flatMap fun r => (List.range 16).flatMap fun st => (List.range 8).flatMap fun p =>
    if r.2.1 = (Reg.MEM_WAYS_WAYS st p).off then ((List.range 16).filter (bitOf r.2.2)).map fun w => (6, st * 16 + w, r.1) else []
  let slices := rec'.flatMap fun r => (List.range 4).flatMap fun m =>
    if r.2.1 = (Reg.MFE_SHARE_SLICE m).off then
      ((List.range 16).filter fun k => bitsOf r.2.2 (4 * k + 3) (4 * k) != 15).map fun k => (9, m * 16 + k, r.1) else []
  let phases := rec'.flatMap fun r => (List.range 16).flatMap fun p => (List.range 16).flatMap fun v =>
    if r.2.1 = (Reg.LNK_VC_CFG_PHASES p v).off then ((List.range 16).filter (bitOf r.2.2)).map fun f => (10, p * 16 + f, r.1) else []
  tmark ++ timers ++ clusters ++ chans ++ ways ++ slices ++ phases

/-- The first claim of a resource that a claim before it has. -/
def clash : List (Nat × Nat × Nat) → List (Nat × Nat × Nat) → Option (Nat × Nat × Nat × Nat)
  | _, [] => none
  | seen, c :: t =>
    match seen.find? fun d => d.1 == c.1 && d.2.1 == c.2.1 with
    | some d => some (c.1, c.2.1, d.2.2, c.2.2)
    | none => clash (seen ++ [c]) t

/-- Host-window ranges of WINDOWS records that overlap: the number of the second, and the sections. -/
def windowClash (img : List Byte) : Option (Nat × Nat × Nat × Nat) :=
  let ws := (imgRecs img 4).map fun r => (r.1, numAt r.2.2 8 8, 2 ^ numAt r.2.2 4 1)
  (List.range ws.length).findSome? fun k => match ws[k]? with
    | some w => (ws.take k).findSome? fun u =>
        if u.2.1 < w.2.1 + w.2.2 ∧ w.2.1 < u.2.1 + u.2.2 then some (3, k, u.1, w.1) else none
    | none => none

/-- The first and the last section that writes one of some registers. -/
def writers (img : List Byte) (f : Nat → Bool) : Nat × Nat :=
  let l := (imgRegs img).filter fun r => f r.2.1
  (((l.head?).map (·.1)).getD 0, ((l.getLast?).map (·.1)).getD 0)

/-- Capacity of a weir's point in sectors per 16 cycles (R375). -/
def pointCapacity (pt : Nat) : Nat := [128, 32, 256].getD pt 0

/-- Sum over 0, 1, ..., n-1. -/
def sumUpto (n : Nat) (f : Nat → Nat) : Nat := ((List.range n).map f).foldl (· + ·) 0

/-- The resources that an image shares out beyond their size, in the registers as the image leaves them. -/
def sumClash (s : State) (img : List Byte) : Option (Nat × Nat × Nat × Nat) :=
  let weirs := (List.range 16).findSome? fun st => (List.range 3).findSome? fun pt =>
    if pointCapacity pt < sumUpto 9 (fun b => s.getF (Reg.MEM_WEIR_RATE st b pt)) ∨ 4096 < sumUpto 9 (fun b => s.getF (Reg.MEM_WEIR_BURST st b pt))
    then some (7, st * 3 + pt, writers img fun o => (List.range 9).any fun b => o == (Reg.MEM_WEIR_RATE st b pt).off) else none
  let basins := (List.range 16).findSome? fun i =>
    if 4096 < sumUpto 8 (fun p => s.getF (Reg.KLN_BASIN_SHARE_FRAMES i p)) then
      some (8, i, writers img fun o => (List.range 8).any fun p => o == (Reg.KLN_BASIN_SHARE_FRAMES i p).off) else none
  let bufs := (List.range 16).findSome? fun p =>
    if 16384 < sumUpto 16 (fun v => s.getF (Reg.LNK_VC_BUF_BUF_UNITS p v)) then
      some (11, p, writers img fun o => (List.range 16).any fun v => o == (Reg.LNK_VC_BUF_BUF_UNITS p v).off) else none
  let cols := (List.range 2).findSome? fun j =>
    if 8192 < sumUpto 8 (fun p => s.getF (Reg.COL_SHARE_CONTRIB j p)) ∨ 4096 < sumUpto 8 (fun p => s.getF (Reg.COL_SHARE_RESULT j p)) then
      some (12, j, writers img fun o => (List.range 8).any fun p => o == (Reg.COL_SHARE_RESULT j p).off) else none
  (weirs.orElse fun _ => basins.orElse fun _ => bufs.orElse fun _ => cols)

/-- A channel reserved to a media front-end for a polder that does not own it (class 5). -/
def fetchClash (s : State) (img : List Byte) : Option (Nat × Nat × Nat × Nat) :=
  (List.range 4).findSome? fun m => (List.range 8).findSome? fun p => (List.range 4).findSome? fun j =>
    let l := s.getF (Reg.MFE_FETCH_CHANS_CHANS m p j)
    ((List.range 32).find? fun c => bitOf l c && s.chanOwner (4 * m + j) c != p).map fun c =>
      (5, (4 * m + j) * 32 + c, (writers img fun o => o == (Reg.MEM_CHAN_OWNER_OWNER (4 * m + j) (c / 8)).off).1,
        (writers img fun o => o == (Reg.MFE_FETCH_CHANS_CHANS m p j).off).2)

/-! ### Loading (R524, R526, R527, R529) -/

/-- SYSTEM values written into the registers that name the image as their source. -/
def putSystem (l : List Byte) (s : State) : State :=
  let s := ((s.setF Reg.WHL_TIME_CTL_MODE (numAt l 0 1)).setF Reg.WHL_TIME_CTL_MASTER (numAt l 1 1 % 2)).setF
    Reg.WHL_TIME_CTL_TMARK_OUT (numAt l 1 1 / 2)
  let s := ((s.setF Reg.WHL_TIME_CTL_PARENT (numAt l 2 1)).setF Reg.WHL_TIME_CTL_INTERVAL (numAt l 3 1)).setF
    Reg.TEL_RANGE_CTL_MODE (numAt l 4 1)
  let s := State.forCores (fun i s => s.modCore i fun c => c.setF Reg.CORE_CL_VERSION_ALLOWED (numAt l 8 1)) (List.range 8192) s
  ((s.setF Reg.LNK_VERSION_ALLOWED (numAt l 9 1)).setF Reg.KLN_TBL_VERSION_ALLOWED (numAt l 10 1)).setF Reg.MGT_JD_VERSION_ALLOWED (numAt l 11 1)

/-- The clusters of a polder's record given to it. -/
def putClusters (p : Nat) (l : List Byte) (s : State) : State :=
  if bitOf (numAt l 32 1) 0 then
    ((List.range 256).filter (bitOf (numAt l 0 32))).foldl (fun s c =>
      State.forCores (fun i s => s.modCore i fun k => k.setF Reg.CORE_IDENT_POLDER p) ((List.range 32).map fun k => 32 * c + k) s) s
  else s

/-- Every section of an image written. -/
def applyImage (img : List Byte) (s : State) : State :=
  let s := (imgRegs img).foldl (fun s r => s.putRegs r.2.1 r.2.2) s
  let s := (imgRecs img 2).foldl (fun s r => s.putClusters r.2.1 r.2.2) s
  let s := s.putSystem (imgSystem img)
  { s with pkgId := imgPkg img, reserved := Config.imagePhases img, windows := (imgRecs img 4).map fun r => (numAt r.2.2 0 1, numAt r.2.2 8 8, 2 ^ numAt r.2.2 4 1) }

/-- Whether the timers that R528 requires are there: for each polder with a watchdog, forerunner mode, TMARK_OUT. -/
def timersOk (s : State) (img : List Byte) : Bool :=
  let has (f p : Nat) : Bool := (imgRecs img 5).any fun r => numAt r.2.2 1 1 == f && numAt r.2.2 2 1 == p
  imgVersion img == 1 ||
    ((List.range 8).all (fun p => s.getF (Reg.PWR_STEP_WDOG_LIMIT p) == 0 || has 1 p) && (!s.forerunner || has 2 0xFF) &&
      (!s.flag Reg.WHL_TIME_CTL_TMARK_OUT || has 3 0xFF))

/-- Whether an image has the form that R525 to R527 ask for; `t` is the state with the image applied. -/
def formOk (t : State) (img : List Byte) : Bool :=
  let n := numAt img 6 2
  zeroIn img 5 1 && decide (numAt img 0xC 2 < 2 ^ 14) && zeroIn img 0xE 2 && zeroIn img 0x14 40 && decide (1 ≤ n) && decide (n ≤ 64) &&
    decide (imgLength img ≤ 0x00FFBC00) && decide (0x40 + 16 * n ≤ imgLength img) &&
    (List.range n).all (fun k =>
      let x := imgSection img k
      decide (1 ≤ x.1) && decide (x.1 ≤ 5) && zeroIn img (0x41 + 16 * k) 1 && zeroIn img (0x48 + 16 * k) 8 && x.2.2 % 16 == 0 &&
        decide (x.2.2 + recSize x.1 * x.2.1 ≤ imgLength img) && (x.1 != 2 || x.2.1 == 8) && (x.1 != 5 || imgVersion img != 1)) &&
    [1, 2, 3, 4, 5].all (fun t => (imgRecs img t).all fun r => recOk (imgVersion img) t r.2.2) &&
    (imgRecs img 3).length == 1 && decide ((imgRecs img 2).length ≤ 8) && t.timersOk img

/-- The image of a copy: after a manifest, or at once. -/
def hasManifest (s : State) (b : Bool) : Bool := numLE (s.flashN (copyBase b) 4) == 0x4E414D51
def imageBase (s : State) (b : Bool) : Nat := copyBase b + if s.hasManifest b then 0x4400 else 0
def imageOf (s : State) (b : Bool) : List Byte :=
  let h := s.flashN (s.imageBase b) 64
  s.flashN (s.imageBase b) (max 64 (min (imgLength h) 0x1000000))

/-- Whether a copy's manifest verifies for its image (R485, R527). -/
def copySigned (s : State) (b : Bool) : Bool :=
  let m := s.flashN (copyBase b) 17152
  s.hasManifest b && mfForm 2 m && s.bound m && mfSigned s.ownerOr.keySet m && mfDigest m 0 == padTo 48 (Config.sha384 (s.imageOf b))

/-- The CRC of an image over its LENGTH bytes (R525). -/
def imageCrc (img : List Byte) : Bool :=
  numAt img 0 4 == 0x47464351 && decide (imgLength img = img.length) &&
    numAt img 0x3C 4 == (crc32c (img.take 0x3C ++ [0, 0, 0, 0] ++ img.drop 0x40)).toNat

/-- The conflict that an image makes (R528); `t` is the state with the image applied. -/
def conflict (t : State) (img : List Byte) : Option (Nat × Nat × Nat × Nat) :=
  (clash [] (claims img)).orElse fun _ => (windowClash img).orElse fun _ => (t.sumClash img).orElse fun _ => t.fetchClash img

/-- The check of a copy (R527): the code of CFG_STATUS, and the conflict found. -/
def copyCheck (s : State) (b : Bool) : Nat × Option (Nat × Nat × Nat × Nat) :=
  let img := s.imageOf b
  if s.getF Reg.SEC_STATUS_LC_STATE = 2 ∧ s.copySigned b = false then (5, none)
  else if !imageCrc img then (2, none)
  else if !bitOf (s.getF Reg.CFG_VERSION_SUPPORTED) (imgVersion img) then (3, none)
  else
    let t := s.applyImage img
    if !t.formOk img then (4, none)
    else match t.conflict img with
      | some c => (6, some c)
      | none => (0, none)

/-- A copy tried: its error recorded, or the copy loaded. -/
def tryCopy (b second : Bool) (s : State) : State :=
  let r := s.copyCheck b
  let s := s.setF (if b then Reg.CFG_STATUS_ERR_B else Reg.CFG_STATUS_ERR_A) r.1
  let s := match r.2 with
    | some (cl, idx, a, c) =>
      (((s.setF Reg.CFG_CONFLICT_CLASS cl).setF Reg.CFG_CONFLICT_INDEX idx).setF Reg.CFG_CONFLICT_SECTION_A a).setF Reg.CFG_CONFLICT_SECTION_B c
    | none => s
  if r.1 ≠ 0 then s.note (.configFailed r.1)
  else
    let img := s.imageOf b
    let s := ((s.setF Reg.CFG_STATUS_COPY (b2n b)).setF Reg.CFG_STATUS_FALLBACK (b2n second)).setF Reg.CFG_STATUS_MANIFEST
      (b2n (s.hasManifest b))
    let s := (s.setF Reg.CFG_VERSION_IMAGE (imgVersion img)).setF Reg.CFG_IMAGE_SEQ_SEQ (imgSeq img)
    { s with rtp := { s.rtp with cfg := padTo 48 (Config.sha384 img), image := img } }

/-- Whether copy B is tried first: it alone carries the MAGIC, or it carries the higher SEQ (R524). -/
def firstB (s : State) : Bool :=
  let magic (b : Bool) : Bool := numAt (s.imageOf b) 0 4 == 0x47464351
  magic true && (!magic false || decide (imgSeq (s.imageOf false) < imgSeq (s.imageOf true)))

/-- The configuration loader (R522 steps 4 and 5). -/
def loadConfig (s : State) : State :=
  let s := (((s.setF Reg.CFG_STATUS_ERR_A 7).setF Reg.CFG_STATUS_ERR_B 7).setF Reg.CFG_STATUS_FAIL 0).setF Reg.CFG_STATUS_COPY 3
  let b := s.firstB
  let s := s.tryCopy b false
  let s := if s.getF Reg.CFG_STATUS_COPY = 3 then s.tryCopy (!b) true else s
  (s.setF Reg.CFG_STATUS_DONE 1).setF Reg.CFG_STATUS_FAIL (b2n (s.getF Reg.CFG_STATUS_COPY == 3))

end State

end Sys2Proof.Machine
end

