-- ==== Sys2Proof/Machine/Reset.lean ====
section
/-! DEFINITION. Resets of polders and dies (R83, R144, R223, R285, R328, R363, R476, R530 to R533), abandonment's bookkeeping and restores
(R534 to R537). -/

namespace Sys2Proof.Machine

namespace State

/-! ### Polder reset (R530) -/

/-- Register words from `lo` up to but not including `hi` back at their reset values. -/
def clearRegs (lo hi : Nat) (s : State) : State := { s with regs := SMap.clearRange s.regs lo hi }

/-- The wheel stopped, its counters and turn number zero (R223). -/
def resetWheel (p : Nat) (s : State) : State :=
  let s := s.stopWheel p
  [Reg.WHL_TURN_VALUE p, Reg.WHL_CNT_TURNS_COUNT p, Reg.WHL_CNT_SLIPPED_COUNT p, Reg.WHL_CNT_SLIP_TICKS_COUNT p,
    Reg.WHL_CNT_MAX_SLIP_COUNT p, Reg.WHL_CNT_OVERRUN_COUNT p, Reg.WHL_CNT_OVERRUN_EIGHTHS_COUNT p,
    Reg.WHL_CNT_GUARD_ABANDON_COUNT p, Reg.WHL_CNT_HANDOVER_COUNT p, Reg.WHL_CNT_IDLE_SEL_COUNT p].foldl (fun s f => s.setF f 0) s

/-- The link an item on its way inside the package belongs to. -/
def pktLink : Pkt → Option Nat
  | .pipPart l _ => some l
  | .pipAck l _ _ _ _ => some l
  | .pipHead l _ _ => some l
  | _ => none

/-- The pipeline objects of some groups and links at their reset values (R328). -/
def clearPip (gs ls : List Nat) (s : State) : State :=
  let s := gs.foldl (fun s g => s.clearRegs (Reg.PIP_GROUP_CFG_POLDER g).off ((Reg.PIP_GROUP_CFG_POLDER g).off + 0x100)) s
  let s := ls.foldl (fun s l =>
    let o := (Reg.PIP_LINK_STATE_STATE l).off / 0x40 * 0x40
    s.clearRegs o (o + 0x40)) s
  { s with links := SMap.clearIf s.links ls.contains, stash := SMap.clearIf s.stash fun k => gs.contains (k / 80)
           firings := SMap.clearIf s.firings fun k => gs.contains (k / 4)
           net := s.net.filter fun k => !(pktLink k).any ls.contains }

/-- A polder's pipeline objects at their reset values, its point of no return among them. -/
def resetPip (p : Nat) (s : State) : State :=
  let o := (Reg.PIP_POLDER_NORETURN_STEP p).off / 0x40 * 0x40
  (s.clearPip (s.groupsOf p) (s.linksOf p)).clearRegs o (o + 0x40)

/-- A media front-end's share of a polder: abandoned, then every register at its reset value (R285), but the channels listed for it
once the configuration is locked (R369, log 115). -/
def resetMedia (m p : Nat) (s : State) : State :=
  let chans := (List.range 4).map fun j => s.getF (Reg.MFE_FETCH_CHANS_CHANS m p j)
  let o := (Reg.MFE_PCTL_RUN m p).off / 0x1000 * 0x1000
  let s := ((s.rewindRing m p).modMfe m p fun _ => Mfe.empty).clearRegs o (o + 0x1000)
  if s.flag Reg.CFG_STATUS_LOCKED then
    (List.range 4).foldl (fun s j => s.setF (Reg.MFE_FETCH_CHANS_CHANS m p j) (chans.getD j 0)) s
  else s

/-- A kiln without a polder's work; its export ring empty (R363). -/
def resetKilnOf (i p : Nat) (s : State) : State :=
  let mine (n : Nat) : Bool := s.groupPolder (kdGroup (s.ldesc i n)) == p
  let s := s.modKiln i fun k =>
    { k with layers := SMap.clearIf k.layers mine, parked := k.parked.filter fun e => e.polder != p, order := SMap.clearIf k.order (· == p)
             roots := k.roots.filter fun r => !mine r.layer, held := SMap.clearIf k.held (· == p), seqs := SMap.clearIf k.seqs (· == p) }
  let s := { s with fetches := s.fetches.filter fun f => !(f.kiln == i && f.polder == p) }
  (s.setF (Reg.KLN_EXPORT_IDX_HEAD i p) 0).setF (Reg.KLN_EXPORT_IDX_TAIL i p) 0

/-- What the virtual channels of a polder hold dropped; the units of received packets are owed to the peer (R424, R530). -/
def dropVcs (p : Nat) (s : State) : State :=
  (List.range 16).foldl (fun s q => (List.range 16).foldl (fun s v =>
    if s.vcPolder q v != p then s
    else s.modPort q fun x =>
      let n := (SMap.get (fun _ => []) x.rx v).foldl (fun n k => n + lanePktUnits k) 0
      { x with streams := SMap.set (fun _ => []) x.streams v [], rx := SMap.set (fun _ => []) x.rx v []
               owed := SMap.set (fun _ => 0) x.owed v (SMap.get (fun _ => 0) x.owed v + n) }) s) s

/-- Lines of a polder's ways invalid. -/
def dropLines (p : Nat) (s : State) : State :=
  let keep (k : Nat) (l : Line) : Bool := !(s.waysOf (k / 1024) p).contains l.way
  { s with slices := s.slices.filterMap fun e => if (e.2.filter (keep e.1)).isEmpty then none else some (e.1, e.2.filter (keep e.1)) }

/-- A polder's share of everything but its cores and its DRAM channels at its reset values. -/
def resetPolderShare (p : Nat) (s : State) : State :=
  let s := (List.range 16).foldl (fun s i => s.resetKilnOf i p) (s.resetWheel p)
  let s := (List.range 4).foldl (fun s m => s.resetMedia m p) s
  let gs := s.groupsOf p
  let s := { s.clearOps p with subs := SMap.clearIf s.subs (fun k => gs.contains (k / 8 / 2 ^ 32 % 256)), tel := SMap.clearIf s.tel fun k => k / 64 == p }
  let s := (((s.resetPip p).dropVcs p).dropLines p).setDrain p Drain.empty
  { s with power := { s.power with watch := SMap.set (fun _ => 0) s.power.watch p 0, lost := SMap.set (fun _ => none) s.power.lost p none
                                   again := s.power.again.filter fun x => x.1 != p, due := s.power.due.filter (· != p), fixes := s.power.fixes.filter fun x => x.1 != p } }

/-- A polder reset but for the wipe of its DRAM channels; the CLOSED notices of its cores go out behind what is dropped. -/
def resetPolderUnits (p : Nat) (s : State) : State := State.forCores State.resetCore (s.coresOf p) (s.resetPolderShare p)

/-- A polder reset (R530): its channels start to be wiped. -/
def resetPolder (p : Nat) (s : State) : State := (s.resetPolderUnits p).startWipe (s.chanList p)

/-! ### Restore (R537) -/

/-- A restore: the polder is reset, its job retired without a completion, RESTORE_NEEDED set; nothing of the step is pending any
longer. -/
def restore (p : Nat) (s : State) : State :=
  let s := (s.resetPolder p).dropJob p
  let s := (s.setF (Reg.PWR_RECOV_STATUS_RESTORE_NEEDED p) 1).setF (Reg.PWR_RECOV_STATUS_PENDING p) 0
  (s.note (.restore p)).trace 1 p 0 p 0 0

/-! ### Abandonment's bookkeeping (R535, R536) -/

/-- The step that the bookkeeping names: the agreed one, or the MGC's own under AUTO. -/
def namedStep (s : State) (p : Nat) : Nat :=
  if s.flag (Reg.PWR_RECOV_CTL_AUTO p) then
    (if s.getF (Reg.PIP_POLDER_NORETURN_STEP p) = 0xFFFFFFFF then s.stepOf p else (s.getF (Reg.PIP_POLDER_NORETURN_STEP p) + 1) % 2 ^ 32)
  else s.getF (Reg.PWR_RECOV_CTL_STEP p)

/-- The bookkeeping part of an abandonment of step `n`: REWIND, R326 and R476; PENDING clears and the watchdog restarts. After as
many abandonments of one step as LIMIT says, a restore follows. -/
def carryOut (p n : Nat) (s : State) : State :=
  let s := (List.range 4).foldl (fun s m => s.rewindRing m p) s
  let s := ((s.setF (Reg.PIP_POLDER_ABANDON_STEP_STEP p) n).abandonPip p n).abandonCol p n
  let same := s.getF (Reg.PWR_RECOV_STATUS_STEP p) == n
  let k := if same then min 255 (s.getF (Reg.PWR_RECOV_STATUS_ATTEMPTS p) + 1) else 1
  let s := ((s.setF (Reg.PWR_RECOV_STATUS_STEP p) n).setF (Reg.PWR_RECOV_STATUS_ATTEMPTS p) k).setF (Reg.PWR_RECOV_STATUS_PENDING p) 0
  let s := { s with power := { s.power with watch := SMap.set (fun _ => 0) s.power.watch p 0 } }
  if s.getF (Reg.PWR_RECOV_CTL_LIMIT p) ≤ k then s.restore p else s

/-- The quiesce part where nothing has quiesced the step yet. -/
def ensureQuiet (p : Nat) (s : State) : State :=
  if s.flag (Reg.PWR_RECOV_STATUS_PENDING p) then s else State.forCores (fun i s => s.abandonCore i false) (s.coresOf p) s

/-! ### Dies (R531 to R533) -/

/-- The dies that a route of a die's table crosses. -/
def routeDies (r : Route) : List Nat := r.die :: (routeCulverts r).flatMap fun c => [(culvEnds c).1, (culvEnds c).2]

/-- A polder uses a die (R531). -/
def usesDie (s : State) (p d : Nat) : Bool :=
  (s.coresOf p).any (fun i => dieOf i == d) || (s.chansOf p).any (fun k => k.1 / 4 == d) ||
    (decide (d < 4) && (List.range 4).any fun m => s.getF (Reg.KLN_BASIN_SHARE_FRAMES (4 * d + m) p) != 0) ||
    (decide (d < 4) && (List.range 16).any fun k => bitsOf (s.getF (Reg.MFE_SHARE_SLICE d)) (4 * k + 3) (4 * k) == p) ||
    (s.tableRoutes p).any (fun x => (routeDies (s.route x.1 x.2)).contains d) ||
    (decide (4 ≤ d) && (s.getF (Reg.COL_SHARE_CONTRIB (d - 4) p) != 0 || s.getF (Reg.COL_SHARE_RESULT (d - 4) p) != 0 ||
      (List.range 8).any fun q => (List.range 16).any fun v => s.vcPolder (8 * (d - 4) + q) v == p))

/-- A culvert after a reset of a die at its end: its epoch is higher, and every wire is to be tested again (R446). -/
def freshCulvert (c : Nat) (s : State) : State :=
  (s.setF (Reg.LNK_CULV_STATUS_WIRE_EPOCH c) (nextWidthEpoch (s.getF (Reg.LNK_CULV_STATUS_WIRE_EPOCH c)))).modCulvert c fun x =>
    { x with fresh := true }

/-- A stack reset with its die: channels wiped, slice, weirs, deferred queues and kiln empty (R363, R530). -/
def resetStack (i : Nat) (s : State) : State :=
  let here (c : Nat) : Bool := c / 32 == i
  let s := (List.range 32).foldl (fun s ch => s.wipeChan i ch) s
  let s := { s with slices := SMap.clearIf s.slices (fun k => k / 1024 == i), deferred := SMap.clearIf s.deferred here
                    weirs := SMap.clearIf s.weirs (fun k => k / 27 == i), kilns := SMap.set (fun _ => Kiln.empty) s.kilns i Kiln.empty
                    fetches := s.fetches.filter (fun f => f.kiln != i), wiping := s.wiping.filter (fun c => !here c)
                    testing := s.testing.filter fun c => !here c }.showWiping
  let s := (s.setF (Reg.MEM_STACK_STATUS_MARGIN i) 0).setF (Reg.MEM_STACK_STATUS_OFFLINE i) 0
  (List.range 8).foldl (fun s p => (s.setF (Reg.KLN_EXPORT_IDX_HEAD i p) 0).setF (Reg.KLN_EXPORT_IDX_TAIL i p) 0) s

/-- A compute die reset (R530): cores, route and set tables, stacks, media front-end. -/
def resetCompute (d : Nat) (s : State) : State :=
  let s := State.forCores State.resetCore ((s.cores.map (·.1)).filter fun i => dieOf i == d) s
  let s := s.wipeRange (scratchAddr (d * 2048) 0) (scratchAddr ((d + 1) * 2048) 0)
  let s := { s with routes := SMap.clearIf s.routes (fun k => k / 65536 == d), sets := SMap.clearIf s.sets fun k => k / 131072 == d }
  let s := (List.range 4).foldl (fun s m => s.resetStack (4 * d + m)) s
  let s := (List.range 8).foldl (fun s p => s.resetMedia d p) s
  let s := ((s.setF (Reg.MFE_TOK_CTL_VOCAB d) 0).setF (Reg.MFE_TOK_CTL_ERR d) 0).setF (Reg.MFE_TOK_BASE_ADDR d) 0
  { s with toks := SMap.set (fun _ => []) s.toks d [], mfSlice := SMap.set (fun _ => 0) s.mfSlice d 0 }

/-- The keys of every polder destroyed (R499). -/
def clearKeys (s : State) : State :=
  (List.range 8).foldl (fun s p => (s.setF (Reg.SEC_KEYS_LINK p) 0).setF (Reg.SEC_KEYS_MODEL_KEYS p) 0) { s with keys := [] }

/-- A port reset with its I/O die: what it holds is gone, and it trains anew (R430). -/
def resetPort (q : Nat) (s : State) : State :=
  let s := s.freshPort q
  if s.portState q = 0 then s else (s.dropTraffic q).restPort q 1

/-- An I/O die reset: its collective engine and its ports; with IO[0] the key slots and every PIP register (R328, R476, R499). -/
def resetIo (j : Nat) (s : State) : State :=
  let s := { s with ops := SMap.clearIf s.ops (fun k => k / 8192 == j), subs := SMap.clearIf s.subs fun k => k / 8 / 2 ^ 40 == j }
  let s := (List.range 8).foldl (fun s n => s.resetPort (8 * j + n)) s
  if j ≠ 0 then s
  else
    let s := s.clearKeys.clearPip (List.range 256) (List.range 512)
    (List.range 8).foldl (fun s p =>
      let o := (Reg.PIP_POLDER_NORETURN_STEP p).off / 0x40 * 0x40
      s.clearRegs o (o + 0x40)) s

/-- What lies on a die reset. -/
def resetDieUnits (d : Nat) (s : State) : State := if d < 4 then s.resetCompute d else s.resetIo (d - 4)

/-- A die reset. -/
def resetDie (d : Nat) (s : State) : State := ((culvertsOf d).foldl (fun s c => s.freshCulvert c) s).resetDieUnits d

/-- A die is lost (R532 steps 1 to 3): its culverts are quarantined, and the polders that use it are quiesced and restored. -/
def loseDie (d : Nat) (s : State) : State :=
  let ps := (List.range 8).filter fun p => s.usesDie p d
  let s := (culvertsOf d).foldl (fun s c => s.quarantine c) s
  let s := (s.setF (Reg.MGT_DIE_STATUS_QUARANTINE d) 1).showDegraded
  let s := if d < 4 then (List.range 4).foldl (fun s m => s.setF (Reg.MEM_STACK_STATUS_OFFLINE (4 * d + m)) 1) s else s
  ps.foldl (fun s p => (s.quiesce p .dieLoss).restore p) s

/-- A die is reset and rejoins (R27, R532, R533): its record is read again, and its culverts train unless it differs. -/
def rejoinDie (d : Nat) (record : List Byte) (s : State) : State :=
  let s := s.resetDie d
  if record.take 128 ≠ (SMap.get (fun _ => []) s.idents d).take 128 then
    let s := if d < 4 then (List.range 4).foldl (fun s m => s.setF (Reg.MEM_STACK_STATUS_OFFLINE (4 * d + m)) 1) s else s
    ((s.setF (Reg.MGT_DIE_STATUS_ERR d) 6).setF (Reg.MGT_DIE_STATUS_ID_OK d) 0).note (.identityFailed d 6)
  else
    let s := (s.setF (Reg.MGT_DIE_STATUS_ERR d) 0).setF (Reg.MGT_DIE_STATUS_ID_OK d) 1
    let bad (x : Nat) : Bool := s.getF (Reg.MGT_DIE_STATUS_ERR x) != 0 || s.power.noClock.any fun y => y.1 == x
    (culvertsOf d).foldl (fun s c =>
      if bad (culvEnds c).1 ∨ bad (culvEnds c).2 ∨ s.flag (Reg.LNK_CULV_STATUS_DISABLED c) = true then s else s.trainCulvert c) s

/-- Whether a die's clock is absent. -/
def clockLost (s : State) (d : Nat) : Bool := s.power.noClock.any fun x => x.1 == d

end State

/-- POLDER_RESET (R530): PWR_RESET_CTL KIND 4. -/
def execPolderReset (polder : Nat) (s : State) : Host.Outcome State Fault Refusal := .next (s.resetPolder polder)

/-- DIE_RESET (R530, R532): PWR_RESET_CTL KIND 3, with the die's identity record as it is read again. -/
def execDieReset (die : Nat) (record : List Byte) (s : State) : Host.Outcome State Fault Refusal :=
  if s.power.main && decide (die < 6) && !s.clockLost die then .next ((s.loseDie die).rejoinDie die record) else .next s

/-- DIE_CLOCK_LOSS (R532). -/
def execDieClockLoss (die : Nat) (s : State) : Host.Outcome State Fault Refusal :=
  if s.power.main && decide (die < 6) && !s.clockLost die then
    .next (({ s with power := { s.power with noClock := s.power.noClock ++ [(die, 0)] } }).loseDie die)
  else .next s

/-- DIE_CLOCK_RETURN (R27, R532, R533): within 1 s, the MGC resets the die, whose identity record is read again. -/
def execDieClockReturn (die : Nat) (record : List Byte) (s : State) : Host.Outcome State Fault Refusal :=
  if s.power.main && s.power.noClock.any (fun x => x.1 == die && decide (x.2 < 100000)) then
    .next (({ s with power := { s.power with noClock := s.power.noClock.filter (fun x => x.1 != die) } } : State).rejoinDie die record)
  else .next s

/-- DIE_CLOCK_TIMEOUT (R532): the clock has not returned within 1 s; reported once, and the die stays quarantined. -/
def execDieClockTimeout (die : Nat) (s : State) : Host.Outcome State Fault Refusal :=
  if s.power.noClock.any (fun x => x.1 == die && x.2 == 100000) then
    .next (({ s with power := { s.power with noClock := s.power.noClock.map (fun x => if x.1 = die then (die, 100001) else x) } } : State).note (.dieMissing die))
  else .next s

/-- RECOV_ABANDON (R536): PWR_RECOV_CTL.ABANDON written. -/
def execRecovAbandon (polder : Nat) (s : State) : Host.Outcome State Fault Refusal :=
  .next ((s.ensureQuiet polder).carryOut polder (s.namedStep polder))

/-- RECOV_RESTORE (R537): PWR_RECOV_CTL.RESTORE written. -/
def execRecovRestore (polder : Nat) (s : State) : Host.Outcome State Fault Refusal := .next (s.restore polder)

/-- Ticks after which a polder's watchdog expires; 0 for none (R534). -/
def State.watchTicks (s : State) (p : Nat) : Nat :=
  let l := s.getF (Reg.PWR_STEP_WDOG_LIMIT p)
  if l = 0 ∨ s.sherdGroups p = [] then 0 else 100 * max 1000 l

/-- WATCHDOG_EXPIRY (R534, R535, R537): the step is abandoned, or, while a cause is pending, the polder restored. -/
def execWatchdogExpiry (polder : Nat) (s : State) : Host.Outcome State Fault Refusal :=
  let n := s.watchTicks polder
  if n = 0 ∨ SMap.get (fun _ => 0) s.power.watch polder < n then .next s
  else
    let s := s.bump Reg.PWR_CNT_WDOG_COUNT 1
    let s := { s with power := { s.power with watch := SMap.set (fun _ => 0) s.power.watch polder 0 } }
    if s.flag (Reg.PWR_RECOV_STATUS_PENDING polder) then .next (s.restore polder) else .next (s.quiesce polder .watchdog)

end Sys2Proof.Machine
end

