-- ==== Sys2Proof/Machine/Thermal.lean ====
section
/-! DEFINITION. Operating points and throttling (R516 to R521), and the DRAM refresh rate (R367). -/

namespace Sys2Proof.Machine

/-- Nominal voltage of an operating point in 5 mV units (R516). -/
def pointVolt (n : Nat) : Nat := [156, 151, 146, 141, 134, 128, 120, 112].getD n 112

/-- Clock of an operating point in 50 MHz units (R516). -/
def pointClock (n : Nat) : Nat := [34, 32, 30, 28, 25, 22, 17, 12].getD n 12

/-- The quadrant's stack above a cluster domain (R203, R519). -/
def domStack (d : Nat) : Nat := d / 64 * 4 + d % 64 / 32 * 2 + d % 8 / 4

namespace State

def dom (s : State) (d : Nat) : Dom := SMap.get (fun _ => Dom.zero) s.power.doms d

def modDom (d : Nat) (f : Dom → Dom) (s : State) : State :=
  { s with power := { s.power with doms := SMap.set (fun _ => Dom.zero) s.power.doms d (f (s.dom d)) } }

/-- The fastest point a cluster domain may run at: its die's SPEED_BIN allows no faster one (R516). -/
def topPoint (s : State) (d : Nat) : Nat :=
  let bin := numAt (SMap.get (fun _ => []) s.idents (d / 64)) 0x0B 1
  ((List.range 8).find? fun n => decide (pointClock n ≤ bin)).getD 7

/-- A domain's point set, with its voltage and THROTTLED (R516, R518). -/
def setPoint (d n : Nat) (s : State) : State :=
  let s := (s.setF (Reg.PWR_DOM_POINT d) n).setF (Reg.PWR_DOM_VOLT d) (pointVolt n - s.getF (Reg.PWR_DOM_TRIM d))
  s.setF (Reg.PWR_DOM_THROTTLED d) (b2n (decide (0 < (s.dom d).therm + (s.dom d).power)))

/-- A domain falls to a point, for heat or for power. -/
def fallTo (d n : Nat) (heat : Bool) (s : State) : State :=
  let k := n - s.getF (Reg.PWR_DOM_POINT d)
  if k = 0 then s
  else (s.modDom d fun x => if heat then { x with therm := x.therm + k } else { x with power := x.power + k }).setPoint d n

/-- A domain rises one point. -/
def riseOne (d : Nat) (heat : Bool) (s : State) : State :=
  (s.modDom d fun x => if heat then { x with therm := x.therm - 1 } else { x with power := x.power - 1 }).setPoint d
    (s.getF (Reg.PWR_DOM_POINT d) - 1)

/-- Whether a cluster domain runs. -/
def domOn (s : State) (d : Nat) : Bool := s.flag (Reg.PWR_DOM_ON d)

/-! ### Readings -/

/-- The sensors read (R367, R519, R520); those of the embankment, which measure every junction, only while domain 286 is on (R17). -/
def readSensors (env : TickEnv) (s : State) : State :=
  if !s.flag (Reg.PWR_DOM_ON 286) then (s.setF Reg.PWR_STATUS_POWER env.power).setF Reg.PWR_STATUS_CURRENT env.amps
  else
  let s := env.temps.foldl (fun s x => s.setF (Reg.PWR_DOM_TEMP x.1) x.2) s
  let s := env.drams.foldl (fun s x =>
    (s.setF (Reg.MEM_STACK_STATUS_TEMP x.1) x.2.2).setF (Reg.MEM_STACK_STATUS_HOT_DIE x.1) x.2.1) s
  (s.setF Reg.PWR_STATUS_POWER env.power).setF Reg.PWR_STATUS_CURRENT env.amps

/-- The refresh rate of a stack (R367): up at 85 and 95 °C, down once 3 °C below the threshold it crossed. -/
def refreshRate (old t : Nat) : Nat :=
  if 95 ≤ t then 2
  else if old = 2 ∧ 92 < t then 2
  else if 85 ≤ t then 1
  else if 1 ≤ old ∧ 82 < t then 1
  else 0

/-- Each stack's refresh rate set from its reading; ticks above 1x are counted. -/
def refreshTick (s : State) : State :=
  (List.range 16).foldl (fun s i =>
    let r := refreshRate (s.getF (Reg.MEM_STACK_STATUS_REFRESH i)) (s.getF (Reg.MEM_STACK_STATUS_TEMP i))
    let s := s.setF (Reg.MEM_STACK_STATUS_REFRESH i) r
    if r = 0 then s else s.bump (Reg.MEM_CNT_REFRESH_HOT_COUNT i) 1) s

/-! ### Thermal throttling (R519) -/

/-- Whether a row applies: from its threshold on until its release. -/
def rowApplies (old : Bool) (t at' below : Nat) : Bool := decide (at' ≤ t) || (old && decide (below ≤ t))

/-- The DRAM rows of each stack that apply. -/
def dramRowsTick (s : State) : State :=
  let row (s : State) (i : Nat) : Nat :=
    let old := SMap.get (fun _ => 0) s.power.rows i
    let t := s.getF (Reg.MEM_STACK_STATUS_TEMP i)
    b2n (rowApplies (bitOf old 0) t 92 89) + 2 * b2n (rowApplies (bitOf old 1) t 95 92) + 4 * b2n (rowApplies (bitOf old 2) t 98 92)
  (List.range 16).foldl (fun s i => { s with power := { s.power with rows := SMap.set (fun _ => 0) s.power.rows i (row s i) } }) s

/-- The DRAM rows that apply to a cluster domain: those of its quadrant's stack, and the 95 °C row of any stack of its die. -/
def dramRowsOf (s : State) (d : Nat) : Bool :=
  let r (i : Nat) : Nat := SMap.get (fun _ => 0) s.power.rows i
  bitOf (r (domStack d)) 0 || bitOf (r (domStack d)) 2 || (List.range 4).any fun m => bitOf (r (d / 64 * 4 + m)) 1

/-- One cluster domain throttled for heat at a tick. A row acts while its condition holds and keeps the domain from rising until
it is released; the lowest point that the rows give is taken. -/
def heatDom (d : Nat) (s : State) : State :=
  if !s.domOn d then s
  else
    let t := s.getF (Reg.PWR_DOM_TEMP d)
    let x := s.dom d
    let rows := b2n (rowApplies (bitOf x.rows 0) t 100 97) + 2 * b2n (rowApplies (bitOf x.rows 1) t 105 97)
    let dt (i : Nat) : Nat := s.getF (Reg.MEM_STACK_STATUS_TEMP i)
    let cur := s.getF (Reg.PWR_DOM_POINT d)
    let one := decide (100 ≤ t) || decide (92 ≤ dt (domStack d)) || (List.range 4).any fun m => decide (95 ≤ dt (d / 64 * 4 + m))
    let all := decide (105 ≤ t) || decide (98 ≤ dt (domStack d))
    let dram := s.dramRowsOf d
    let s := s.modDom d fun x => { x with rows := rows, calm := if rows = 0 && !dram then x.calm + 1 else 0 }
    let s := s.fallTo d (if all then 7 else if one then min 7 (cur + 1) else cur) true
    let below := decide (0 < s.getF (Reg.PWR_DOM_POINT d))
    let s := if below && decide (0 < rows) then s.bump Reg.PWR_CNT_THERM_CD_COUNT 1 else s
    if below && dram then s.bump Reg.PWR_CNT_THERM_DRAM_COUNT 1 else s

/-- Thermal throttling at a tick. -/
def heatTick (s : State) : State :=
  let s := (List.range 256).foldl (fun s d => s.heatDom d) s.dramRowsTick
  let s := s.setF Reg.PWR_STATUS_CD_THROTTLE (b2n ((List.range 256).any fun d => decide (0 < (s.dom d).rows)))
  s.setF Reg.PWR_STATUS_DRAM_THROTTLE (b2n !s.power.rows.isEmpty)

/-! ### Power throttling (R520) -/

/-- Power throttling at a tick. -/
def powerTick (s : State) : State :=
  let w := s.getF Reg.PWR_STATUS_POWER
  let limit := s.getF Reg.PWR_LIMIT_LIMIT
  let ds := (List.range 256).filter s.domOn
  let s : State :=
    if limit < w then
      let s := ds.foldl (fun s d =>
        let n := s.getF (Reg.PWR_DOM_POINT d)
        if n < s.getF Reg.PWR_LIMIT_FLOOR then s.fallTo d (n + 1) false else s) s
      { s with power := { s.power with calm := 0 } }
    else { s with power := { s.power with calm := if w * 100 < limit * 95 then s.power.calm + 1 else 0 } }
  let s : State :=
    if s.power.calm < 10 then s
    else
      let s := ds.foldl (fun s d => if 0 < (s.dom d).power then s.riseOne d false else s) s
      { s with power := { s.power with calm := 0 } }
  let active := decide (limit < w) || ds.any fun d => decide (0 < (s.dom d).power)
  let s := s.setF Reg.PWR_STATUS_PWR_THROTTLE (b2n active)
  if active then s.bump Reg.PWR_CNT_POWER_COUNT 1 else s

/-- Trimming at a tick (R518): a domain whose monitors report margin goes down one step of 5 mV, to 40 mV at most. -/
def trimTick (margin : List Nat) (s : State) : State :=
  margin.foldl (fun s d =>
    let k := s.getF (Reg.PWR_DOM_TRIM d)
    if s.domOn d && decide (d < 256) && decide (k < 8) then
      (s.setF (Reg.PWR_DOM_TRIM d) (k + 1)).setF (Reg.PWR_DOM_VOLT d) (pointVolt (s.getF (Reg.PWR_DOM_POINT d)) - (k + 1))
    else s) s

/-- Whether a junction has reached its trip temperature (R521). -/
def tripped (s : State) : Bool :=
  (List.range 256).any (fun d => s.domOn d && decide (115 ≤ s.getF (Reg.PWR_DOM_TEMP d))) ||
    (List.range 16).any fun i => s.domOn (256 + i) && decide (105 ≤ s.getF (Reg.MEM_STACK_STATUS_TEMP i))

end State

/-- THROTTLE_RISE (R519): after 10 ticks in which no row applied. -/
def execThrottleRise (dom : Nat) (s : State) : Host.Outcome State Fault Refusal :=
  let x := s.dom dom
  if s.domOn dom && decide (10 ≤ x.calm) && decide (0 < x.therm) then
    .next ((s.riseOne dom true).modDom dom fun x => { x with calm := 0 })
  else .next s

/-- CURRENT_LIMIT (R520): every cluster domain falls two points, whatever FLOOR says. -/
def execCurrentLimit (s : State) : Host.Outcome State Fault Refusal :=
  let s := (List.range 256).foldl (fun s d =>
    if s.domOn d then s.fallTo d (min 7 (s.getF (Reg.PWR_DOM_POINT d) + 2)) false else s) s
  .next ((s.bump Reg.PWR_CNT_CURR_LIMIT_COUNT 1).setF Reg.PWR_STATUS_CURR_LIMIT 1)

/-- TIMING_MONITOR_WARNING (R518): the nominal voltage is restored. -/
def execTimingMonitorWarning (dom : Nat) (s : State) : Host.Outcome State Fault Refusal :=
  if s.domOn dom && decide (dom < 256) then
    .next ((s.setF (Reg.PWR_DOM_TRIM dom) 0).setF (Reg.PWR_DOM_VOLT dom) (pointVolt (s.getF (Reg.PWR_DOM_POINT dom))))
  else .next s

end Sys2Proof.Machine
end

