-- ==== Sys2Proof/Machine/Start.lean ====
section
/-! DEFINITION. Supplies, start-up and the wide resets (R23 to R27, R444, R483, R515, R522, R530, R548, R554). -/

namespace Sys2Proof.Machine

/-! ### Identity (R24, R25) -/

/-- Fields of an identity record. -/
def idSerial (b : List Byte) : Nat := numAt b 0 8
def idKind (b : List Byte) : Nat := numAt b 8 1
def idSlot (b : List Byte) : Nat := numAt b 9 1

/-- The index of MGT_DIE_STATUS that a DIE_SLOT names. -/
def slotIndex (slot : Nat) : Option Nat :=
  if slot < 4 then some slot
  else if slot = 0x10 ∨ slot = 0x11 then some (slot - 0x10 + 4)
  else if 0x20 ≤ slot ∧ slot < 0x30 then some (slot - 0x20 + 6)
  else if slot = 0x30 then some 22
  else none

/-- The fuse block that answered on a path; the paths are numbered as MGT_DIE_STATUS numbers the dies. -/
def blockAt (bs : List (Nat × List Byte)) (k : Nat) : List Byte := ((bs.find? fun b => b.1 == k).map (·.2)).getD []

/-- Checks 1 to 4 of R25 on what a path answered. -/
def pathErr (bs : List (Nat × List Byte)) (k : Nat) : Nat :=
  let b := blockAt bs k
  if b.length < 128 then 1
  else if numAt b 0x7C 4 ≠ (crc32c (b.take 0x7C)).toNat then 2
  else if idKind b = 0 then 3
  else if idSerial b ≠ idSerial (blockAt bs 22) then 4
  else 0

/-- The paths whose record claims an index. -/
def claimants (bs : List (Nat × List Byte)) (n : Nat) : List Nat :=
  (List.range 23).filter fun k => pathErr bs k == 0 && slotIndex (idSlot (blockAt bs k)) == some n

/-- The error code of a die (R25). -/
def dieErr (bs : List (Nat × List Byte)) (n : Nat) : Nat :=
  match claimants bs n with
  | [k] => if 6 ≤ n ∧ n < 22 ∧ ((k - 6) / 4 ≠ (n - 6) / 4 ∨ k < 6 ∨ 22 ≤ k) then 5 else 0
  | [] => if pathErr bs n ≠ 0 then pathErr bs n else 5
  | _ => 5

/-- The fuse block of a die, by its slot. -/
def dieBlock (bs : List (Nat × List Byte)) (n : Nat) : List Byte :=
  match claimants bs n with
  | k :: _ => blockAt bs k
  | [] => blockAt bs n

namespace State

/-- The identity records read and checked; the first start after a cold reset keeps them (R25 to R27). -/
def identify (bs : List (Nat × List Byte)) (s : State) : State :=
  let s := (List.range 23).foldl (fun s n =>
    let e := dieErr bs n
    let b := dieBlock bs n
    let s := ((s.setF (Reg.MGT_DIE_STATUS_SLOT n) (idSlot b)).setF (Reg.MGT_DIE_STATUS_KIND n) (idKind b % 16)).setF (Reg.MGT_DIE_STATUS_ERR n) e
    let s := (s.setF (Reg.MGT_DIE_STATUS_ID_OK n) (b2n (e == 0))).setF (Reg.MGT_DIE_STATUS_QUARANTINE n) 0
    if e = 0 then s else s.note (.identityFailed n e)) s
  let s := (s.setF Reg.MGT_PKG_SERIAL_SERIAL (idSerial (blockAt bs 22))).setF Reg.MGT_IDENT_DONE_DONE 1
  let s := s.setF Reg.MGT_IDENT_DONE_FAIL (b2n ((List.range 23).any fun n => dieErr bs n != 0))
  let s := ((s.setF Reg.MGT_PART_VARIANT_PART_SUFFIX Config.partSuffix).setF Reg.MGT_PART_VARIANT_SILICON_REV 1).setF
    Reg.MGT_PART_VARIANT_IO1_KIND (b2n (idKind (dieBlock bs 5) == 5))
  if s.idents.isEmpty then { s with idents := ((List.range 23).filter fun n => dieBlock bs n != []).map fun n => (n, dieBlock bs n) } else s

/-! ### The stages of a start (R522) -/

/-- The RTP starts (R483, step 1): life-cycle state, counter cells and a new nonce are shown. -/
def rtpStart (s : State) : State :=
  let lc := if s.rtp.rma then 3 else (s.owner.map (·.lc)).getD 1
  let s := (s.setF Reg.SEC_STATUS_LC_STATE lc).setF Reg.SEC_STATUS_ORPHAN (b2n s.owner.isNone)
  let s := ((s.setF Reg.SEC_SVN_FW_SVN s.rtp.fwSvn).setF Reg.SEC_SVN_REVOKE s.rtp.revoke).setF Reg.SEC_SVN_OWNER_GEN s.rtp.ownerGen
  let s := (List.range 8).foldl (fun s w => s.setF (Reg.SEC_LC_NONCE_NONCE w) (s.fr w)) s
  (s.useFree 8).setF (Reg.PWR_DOM_ON 287) 1

/-- Every domain but 286 and 287 ramps: cluster domains at their fastest point and nominal voltage, the others at their fixed
settings, whose voltage the spec does not give (step 6, R516, log 40). -/
def rampDomains (s : State) : State :=
  let s := { s with power := { s.power with doms := [], rows := [], calm := 0 } }
  let s := (List.range 256).foldl (fun s d => ((s.setF (Reg.PWR_DOM_TRIM d) 0).setF (Reg.PWR_DOM_ON d) 1).setPoint d (s.topPoint d)) s
  let s := (List.range 30).foldl (fun s k =>
    (s.setF (Reg.PWR_DOM_ON (256 + k)) 1).setF (Reg.PWR_DOM_VOLT (256 + k)) (s.fr k % 256)) s
  s.useFree 30

/-- Host memory's cells: nothing inside the package. -/
def hostCells (s : State) : List Host.Cell := s.mem.filter fun c => 0x80000000000 ≤ c.1

/-- Steps 8 and 9: every memory is wiped, registers are written from the image and locked, ports start training, the main side is up
and ring sampling begins. -/
def finishStart (s : State) : State :=
  let s := { s with mem := s.hostCells, tags := [], slices := [], deferred := [], behind := [], wiping := [] }
  let s := (s.applyImage s.rtp.image).setF Reg.CFG_STATUS_LOCKED 1
  let s := (List.range 16).foldl (fun s q => s.restPort q (if s.getF (Reg.LNK_PORT_CFG_ROLE q) = 0 then 0 else 1)) s
  let s := (s.setF Reg.MGT_STATUS_CFG_DONE 1).setF Reg.MGT_STATUS_MAIN_UP 1
  { s with power := { s.power with main := true, starting := false }, sq := 100 }

/-- The start of the main side from PWRGOOD on (steps 2 to 7); a warm one leaves out the loader (R530). It stops where a step fails,
and does not begin without both supplies, while RESET# is low, after a thermal trip, or in a forced recovery. -/
def startMain (bs : List (Nat × List Byte)) (s : State) : State :=
  if !s.power.vaux || !s.power.pwrgood || s.power.resetLow || s.power.therm || s.flag Reg.SEC_STATUS_RECOVERY then s
  else
    let cold := s.getF Reg.CFG_STATUS_COPY == 3
    let s := (s.setF (Reg.PWR_DOM_ON 286) 1).identify bs
    if s.flag Reg.MGT_IDENT_DONE_FAIL then s
    else
      let s := s.bootFirmware
      if !s.rtp.mgc then s
      else
        let s := if cold then s.loadConfig else s
        if s.getF Reg.CFG_STATUS_COPY = 3 then s
        else
          let s := (List.range 8).foldl (fun s c => s.trainCulvert c) s.rampDomains
          { s with power := { s.power with starting := true } }

/-! ### Stopping -/

/-- The main side reset: every polder, every die, every memory, every ring (R530, warm). -/
def wipeMain (s : State) : State :=
  let s := (List.range 8).foldl (fun s p => s.resetPolderShare p) s
  let s := (List.range 8).foldl (fun s c => s.freshCulvert c) s
  let s := (List.range 6).foldl (fun s d => s.resetDieUnits d) s
  let s := { s with mem := s.hostCells, tags := [], slices := [], deferred := [], behind := [], weirs := [], wiping := [], testing := [], moved := []
                    jobs := [], taken := [], lined := [], owedCq := [], net := [], sigmas := [], drains := [] }
  let s := (s.clearRegs 0x801000 0x801400).showWiping
  let s := [Reg.MGT_SQ_IDX_HEAD, Reg.MGT_SQ_IDX_TAIL, Reg.MGT_CQ_IDX_HEAD, Reg.MGT_CQ_IDX_TAIL, Reg.MGT_TRACE_IDX_HEAD, Reg.MGT_TRACE_IDX_TAIL,
    Reg.MGT_STATUS_JOBS].foldl (fun s f => s.setF f 0) s
  { s with power := { s.power with watch := [], lost := [], again := [], due := [], fixes := [], noClock := [] } }

/-- The main side stops. -/
def stopMain (s : State) : State :=
  let s := (List.range 8).foldl (fun s c => (s.setF (Reg.LNK_CULV_STATUS_STATE c) 0).setF (Reg.LNK_CULV_STATUS_RIP c) 0) s.wipeMain
  let s := s.setF Reg.MGT_STATUS_MAIN_UP 0
  { s with power := { s.power with main := false, starting := false } }

/-- Every domain that VMAIN feeds off (R515, R521). -/
def dropVmain (s : State) : State :=
  (List.range 287).foldl (fun s d => s.setF (Reg.PWR_DOM_ON d) 0) s.stopMain

/-- A cold reset (R530): everything but fuse blocks, counter cells, owner records and flash; host memory lies outside the package. -/
def coldState (s : State) : State :=
  { State.reset with
    pending := s.pending, free := s.free, mem := s.hostCells, flash := s.flash, out := s.out
    rtp := { Rtp.blank with fwSvn := s.rtp.fwSvn, revoke := s.rtp.revoke, ownerGen := s.rtp.ownerGen, rma := s.rtp.rma
                            ownerA := s.rtp.ownerA, ownerB := s.rtp.ownerB }
    lands := { Lands.empty with sel := s.lands.sel, addr := s.lands.addr }
    power := { Power.off with vaux := s.power.vaux, pwrgood := s.power.pwrgood, resetLow := s.power.resetLow, perstLow := s.power.perstLow } }

/-- The power state with supplies and lands changed. -/
def setPower (f : Power → Power) (s : State) : State := { s with power := f s.power }

end State

/-- VAUX_GOOD (R515, R522, R548): the always-on domain starts, and the straps SB_SEL and SB_ADDR are sampled. -/
def execVauxGood (sel : Bool) (addr : Nat) (s : State) : Host.Outcome State Fault Refusal :=
  if s.power.vaux then .next s
  else
    let s := (s.setPower fun p => { p with vaux := true, pwrgood := false }).coldState
    .next ({ s with lands := { Lands.empty with sel := sel, addr := addr % 8 } }.rtpStart)

/-- VAUX_LOSS (R515): everything stops, and only fuses, counter cells and flash keep what they hold. -/
def execVauxLoss (s : State) : Host.Outcome State Fault Refusal :=
  .next { s.coldState with power := Power.off }

/-- PWRGOOD_RISE (R515, R522): ignored without VAUX. The fuse blocks as the paths to the dies answer. -/
def execPwrgoodRise (blocks : List (Nat × List Byte)) (s : State) : Host.Outcome State Fault Refusal :=
  if s.power.vaux && !s.power.pwrgood then .next ((s.setPower fun p => { p with pwrgood := true }).startMain blocks) else .next s

/-- PWRGOOD_FALL (R515). -/
def execPwrgoodFall (s : State) : Host.Outcome State Fault Refusal :=
  if s.power.pwrgood then .next ((s.setPower fun p => { p with pwrgood := false }).dropVmain) else .next s

/-- RESET_ASSERT (R530, R554): RESET# low for 1 µs; the main side stays in reset while it is low. -/
def execResetAssert (s : State) : Host.Outcome State Fault Refusal :=
  if s.power.vaux && !s.power.resetLow then .next ((s.setPower fun p => { p with resetLow := true }).stopMain) else .next s

/-- RESET_RELEASE (R554): RESET# rises, and the warm start begins where PWRGOOD holds. -/
def execResetRelease (blocks : List (Nat × List Byte)) (s : State) : Host.Outcome State Fault Refusal :=
  if s.power.resetLow then .next ((s.setPower fun p => { p with resetLow := false }).startMain blocks) else .next s

/-- COLD_RESET (R530): PWR_RESET_CTL KIND 1. -/
def execColdReset (blocks : List (Nat × List Byte)) (s : State) : Host.Outcome State Fault Refusal :=
  if s.power.vaux then .next (s.coldState.rtpStart.startMain blocks) else .next s

/-- WARM_RESET (R530): PWR_RESET_CTL KIND 2. -/
def execWarmReset (blocks : List (Nat × List Byte)) (s : State) : Host.Outcome State Fault Refusal :=
  if s.power.vaux then .next (s.stopMain.startMain blocks) else .next s

/-- CULVERT_TRAINING_END (R443, R444, R446, R522 step 7): how many wires fail in each direction, and the wire epochs the far end
tells. At start-up, a culvert that cannot train is reported and keeps the main side off; the last one to train lets it start. -/
def execCulvertTrainingEnd (culv bad0 bad1 own recorded : Nat) (s : State) : Host.Outcome State Fault Refusal :=
  if s.culvState culv = 1 ∨ s.culvState culv = 3 then
    let t := s.endTraining culv bad0 bad1 own recorded
    if !s.power.starting then .next t
    else if State.culvSpares culv < bad0 ∨ State.culvSpares culv < bad1 then
      .next (((s.setF (Reg.LNK_CULV_STATUS_STATE culv) 0).setPower fun p => { p with starting := false }).note (.culvertUntrained culv))
    else if (List.range 8).all fun c => t.culvState c == 2 then .next t.finishStart
    else .next t
  else .next s

end Sys2Proof.Machine
end

