-- ==== Sys2Proof/Machine/RegWrite.lean ====
section
/-! DEFINITION. Register writes (R9 to R11): access kinds, locks, running conditions, reserved encodings, and the commands that a
write of a control bit gives; SNAP and CLEAR of the telemetry and of the counters (R83); the registers as they are read. -/

namespace Sys2Proof.Machine

/-- One command after another. -/
def chain (o : Host.Outcome State Fault Refusal) (f : State → Host.Outcome State Fault Refusal) : Host.Outcome State Fault Refusal :=
  match o with
  | .next s => f s
  | .fault r => .fault r
  | .refused r => .refused r

/-- A command given when a bit is written 1. -/
def onBit (v : Word) (k : Nat) (f : State → Host.Outcome State Fault Refusal) (s : State) : Host.Outcome State Fault Refusal :=
  if v.getLsbD k then f s else .next s

/-- The register that a control-window offset names, with the word of it: of the blocks below the core pages, or of a core page. -/
def regAt (off : Nat) : Option (RegDef × Nat) :=
  if off < 0x1000000 then findReg off winRegs
  else if off < 0x3000000 then findReg ((off - 0x1000000) % 0x1000) pageRegs
  else none

/-! ### Reserved encodings (R10, R540) -/

/-- Fields with a least and a greatest value: register, lowest bit, the two values. -/
def fieldRanges : List (Nat × Nat × Nat × Nat) := [
  (0x701020, 0, 4, 16), (0x600004, 0, 1, 65535), (0x410028, 0, 8, 20), (0x400088, 0, 4, 16), (0x500100, 16, 8, 4096),
  (0x500220, 21, 0, 2), (0x510010, 8, 1, 4), (0x200040, 0, 0, 2), (0x200080, 44, 10, 30), (0x201000, 0, 0, 4), (0x201020, 8, 1, 255),
  (0x201020, 0, 16, 24), (0x201030, 44, 10, 30), (0x300408, 0, 0, 1024), (0x10, 0, 4, 12), (0x28, 0, 4, 16), (0x40, 0, 8, 24),
  (0xA00004, 0, 1000, 2800), (0xA00008, 0, 1, 4), (0xA00040, 4, 1, 15), (0x104000, 14, 0, 2)]

/-- Fields that hold polder numbers, 15 for none, four bits each: register, lowest bit, how many. -/
def polderFields : List (Nat × Nat × Nat) := [(0x901000, 8, 1), (0x700000, 0, 16), (0x500000, 0, 8), (0x201100, 16, 1)]

/-- Whether a value written to a field of a register is reserved; of the core pages only a descriptor has one (`reservedRole`). -/
def reservedValue (base : Nat) (f : RegField) (x : Nat) : Bool :=
  fieldRanges.any (fun r => r.1 == base && r.2.1 == f.lo && !(decide (r.2.2.1 ≤ x) && decide (x ≤ r.2.2.2))) ||
    polderFields.any fun r => r.1 == base && r.2.1 == f.lo &&
      (List.range r.2.2).any fun k => decide (8 ≤ bitsOf x (4 * k + 3) (4 * k)) && decide (bitsOf x (4 * k + 3) (4 * k) < 15)

namespace State

/-- Whether the loader has set the locks (R11). -/
def locks (s : State) : Bool := s.flag Reg.CFG_STATUS_LOCKED

/-- Whether a field takes what is written to it, its lock considered. -/
def writable (s : State) (a : Acc) : Bool :=
  match a with
  | .rw => true
  | .rwl => !s.locks
  | .ro | .w1c | .wo => false

/-- Whether a write of a word sets the ROLE of a channel or link descriptor to a reserved value (R161, R291): the first word of
CHN_CTX_DESC of a selected context that takes it, or of a PIP_LINK_DESC. -/
def reservedRole (s : State) (off : Nat) (v : Word) : Bool :=
  decide (2 < bitsOf v.toNat 7 0) &&
    ((decide (0x1000000 ≤ off) && decide (off < 0x3000000) && off % 0x1000 == 0x820 &&
        ((s.core ((off - 0x1000000) / 0x1000)).ctx (s.selCtx ((off - 0x1000000) / 0x1000))).state == .off) ||
      (decide (0x610000 ≤ off) && decide (off < 0x618000) && (off - 0x610000) % 0x40 == 0))

/-- Whether a write of a word sets a field to a reserved encoding; of a field that is split over two words, the part written
decides with what the other holds. -/
def writesReserved (s : State) (off : Nat) (v : Word) : Bool :=
  match regAt off with
  | none => false
  | some (d, w) =>
    decide (off < 0x1000000) && d.fields.any fun f =>
      let mine := decide (32 * w ≤ f.hi) && decide (f.lo < 32 * w + 32)
      let other := (s.rawWord (if w = 0 then off + 4 else off - 4)).toNat
      let whole := if d.words ≤ 1 then v.toNat else if w = 0 then v.toNat + 2 ^ 32 * other else other + 2 ^ 32 * v.toNat
      mine && (f.acc == .wo || s.writable f.acc) && reservedValue d.base f (bitsOf whole f.hi f.lo)

/-! ### Writes without an effect -/

/-- Whether a polder that uses a kiln runs. -/
def kilnRuns (s : State) (i : Nat) : Bool :=
  (List.range 8).any fun p => (s.wheel p).runs && s.getF (Reg.KLN_BASIN_SHARE_FRAMES i p) != 0

/-- Whether an RW field of a register can be written no longer, since a polder runs (R213, R278, R288 and the introductions of
the register tables). -/
def frozen (s : State) (off : Nat) : Bool :=
  if 0x101000 ≤ off ∧ off < 0x102000 then
    0x80 ≤ (off - 0x101000) % 0x200 && (off - 0x101000) % 0x200 < 0x100 && s.flag (Reg.WHL_POLDER_STATUS_RUNNING ((off - 0x101000) / 0x200))
  else if 0x300400 ≤ off ∧ off < 0x310000 then
    (off - 0x300000) % 0x8000 < 0x600 && 0x400 ≤ (off - 0x300000) % 0x8000 && (s.wheel ((off - 0x300400) % 0x8000 / 0x40)).runs
  else if 0x400000 ≤ off ∧ off < 0x410000 then
    s.kilnRuns ((off - 0x400000) / 0x1000) && !(0x80 ≤ off % 0x1000 && off % 0x1000 < 0x180 && off % 0x20 == 0x10)
  else if 0x600000 ≤ off ∧ off < 0x610000 then (s.wheel (s.groupPolder ((off - 0x600000) / 0x100))).runs
  else if 0x610000 ≤ off ∧ off < 0x618000 then
    let l := (off - 0x610000) / 0x40
    s.getF (Reg.PIP_LINK_STATE_STATE l) == 1 || (s.flag (Reg.PIP_GROUP_CFG_VALID (ldGroup (s.linkDesc l))) && (s.wheel (s.linkPolder l)).runs)
  else if 0x620000 ≤ off ∧ off < 0x620200 then (s.wheel ((off - 0x620000) / 0x40)).runs
  else if 0x700000 ≤ off ∧ off < 0x740000 then
    let m := (off - 0x700000) / 0x10000
    let o := off % 0x10000
    0x1000 ≤ o && 8 ≤ o % 0x1000 && o % 0x1000 < 0x20 && s.flag (Reg.MFE_PCTL_RUN m (o / 0x1000 - 1))
  else false

/-- A field of a word, or the part of it that lies there, written. -/
def writeField (s : State) (off w : Nat) (v : Word) (old : Nat) (f : RegField) : Nat :=
  let lo := f.lo - 32 * w
  let hi := min 31 (f.hi - 32 * w)
  let x := v.toNat / 2 ^ lo
  if f.hi < 32 * w ∨ 32 * w + 32 ≤ f.lo then old
  else if f.acc = .w1c then setBits old hi lo (bitsOf old hi lo - (bitsOf old hi lo &&& bitsOf v.toNat hi lo))
  else if !s.writable f.acc then old
  else if f.acc = .rw ∧ s.frozen off = true then old
  else if 0x600000 ≤ off ∧ off < 0x610000 ∧ off % 0x100 = 0 ∧ f.lo = 1 ∧ (s.wheel (bitsOf v.toNat 3 1)).runs = true then old
  else setBits old hi lo x

/-- A word written by the access kinds of its fields: RW and unlocked RWL fields take the value, W1C bits written 1 clear, RO and
WO fields stay (R9, R11). Bits of no field are not held. -/
def plainWrite (off : Nat) (v : Word) (s : State) : State :=
  match regAt off with
  | none => s
  | some (d, w) => s.putWord off (BitVec.ofNat 32 (d.fields.foldl (fun x f => s.writeField off w v x f) (s.rawWord off).toNat))

/-! ### Counters -/

/-- Words of a core page from `lo` up to but not including `hi` at their reset values. -/
def clearPage (i lo hi : Nat) (s : State) : State := s.modCore i fun c => { c with page := SMap.clearRange c.page lo hi }

/-- The counters that the CLEAR bit of a block's register zeroes; `off` is the register. -/
def clearCounters (off : Nat) (s : State) : State :=
  if 0x1000000 ≤ off then
    let i := (off - 0x1000000) / 0x1000
    if off % 0x1000 = 0xF8 then s.clearPage i 0x100 0x170 else if off % 0x1000 = 0x8F8 then s.clearPage i 0x900 0x960 else s
  else if off = 0x901000 then
    let p := s.getF Reg.TEL_RANGE_CTL_POLDER
    { s with tel := SMap.clearIf s.tel fun k => p == 15 || k / 64 == p }
  else if 0x620000 ≤ off ∧ off < 0x620200 then
    let p := (off - 0x620000) / 0x40
    let s := (s.groupsOf p).foldl (fun s g => s.clearRegs (0x600090 + 0x100 * g) (0x6000D8 + 0x100 * g)) s
    (s.linksOf p).foldl (fun s l => s.clearRegs (0x610030 + 0x40 * l) (0x610040 + 0x40 * l)) s
  else if 0x400000 ≤ off ∧ off < 0x410000 then s.clearRegs (off / 0x1000 * 0x1000 + 0x200) (off / 0x1000 * 0x1000 + 0x288)
  else if 0x500000 ≤ off ∧ off < 0x510000 then s.clearRegs (off / 0x1000 * 0x1000 + 0x300) (off / 0x1000 * 0x1000 + 0x3C8)
  else if 0x201000 ≤ off ∧ off < 0x205000 then s.clearRegs (off / 0x400 * 0x400 + 0x200) (off / 0x400 * 0x400 + 0x270)
  else if 0x209000 ≤ off ∧ off < 0x209200 then s.clearRegs (off / 0x40 * 0x40 + 0x10) (off / 0x40 * 0x40 + 0x38)
  else if 0x300000 ≤ off ∧ off < 0x310000 then s.clearRegs (off / 0x8000 * 0x8000 + 0x100) (off / 0x8000 * 0x8000 + 0x148)
  else s

/-- One live telemetry counter of a selection: that of one polder, or the sum over all, modulo 2^64 (R83). -/
def telOf (s : State) (sel k : Nat) : Nat :=
  if sel = 15 then (List.range 8).foldl (fun n p => (n + SMap.get (fun _ => 0) s.tel (64 * p + k)) % 2 ^ 64) 0
  else SMap.get (fun _ => 0) s.tel (64 * sel + k)

/-- The snapshot of TEL_RANGE_CTL.SNAP (R83): formats 0x0 to 0xB four counters each, then replays 1 to 3, SAT, TILES. -/
def snapshot (s : State) : State :=
  let sel := s.getF Reg.TEL_RANGE_CTL_POLDER
  let t := (List.range 12).foldl (fun t f =>
    (((t.setF (Reg.TEL_RANGE_TOTAL_COUNT f) (s.telOf sel (4 * f))).setF (Reg.TEL_RANGE_OVF_COUNT f) (s.telOf sel (4 * f + 1))).setF
      (Reg.TEL_RANGE_UNF_COUNT f) (s.telOf sel (4 * f + 2))).setF (Reg.TEL_RANGE_NAN_COUNT f) (s.telOf sel (4 * f + 3))) s
  let t := (List.range 3).foldl (fun t n => t.setF (Reg.TEL_ACC_REPLAY_COUNT n) (s.telOf sel (48 + n))) t
  ((t.setF Reg.TEL_ACC_SAT_COUNT (s.telOf sel 51)).setF Reg.TEL_ACC_TILES_COUNT (s.telOf sel 52)).setF Reg.TEL_RANGE_SNAP_TIDE_TIDE s.now

/-! ### Rings -/

/-- A ring emptied by a write of 1 to its ENABLE bit (R506, R510): 0 submission, 1 completion, 2 trace. -/
def emptyRing (k : Nat) (s : State) : State :=
  match k with
  | 0 => (s.setF Reg.MGT_SQ_IDX_HEAD 0).setF Reg.MGT_SQ_IDX_TAIL 0
  | 1 => (s.setF Reg.MGT_CQ_IDX_HEAD 0).setF Reg.MGT_CQ_IDX_TAIL 0
  | _ => (s.setF Reg.MGT_TRACE_IDX_HEAD 0).setF Reg.MGT_TRACE_IDX_TAIL 0

/-- FW_SVN advanced to the running bundle's SVN, unless ROLLBACK is set; the counter cells only increase (R482, R487). -/
def commitSvn (s : State) : State :=
  if s.flag Reg.SEC_STATUS_ROLLBACK then s
  else
    let n := max s.rtp.fwSvn (s.getF Reg.SEC_SVN_IMAGE_SVN)
    { s with rtp := { s.rtp with fwSvn := n } }.setF Reg.SEC_SVN_FW_SVN n

end State

/-- RING_ENABLE (R506, R510): ENABLE of the submission (0), completion (1) or trace (2) ring written 1. -/
def execRingEnable (ring : Nat) (s : State) : Host.Outcome State Fault Refusal :=
  .next ((s.setF (if ring = 0 then Reg.MGT_SQ_CFG_ENABLE else if ring = 1 then Reg.MGT_CQ_CFG_ENABLE else Reg.MGT_TRACE_CTL_ENABLE) 1).emptyRing ring)

/-- COMMIT_SVN (R487). -/
def execCommitSvn (s : State) : Host.Outcome State Fault Refusal := .next s.commitSvn

/-- SNAP (R83). -/
def execSnap (s : State) : Host.Outcome State Fault Refusal := .next s.snapshot

/-- COUNTER_CLEAR (R83 and the register tables): CLEAR of the register at a control-window offset written 1. -/
def execCounterClear (off : Nat) (s : State) : Host.Outcome State Fault Refusal := .next (s.clearCounters off)

/-! ### The commands of control bits -/

/-- CORE_CTL written (R140, R143, R144, R223): DEBUG, then a reset or an abandonment, then HALT, RUN and SSTEP. -/
def writeCoreCtl (i : Nat) (v : Word) (s : State) : Host.Outcome State Fault Refusal :=
  let s := s.modCore i fun c => c.setF Reg.CORE_CTL_DEBUG (b2n (v.getLsbD 2))
  chain (onBit v 3 (execCoreReset i) s) fun s =>
  chain (onBit v 5 (execCoreAbandon i) s) fun s =>
  let c := s.core i
  chain (if v.getLsbD 1 = c.flag Reg.CORE_CTL_HALT then .next s else if v.getLsbD 1 then execHaltRequest i s else execResumeCore i s) fun s =>
  chain (if v.getLsbD 0 then execCoreRun i s else .next (s.modCore i fun c => c.setF Reg.CORE_CTL_RUN 0)) fun s =>
  onBit v 4 (execSstep i) s

/-- A word of a core control page written. -/
def writePage (i o : Nat) (v : Word) (s : State) : Host.Outcome State Fault Refusal :=
  if o = 0x4 then writeCoreCtl i v s
  else if o = 0x10 then
    .next (s.modCore i fun c => if c.halted then { c with pc := BitVec.ofNat 13 v.toNat } else c)
  else if o = 0x200 then execDbgAccSel i v s
  else if 0x300 ≤ o ∧ o < 0x400 then execCoreDbgXregWrite i ((o - 0x300) / 8) (o % 8 == 4) v s
  else if o = 0xF8 ∨ o = 0x8F8 then onBit v 0 (execCounterClear (0x1000000 + 0x1000 * i + o)) s
  else if 0x820 ≤ o ∧ o < 0x840 then
    .next (s.modCtx i (s.selCtx i) fun k =>
      if k.state = .off then
        { k with desc := BitVec.ofNat 256 (setBits k.desc.toNat (8 * (o - 0x820) + 31) (8 * (o - 0x820)) v.toNat) }
      else k)
  else if o = 0x84C then
    chain (onBit v 0 (execCtxClose i) s) (onBit v 1 (execCtxOpen i))
  else .next (s.plainWrite (0x1000000 + 0x1000 * i + o) v)

/-- PWR_RESET_CTL written (R530): the reset of its KIND. A die reset reads the die's fuse block again. -/
def writeResetCtl (v : Word) (blocks : List (Nat × List Byte)) (s : State) : Host.Outcome State Fault Refusal :=
  let t := bitsOf v.toNat 15 8
  match bitsOf v.toNat 2 0 with
  | 1 => execColdReset blocks s
  | 2 => execWarmReset blocks s
  | 3 => execDieReset t (blockAt blocks t) s
  | _ => execPolderReset (t % 8) s

/-- MEM_REG_CMD written (R396). -/
def writeRegCmd (v : Word) (s : State) : Host.Outcome State Fault Refusal :=
  let n := bitsOf v.toNat 7 0
  match bitsOf v.toNat 10 8 with
  | 1 => execPinEntry n s
  | 2 => execUnpinEntry n s
  | 3 => execEvictEntry n s
  | _ => execRegLoad n s

/-- LNK_PORT_CTL written (R430, R433, R434). -/
def writePortCtl (q : Nat) (v : Word) (s : State) : Host.Outcome State Fault Refusal :=
  chain (onBit v 4 (execCounterClear (0x201004 + 0x400 * q)) s) fun s =>
  chain (onBit v 2 (execPortReset q) s) fun s =>
  chain (onBit v 1 (execPortDown q) s) fun s =>
  chain (onBit v 0 (execPortRetrain q) s) (onBit v 3 (execPortEnable q))

/-- What a write below the core pages does beside the fields it sets. -/
def writeCommand (off : Nat) (v : Word) (blocks : List (Nat × List Byte)) (s : State) : Host.Outcome State Fault Refusal :=
  if off = 0x10 then onBit v 7 (execRingEnable 0) s
  else if off = 0x28 then onBit v 7 (execRingEnable 1) s
  else if off = 0x40 then onBit v 7 (execRingEnable 2) s
  else if off = 0x10000C then onBit v 0 execLoadArm s
  else if off = 0x80000C then onBit v 0 execCommitSvn s
  else if off = 0x901000 then chain (onBit v 0 execSnap s) (onBit v 1 (execCounterClear off))
  else if off = 0xA00008 then writeResetCtl v blocks s
  else if 0xA00040 ≤ off ∧ off < 0xA000C0 ∧ off % 16 = 0 then
    chain (onBit v 0 (execRecovAbandon ((off - 0xA00040) / 16)) s) (onBit v 2 (execRecovRestore ((off - 0xA00040) / 16)))
  else if 0x201000 ≤ off ∧ off < 0x205000 ∧ off % 0x400 = 4 then writePortCtl ((off - 0x201000) / 0x400) v s
  else if 0x209000 ≤ off ∧ off < 0x209200 ∧ off % 0x40 = 4 then
    chain (onBit v 1 (execCounterClear off) s) (onBit v 0 (execRejoin ((off - 0x209000) / 0x40)))
  else if 0x300000 ≤ off ∧ off < 0x310000 ∧ off % 0x8000 = 0x20 then onBit v 0 (execCounterClear off) s
  else if off = 0x410010 then onBit v 0 execTblLoad s
  else if 0x400000 ≤ off ∧ off < 0x410000 ∧ off % 0x1000 = 0x14 then onBit v 0 (execCounterClear off) s
  else if 0x400000 ≤ off ∧ off < 0x410000 ∧ 0x80 ≤ off % 0x1000 ∧ off % 0x1000 < 0x180 ∧ off % 0x20 = 8 then
    let i := (off - 0x400000) / 0x1000
    let p := (off % 0x1000 - 0x80) / 0x20
    onBit v 5 (fun s => .next (if s.frozen off then s else
      (((s.setF (Reg.KLN_EXPORT_IDX_HEAD i p) 0).setF (Reg.KLN_EXPORT_IDX_TAIL i p) 0).modKiln i fun k =>
        { k with seqs := SMap.set (fun _ => 0) k.seqs p 0 }))) s
  else if 0x500000 ≤ off ∧ off < 0x510000 ∧ off % 0x1000 = 0x214 then onBit v 0 (execApplyRepair ((off - 0x500000) / 0x1000)) s
  else if 0x500000 ≤ off ∧ off < 0x510000 ∧ off % 0x1000 = 0x220 then onBit v 31 (execMarginStart ((off - 0x500000) / 0x1000)) s
  else if 0x500000 ≤ off ∧ off < 0x510000 ∧ off % 0x1000 = 0x2F8 then onBit v 0 (execCounterClear off) s
  else if off = 0x510000 then execWipe (bitsOf v.toNat 7 0) s
  else if off = 0x510010 then writeRegCmd v s
  else if 0x600000 ≤ off ∧ off < 0x610000 ∧ off % 0x100 = 0x10 then execGroupInit ((off - 0x600000) / 0x100) v s
  else if 0x610000 ≤ off ∧ off < 0x618000 ∧ off % 0x40 = 0x2C then
    chain (onBit v 1 (execLinkClose ((off - 0x610000) / 0x40)) s) (onBit v 0 (execLinkOpen ((off - 0x610000) / 0x40)))
  else if 0x620000 ≤ off ∧ off < 0x620200 ∧ off % 0x40 = 0 then
    chain (onBit v 1 (execCounterClear off) s) (onBit v 0 (execPipAbandon ((off - 0x620000) / 0x40)))
  else if 0x700000 ≤ off ∧ off < 0x740000 ∧ off % 0x10000 = 0x10 then onBit v 0 (execTokLoad ((off - 0x700000) / 0x10000)) s
  else .next s

/-- MFE_PCTL written (R278, R285): a RUN that refuses its tables stays 0. -/
def writePctl (m p : Nat) (v : Word) (s : State) : Host.Outcome State Fault Refusal :=
  chain (onBit v 1 (execMark m p) s) fun s =>
  chain (onBit v 2 (execRewind m p) s) fun s =>
  if v.getLsbD 0 then execMfeRun m p s else .next (s.setF (Reg.MFE_PCTL_RUN m p) 0)

/-- WHL_POLDER_CTL written (R213, R224, R567). -/
def writePolderCtl (p : Nat) (v : Word) (s : State) : Host.Outcome State Fault Refusal :=
  let s := if s.locks then s else s.setF (Reg.WHL_POLDER_CTL_ANCHOR p) (b2n (v.getLsbD 1))
  if v.getLsbD 0 = s.flag (Reg.WHL_POLDER_CTL_RUN p) then .next s
  else if v.getLsbD 0 then execWheelRun p s
  else execWheelStop p s

/-- A word of the control window written, `blocks` being what the fuse paths answer where the write starts a reset. -/
def writeReg (off : Nat) (v : Word) (blocks : List (Nat × List Byte)) (s : State) : Host.Outcome State Fault Refusal :=
  if s.writesReserved off v || s.reservedRole off v then .refused (.undefinedBehaviour "R10")
  else if 0x1000000 ≤ off then
    (if off < 0x3000000 then writePage ((off - 0x1000000) / 0x1000) (off % 0x1000) v s else .next s)
  else if 0x8000 ≤ off ∧ off < 0x10000 then .next { s with regs := SMap.set winReset s.regs off v }
  else if 0x101000 ≤ off ∧ off < 0x102000 ∧ off % 0x200 = 0 then writePolderCtl ((off - 0x101000) / 0x200) v s
  else if off = 0x108008 then execWhlTblDataWrite v s
  else if 0x700000 ≤ off ∧ off < 0x740000 ∧ 0x1000 ≤ off % 0x10000 ∧ off % 0x1000 = 0 ∧ off % 0x10000 < 0x9000 then
    writePctl ((off - 0x700000) / 0x10000) (off % 0x10000 / 0x1000 - 1) v s
  else writeCommand off v blocks (s.plainWrite off v)

/-- Whether a request to the control window is answered (R554): before the MGC starts none is, and before MAIN_UP only those to
the MGT and SEC blocks are. -/
def windowOpen (s : State) (off : Nat) : Bool :=
  s.rtp.mgc && (s.flag Reg.MGT_STATUS_MAIN_UP || decide (off < 0x100000) || (decide (0x800000 ≤ off) && decide (off < 0x900000)))

/-- REGISTER_WRITE (R9 to R11): a 32-bit word of the control window written by the host. One that the endpoint does not accept has
no effect (R554). -/
def execRegisterWrite (off : Nat) (value : Word) (blocks : List (Nat × List Byte)) (s : State) : Host.Outcome State Fault Refusal :=
  if windowOpen s off && off % 4 == 0 then writeReg off value blocks s else .next s

end Sys2Proof.Machine
end

