-- ==== Sys2Proof/Machine/Access.lean ====
section
/-! DEFINITION. What the host reads and writes: the registers as they are read, and the memory aperture (R32, R34, R141, R142, R164,
R374, R383, R401, R503, R509). -/

namespace Sys2Proof.Machine

namespace State

/-! ### Registers as they are read -/

/-- A channel context's STATE code. -/
def ctxStateCode (k : CtxState) : Nat :=
  match k with
  | .off => 0
  | .isOpen => 1
  | .opening => 2
  | .closed => 3

/-- CHN_CTX_STATE of a context. -/
def ctxStateWord (k : Ctx) : Nat :=
  ctxStateCode k.state + 8 * b2n (!k.waiting.isEmpty) + 16 * b2n (k.timedOut != 0) + 2 ^ 8 * k.outstanding.length +
    2 ^ 16 * (if ctxRole k = 2 then ctxFree k else k.credits)

/-- CORE_STATUS. -/
def coreStatusWord (c : Core) : Nat :=
  let empty (e : Engine) : Nat := b2n !(c.queued.any fun q => engineOf q.cmd == e)
  b2n (c.faultCode != 0) + 2 * b2n c.halted + 4 * b2n (c.wait != .none) + 8 * b2n c.list.isSome +
    16 * (empty .matrix + 2 * empty .vector + 4 * empty .transfer + 8 * empty .message) + 2 ^ 13 * c.ftq.length + 2 ^ 17 * c.sb.length +
    2 ^ 24 * (c.sb.filter fun e => e.flight.isSome).length

/-- A word of a core control page. -/
def pageWord (s : State) (i o : Nat) : Nat :=
  let c := s.core i
  let k := c.ctx (c.getF Reg.CHN_CTX_SEL_CTX)
  if o = 0 then i + 2 ^ 16 * c.polder
  else if o = 0x8 then coreStatusWord c
  else if o = 0xC then c.faultCode + 2 ^ 16 * c.faultPc
  else if o = 0x10 then c.pc.toNat
  else if o = 0x24 then c.ringHead + 2 ^ 8 * c.tail
  else if o = 0x28 then c.oldestOpen.toNat + 2 ^ 16 * c.nextSeq.toNat
  else if 0x300 ≤ o ∧ o < 0x400 then
    (if c.flag Reg.CORE_CTL_DEBUG then (c.getX ((o - 0x300) / 8)).toNat / 2 ^ (if o % 8 = 4 then 32 else 0) % 2 ^ 32 else 0)
  else if 0x400 ≤ o ∧ o < 0x480 ∧ c.flag Reg.CORE_CTL_DEBUG = false then 0
  else if 0x820 ≤ o ∧ o < 0x840 then bitsOf k.desc.toNat (8 * (o - 0x820) + 31) (8 * (o - 0x820))
  else if o = 0x840 then ctxStateWord k
  else if o = 0x844 then (if ctxRole k = 2 then k.rd + 2 ^ 16 * k.fill else k.wr)
  else if o = 0x848 then k.epoch.toNat
  else if 0x860 ≤ o ∧ o < 0x870 then
    (List.range 32).foldl (fun n b => n + b2n ((c.ctx (8 * (o - 0x860) + b)).state == .isOpen) * 2 ^ b) 0
  else (SMap.get pageReset c.page o).toNat

/-- PIP_GROUP_STATUS. -/
def groupStatusWord (s : State) (g : Nat) : Nat :=
  let used (lo n : Nat) : Nat := ((List.range n).filter fun k => (SMap.get (fun _ => none) s.stash (80 * g + lo + k)).isSome).length
  used 0 64 + 2 ^ 7 * used 64 16 + 2 ^ 12 * (s.verIn g 3).getD 0 + 2 ^ 14 * b2n (s.slotWait g)

/-- PIP_LINK_READY. -/
def linkReadyWord (s : State) (l : Nat) : Nat :=
  let q := (s.linkEnd l).queue
  let h := q.find? fun x => x.mbSeq == s.linkHead l
  (q.filter fun x => x.ready.isSome).length + 2 ^ 8 * ((h.map (·.cls)).getD 0 % 64) + 2 ^ 14 * b2n ((h.map (·.ready.isSome)).getD false)

/-- KLN_STATUS: applying a tile is one step of the model, so BUSY reads 0 between steps. -/
def kilnStatusWord (s : State) (i : Nat) : Nat :=
  let frames := (s.kiln i).parked.foldl (fun n e => n + e.frames) 0
  2 * b2n ((s.kiln i).parked.any fun e => (s.lenders i e.polder).isEmpty) + 4 * b2n ((s.kiln i).roots.any fun r => r.res == .pending) +
    8 * s.getF (Reg.KLN_STATUS_BASIN_FULL i) + 16 * s.getF (Reg.KLN_STATUS_EXPORT_WAIT i) + 2 ^ 8 * frames

/-- COL_OP_STATE of the operation that COL_OP_SEL selects. -/
def opStateWord (s : State) (j : Nat) : Nat :=
  match s.colOp j (s.getF (Reg.COL_OP_SEL_POLDER j)) (s.getF (Reg.COL_OP_SEL_OP j)) with
  | none => 0
  | some o =>
    let st := if o.code ≠ 0 then 2 else if 0 < o.fixing ∨ o.repairs ≠ [] then 3 else b2n o.active
    st + 2 ^ 16 * o.code + 2 ^ 32 * o.step

/-- A word of the control window as it is read; offsets of no register read 0 (R9). -/
def viewWord (s : State) (off : Nat) : Word :=
  let part (v : Nat) : Word := BitVec.ofNat 32 (v / 2 ^ (if off % 8 = 4 then 32 else 0))
  if 0x1000000 ≤ off then
    (if off < 0x3000000 then BitVec.ofNat 32 (s.pageWord ((off - 0x1000000) / 0x1000) (off % 0x1000)) else 0)
  else if off = 0x100000 ∨ off = 0x100004 then part (s.now + 2 ^ 48 * s.tide.phase)
  else if off = 0x100010 then BitVec.ofNat 32 (setBits (s.rawWord off).toNat 4 4 (b2n s.locked))
  else if off = 0x300008 ∨ off = 0x30000C then part (s.opStateWord 0)
  else if off = 0x308008 ∨ off = 0x30800C then part (s.opStateWord 1)
  else if 0x400000 ≤ off ∧ off < 0x410000 ∧ off % 0x1000 = 0x10 then BitVec.ofNat 32 (s.kilnStatusWord ((off - 0x400000) / 0x1000))
  else if 0x600000 ≤ off ∧ off < 0x610000 ∧ off % 0x100 = 0xC then BitVec.ofNat 32 (s.groupStatusWord ((off - 0x600000) / 0x100))
  else if 0x610000 ≤ off ∧ off < 0x618000 ∧ off % 0x40 = 0x28 then BitVec.ofNat 32 (s.linkReadyWord ((off - 0x610000) / 0x40))
  else if 0x201100 ≤ off ∧ off < 0x205000 ∧ 0x100 ≤ (off - 0x201000) % 0x400 ∧ (off - 0x201000) % 0x400 < 0x200 ∧ off % 0x10 = 8 then
    let q := (off - 0x201000) / 0x400
    BitVec.ofNat 32 (setBits (s.rawWord off).toNat 15 15 (b2n (s.leaking q ((off - 0x201100) % 0x400 / 0x10))))
  else if 0x700000 ≤ off ∧ off < 0x740000 ∧ 0x1000 ≤ off % 0x10000 ∧ off % 0x10000 < 0x9000 ∧ off % 0x1000 / 8 = 8 then
    let x := s.mfe ((off - 0x700000) / 0x10000) (off % 0x10000 / 0x1000 - 1)
    part ((List.range 64).foldl (fun n c => n + b2n (x.sets.any fun t => t.cls == c && t.phase == LandPhase.ready) * 2 ^ c) 0)
  else s.rawWord off

/-- A word of the control window read; WHL_TBL_DATA goes on to the next word of its table (R210). -/
def readReg (off : Nat) (s : State) : State × Word :=
  if off = 0x108008 then (s.readTable, s.readTable.viewWord off) else (s, s.viewWord off)

/-- `n` words of the control window read in order. -/
def readRegs (off : Nat) : Nat → State → State × List Byte
  | 0, s => (s, [])
  | n + 1, s =>
    let r := s.readReg off
    let t := readRegs (off + 4) n r.1
    (t.1, bytesLE 4 r.2.toNat ++ t.2)

/-! ### Scratchpads -/

/-- Whether a tile of a core's receive ring holds part of a SEALED record (R164). -/
def ringSealed (c : Core) (t : Nat) : Bool :=
  c.ctxs.any fun e => decide (ctxRole e.2 = 2) && e.2.state != .off && e.2.recs.any fun r =>
    r.isSealed && (List.range r.units).any fun u =>
      (ctxRingTile e.2 + (r.start + u) % max 1 (32 * ctxRingTiles e.2) / 32) % 192 == t

/-- An operator read of a scratchpad within a tile: the fixed pattern where the tile is SEALED or its ring holds a SEALED record; of a
tile that is being written, each 64 B is either old or new, and new SEALED data reads as the pattern (R141, R142, R164). -/
def scratchRead (s : State) (core a n : Nat) : State × List Byte :=
  let c := s.core core
  let t := a % 0x80000 / 2048
  if (c.attr t).isSealed ∨ ringSealed c t then (s, fixedPattern a n)
  else match comingTile c t with
    | none => (s, s.bytes a n)
    | some w =>
      let new := if w.isSealed then fixedPattern (a - a % 2048) 2048 else padTo 2048 w.tile.data
      (s.useFree 32, (List.range n).map fun k =>
        let o := (a + k) % 2048
        if s.fr (o / 64) % 2 = 0 then Memory.read s.mem (a + k) else new.getD o 0)

/-- An operator write of a scratchpad within a tile: merged while the core's scoreboard is empty, else dropped and counted (R142,
R150). A tile so written has no origin (R155). -/
def scratchWrite (core a : Nat) (d : List Byte) (s : State) : State :=
  if (s.core core).sb.isEmpty then
    (s.putPart a d).modCore core fun c =>
      let t := a % 0x80000 / 2048
      c.setAttr t ⟨(c.attr t).isSealed, none⟩
  else s.modCore core fun c => c.bump Reg.CORE_CNT_EXT_DROP_COUNT 1

/-! ### The memory aperture -/

/-- Whether an address can be reached through the aperture now: mapped, and neither in the host window nor, since the spec gives such
accesses no other answer, on a die that is quarantined or while the main side is down (R32, R509). -/
def apertureOk (s : State) (a : Nat) : Bool :=
  match region a with
  | .dram st _ => s.flag Reg.MGT_STATUS_MAIN_UP && !s.flag (Reg.MEM_STACK_STATUS_OFFLINE st)
  | .scratch core => s.flag Reg.MGT_STATUS_MAIN_UP && !s.flag (Reg.MGT_DIE_STATUS_QUARANTINE (dieOf core))
  | .control => true
  | _ => false

/-- A request's address. -/
def reqAddr (r : HostReq) : Nat :=
  match r with
  | .read a _ _ => a
  | .write a _ => a

/-- A request to DRAM as an entry of a deferred queue. -/
def reqDeferred (r : HostReq) : Deferred :=
  match r with
  | .read a n id => .opRead a n id
  | .write a d => .opWrite a d

/-- A request's use of the slice. -/
def reqAccess (r : HostReq) : Access :=
  match r with
  | .read _ n _ => if n < 2048 then readShort else readTile
  | .write _ d => if d.length < 2048 then writeShort else writeTile

/-- A request to DRAM (R374, R376, R383, R401): held while the channel is wiped, by bucket 8 of the weirs, or while the queue is full;
performed at once on a hit, or put in the channel's queue. Nothing when it waits. -/
def serveDram (st ch : Nat) (r : HostReq) (s : State) : State × Bool :=
  let a := reqAddr r
  let k := reqAccess r
  if s.wiping.contains (st * 32 + ch) then (s, false)
  else if !s.weirPass 8 k a then (s.weirHold 8 a, false)
  else if (s.lineOf st a).isSome then ((s.meter 8 k a).perform (reqDeferred r), true)
  else if s.chanRuns st ch && decide (16 ≤ (s.queueOf st ch).length) then (s, false)
  else ((s.meter 8 k a).defer st ch (reqDeferred r), true)

/-- A request served, and whether it is over; false when it waits. -/
def serveReq (r : HostReq) (s : State) : State × Bool :=
  if !s.apertureOk (reqAddr r) then
    (match r with
    | .read _ _ id => (s.send (.pcie id .unsupported), true)
    | .write _ _ => (s, true))
  else match region (reqAddr r) with
    | .dram st ch => s.serveDram st ch r
    | .scratch core =>
      (match r with
      | .read a n id => ((s.scratchRead core a n).1.send (.pcie id (.data (s.scratchRead core a n).2)), true)
      | .write a d => (s.scratchWrite core a d, true))
    | _ => (s, true)

/-- A request after those that wait: behind them, or served (R383). -/
def hostReq (r : HostReq) (s : State) : State :=
  if s.behind ≠ [] then { s with behind := s.behind ++ [r] }
  else if (s.serveReq r).2 then (s.serveReq r).1
  else { (s.serveReq r).1 with behind := [r] }

/-- Waiting requests tried again, in order, until one still waits; at most `n`. -/
def retryReqs : Nat → State → State
  | 0, s => s
  | n + 1, s =>
    match s.behind with
    | [] => s
    | r :: t => if (s.serveReq r).2 then retryReqs n { (s.serveReq r).1 with behind := t } else (s.serveReq r).1

/-- The parts of `n` bytes from an address on that lie in one tile each, as (address, offset, length). -/
def tileParts (a n : Nat) : List (Nat × Nat × Nat) :=
  (List.range (n / 2048 + 2)).filterMap fun k =>
    let lo := max a ((a / 2048 + k) * 2048)
    let hi := min (a + n) ((a / 2048 + k + 1) * 2048)
    if lo < hi then some (lo, lo - a, hi - lo) else none

/-- The device address of an aperture offset (R34). -/
def apertureAddr (s : State) (off : Nat) : Nat := s.getF Reg.MGT_APERTURE_BASE_BASE * 2 ^ 30 + off

/-- Whether an aperture request is one that this endpoint claims: it lies within BAR2, and PERST# is high. -/
def claims2 (s : State) (off n : Nat) : Bool := s.power.pwrgood && !s.power.perstLow && decide (off + n ≤ 2 ^ s.lands.bar2)

end State

/-- APERTURE_READ (R32, R34, R141, R142, R164, R383, R503): a read of `n` bytes at an offset of the memory aperture, answered tile by
tile under its tag; of the control window, word by word. -/
def execApertureRead (off n id : Nat) (s : State) : Host.Outcome State Fault Refusal :=
  let a := s.apertureAddr off
  if !s.claims2 off n then .next s
  else match region a with
    | .control =>
      if windowOpen s (a - 0x20000000000) then
        .next ((s.readRegs ((a - 0x20000000000) / 4 * 4) (n / 4)).1.send (.pcie id (.data (s.readRegs ((a - 0x20000000000) / 4 * 4) (n / 4)).2)))
      else .next (s.send (.pcie id .unsupported))
    | _ => .next ((State.tileParts a n).foldl (fun s p => s.hostReq (.read p.1 p.2.2 id)) s)

/-- APERTURE_WRITE (R32, R34, R142, R150, R383, R503): bytes written at an offset of the memory aperture; in the control window, one
word. -/
def execApertureWrite (off : Nat) (data : List Byte) (blocks : List (Nat × List Byte)) (s : State) : Host.Outcome State Fault Refusal :=
  let a := s.apertureAddr off
  if !s.claims2 off data.length then .next s
  else match region a with
    | .control => execRegisterWrite (a - 0x20000000000) (BitVec.ofNat 32 (numAt data 0 4)) blocks s
    | _ => .next ((State.tileParts a data.length).foldl (fun s p => s.hostReq (.write p.1 ((data.drop p.2.1).take p.2.2))) s)

end Sys2Proof.Machine
end

