-- ==== Sys2Proof/Machine/Install.lean ====
section
/-! DEFINITION. Jobs (R162, R288, R393, R456, R471, R511, R512, R533): the job image, the checks of an installation, its sections,
retirement and re-sharding. -/

namespace Sys2Proof.Machine

/-! ### The job image (R511) -/

/-- An entry of the section table. -/
structure JobSec where
  typ    : Nat
  target : Nat
  unit   : Nat
  length : Nat
  src    : Nat
  dest   : Nat
  deriving DecidableEq, Repr

def jiSections (i : List Byte) : Nat := numAt i 6 2
def jiLength (i : List Byte) : Nat := numAt i 8 4

/-- Section `k` of a job image. -/
def jiSec (i : List Byte) (k : Nat) : JobSec :=
  let b := 64 + 32 * k
  ⟨numAt i b 1, numAt i (b + 1) 1, numAt i (b + 2) 2, numAt i (b + 4) 4, numAt i (b + 8) 8, numAt i (b + 16) 4⟩

/-- The sections of a job image, with their numbers. -/
def jiSecs (i : List Byte) : List (Nat × JobSec) := (List.range (jiSections i)).map fun k => (k, jiSec i k)

/-- A section's bytes. -/
def secBytes (i : List Byte) (x : JobSec) : List Byte := (i.drop x.src).take x.length

/-- The 16-byte records of a section. -/
def secRecs (i : List Byte) (x : JobSec) : List (List Byte) :=
  (List.range (x.length / 16)).map fun r => (i.drop (x.src + 16 * r)).take 16

/-- Bytes of the stores that TARGET names: wheel store, variant directory, route table, set table, instruction store, data store. -/
def storeBytes (t : Nat) : Nat := [0x8000, 0x1000, 0x40000, 0x80000, 0x8000, 0x4000].getD t 0

/-- Whether an entry of the section table has its form. -/
def secOk (i : List Byte) (k : Nat) : Bool :=
  let x := jiSec i k
  zeroIn i (64 + 32 * k + 20) 12 && decide (x.src + x.length ≤ jiLength i) &&
    (match x.typ with
    | 1 => decide (x.target < 6) && decide (x.dest + x.length ≤ storeBytes x.target) &&
        (x.target == 5 || (x.dest % 4 == 0 && x.length % 4 == 0)) && decide (x.unit < if x.target = 2 ∨ x.target = 3 then 4 else 8192)
    | 2 => x.length % 16 == 0 && (secRecs i x).all fun r => decide (numAt r 0 8 < 2 ^ 26) && numAt r 0 8 % 4 == 0
    | 3 => x.length % 16 == 0 && (secRecs i x).all fun r => zeroIn r 2 2
    | _ => false)

/-- Whether a job image of LEN bytes has its form. -/
def imageOk (i : List Byte) : Bool :=
  numAt i 0 4 == 0x424F4A51 && numAt i 4 1 == 1 && zeroIn i 5 1 && zeroIn i 12 52 && decide (jiLength i ≤ i.length) &&
    decide (64 + 32 * jiSections i ≤ jiLength i)

/-- The first section without its form. -/
def badSec (i : List Byte) : Option Nat := (List.range (jiSections i)).find? fun k => !secOk i k

/-- A region that a SAGGAR record declares: stacks, channels, offset, tiles. -/
def saggarRec (r : List Byte) : Nat × Nat × Nat × Nat := (numAt r 0 2, numAt r 4 4, numAt r 8 4, numAt r 12 4)

/-- The declared regions of an image. -/
def jiSaggars (i : List Byte) : List (Nat × Nat × Nat × Nat) :=
  (jiSecs i).flatMap fun x => if x.2.typ = 3 then (secRecs i x.2).map saggarRec else []

/-- The register writes of an image, with their sections. -/
def jiRegs (i : List Byte) : List (Nat × Nat × Nat) :=
  (jiSecs i).flatMap fun x => if x.2.typ = 2 then (secRecs i x.2).map fun r => (x.1, numAt r 0 8, numAt r 8 8) else []

namespace State

/-! ### Writing the sections (R512) -/

/-- Words of a table or instruction store written from a byte offset on. -/
def storeWords (t u dest : Nat) (l : List Byte) (s : State) : State :=
  (List.range (l.length / 4)).foldl (fun s k =>
    let v := BitVec.ofNat 32 (numAt l (4 * k) 4)
    if t = 4 then s.modCore u fun c => { c with istore := SMap.set (fun _ => 0) c.istore (dest / 4 + k) v }
    else s.putTableWord t u (dest / 4 + k) v) s

/-- A STORE section written. -/
def storeSec (x : JobSec) (l : List Byte) (s : State) : State :=
  if x.target = 5 then s.modCore x.unit fun c => c.dwrite x.dest l else s.storeWords x.target x.unit x.dest l

/-- A REGS record written: the low word, and the high one of a 64-bit register. -/
def writeRec (off v : Nat) (s : State) : Host.Outcome State Fault Refusal :=
  chain (writeReg off (BitVec.ofNat 32 v) [] s) fun s =>
    if 2 ≤ regWords off then writeReg (off + 4) (BitVec.ofNat 32 (v / 2 ^ 32)) [] s else .next s

/-- REGS records written in order. -/
def writeRecs : List (List Byte) → State → Host.Outcome State Fault Refusal
  | [], s => .next s
  | r :: t, s => chain (s.writeRec (numAt r 0 8) (numAt r 8 8)) (writeRecs t)

/-- Whether a polder's declared region is live already. -/
def declared (s : State) (p : Nat) (r : Nat × Nat × Nat × Nat) : Bool :=
  !(s.saggars 1 fun n => s.getF (Reg.SEC_SAGGAR_POLDER n) == p && s.getF (Reg.SEC_SAGGAR_STACKS n) == r.1 &&
    s.getF (Reg.SEC_SAGGAR_CHANS n) == r.2.1 && s.getF (Reg.SEC_SAGGAR_OFFSET n) == r.2.2.1 && s.getF (Reg.SEC_SAGGAR_TILES n) == r.2.2.2).isEmpty

/-- A declared region entered in SEC_SAGGAR and wiped. -/
def declare (p : Nat) (r : Nat × Nat × Nat × Nat) (s : State) : State :=
  if s.declared p r then s
  else
    let s := (s.addSaggar p 1 0 r.1 r.2.1 r.2.2.1 r.2.2.2).getD s
    (regionRuns r.1 r.2.1 r.2.2.1).foldl (fun s a => s.wipeDram a (a + 2048 * r.2.2.2)) s

/-- One section written. -/
def writeSec (p : Nat) (i : List Byte) (x : JobSec) (s : State) : Host.Outcome State Fault Refusal :=
  match x.typ with
  | 1 => .next (s.storeSec x (secBytes i x))
  | 2 => s.writeRecs (secRecs i x)
  | _ => .next ((secRecs i x).foldl (fun s r => s.declare p (saggarRec r)) s)

/-- Sections written in order. -/
def writeSecs (p : Nat) (i : List Byte) : List (Nat × JobSec) → State → Host.Outcome State Fault Refusal
  | [], s => .next s
  | x :: t, s => chain (s.writeSec p i x.2) (writeSecs p i t)

/-- The state as an image would leave it, for the checks. -/
def after (p : Nat) (i : List Byte) (s : State) : State :=
  match s.writeSecs p i (jiSecs i) with
  | .next t => t
  | _ => s

/-! ### The checks of an installation (R512) -/

/-- Whether a REGS offset lies in something that the job claims for the polder: a page of its cores, its polder blocks, its groups, its
link ends. -/
def regInScope (t : State) (p off : Nat) : Bool :=
  if 0x1000000 ≤ off then decide (off < 0x3000000) && (t.core ((off - 0x1000000) / 0x1000)).polder == p
  else if 0x101000 ≤ off ∧ off < 0x102000 then (off - 0x101000) / 0x200 == p
  else if 0x104000 ≤ off ∧ off < 0x104800 then t.groupPolder ((off - 0x104000) / 8) == p
  else if 0x300000 ≤ off ∧ off < 0x310000 then
    decide (0x400 ≤ off % 0x8000) && decide (off % 0x8000 < 0x600) && (off % 0x8000 - 0x400) / 0x40 == p
  else if 0x600000 ≤ off ∧ off < 0x610000 then t.groupPolder ((off - 0x600000) / 0x100) == p
  else if 0x610000 ≤ off ∧ off < 0x618000 then t.linkPolder ((off - 0x610000) / 0x40) == p
  else if 0x620000 ≤ off ∧ off < 0x620200 then (off - 0x620000) / 0x40 == p
  else if 0x700000 ≤ off ∧ off < 0x740000 then decide (0x1000 ≤ off % 0x10000) && off % 0x10000 / 0x1000 - 1 == p
  else false

/-- The first section that names something outside the polder (R512). -/
def scopeErr (t : State) (p : Nat) (i : List Byte) : Option Nat :=
  ((jiSecs i).find? fun x =>
    match x.2.typ with
    | 1 =>
      if x.2.target = 2 ∨ x.2.target = 3 then !(t.coresOf p).any fun c => dieOf c == x.2.unit else (t.core x.2.unit).polder != p
    | 2 => (secRecs i x.2).any fun r => !t.regInScope p (numAt r 0 8)
    | _ => false).map (·.1)

/-- Whether a polder would use a die that is quarantined (R533). -/
def usesLost (t : State) (p : Nat) : Bool :=
  (List.range 6).any fun d => t.flag (Reg.MGT_DIE_STATUS_QUARANTINE d) && t.usesDie p d

/-- Whether declared regions fit the table beside those that live, within the polder's channels (R502, R512). -/
def saggarErr (s : State) (p : Nat) (i : List Byte) : Bool :=
  let live := ((List.range 64).filter fun n => s.flag (Reg.SEC_SAGGAR_VALID n)).length
  decide (64 < live + (jiSaggars i).length) || (jiSaggars i).any fun r =>
    r.2.2.1 % 2048 != 0 || decide (0x60000000 < r.2.2.1 + 2048 * r.2.2.2) ||
      ((List.range 16).filter (bitOf r.1)).any fun st => ((List.range 32).filter (bitOf r.2.1)).any fun ch => s.chanOwner st ch != p

/-- The contexts of a core that a job has described. -/
def described (c : Core) : List (Nat × Ctx) := c.ctxs.filter fun e => ctxRole e.2 != 0

/-- The tiles of a ring: consecutive modulo 192 (R161). -/
def ringOf (k : Ctx) : List Nat := (List.range (ctxRingTiles k)).map fun j => (ctxRingTile k + j) % 192

/-- The checks of R162. -/
def channelErr (t : State) (p : Nat) : Bool :=
  (t.coresOf p).any fun i =>
    let l := described (t.core i)
    let rings := l.filter fun e => ctxRole e.2 == 2
    rings.any (fun e => decide (191 < ctxRingTile e.2) || decide (ctxRingTiles e.2 = 0) || decide (64 < ctxRingTiles e.2) ||
      rings.any fun f => f.1 != e.1 && (ringOf e.2).any fun t => (ringOf f.2).contains t) ||
    l.any fun e =>
      let q := ctxPeer e.2
      q.pkg == t.pkgId && ((t.core q.core).polder != p || ctxPeer ((t.core q.core).ctx q.ctx) != ⟨t.pkgId, i, e.1⟩)

/-- The layers of a group on a kiln. -/
def layersOf (t : State) (g i : Nat) : List (List Byte) :=
  ((List.range 65536).map fun n => t.ldesc i n).filter fun d => kdValid d && kdGroup d == g

/-- Tiles that area `a` of a layer of `n` weight tiles spans: in DELTA form areas 2 to 4 hold 33 tiles for each 64 (R322, R323). -/
def areaTiles (delta : Bool) (a n : Nat) : Nat := if delta && decide (2 ≤ a) then 33 * ((ceilDiv n 2 - 1) / 32) + 33 else n

/-- Whether an area of a layer lies outside its stack. -/
def areaOut (t : State) (g st a : Nat) (d : List Byte) : Bool :=
  let b := areaBase d (t.getF (Reg.PIP_AREA_OFF_OFF g a))
  !kdSlow d && (b / 2 ^ 36 != st || (b + 2048 * areaTiles (t.flag (Reg.PIP_GROUP_CFG_FORM g)) a (kdTiles d) - 1) / 2 ^ 36 != st)

/-- The checks of R288. -/
def pipeErr (t : State) (p : Nat) (i : List Byte) : Bool :=
  let gs := t.groupsOf p
  let member (g c : Nat) : Bool := bitOf (t.getF (Reg.PIP_GROUP_CLUSTERS_MEMBERS g (c / 32))) (c % 32)
  let links := ((List.range 512).filter fun l => (jiRegs i).any fun r => decide (0x610000 + 0x40 * l ≤ r.2.1) && decide (r.2.1 < 0x610040 + 0x40 * l)).filter
    fun l => ldRole (t.linkDesc l) != 0
  gs.any (fun g => (List.range 256).any fun c => member g c &&
    ((t.core (32 * c)).polder != p || (List.range 256).any fun h => h != g && t.flag (Reg.PIP_GROUP_CFG_VALID h) && member h c)) ||
  links.any (fun l =>
    let d := t.linkDesc l
    !t.flag (Reg.PIP_GROUP_CFG_VALID (ldGroup d)) || (ldRole d == 2 && (List.range (ldDepth d)).any fun k =>
      !t.ownsAddr p (ldSlot d k) || region (ldSlot d k + (1 + ldSlotTiles d) * 2048 - 1) != region (ldSlot d k))) ||
  gs.any fun g => ((List.range 16).filter (bitOf (t.getF (Reg.PIP_GROUP_SHERDS_SHERD_MASK g)))).any fun st =>
    (t.layersOf g st).any fun d => (List.range 5).any fun a => t.areaOut g st a d

/-- The members that an operation's own port must reach (R456). -/
def neighbours (o : ColOp) : List Nat :=
  if o.m ≤ 1 ∨ o.kind = 3 then []
  else if o.algo = 2 then
    (List.range o.m).flatMap fun w =>
      let r := (o.self + o.m - w) % o.m
      (if r = 0 then [] else [((r - 1) / 2 + w) % o.m]) ++ ([2 * r + 1, 2 * r + 2].filter fun x => decide (x < o.m)).map fun x => (x + w) % o.m
  else if o.algo = 1 then [o.ahead 1, o.ahead (o.m - 1)]
  else [o.ahead 1]

/-- The members that an operation's results come from. -/
def sources (o : ColOp) : List Nat :=
  if o.m ≤ 1 ∨ o.kind ≠ 1 then []
  else if o.algo = 2 then
    (List.range o.m).filterMap fun w =>
      let r := (o.self + o.m - w) % o.m
      if r = 0 then none else some (((r - 1) / 2 + w) % o.m)
  else if o.algo = 1 then [o.ahead 1, o.ahead (o.m - 1)]
  else [o.ahead (o.m - 1)]

/-- Whether a pull entry's route leads from its core to the operation's VC on a port of the engine (R456). -/
def pullRouteOk (t : State) (j p : Nat) (o : ColOp) (e : PullEntry) : Bool :=
  let d := t.route (dieOf e.core) e.route
  d.kind == 4 && (match routePort d with
    | some q => q / 8 == j && (if o.m ≤ 1 then t.vcPolder q (d.target % 16) == p else d.target % 16 == o.vc)
    | none => false)

/-- The checks of R456 on one operation. -/
def opErr (t : State) (j p : Nat) (o : ColOp) : Bool :=
  let ports := if o.m ≤ 1 then [] else (List.range 8).filter fun n => o.members.any fun m => bitOf m.2 n
  let from' := (List.range 8).filter fun n => (sources o).any fun m => (o.portsTo j m).contains (8 * j + n)
  (o.kind == 1 && o.pulls.any fun e => !t.pullRouteOk j p o e) ||
    ports.any (fun n => (t.getF (Reg.LNK_PORT_CFG_ROLE (8 * j + n)) != 2 && t.getF (Reg.LNK_PORT_CFG_ROLE (8 * j + n)) != 3) ||
      t.vcPolder (8 * j + n) o.vc != p) ||
    o.members[o.self]? != some (t.pkgId, 0) || (neighbours o).any (fun m => (o.portsTo j m).isEmpty) ||
    !(decide (1 ≤ o.m) && decide (o.m ≤ 256)) ||
    !(decide (1 ≤ o.run) && decide (o.run ≤ 1024)) || (o.kind != 3 && !(decide (1 ≤ o.tiles) && decide (o.tiles ≤ 16384))) ||
    (o.kind == 1 && (List.range o.tiles).any fun k =>
      (o.pulls.filter fun e => decide (e.index ≤ k) && decide (k < e.index + e.tiles)).length != 1) ||
    (o.kind == 1 && o.pulls.any fun e => decide (o.tiles < e.index + e.tiles)) ||
    decide (t.getF (Reg.COL_SHARE_RESULT j p) < o.run * from'.length)

/-- Whether a SLOW layer of a polder's groups on K[8] to K[15] has a base in the host window (R456, R474). -/
def slowErr (t : State) (p : Nat) : Bool :=
  (List.range 8).any fun k => (t.groupsOf p).any fun g => (t.layersOf g (8 + k)).any fun d =>
    kdSlow d && [kdW d, kdM1 d, kdM2 d].any fun a => region (a % 2 ^ 44) == .host

/-- The checks of R456. -/
def collectiveErr (t : State) (p : Nat) : Bool :=
  (List.range 2).any (fun j => (List.range (t.getF (Reg.COL_OP_COUNT_COUNT j p))).any fun n =>
    match t.readOp (t.getF (Reg.COL_OP_BASE_ADDR j p) + 64 * n) with
    | some o => t.opErr j p o
    | none => false) || t.slowErr p

/-- The entries that a job names raised, and the COLD ones that can start started (R393, R501); the first entry that makes the MGC
refuse the job. One that is EMPTY or of another polder cannot be loaded for it. -/
def nameEntries (p : Nat) : List Nat → State → State × Option Nat
  | [], s => (s, none)
  | n :: t, s =>
    let e := s.entry n
    if reState e = 0 ∨ rePolder e ≠ p then (s, some n)
    else if reState e = 1 ∧ s.waitsKey e = false then
      match s.startLoad n with
      | some s => nameEntries p t s
      | none => (s, some n)
    else nameEntries p t s

/-- The first refusal of an installation, with its detail; `t` is the state as the image would leave it, `u` what naming the entries
finds (R512, R533). -/
def installErr (s : State) (d i : List Byte) (t : State) (u : State × Option Nat) : Option (Nat × Nat) :=
  let p := jdPolder d
  if (s.job p).active then some (mgtEBusy, 0)
  else if !imageOk i then some (mgtEFormat, 0)
  else match badSec i with
    | some k => some (mgtEFormat, k)
    | none =>
      match t.scopeErr p i with
      | some k => some (mgtEScope, k)
      | none =>
        if t.usesLost p then some (mgtEScope, 0)
        else if s.saggarErr p i then some (mgtESaggar, 0)
        else if t.channelErr p then some (mgtEChannel, 0)
        else if t.pipeErr p i then some (mgtEPipe, 0)
        else if t.collectiveErr p then some (mgtECollective, 0)
        else match t.tablesErr p with
          | some (e, x) => some (mgtEWheel, e * 2 ^ 28 + x % 2 ^ 14 * 2 ^ 14)
          | none => u.2.map fun n => (mgtERegistry, n)

/-- The bytes of a descriptor's ADDR and LEN; none where something is not mapped. -/
def jobBytes (s : State) (d : List Byte) : List Byte :=
  if (List.range (jdLen d / 2048 + 2)).all fun k =>
      reachable (min (jdAddr d + 2048 * k) (jdAddr d + jdLen d - 1)) then s.bytes (jdAddr d) (jdLen d) else []

/-- The users of the entries that a job names raised. -/
def raiseUsers (m : Nat) (s : State) : State := (namedBy m).foldl (fun s n => s.addUser n) s

/-- The job of an accepted descriptor. -/
def jobOf (d i : List Byte) (idx : Nat) : Job :=
  { Job.none with active := true, token := jdToken d, notify := jdNotify d, vector := jdVector d, models := jdModels d, step := jdStep d
                  seed := BitVec.ofNat 64 (jdSeed d), ringIdx := idx, image := i, digest := padTo 48 (Config.sha384 i), writing := true }

/-- An INSTALL descriptor accepted or refused. -/
def install (p : Nat) (x : Taken) (s : State) : State :=
  let d := x.desc
  let i := s.jobBytes d
  let t := s.after p i
  let u := (s.raiseUsers (jdModels d)).nameEntries p (namedBy (jdModels d))
  match s.installErr d i t u with
  | some (st, det) => s.finish p x st det 0
  | none => ((u.1.setJob p (jobOf d i x.idx)).showJob p).setF (Reg.PWR_RECOV_STATUS_RESTORE_NEEDED p) 0

/-! ### Re-sharding (R471) -/

/-- Step `n` has run to completion: every group of the polder with a sherd has fired it, and every version but the CURRENT one has
retired. -/
def stepDone (s : State) (p n : Nat) : Bool :=
  (s.sherdGroups p).all fun g => match s.verIn g 3 with
    | some j => s.verNumber g j == (n + 1) % 2 ^ 32 && (List.range 4).all fun k => k == j || s.verState g k == 0
    | none => false

/-- The PERMUTE operations of a polder that have not run yet start. -/
def startPermutes (p : Nat) (s : State) : State :=
  (s.opsOf p).foldl (fun s k => s.modOp k.1 p k.2 fun o => if o.kind = 3 then { o with active := true } else o) s

/-- Whether every PERMUTE operation of a polder is complete. -/
def permutesDone (s : State) (p : Nat) : Bool :=
  (s.opsOf p).all fun k => match s.colOp k.1 p k.2 with
    | some o => o.kind != 3 || permDone o
    | none => true

/-- The wheel of a polder asked to stop at the end of its turn (R567). -/
def haltWheel (p : Nat) (s : State) : State :=
  match execWheelStop p s with
  | .next t => t
  | _ => s

/-- A re-shard goes on (R471): after step n the wheel stops and the PERMUTEs run; once they are complete the new sections are written
and RUN is set. One whose new plan is refused completes with MGT_E_WHEEL. -/
def goReshard (p : Nat) (x : Taken) (s : State) : State :=
  let j := s.job p
  if j.reshard = 1 then
    if s.stepDone p j.last then ((s.setJob p { j with reshard := 2 }).haltWheel p) else s
  else if j.reshard = 2 then
    if (s.wheel p).runs then s else (s.startPermutes p).setJob p { j with reshard := 3 }
  else if j.reshard = 3 ∧ s.permutesDone p = true then
    let s := (s.after p j.next).setJob p { j with reshard := 0, image := j.next, digest := padTo 48 (Config.sha384 j.next), next := [] }
    let s := (s.loadOps p (j.last + 1)).runWheel p
    if (s.wheel p).runs then s.finish p x 0 0 0
    else s.finish p x mgtEWheel (s.getF (Reg.WHL_POLDER_STATUS_ERR p) * 2 ^ 28 + s.getF (Reg.WHL_POLDER_STATUS_DETAIL p) * 2 ^ 14) 0
  else s

/-- A RESHARD descriptor under way; without a job, or with an image that has not its form, it is refused. -/
def reshard (p : Nat) (x : Taken) (s : State) : State :=
  let j := s.job p
  if !j.active then s.finish p x mgtEBusy 0 0
  else if j.writing then s
  else if j.reshard ≠ 0 then s.goReshard p x
  else
    let i := s.jobBytes x.desc
    if !imageOk i then s.finish p x mgtEFormat 0 0
    else match badSec i with
      | some k => s.finish p x mgtEFormat k 0
      | none => (s.setJob p { j with reshard := 1, last := jdStep x.desc, next := i }).goReshard p x

/-- Whether the MGC takes up descriptors. -/
def serving (s : State) : Bool := s.flag Reg.MGT_STATUS_MAIN_UP

end State

/-- INSTALL (R512): the INSTALL descriptor that a polder has in progress is accepted or refused. -/
def execInstallJob (polder : Nat) (s : State) : Host.Outcome State Fault Refusal :=
  match s.takenKind polder 1 with
  | some x => if s.serving && !(s.job polder).writing then .next (s.install polder x) else .next s
  | none => .next s

/-- The layers of a polder before their first step: the statistics of the matrix rule are wiped to zero (R351), and the norms start at
σ 0 (R356). -/
def State.freshLayers (p : Nat) (s : State) : State :=
  (List.range 16).foldl (fun s i => (List.range 65536).foldl (fun s n =>
    let d := s.ldesc i n
    if !(kdValid d && (s.groupsOf p).contains (kdGroup d)) then s
    else
      let t := s.ktable (kdTable d)
      let b := blocksOf d t
      let s := { s with sigmas := SMap.set (fun _ => [0, 0, 0]) s.sigmas n [0, 0, 0] }
      if !ktPrecond t then s
      else (List.range b.count).foldl (fun s k => s.wipeRange (b.base d t k) (b.leftRoot d t k)) s) s) s

/-- INSTALL_SECTIONS_DONE (R512): every section of an accepted job is written, and its completion follows. -/
def execInstallSectionsDone (polder : Nat) (s : State) : Host.Outcome State Fault Refusal :=
  match s.takenKind polder 1 with
  | none => .next s
  | some x =>
    let j := s.job polder
    if !(s.serving && j.active && j.writing) then .next s
    else
      chain (s.writeSecs polder j.image (jiSecs j.image)) fun s =>
        .next (((((s.freshLayers polder).setJob polder { j with writing := false }).loadOps polder j.step).finish polder x 0 0 0).tryRun polder)

/-- The receive contexts of a polder close as its job retires, each with its CLOSED notice (R179). -/
def State.retireCtxs (p : Nat) (s : State) : State :=
  State.forCores (fun i s => (((s.core i).ctxs.filter fun e => e.2.state == .isOpen && ctxRole e.2 == 2).map (·.1)).foldl (fun s n => s.closeRecv i n) s)
    (s.coresOf p) s

/-- RETIRE (R512): the wheel stops at the turn end; then the job's declared regions are wiped and its registry uses released. -/
def execRetire (polder : Nat) (s : State) : Host.Outcome State Fault Refusal :=
  match s.takenKind polder 2 with
  | none => .next s
  | some x =>
    if !s.serving then .next s
    else if !(s.job polder).active then .next (s.finish polder x mgtEBusy 0 0)
    else
      let s := s.haltWheel polder
      if (s.wheel polder).runs then .next s
      else .next (((s.retireCtxs polder).dropJob polder).finish polder x 0 0 0)

/-- RESHARD (R471). -/
def execReshard (polder : Nat) (s : State) : Host.Outcome State Fault Refusal :=
  match s.takenKind polder 3 with
  | none => .next s
  | some x => if s.serving then .next (s.reshard polder x) else .next s

end Sys2Proof.Machine
end

