-- ==== Sys2Proof/Machine/Lands.lean ====
section
/-! DEFINITION. The interfaces of the lands beside memory and registers: the PCIe endpoint (R509, R553, R554), JTAG and I3C (R505,
R555). -/

namespace Sys2Proof.Machine

namespace State

/-- The lands' state with a change. -/
def modLands (f : Lands → Lands) (s : State) : State := { s with lands := f s.lands }

/-- Whether the PCIe endpoint takes configuration requests. -/
def endpointUp (s : State) : Bool := s.power.vaux && !s.power.perstLow

/-- Host requests in flight dropped (R554): those that wait, and those whose read a deferred queue holds. -/
def dropRequests (s : State) : State :=
  let keep (d : Deferred) : Bool := match d with
    | .opRead _ _ _ => false
    | .victim _ | .opWrite _ _ => true
  { s with behind := [], deferred := s.deferred.filterMap fun e => if (e.2.filter keep).isEmpty then none else some (e.1, e.2.filter keep) }

/-- A JTAG instruction loaded; the port works whenever VAUX is present (R505). -/
def jtag (op : JtagOp) (shifted : List Byte) (s : State) : State :=
  if s.power.vaux then (s.modLands fun l => { l with jtagIr := op }).send (.jtag shifted) else s

end State

/-- BAR_RESIZE (R509): BAR2 takes a size of 1 GiB to 1 TiB in powers of two. -/
def execBarResize (log2 : Nat) (s : State) : Host.Outcome State Fault Refusal :=
  if s.endpointUp && s.rtp.mgc && decide (30 ≤ log2) && decide (log2 ≤ 40) then .next (s.modLands fun l => { l with bar2 := log2 }) else .next s

/-- PCIE_CONFIG_REQUEST (R554): a read of `n` bytes of the configuration space, or a write of `data`; Request Retry Status until the
MGC starts. -/
def execPcieConfigRequest (off n : Nat) (data : List Byte) (id : Nat) (s : State) : Host.Outcome State Fault Refusal :=
  if !s.endpointUp then .next s
  else if !s.rtp.mgc then .next (s.send (.pcie id .retry))
  else if data = [] then .next (s.send (.pcie id (.data (Config.pcieRead s.lands.pcie off n))))
  else .next ((s.modLands fun l => { l with pcie := l.pcie ++ [(off, data)] }).send (.pcie id .written))

/-- PERST (R553, R554): resets only the PCIe endpoint and its configuration space; requests in flight are dropped. -/
def execPerst (s : State) : Host.Outcome State Fault Refusal :=
  if s.power.perstLow then .next s
  else
    let s := { s with power := { s.power with perstLow := true } }.dropRequests
    .next ((s.clearRegs 0x8000 0x10000).modLands fun l => { l with pcie := [], bar2 := 36 })

/-- PERST_RELEASE (R553). -/
def execPerstRelease (s : State) : Host.Outcome State Fault Refusal := .next { s with power := { s.power with perstLow := false } }

/-- BYPASS (R555). -/
def execJtagBypass (s : State) : Host.Outcome State Fault Refusal := .next (s.jtag .bypass [])

/-- IDCODE (R555): that of rev B0. -/
def execJtagIdcode (s : State) : Host.Outcome State Fault Refusal := .next (s.jtag .idcode (bytesLE 4 0x1096056B))

/-- SAMPLE/PRELOAD (R555): the levels of the lands are shifted out, and values for them in. -/
def execJtagSamplePreload (levels values : List Bool) (s : State) : Host.Outcome State Fault Refusal :=
  .next (if s.power.vaux then (s.jtag .samplePreload (levels.map fun b => BitVec.ofNat 8 (b2n b))).modLands fun l => { l with scan := values } else s)

/-- EXTEST (R555): the lands are driven with the preloaded values, or those shifted in, and their levels shifted out. -/
def execJtagExtest (levels values : List Bool) (s : State) : Host.Outcome State Fault Refusal :=
  .next (if s.power.vaux then (s.jtag .extest (levels.map fun b => BitVec.ofNat 8 (b2n b))).modLands fun l =>
    { l with scan := if values = [] then l.scan else values } else s)

/-- CLAMP (R555): the lands are held at the preloaded values. -/
def execJtagClamp (s : State) : Host.Outcome State Fault Refusal := .next (s.jtag .clamp [])

/-- HIGHZ (R555): the lands are not driven. -/
def execJtagHighz (s : State) : Host.Outcome State Fault Refusal := .next (s.jtag .highz [])

/-- CWACC (R505, R555): a word of the control window read, or written, as operator traffic. -/
def execJtagCwacc (off : Nat) (value : Option Word) (blocks : List (Nat × List Byte)) (s : State) : Host.Outcome State Fault Refusal :=
  if !s.power.vaux then .next s
  else
    let s := s.modLands fun l => { l with jtagIr := .cwacc }
    if !windowOpen s off || off % 4 != 0 then .next s
    else match value with
      | some v => writeReg off v blocks s
      | none => .next ((s.readReg off).1.send (.jtag (bytesLE 4 (s.readReg off).2.toNat)))

/-- ENTDAA (R555): the target takes the dynamic address that the controller assigns. -/
def execEntdaa (addr : Nat) (s : State) : Host.Outcome State Fault Refusal :=
  if s.power.vaux && !s.lands.sel && s.lands.i3c.isNone && decide (addr < 128) then .next (s.modLands fun l => { l with i3c := some addr })
  else .next s

/-- SETDASA (R555): to static address 0x30 + SB_ADDR. -/
def execSetdasa (static addr : Nat) (s : State) : Host.Outcome State Fault Refusal :=
  if s.power.vaux && !s.lands.sel && s.lands.i3c.isNone && static == 0x30 + s.lands.addr && decide (addr < 128) then
    .next (s.modLands fun l => { l with i3c := some addr })
  else .next s

end Sys2Proof.Machine
end

