-- ==== Sys2Proof/Machine/Manage.lean ====
section
/-! DEFINITION. The root of trust's work (R484 to R499): attestation, key import, life-cycle requests, firmware updates, presence,
forced recovery; and the side-band services (R507, R508). -/

namespace Sys2Proof.Machine

namespace State

/-- The RTP runs from boot ROM with PLDM type 5 only: in a forced recovery, or when both firmware slots have failed (R486, R488). -/
def romOnly (s : State) : Bool :=
  s.flag Reg.SEC_STATUS_RECOVERY || (decide (2 ≤ s.getF Reg.SEC_BOOT_STATUS_SLOT_A) && decide (2 ≤ s.getF Reg.SEC_BOOT_STATUS_SLOT_B))

/-- Whether the side-band port offers its services (R507). -/
def sideBandUp (s : State) : Bool := s.power.vaux && !s.romOnly

/-! ### Attestation (R493 to R496) -/

/-- A measurement entry (R494). -/
def measure (typ polder index svn id : Nat) (digest : List Byte) : List Byte :=
  bytesLE 1 typ ++ bytesLE 1 polder ++ bytesLE 2 index ++ bytesLE 4 svn ++ bytesLE 8 id ++ padTo 48 digest

/-- The entries of package scope: types 1, 2 and 5. -/
def packageEntries (s : State) : List (List Byte) :=
  (List.range s.rtp.bundle.length).map (fun k =>
    measure 1 0xFF k s.rtp.svn (s.rtp.bundle.getD k (0, [])).1 (s.rtp.bundle.getD k (0, [])).2) ++
  (if s.getF Reg.CFG_STATUS_COPY = 3 then [] else [measure 2 0xFF (s.getF Reg.CFG_STATUS_COPY) 0 0 s.rtp.cfg]) ++
  [measure 5 0xFF 0 0 (s.getF Reg.KLN_TBL_USED_USED)
    (Config.sha384 ((List.range 64).flatMap fun t => padTo 64 (SMap.get (fun _ => []) s.ktables t)))]

/-- The entries of a polder: types 3 and 4. -/
def polderEntries (s : State) (p : Nat) : List (List Byte) :=
  (if (s.job p).active then [measure 3 p 0 0 (s.job p).token (s.job p).digest] else []) ++
  ((List.range 256).filter fun n =>
    reSealed (s.entry n) && reState (s.entry n) == 3 && rePolder (s.entry n) == p).map fun n =>
      measure 4 p n 0 (reModel (s.entry n)) (SMap.get (fun _ => []) s.rtp.models n)

/-- The entries of a report: of package scope, or of a polder. -/
def reportEntries (s : State) (p : Option Nat) : List (List Byte) :=
  s.packageEntries ++ (match p with
    | some p => s.polderEntries p
    | none => [])

/-- The bytes of a report that its signatures cover (R493). -/
def reportBody (s : State) (p : Option Nat) (nonce kem : List Byte) : List Byte :=
  let es := s.reportEntries p
  let lc := s.getF Reg.SEC_STATUS_LC_STATE
  bytesLE 4 0x54544151 ++ bytesLE 1 1 ++ bytesLE 1 lc ++ bytesLE 1 (s.getF Reg.MGT_PART_VARIANT_SILICON_REV) ++ bytesLE 1 (p.getD 0xFF) ++
    bytesLE 4 (16864 + 64 * es.length) ++ bytesLE 2 es.length ++
    bytesLE 2 (s.getF Reg.SEC_STATUS_ORPHAN + 2 * s.getF Reg.SEC_STATUS_ROLLBACK) ++
    bytesLE 8 (s.getF Reg.MGT_PKG_SERIAL_SERIAL) ++ bytesLE 2 s.pkgId ++ bytesLE 6 0 ++ padTo 32 nonce ++ bytesLE 8 s.now ++
    bytesLE 4 s.rtp.fwSvn ++ bytesLE 4 s.rtp.ownerGen ++ padTo 48 (Config.sha384 Config.identityKeys) ++ padTo 48 kem ++
    padTo 48 (if lc = 2 then Config.sha384 s.ownerOr.keySet else []) ++ bytesLE 32 0 ++ es.flatten

/-- A signed report. -/
def report (s : State) (p : Option Nat) (nonce kem : List Byte) : List Byte :=
  let b := s.reportBody p nonce kem
  b ++ padTo 384 (Config.identitySign b).1 ++ padTo 16224 (Config.identitySign b).2

/-- SEC_KEYS of a polder as it stands. -/
def showKeys (p : Nat) (s : State) : State :=
  let held (k : Nat) : Bool := !(SMap.get (fun _ => []) s.keys (p * 17 + k)).isEmpty
  ((s.setF (Reg.SEC_KEYS_PAIR p) (b2n (SMap.get (fun _ => none) s.rtp.pairs p).isSome)).setF (Reg.SEC_KEYS_LINK p) (b2n (held 16))).setF
    (Reg.SEC_KEYS_MODEL_KEYS p) ((List.range 16).filter held).length

/-- A polder's ephemeral pair set or destroyed. -/
def setPair (p : Nat) (k : Option Nat) (s : State) : State :=
  { s with rtp := { s.rtp with pairs := SMap.set (fun _ => none) s.rtp.pairs p k } }.showKeys p

/-- An ATTEST carried out (R493 to R496, R513): a new pair, made from a free value; the report and the public keys written at ADDR. -/
def attest (p : Nat) (x : Taken) (s : State) : State :=
  let size := 16864 + 64 * (s.reportEntries (some p)).length + 1665
  if jdLen x.desc < size then s.finish p x mgtEFormat size 0
  else
    let k := s.fr 0
    let keys := padTo 1568 (Config.kemPublic k) ++ padTo 97 (Config.ecdhPublic k)
    let r := s.report (some p) (jdNonce x.desc) (Config.sha384 keys)
    let s := (s.useFree 1).setPair p (some k)
    let s := { s with rtp := { s.rtp with reports := SMap.set (fun _ => []) s.rtp.reports p (padTo 48 (Config.sha384 r)) } }
    (s.storeSpan (jdAddr x.desc) (r ++ keys)).finish p x 0 0 size

/-! ### Key import (R497 to R499) -/

/-- Whether a key-release blob has its size and form. -/
def blobOk (b : List Byte) : Bool :=
  let k := numAt b 5 1
  numAt b 0 4 == 0x4C45524B && numAt b 4 1 == 1 && decide (1 ≤ k) && decide (k ≤ 17) && b.length == 0x6D0 + 64 * k + 16 &&
    numAt b 6 2 == 0 && numAt b 0x6B9 7 == 0 && numAt b 0x6CC 4 == 0

/-- The entries of a blob opened under the pair made from `k` (R498 steps 3 to 5): KIND, MODEL_ID and KEY of each, with whether
every other byte is zero. -/
def openBlob (b : List Byte) (k : Nat) : Option (List (Nat × Nat × List Byte × Bool)) :=
  let kek := (Config.keyRelease (Config.kemOpen k ((b.drop 0x38).take 1568)) (Config.ecdhShared k ((b.drop 0x658).take 97))
    ((b.drop 8).take 48)).take 32
  (Config.gcmOpen kek ((b.drop 0x6C0).take 12) (b.take 0x6D0) (b.drop 0x6D0)).map fun plain =>
    (List.range (numAt b 5 1)).map fun i =>
      let e := (plain.drop (64 * i)).take 64
      let kind := numAt e 0 1
      (kind, numAt e 8 8, (e.drop 0x10).take 32,
        (kind == 1 || (kind == 2 && numAt e 8 8 == 0)) && numAt e 1 7 == 0 && numAt e 0x30 16 == 0)

/-- What the slots of a polder hold. -/
def keyAt (s : State) (p k : Nat) : List Byte := SMap.get (fun _ => []) s.keys (p * 17 + k)

/-- Whether a registry entry of a polder's model is LOADING (or, with `hot`, HOT). -/
def modelLive (s : State) (p model : Nat) (hot : Bool) : Bool :=
  (List.range 256).any fun n =>
    let e := s.entry n
    rePolder e == p && reModel e == model && (reState e == 2 || (hot && reState e == 3))

/-- The slot that a model key takes (R499). -/
def keySlot (s : State) (p model : Nat) : Option Nat :=
  let free (k : Nat) : Bool := (s.keyAt p k).isEmpty
  ((List.range 16).find? fun k => !free k && numAt (s.keyAt p k) 0 8 == model).orElse fun _ =>
    ((List.range 16).find? free).orElse fun _ => (List.range 16).find? fun k => !s.modelLive p (numAt (s.keyAt p k) 0 8) true

/-- Keys put into their slots; nothing where one finds none. -/
def putKeys (p : Nat) : List (Nat × Nat × List Byte × Bool) → State → Option State
  | [], s => some s
  | e :: t, s =>
    if e.1 = 2 then putKeys p t { s with keys := SMap.set (fun _ => []) s.keys (p * 17 + 16) e.2.2.1 }
    else match s.keySlot p e.2.1 with
      | some k => putKeys p t { s with keys := SMap.set (fun _ => []) s.keys (p * 17 + k) (bytesLE 8 e.2.1 ++ e.2.2.1) }
      | none => none

/-- Whether an import would replace the key of an entry that is LOADING. -/
def keyWaits (s : State) (p : Nat) (l : List (Nat × Nat × List Byte × Bool)) : Bool :=
  l.any fun e => e.1 == 1 && s.modelLive p e.2.1 false && (List.range 16).any fun k => !(s.keyAt p k).isEmpty && numAt (s.keyAt p k) 0 8 == e.2.1

/-- A failed import: the pair is destroyed and nothing installed. -/
def failImport (p : Nat) (x : Taken) (code : Nat) (s : State) : State := ((s.setPair p none).finish p x code 0 0).security p code p

/-- A KEY_IMPORT carried out (R498, R499); in RMA it is refused (R489). It waits where R499 makes it wait. -/
def keyImport (p : Nat) (x : Taken) (s : State) : State :=
  let b := s.jobBytes x.desc
  if s.getF Reg.SEC_STATUS_LC_STATE = 3 then (s.finish p x secEState 0 0).security p secEState p
  else if !blobOk b then s.failImport p x secEKeyblob
  else match SMap.get (fun _ => none) s.rtp.pairs p with
    | none => s.failImport p x secEStale
    | some k =>
      if (b.drop 8).take 48 ≠ SMap.get (fun _ => []) s.rtp.reports p then s.failImport p x secEStale
      else match openBlob b k with
        | none => (s.bump Reg.SEC_CNT_AUTH_FAIL_COUNT 1).failImport p x secEAuth
        | some l =>
          if !l.all (fun e => e.2.2.2) then s.failImport p x secEKeyblob
          else if s.keyWaits p l then s
          else match s.putKeys p l with
            | none => s.failImport p x secEKeyblob
            | some t => (((t.setPair p none).loadNamed p).tryRun p).finish p x 0 0 0

/-- A KEY_CLEAR carried out: the polder's keys are destroyed (R499). -/
def keyClear (p : Nat) (x : Taken) (s : State) : State :=
  ({ s with keys := SMap.clearIf s.keys fun k => k / 17 == p }.showKeys p).finish p x 0 0 0

/-! ### Life-cycle requests (R490 to R492) -/

/-- Component 0 of a manifest, as it lies at its LOCATION; empty where that is not mapped or DIGEST does not match. -/
def component (s : State) (m : List Byte) : List Byte :=
  let d := bytesLE 16 0 ++ bytesLE 8 (mfLocation m 0) ++ bytesLE 4 (mfLength m 0)
  let b := s.jobBytes d
  if padTo 48 (Config.sha384 b) = mfDigest m 0 then b else []

/-- The manifests of a request: KIND 3, if it carries one, and KIND 4, if it carries one. -/
def carried (l : List Byte) (kind : Nat) : Option (List Byte) :=
  ((List.range (l.length / 17152)).map fun k => (l.drop (17152 * k)).take 17152).find? fun m => mfForm kind m

/-- The token of a request, and its COMMAND: that of the token, or 1 without one. -/
def tokenOf (s : State) (l : List Byte) : List Byte := ((carried l 4).map s.component).getD []
def commandOf (s : State) (l : List Byte) : Nat := if (carried l 4).isNone then 1 else numAt (s.tokenOf l) 0 1

/-- Whether a request's manifests verify as R491 asks of its COMMAND. -/
def authorised (s : State) (cmd : Nat) (l : List Byte) : Bool :=
  let keySet := (carried l 3).map fun m => s.bound m && mfSigned (s.component m) m && !(s.component m).isEmpty
  let owner := (carried l 4).map fun m => s.bound m && mfSigned s.ownerOr.keySet m && (s.tokenOf l).length == 64
  let quobriak := (carried l 4).map fun m => s.quobriakOk m && (s.tokenOf l).length == 64 && (cmd != 4 || mfBind m != 0)
  match cmd with
  | 1 => keySet == some true
  | 2 => keySet == some true && owner == some true
  | 3 => owner == some true
  | _ => quobriak == some true

/-- Whether the life-cycle state allows a COMMAND (R491), and there is a generation left for it (R482). -/
def stateAllows (s : State) (cmd : Nat) : Bool :=
  let lc := s.getF Reg.SEC_STATUS_LC_STATE
  (match cmd with
    | 1 => lc == 1
    | 2 | 3 => lc == 2
    | _ => lc == 1 || lc == 2) && (decide (4 ≤ cmd) || decide (s.rtp.ownerGen < 63))

/-- The nonce that SEC_LC_NONCE shows. -/
def nonce (s : State) : List Byte := (List.range 8).flatMap fun w => bytesLE 4 (s.getF (Reg.SEC_LC_NONCE_NONCE w))

/-- A new nonce. -/
def newNonce (s : State) : State :=
  ((List.range 8).foldl (fun t w => t.setF (Reg.SEC_LC_NONCE_NONCE w) (s.fr w)) s).useFree 8

/-- Presence latched, or the latch gone. -/
def setPresence (n : Option Nat) (s : State) : State :=
  { s with rtp := { s.rtp with presence := n } }.setF Reg.SEC_STATUS_PRESENCE (b2n n.isSome)

/-- The status of a request: presence, signatures, state, nonce, and the SVN of an ALLOW_ROLLBACK, in that order. -/
def requestErr (s : State) (cmd : Nat) (l : List Byte) : Nat :=
  if s.rtp.presence.isNone then secEPresence
  else if !s.authorised cmd l then secESignature
  else if !s.stateAllows cmd then secEState
  else if cmd ≠ 1 ∧ ((s.tokenOf l).drop 0x20).take 32 ≠ s.nonce then secEState
  else if cmd = 5 ∧ s.rtp.fwSvn ≤ numAt (s.tokenOf l) 4 4 then secERollback
  else 0

/-- The owner record after a COMMAND. -/
def ownerAfter (s : State) (cmd : Nat) (l : List Byte) : OwnerRec :=
  let r := s.ownerOr
  let keys := ((carried l 3).map s.component).getD []
  match cmd with
  | 1 | 2 => { r with gen := s.rtp.ownerGen + 1, lc := 2, keySet := keys }
  | 3 => { r with gen := s.rtp.ownerGen + 1, lc := 1, keySet := [] }
  | 4 => { r with gen := s.rtp.ownerGen, lc := 3 }
  | _ => { r with gen := s.rtp.ownerGen, rollback := some (numAt (s.tokenOf l) 4 4, false) }

/-- A life-cycle transition (R492): polders reset, keys and pairs destroyed, memories wiped, counter cells, owner records, warm
reset. -/
def transition (r : OwnerRec) (blocks : List (Nat × List Byte)) (s : State) : State :=
  let s := (List.range 8).foldl (fun s p => s.resetPolderUnits p) s
  let s := (List.range 8).foldl (fun s p => s.setPair p none) s.clearKeys
  let s := { s with rtp := { s.rtp with ownerGen := max s.rtp.ownerGen r.gen, rma := s.rtp.rma || r.lc == 3 } }.putOwner r
  let s := ((s.setF Reg.SEC_STATUS_LC_STATE r.lc).setF Reg.SEC_STATUS_ORPHAN 0).setF Reg.SEC_SVN_OWNER_GEN s.rtp.ownerGen
  s.stopMain.startMain blocks

/-- The answer to a request: a completion, or a reply. -/
def answerSec (src : SecFrom) (x : Option Taken) (code : Nat) (s : State) : State :=
  match src, x with
  | .host p, some x => s.finish p x code 0 0
  | _, _ => s.send (.reply 5 code [])

/-- A request carried out or refused; it consumes the presence latch, and a new nonce follows it. -/
def secRequest (cmd : Nat) (src : SecFrom) (x : Option Taken) (l : List Byte) (blocks : List (Nat × List Byte)) (s : State) : State :=
  let code := s.requestErr cmd l
  let r := s.ownerAfter cmd l
  let s := ((s.setPresence none).newNonce.answerSec src x code).security 0xFF code (match src with
    | .host p => p
    | .sideBand _ => 0)
  if code ≠ 0 then s else if cmd = 5 then s.putOwner r else s.transition r blocks

/-- A request of a COMMAND taken up where it waits: as a descriptor, or from the side-band port. Its manifests tell the COMMAND. -/
def takeRequest (cmd : Nat) (src : SecFrom) (blocks : List (Nat × List Byte)) (s : State) : State :=
  let is (l : List Byte) : Bool := s.commandOf l == cmd || !(decide (1 ≤ s.commandOf l) && decide (s.commandOf l ≤ 5))
  match src with
  | .sideBand l => if s.sideBandUp && is l then s.secRequest cmd src none l blocks else s
  | .host p => match s.takenKind p 7 with
    | some x =>
      let l := s.jobBytes x.desc
      if s.serving && is l then s.secRequest cmd src (some x) l blocks else s
    | none => s

end State

/-- ATTEST (R493 to R496). -/
def execAttest (polder : Nat) (s : State) : Host.Outcome State Fault Refusal :=
  match s.takenKind polder 4 with
  | some x => if s.serving then .next (s.attest polder x) else .next s
  | none => .next s

/-- KEY_IMPORT (R498, R499). -/
def execKeyImport (polder : Nat) (s : State) : Host.Outcome State Fault Refusal :=
  match s.takenKind polder 5 with
  | some x => if s.serving then .next (s.keyImport polder x) else .next s
  | none => .next s

/-- KEY_CLEAR (R499). -/
def execKeyClear (polder : Nat) (s : State) : Host.Outcome State Fault Refusal :=
  match s.takenKind polder 6 with
  | some x => if s.serving then .next (s.keyClear polder x) else .next s
  | none => .next s

/-- TAKE_OWNERSHIP (R491, R492): COMMAND 1, a KIND 3 manifest alone. The fuse blocks as the warm reset reads them. -/
def execTakeOwnership (src : SecFrom) (blocks : List (Nat × List Byte)) (s : State) : Host.Outcome State Fault Refusal :=
  .next (s.takeRequest 1 src blocks)

/-- REPLACE_KEYS (R491, R492). -/
def execReplaceKeys (src : SecFrom) (blocks : List (Nat × List Byte)) (s : State) : Host.Outcome State Fault Refusal :=
  .next (s.takeRequest 2 src blocks)

/-- RELEASE (R491, R492). -/
def execLcRelease (src : SecFrom) (blocks : List (Nat × List Byte)) (s : State) : Host.Outcome State Fault Refusal :=
  .next (s.takeRequest 3 src blocks)

/-- ENTER_RMA (R489, R491, R492). -/
def execEnterRma (src : SecFrom) (blocks : List (Nat × List Byte)) (s : State) : Host.Outcome State Fault Refusal :=
  .next (s.takeRequest 4 src blocks)

/-- ALLOW_ROLLBACK (R487, R491): changes no life-cycle state. -/
def execAllowRollback (src : SecFrom) (s : State) : Host.Outcome State Fault Refusal := .next (s.takeRequest 5 src [])

/-! ### Firmware updates (R487, R488, R507) -/

namespace State

/-- Whether the slot that an update writes is B: the inactive one, but A while the RTP runs from boot ROM. -/
def updateSlot (s : State) : Bool :=
  if s.romOnly then false else if s.rtp.mgc then s.getF Reg.SEC_STATUS_SLOT == 0 else !s.ownerOr.namesB

/-- Why an update is not written; 0 where it is. Components lie in the bundle where their LOCATION puts them in the slot. -/
def updateErr (s : State) (bundle : List Byte) : Nat :=
  let base := slotBase s.updateSlot
  let part (k : Nat) : List Byte := (bundle.drop (mfLocation bundle k - base)).take (mfLength bundle k)
  if !mfForm 1 bundle || !s.quobriakOk bundle || decide (0x1800000 < bundle.length) then secESignature
  else if mfSvn bundle < s.rtp.fwSvn ∧ s.ownerOr.rollback ≠ some (mfSvn bundle, false) then secERollback
  else if (mfComps bundle).all (fun k =>
      decide (base + 17152 ≤ mfLocation bundle k) && (part k).length == mfLength bundle k &&
        padTo 48 (Config.sha384 (part k)) == mfDigest bundle k) then 0
  else secESignature

/-- An update: a verified bundle is written to the slot, which the owner record names for the next cold reset. A write below FW_SVN
uses up its permission's write. -/
def update (bundle : List Byte) (s : State) : State :=
  let e := s.updateErr bundle
  let s := s.send (.reply 2 e [])
  if e = secERollback then (s.note (.updateRefused e)).security 0xFF e 0
  else if e ≠ 0 then s
  else
    let b := s.updateSlot
    let r := s.ownerOr
    let s := s.putFlash (slotBase b) bundle
    s.putOwner { r with namesB := b, rollback := if mfSvn bundle < s.rtp.fwSvn then some (mfSvn bundle, true) else r.rollback }

/-- Ticks in 100 ms and in 60 s. -/
def ticks100ms : Nat := 10000
def ticks60s : Nat := 6000000

/-! ### SPDM (R508) -/

/-- An SPDM request answered after the messages before it. -/
def spdm (request value : List Byte) (s : State) : State :=
  if s.sideBandUp then
    let a := Config.spdmAnswer s.lands.spdm request value
    { s with lands := { s.lands with spdm := s.lands.spdm ++ [request, a] } }.send (.reply 3 0 a)
  else s

end State

/-- FIRMWARE_UPDATE (R485, R487, R488, R507): a PLDM type 5 update with the bundle it transfers. -/
def execFirmwareUpdate (bundle : List Byte) (s : State) : Host.Outcome State Fault Refusal :=
  if s.power.vaux then .next (s.update bundle) else .next s

/-- PLDM_MONITORING (R17, R26, R507, R550): a PLDM type 2 request, answered from the sensors, of which the thermal ones are unavailable
while domain 286 is off and VMAIN's voltage is a free value, and with every die that failed its identity check and its error code; or, with `events`, the platform events retrieved,
which lets ALERT# go. -/
def execPldmMonitoring (request : List Byte) (events : Bool) (s : State) : Host.Outcome State Fault Refusal :=
  if !s.sideBandUp then .next s
  else
    let dies : List (Option Nat) := (List.range 4).flatMap fun d =>
      [((List.range 64).map fun k => s.getF (Reg.PWR_DOM_TEMP (64 * d + k))).foldl max 0,
        ((List.range 4).map fun m => s.getF (Reg.MEM_STACK_STATUS_TEMP (4 * d + m))).foldl max 0].map fun t =>
          if s.flag (Reg.PWR_DOM_ON 286) then some t else none
    let failed := (List.range 23).filterMap fun n =>
      if s.getF (Reg.MGT_DIE_STATUS_ERR n) = 0 then none else some (n, s.getF (Reg.MGT_DIE_STATUS_ERR n))
    let readings := dies ++ ([s.fr 0, s.getF Reg.PWR_STATUS_POWER, s.getF Reg.PWR_STATUS_CURRENT, s.getF Reg.MGT_STATUS_MAIN_UP,
        s.getF Reg.MGT_STATUS_DEGRADED, s.getF Reg.SEC_STATUS_PRESENCE, s.getF Reg.SEC_BOOT_STATUS_SLOT_A, s.getF Reg.SEC_BOOT_STATUS_SLOT_B] ++
      (List.range 16).map s.portState ++ (List.range 8).map s.culvState ++ [s.events.length]).map some
    let s := (s.send (.reply 1 0 (Config.pldmAnswer request readings failed))).useFree 1
    .next (if events then { s with events := [], alert := false } else s)

/-- GET_VERSION (R507, R508): starts the exchange of SPDM messages anew. -/
def execGetVersion (request : List Byte) (s : State) : Host.Outcome State Fault Refusal :=
  .next ({ s with lands := { s.lands with spdm := [] } }.spdm request [])

/-- GET_CAPABILITIES (R507, R508). -/
def execGetCapabilities (request : List Byte) (s : State) : Host.Outcome State Fault Refusal := .next (s.spdm request [])

/-- NEGOTIATE_ALGORITHMS (R507, R508): RSASSA-PSS 3072 and SHA-384 only. -/
def execNegotiateAlgorithms (request : List Byte) (s : State) : Host.Outcome State Fault Refusal := .next (s.spdm request [])

/-- GET_DIGESTS (R507, R508): of certificate slot 0. -/
def execGetDigests (request : List Byte) (s : State) : Host.Outcome State Fault Refusal :=
  .next (s.spdm request (Config.sha384 Config.certChain))

/-- GET_CERTIFICATE (R507, R508): the identity RSA chain of slot 0. -/
def execGetCertificate (request : List Byte) (s : State) : Host.Outcome State Fault Refusal := .next (s.spdm request Config.certChain)

/-- CHALLENGE (R507, R508). -/
def execChallenge (request : List Byte) (s : State) : Host.Outcome State Fault Refusal :=
  .next (s.spdm request (Config.sha384 Config.certChain))

/-- GET_MEASUREMENTS (R495, R508): an index 1 to 8 names a firmware component, index 0xF0 the package's attestation report with the
requester's nonce. A long answer is held for CHUNK_GET. -/
def execGetMeasurements (request : List Byte) (index : Nat) (nonce : List Byte) (s : State) : Host.Outcome State Fault Refusal :=
  let v := if index = 0xF0 then s.report none nonce [] else (s.rtp.bundle.getD (index - 1) (0, [])).2
  .next ({ s with lands := { s.lands with chunk := if s.sideBandUp then v else s.lands.chunk } }.spdm request v)

/-- CHUNK_GET (R507, R508). -/
def execChunkGet (request : List Byte) (s : State) : Host.Outcome State Fault Refusal := .next (s.spdm request s.lands.chunk)

/-! ### Presence and forced recovery (R488, R490) -/

/-- PRESENCE_LATCH (R490, R554): PRESENCE# low continuously for 100 ms; a low that began before VAUX was good counts only towards
recovery. -/
def execPresenceLatch (s : State) : Host.Outcome State Fault Refusal :=
  if s.power.vaux && decide (State.ticks100ms ≤ s.power.up) then
    .next ((((s.setPresence (some 0)).bump Reg.SEC_CNT_PRESENCE_COUNT 1).note .presence).send (.msix 1))
  else .next s

/-- PRESENCE_EXPIRY (R490): 60 s after the latch. -/
def execPresenceExpiry (s : State) : Host.Outcome State Fault Refusal :=
  match s.rtp.presence with
  | some n => if State.ticks60s ≤ n then .next (s.setPresence none) else .next s
  | none => .next s

/-- RECOVERY_BOOT (R488): PRESENCE# low from VAUX good for 100 ms. The main side stays off. -/
def execRecoveryBoot (s : State) : Host.Outcome State Fault Refusal :=
  if s.power.vaux && decide (State.ticks100ms ≤ s.power.up) && !s.flag Reg.SEC_STATUS_RECOVERY then
    let s := s.stopMain.setF Reg.SEC_STATUS_RECOVERY 1
    .next { s with rtp := { s.rtp with mgc := false } }
  else .next s

end Sys2Proof.Machine
end

