-- ==== Sys2Proof/Machine/Sync.lean ====
section
/-! DEFINITION. The time exchange of forerunner mode (R197 to R201, R436). -/

namespace Sys2Proof.Machine

namespace State

/-- SYNC_INTERVAL in ticks (R197). -/
def syncInterval (s : State) : Nat := 256 * 2 ^ s.getF Reg.WHL_TIME_CTL_INTERVAL

/-- The parent lane port. -/
def syncParent (s : State) : Nat := s.getF Reg.WHL_TIME_CTL_PARENT

/-- Whether this package exchanges time with a parent. -/
def isChild (s : State) : Bool := s.forerunner && !s.flag Reg.WHL_TIME_CTL_MASTER

/-- The count and phase set to a time stamp (R198). -/
def setStamp (n : Nat) (s : State) : State :=
  let t := { s with tide := { s.tide with count := BitVec.ofNat 48 (n / 1000), phase := n % 1000 } }
  if n / 1000 = s.now then t else t.markPulse

/-- The present stamp moved by an offset; the count wraps at 2^48. -/
def stampBy (s : State) (o : Int) : Nat := (((s.stamp : Int) + o) % ((2 ^ 48 * 1000 : Nat) : Int)).toNat

/-- Half of a sum of stamps. Which way an odd one is rounded the spec does not say: a free value decides (log 32). -/
def halve (x : Int) (free : Nat) : Int := (x + (free % 2 : Nat)) / 2

/-- Registers of a completed exchange (R198, R200, R436). -/
def noteExchange (offset delay : Int) (hops : Nat) (s : State) : State :=
  let s := (s.setF Reg.WHL_SYNC_OFFSET_VALUE (unsignedOf 32 offset)).setF Reg.WHL_SYNC_DELAY_VALUE (unsignedOf 32 delay)
  let s := (s.bump Reg.WHL_CNT_SYNC_EXCH_COUNT 1).setF Reg.WHL_TIME_STATUS_HOPS (min 15 (hops + 1))
  let s := s.setF Reg.WHL_SYNC_BOUND_VALUE (250 + 150 * min 15 (hops + 1))
  (s.setF Reg.WHL_TIME_STATUS_SYNC_LOST 0).useFree 2

/-- What an offset does to a package that is not locked: the count steps, and after eight small offsets in a row it locks (R199).
An exchange whose parent is not locked does not count. -/
def stepOffset (offset : Int) (parentLocked : Bool) (s : State) : State :=
  let s := s.setStamp (s.stampBy offset)
  let run := if 100 < offset.natAbs then 0 else s.tide.lockRun + b2n parentLocked
  let s := { s with tide := { s.tide with lockRun := run } }
  if 8 ≤ run then s.setF Reg.WHL_TIME_STATUS_LOCKED 1 else s

/-- What an offset does to a locked package: above 1 tick it realigns (R192, R201), otherwise it slews (R199). -/
def slewOffset (offset : Int) (s : State) : State :=
  if 1000 < offset.natAbs then
    let n := s.stampBy offset
    let s := s.realign (n / 1000)
    { s with tide := { s.tide with phase := n % 1000, slew := 0 } }
  else { s with tide := { s.tide with slew := offset } }

/-- A TIME_RESP taken at its arrival. -/
def takeTime (l : List Byte) (t1 : Nat) (s : State) : State :=
  let t2 := numAt l 8 8
  let t3 := numAt l 16 8
  let t4 := s.stamp
  let offset := halve (((t2 : Int) - t1) - ((t4 : Int) - t3)) (s.fr 0)
  let delay := halve (((t4 : Int) - t1) - ((t3 : Int) - t2)) (s.fr 1)
  let s := s.noteExchange offset delay (numAt l 2 1)
  let s := { s with tide := { s.tide with t1 := none, misses := 0 } }
  if s.locked then s.slewOffset offset else s.stepOffset offset (bitOf (numAt l 3 1) 0)

end State

/-- SYNC_EXCHANGE (R197, R436): after SYNC_INTERVAL ticks a child sends TIME_REQ on its parent port, where that is ACTIVE. -/
def execSyncExchange (phase : Nat) (s : State) : Host.Outcome State Fault Refusal :=
  if s.power.main && s.isChild && decide (s.syncInterval ≤ s.tide.sinceSync) then
    let s := s.atPhase phase
    let n := (s.tide.syncId + 1) % 256
    let s := { s with tide := { s.tide with syncId := n, t1 := some s.stamp, sinceSync := 0 } }
    .next (if s.portState s.syncParent = 6 then s.sendControl s.syncParent 2 [6, BitVec.ofNat 8 n] else s)
  else .next s

/-- TIME_REQ (R198, R436): stamped t2 at its arrival and answered with t3 at the answer's departure, `turn` units later. -/
def execTimeReq (port : Nat) (f : Frame) (w : Codeword) (phase turn : Nat) (s : State) : Host.Outcome State Fault Refusal :=
  .next ((s.atPhase phase).receive port w fun s =>
    if s.portState port ≠ 6 then s
    else
      let s := s.takeHeader port f
      if !s.forerunner then s
      else
        s.sendControl port 2 ([7, BitVec.ofNat 8 (numAt f.payload 1 1), BitVec.ofNat 8 (s.getF Reg.WHL_TIME_STATUS_HOPS),
          BitVec.ofNat 8 (b2n s.locked)] ++ List.replicate 4 0 ++ bytesLE 8 s.stamp ++ bytesLE 8 (s.stamp + turn)))

/-- TIME_RESP (R198 to R201): on the parent port, to the exchange under way, within 1 tick of its TIME_REQ. -/
def execTimeResp (port : Nat) (f : Frame) (w : Codeword) (phase : Nat) (s : State) : Host.Outcome State Fault Refusal :=
  .next ((s.atPhase phase).receive port w fun s =>
    if s.portState port ≠ 6 then s
    else
      let s := s.takeHeader port f
      match s.tide.t1 with
      | none => s
      | some t1 =>
        if s.isChild && port == s.syncParent && numAt f.payload 1 1 == s.tide.syncId && decide (s.stamp ≤ t1 + 1000) then
          s.takeTime f.payload t1
        else s)

/-- SYNC_MISS (R201): no reply within 1 tick; each miss widens the bound, the sixteenth in a row loses synchronisation. -/
def execSyncMiss (phase : Nat) (s : State) : Host.Outcome State Fault Refusal :=
  let s := s.atPhase phase
  match s.tide.t1 with
  | none => .next s
  | some t1 =>
    if s.stamp ≤ t1 + 1000 then .next s
    else
      let n := s.tide.misses + 1
      let s := { s with tide := { s.tide with t1 := none, misses := n, lockRun := 0 } }
      let s := (s.bump Reg.WHL_CNT_SYNC_MISS_COUNT 1).setF Reg.WHL_SYNC_BOUND_VALUE (s.getF Reg.WHL_SYNC_BOUND_VALUE + 100)
      .next (if n = 16 then (s.setF Reg.WHL_TIME_STATUS_SYNC_LOST 1).raise .syncLost else s)

end Sys2Proof.Machine
end

