-- ==== Sys2Proof/Machine/Tick.lean ====
section
/-! DEFINITION. The tide tick (R189) and what happens at it: timers, a forerunner's load and pulse (R192, R202), slewing (R199), sensors,
refresh and throttling (R367, R518 to R521), the MGC's overdue work. -/

namespace Sys2Proof.Machine

namespace State

/-! ### The count -/

/-- The count one higher, at phase 0, with the tide's own timers. -/
def countTick (s : State) : State :=
  { s with tide := { s.tide with count := s.tide.count + 1, phase := 0, quiet := s.tide.quiet + 1, sinceSync := s.tide.sinceSync + 1
                                 markLeft := s.tide.markLeft - 1 } }

/-- A time master's pending load, where the count reaches a multiple of 100,000 (R192). -/
def masterLoad (s : State) : State :=
  if s.forerunner && s.flag Reg.WHL_TIME_CTL_MASTER && s.flag Reg.WHL_TIME_STATUS_LOAD_PENDING && s.now % 100000 == 0 then
    (s.jumpCount s.loadCount).loaded
  else s

/-- A locked package adds or removes a TREF cycle at most once per 5 ticks, until the offset is used up (R199). -/
def slewTick (s : State) : State :=
  let t := s.tide
  if t.slew = 0 ∨ t.slewGap < 4 then { s with tide := { t with slewGap := min 4 (t.slewGap + 1) } }
  else { s with tide := { t with slewGap := 0, slew := if 0 < t.slew then t.slew - 1 else t.slew + 1 } }

/-! ### Timers -/

/-- Reply deadlines of a core's contexts; those whose route crosses a recovery stand (R185, R186). -/
def deadlineTick (i : Nat) (s : State) : State :=
  let recovering (k : Ctx) : Bool := s.routeRecovering (s.route (dieOf i) (ctxRoute k))
  s.modCore i fun c =>
    { c with ctxs := c.ctxs.map fun e => if recovering e.2 then e else (e.1, { e.2 with outstanding := e.2.outstanding.map fun r => (r.1, r.2.map (· - 1)) }) }

/-- Fetches' time, which stands while their port or the culvert from the kiln's die to its I/O die recovers (R349). -/
def fetchTick (s : State) : State :=
  { s with fetches := s.fetches.map fun f =>
      if (f.lane.any fun l => s.flag (Reg.LNK_PORT_STATUS_RIP l.1)) || s.flag (Reg.LNK_CULV_STATUS_RIP (4 + f.kiln / 4)) then f else { f with left := f.left - 1 } }

/-- Whether a port or culvert that a polder uses recovers (R448, R534). -/
def polderRecovers (s : State) (p : Nat) : Bool :=
  (s.tableRoutes p).any (fun d => s.routeRecovering (s.route d.1 d.2)) ||
    (List.range 16).any fun q => s.flag (Reg.LNK_PORT_STATUS_RIP q) && (List.range 16).any fun v => s.vcPolder q v == p

/-- Step watchdogs (R534). -/
def watchTick (s : State) : State :=
  (List.range 8).foldl (fun s p =>
    if (s.wheel p).runs && s.watchTicks p != 0 && !s.polderRecovers p then
      { s with power := { s.power with watch := SMap.set (fun _ => 0) s.power.watch p (SMap.get (fun _ => 0) s.power.watch p + 1) } }
    else s) s

/-- The timers of the always-on domain: since VAUX good, since the presence latch, since a die's clock went (R488, R490, R532), since
the submission ring's last sample (R221). -/
def slowTick (s : State) : State :=
  { s with
    power := { s.power with up := min ticks100ms (s.power.up + 1)
                            noClock := s.power.noClock.map fun x => if x.2 < 100000 then (x.1, x.2 + 1) else x }
    rtp := { s.rtp with presence := s.rtp.presence.map fun n => min ticks60s (n + 1) }
    sq := s.sq + 1 }

/-! ### The MGC's overdue work -/

/-- Whether a lost tile lies in the weights of a sherd that other replicas hold (R157). -/
def repairable (s : State) (p a : Nat) : Bool :=
  (s.groupsOf p).any fun g =>
    (s.opsOf p).any (fun k => (s.colOp k.1 p k.2).any fun o => o.kind == 1 && o.group == g && decide (1 < o.m)) &&
      (s.layersOf g (a / 2 ^ 36)).any fun d => (List.range 5).any fun r =>
        let b := (kdW d + s.getF (Reg.PIP_AREA_OFF_OFF g r)) % 2 ^ 44
        decide (b ≤ a) && decide (a < b + 2048 * kdTiles d)

/-- Restores that are due, those of lost tiles among them, and the repairs of lost tiles that replicas hold (R157, R345, R349). -/
def restoreDue (s : State) : State :=
  let lost := (s.power.again.filter fun x => !s.repairable x.1 x.2).map (·.1)
  let ps := (List.range 8).filter fun p => s.power.due.contains p || lost.contains p
  let asked := (s.power.again.filter fun x => s.repairable x.1 x.2).foldl (fun s x => s.askRepair x.1 x.2) s
  ps.foldl (fun s p => s.restore p) { asked with power := { asked.power with due := [], again := [] } }

/-- Under AUTO the MGC names the step of a pending abandonment itself and carries out its bookkeeping (R536). -/
def autoTick (p : Nat) (s : State) : State :=
  if s.flag (Reg.PWR_RECOV_CTL_AUTO p) && s.flag (Reg.PWR_RECOV_STATUS_PENDING p) then s.carryOut p (s.namedStep p) else s

/-- Jobs go on: loads that can start, wheels that can run, re-shards (R393, R471, R512). -/
def jobTick (p : Nat) (s : State) : State :=
  let s := (s.loadNamed p).tryRun p
  match s.takenKind p 3 with
  | some x => if (s.job p).reshard = 0 then s else s.goReshard p x
  | none => s

/-! ### The main side's tick -/

/-- A junction at its trip temperature (R521). -/
def tripTick (s : State) : State :=
  if s.tripped && !s.power.therm then ({ s with power := { s.power with therm := true } }.raise .thermtrip).dropVmain else s

/-- What happens at a tick while the main side runs. -/
def mainTick (env : TickEnv) (s : State) : State :=
  let s := { s with mfSlice := [] }
  let s := State.forCores State.deadlineTick (s.cores.map (·.1)) s
  let s := (((s.fetchTick.watchTick.refreshTick.heatTick).setF Reg.PWR_STATUS_CURR_LIMIT 0).powerTick).trimTick env.margin
  let s := ((List.range 8).foldl (fun s p => s.autoTick p) s).restoreDue
  let s := (List.range 8).foldl (fun s p => s.jobTick p) s
  let s := s.flushCq s.owedCq.length
  let s := (List.range 16).foldl (fun s p => s.controlPosition p) s
  (s.retryReqs s.behind.length).retryHeads.tripTick

end State

/-- TIDE_TICK (R189): the phase wraps and the count increases; nothing without VAUX. -/
def execTideTick (env : TickEnv) (s : State) : Host.Outcome State Fault Refusal :=
  if !s.power.vaux then .next s
  else
    let s := ((s.countTick.masterLoad.markPulse.slewTick).slowTick).readSensors env
    .next (if s.power.main then s.mainTick env else s)

end Sys2Proof.Machine
end

