-- ==== Sys2Proof/Machine/Dispatch.lean ====
section
/-! DEFINITION. The one dispatch: an arm per command, each a direct call of that command's own meaning. -/

namespace Sys2Proof.Machine

def exec (i : Instr) (s : State) : Host.Outcome State Fault Refusal :=
  match i with
  | .tideTick env => Sys2Proof.Machine.execTideTick env s
  | .loadArm => Sys2Proof.Machine.execLoadArm s
  | .tideLoad seconds => Sys2Proof.Machine.execTideLoad seconds s
  | .tmarkEdge phase => Sys2Proof.Machine.execTmarkEdge phase s
  | .tmarkMissing => Sys2Proof.Machine.execTmarkMissing s
  | .trefLost => Sys2Proof.Machine.execTrefLost s
  | .trefReturn => Sys2Proof.Machine.execTrefReturn s
  | .syncExchange phase => Sys2Proof.Machine.execSyncExchange phase s
  | .timeReq port f w phase turn => Sys2Proof.Machine.execTimeReq port f w phase turn s
  | .timeResp port f w phase => Sys2Proof.Machine.execTimeResp port f w phase s
  | .syncMiss phase => Sys2Proof.Machine.execSyncMiss phase s
  | .tmarkPulseEnd => Sys2Proof.Machine.execTmarkPulseEnd s
  | .wheelRun polder => Sys2Proof.Machine.execWheelRun polder s
  | .wheelStop polder => Sys2Proof.Machine.execWheelStop polder s
  | .whlTblDataRead => Sys2Proof.Machine.execWhlTblDataRead s
  | .whlTblDataWrite value => Sys2Proof.Machine.execWhlTblDataWrite value s
  | .turnStart polder => Sys2Proof.Machine.execTurnStart polder s
  | .slotStart core phase => Sys2Proof.Machine.execSlotStart core phase s
  | .slotEnd core phase => Sys2Proof.Machine.execSlotEnd core phase s
  | .guardExpiry polder => Sys2Proof.Machine.execGuardExpiry polder s
  | .sqSample => Sys2Proof.Machine.execSqSample s
  | .nop core => Sys2Proof.Machine.execNop core s
  | .add core => Sys2Proof.Machine.execAdd core s
  | .sub core => Sys2Proof.Machine.execSub core s
  | .mul core => Sys2Proof.Machine.execMul core s
  | .andOp core => Sys2Proof.Machine.execAndOp core s
  | .orOp core => Sys2Proof.Machine.execOrOp core s
  | .xorOp core => Sys2Proof.Machine.execXorOp core s
  | .shl core => Sys2Proof.Machine.execShl core s
  | .shr core => Sys2Proof.Machine.execShr core s
  | .sra core => Sys2Proof.Machine.execSra core s
  | .slt core => Sys2Proof.Machine.execSlt core s
  | .sltu core => Sys2Proof.Machine.execSltu core s
  | .addi core => Sys2Proof.Machine.execAddi core s
  | .andi core => Sys2Proof.Machine.execAndi core s
  | .ori core => Sys2Proof.Machine.execOri core s
  | .xori core => Sys2Proof.Machine.execXori core s
  | .shli core => Sys2Proof.Machine.execShli core s
  | .shri core => Sys2Proof.Machine.execShri core s
  | .lui core => Sys2Proof.Machine.execLui core s
  | .ld core => Sys2Proof.Machine.execLd core s
  | .ldw core => Sys2Proof.Machine.execLdw core s
  | .st core => Sys2Proof.Machine.execSt core s
  | .stw core => Sys2Proof.Machine.execStw core s
  | .beq core => Sys2Proof.Machine.execBeq core s
  | .bne core => Sys2Proof.Machine.execBne core s
  | .blt core => Sys2Proof.Machine.execBlt core s
  | .bge core => Sys2Proof.Machine.execBge core s
  | .jal core => Sys2Proof.Machine.execJal core s
  | .jr core => Sys2Proof.Machine.execJr core s
  | .cmdw core => Sys2Proof.Machine.execCmdw core s
  | .issue core => Sys2Proof.Machine.execIssue core s
  | .listCmd core => Sys2Proof.Machine.execListCmd core s
  | .waitc core => Sys2Proof.Machine.execWaitc core s
  | .pollc core => Sys2Proof.Machine.execPollc core s
  | .fence core => Sys2Proof.Machine.execFence core s
  | .waits core => Sys2Proof.Machine.execWaits core s
  | .rdt core => Sys2Proof.Machine.execRdt core s
  | .haltOp core => Sys2Proof.Machine.execHaltOp core s
  | .scoreboardAccept core => Sys2Proof.Machine.execScoreboardAccept core s
  | .matmul core seq => Sys2Proof.Machine.execMatmul core seq s
  | .matw core seq => Sys2Proof.Machine.execMatw core seq s
  | .mdump core seq => Sys2Proof.Machine.execMdump core seq s
  | .vstream core seq => Sys2Proof.Machine.execVstream core seq s
  | .vext core seq => Sys2Proof.Machine.execVext core seq s
  | .vroll core seq => Sys2Proof.Machine.execVroll core seq s
  | .xmove core seq tiles => Sys2Proof.Machine.execXmove core seq tiles s
  | .xatom core seq => Sys2Proof.Machine.execXatom core seq s
  | .xfill core seq => Sys2Proof.Machine.execXfill core seq s
  | .msend core seq => Sys2Proof.Machine.execMsend core seq s
  | .mrecv core seq => Sys2Proof.Machine.execMrecv core seq s
  | .mflush core seq => Sys2Proof.Machine.execMflush core seq s
  | .qpush core seq => Sys2Proof.Machine.execQpush core seq s
  | .take core seq => Sys2Proof.Machine.execTake core seq s
  | .inject core seq => Sys2Proof.Machine.execInject core seq s
  | .release core seq => Sys2Proof.Machine.execRelease core seq s
  | .reservedOpcode core seq => Sys2Proof.Machine.execReservedOpcode core seq s
  | .commandCompletion core seq => Sys2Proof.Machine.execCommandCompletion core seq s
  | .coreAbandon core => Sys2Proof.Machine.execCoreAbandon core s
  | .stepEntryRestart core => Sys2Proof.Machine.execStepEntryRestart core s
  | .coreReset core => Sys2Proof.Machine.execCoreReset core s
  | .sstep core => Sys2Proof.Machine.execSstep core s
  | .haltRequest core => Sys2Proof.Machine.execHaltRequest core s
  | .resumeCore core => Sys2Proof.Machine.execResumeCore core s
  | .coreRun core => Sys2Proof.Machine.execCoreRun core s
  | .dbgAccSel core value => Sys2Proof.Machine.execDbgAccSel core value s
  | .accSnapshotReady core => Sys2Proof.Machine.execAccSnapshotReady core s
  | .coreDbgXregWrite core n high value => Sys2Proof.Machine.execCoreDbgXregWrite core n high value s
  | .apertureRead off n id => Sys2Proof.Machine.execApertureRead off n id s
  | .apertureWrite off data blocks => Sys2Proof.Machine.execApertureWrite off data blocks s
  | .chnData src => Sys2Proof.Machine.execChnData src s
  | .chnAck src => Sys2Proof.Machine.execChnAck src s
  | .chnCredit src => Sys2Proof.Machine.execChnCredit src s
  | .openNotice src => Sys2Proof.Machine.execOpenNotice src s
  | .closedNotice src => Sys2Proof.Machine.execClosedNotice src s
  | .ctxOpen core => Sys2Proof.Machine.execCtxOpen core s
  | .ctxClose core => Sys2Proof.Machine.execCtxClose core s
  | .replyTimeout core ctx => Sys2Proof.Machine.execReplyTimeout core ctx s
  | .ringPoll mf polder => Sys2Proof.Machine.execRingPoll mf polder s
  | .mfeSliceEnd mf => Sys2Proof.Machine.execMfeSliceEnd mf s
  | .positionFilled mf polder idx => Sys2Proof.Machine.execPositionFilled mf polder idx s
  | .landingWrite mf polder idx entry tile => Sys2Proof.Machine.execLandingWrite mf polder idx entry tile s
  | .tokLoad mf => Sys2Proof.Machine.execTokLoad mf s
  | .mfeRun mf polder => Sys2Proof.Machine.execMfeRun mf polder s
  | .mark mf polder => Sys2Proof.Machine.execMark mf polder s
  | .rewind mf polder => Sys2Proof.Machine.execRewind mf polder s
  | .linkOpen link => Sys2Proof.Machine.execLinkOpen link s
  | .linkClose link => Sys2Proof.Machine.execLinkClose link s
  | .pipOpen port vc => Sys2Proof.Machine.execPipOpen port vc s
  | .pipOpenRetry link => Sys2Proof.Machine.execPipOpenRetry link s
  | .pipPart src last => Sys2Proof.Machine.execPipPart src last s
  | .pipAck src => Sys2Proof.Machine.execPipAck src s
  | .pipHead src => Sys2Proof.Machine.execPipHead src s
  | .groupInit group number => Sys2Proof.Machine.execGroupInit group number s
  | .pipAbandon polder => Sys2Proof.Machine.execPipAbandon polder s
  | .delivery ce polder op index => Sys2Proof.Machine.execDelivery ce polder op index s
  | .fetchReq port vc => Sys2Proof.Machine.execFetchReq port vc s
  | .fetchData src => Sys2Proof.Machine.execFetchData src s
  | .fetchTimeout id => Sys2Proof.Machine.execFetchTimeout id s
  | .wbData port vc => Sys2Proof.Machine.execWbData port vc s
  | .wbAck src => Sys2Proof.Machine.execWbAck src s
  | .rootComputation kiln layer block => Sys2Proof.Machine.execRootComputation kiln layer block s
  | .tblLoad => Sys2Proof.Machine.execTblLoad s
  | .weirRefill => Sys2Proof.Machine.execWeirRefill s
  | .throttleRise dom => Sys2Proof.Machine.execThrottleRise dom s
  | .currentLimit => Sys2Proof.Machine.execCurrentLimit s
  | .applyRepair stack => Sys2Proof.Machine.execApplyRepair stack s
  | .marginStart stack => Sys2Proof.Machine.execMarginStart stack s
  | .marginDone stack errors => Sys2Proof.Machine.execMarginDone stack errors s
  | .wipe polders => Sys2Proof.Machine.execWipe polders s
  | .wipeDone chans => Sys2Proof.Machine.execWipeDone chans s
  | .pinEntry index => Sys2Proof.Machine.execPinEntry index s
  | .unpinEntry index => Sys2Proof.Machine.execUnpinEntry index s
  | .evictEntry index => Sys2Proof.Machine.execEvictEntry index s
  | .regLoad index => Sys2Proof.Machine.execRegLoad index s
  | .regLoadComplete index r => Sys2Proof.Machine.execRegLoadComplete index r s
  | .dataFrame port f w => Sys2Proof.Machine.execDataFrame port f w s
  | .idleFrame port f w => Sys2Proof.Machine.execIdleFrame port f w s
  | .capsFrame port f w => Sys2Proof.Machine.execCapsFrame port f w s
  | .creditInit port f w => Sys2Proof.Machine.execCreditInit port f w s
  | .vcStatus port f w => Sys2Proof.Machine.execVcStatus port f w s
  | .reqFrame port f w => Sys2Proof.Machine.execReqFrame port f w s
  | .reqAckFrame port f w => Sys2Proof.Machine.execReqAckFrame port f w s
  | .ctrlBad port w => Sys2Proof.Machine.execCtrlBad port w s
  | .trainingBlock port b => Sys2Proof.Machine.execTrainingBlock port b s
  | .ackTimeout port => Sys2Proof.Machine.execAckTimeout port s
  | .nakRepeat port => Sys2Proof.Machine.execNakRepeat port s
  | .replayBound port => Sys2Proof.Machine.execReplayBound port s
  | .leakTimer port vc => Sys2Proof.Machine.execLeakTimer port vc s
  | .trainingLimit port => Sys2Proof.Machine.execTrainingLimit port s
  | .retrainLimit port => Sys2Proof.Machine.execRetrainLimit port s
  | .reqTimeout port => Sys2Proof.Machine.execReqTimeout port s
  | .portEnable port => Sys2Proof.Machine.execPortEnable port s
  | .portReset port => Sys2Proof.Machine.execPortReset port s
  | .portDown port => Sys2Proof.Machine.execPortDown port s
  | .portRetrain port => Sys2Proof.Machine.execPortRetrain port s
  | .exportPkt port vc => Sys2Proof.Machine.execExportPkt port vc s
  | .exportDrain polder => Sys2Proof.Machine.execExportDrain polder s
  | .culvertBeat culv dir seq intact last => Sys2Proof.Machine.execCulvertBeat culv dir seq intact last s
  | .culvertReplayBound culv => Sys2Proof.Machine.execCulvertReplayBound culv s
  | .culvertRecoveryLimit culv => Sys2Proof.Machine.execCulvertRecoveryLimit culv s
  | .rejoin culv => Sys2Proof.Machine.execRejoin culv s
  | .contributionPull ce polder op entry => Sys2Proof.Machine.execContributionPull ce polder op entry s
  | .redPart port vc => Sys2Proof.Machine.execRedPart port vc s
  | .redResult port vc => Sys2Proof.Machine.execRedResult port vc s
  | .digestRec src => Sys2Proof.Machine.execDigestRec src s
  | .gatherData src => Sys2Proof.Machine.execGatherData src s
  | .permData src => Sys2Proof.Machine.execPermData src s
  | .permAck port vc => Sys2Proof.Machine.execPermAck port vc s
  | .installJob polder => Sys2Proof.Machine.execInstallJob polder s
  | .installSectionsDone polder => Sys2Proof.Machine.execInstallSectionsDone polder s
  | .retire polder => Sys2Proof.Machine.execRetire polder s
  | .reshard polder => Sys2Proof.Machine.execReshard polder s
  | .attest polder => Sys2Proof.Machine.execAttest polder s
  | .keyImport polder => Sys2Proof.Machine.execKeyImport polder s
  | .keyClear polder => Sys2Proof.Machine.execKeyClear polder s
  | .takeOwnership src blocks => Sys2Proof.Machine.execTakeOwnership src blocks s
  | .replaceKeys src blocks => Sys2Proof.Machine.execReplaceKeys src blocks s
  | .lcRelease src blocks => Sys2Proof.Machine.execLcRelease src blocks s
  | .enterRma src blocks => Sys2Proof.Machine.execEnterRma src blocks s
  | .allowRollback src => Sys2Proof.Machine.execAllowRollback src s
  | .commitSvn => Sys2Proof.Machine.execCommitSvn s
  | .firmwareUpdate bundle => Sys2Proof.Machine.execFirmwareUpdate bundle s
  | .pldmMonitoring request events => Sys2Proof.Machine.execPldmMonitoring request events s
  | .getVersion request => Sys2Proof.Machine.execGetVersion request s
  | .getCapabilities request => Sys2Proof.Machine.execGetCapabilities request s
  | .negotiateAlgorithms request => Sys2Proof.Machine.execNegotiateAlgorithms request s
  | .getDigests request => Sys2Proof.Machine.execGetDigests request s
  | .getCertificate request => Sys2Proof.Machine.execGetCertificate request s
  | .challenge request => Sys2Proof.Machine.execChallenge request s
  | .getMeasurements request index nonce => Sys2Proof.Machine.execGetMeasurements request index nonce s
  | .chunkGet request => Sys2Proof.Machine.execChunkGet request s
  | .presenceLatch => Sys2Proof.Machine.execPresenceLatch s
  | .presenceExpiry => Sys2Proof.Machine.execPresenceExpiry s
  | .recoveryBoot => Sys2Proof.Machine.execRecoveryBoot s
  | .ringEnable ring => Sys2Proof.Machine.execRingEnable ring s
  | .barResize log2 => Sys2Proof.Machine.execBarResize log2 s
  | .pcieConfigRequest off n data id => Sys2Proof.Machine.execPcieConfigRequest off n data id s
  | .perst => Sys2Proof.Machine.execPerst s
  | .jtagBypass => Sys2Proof.Machine.execJtagBypass s
  | .jtagIdcode => Sys2Proof.Machine.execJtagIdcode s
  | .jtagSamplePreload levels values => Sys2Proof.Machine.execJtagSamplePreload levels values s
  | .jtagExtest levels values => Sys2Proof.Machine.execJtagExtest levels values s
  | .jtagClamp => Sys2Proof.Machine.execJtagClamp s
  | .jtagHighz => Sys2Proof.Machine.execJtagHighz s
  | .jtagCwacc off value blocks => Sys2Proof.Machine.execJtagCwacc off value blocks s
  | .entdaa addr => Sys2Proof.Machine.execEntdaa addr s
  | .setdasa static addr => Sys2Proof.Machine.execSetdasa static addr s
  | .vauxGood sel addr => Sys2Proof.Machine.execVauxGood sel addr s
  | .pwrgoodRise blocks => Sys2Proof.Machine.execPwrgoodRise blocks s
  | .pwrgoodFall => Sys2Proof.Machine.execPwrgoodFall s
  | .resetAssert => Sys2Proof.Machine.execResetAssert s
  | .resetRelease blocks => Sys2Proof.Machine.execResetRelease blocks s
  | .coldReset blocks => Sys2Proof.Machine.execColdReset blocks s
  | .warmReset blocks => Sys2Proof.Machine.execWarmReset blocks s
  | .dieReset die record => Sys2Proof.Machine.execDieReset die record s
  | .polderReset polder => Sys2Proof.Machine.execPolderReset polder s
  | .dieClockLoss die => Sys2Proof.Machine.execDieClockLoss die s
  | .dieClockReturn die record => Sys2Proof.Machine.execDieClockReturn die record s
  | .dieClockTimeout die => Sys2Proof.Machine.execDieClockTimeout die s
  | .watchdogExpiry polder => Sys2Proof.Machine.execWatchdogExpiry polder s
  | .recovAbandon polder => Sys2Proof.Machine.execRecovAbandon polder s
  | .recovRestore polder => Sys2Proof.Machine.execRecovRestore polder s
  | .snap => Sys2Proof.Machine.execSnap s
  | .counterClear off => Sys2Proof.Machine.execCounterClear off s
  | .registerWrite off value blocks => Sys2Proof.Machine.execRegisterWrite off value blocks s
  | .vauxLoss => Sys2Proof.Machine.execVauxLoss s
  | .reservedSequencerOpcode core => Sys2Proof.Machine.execReservedSequencerOpcode core s
  | .culvertTrainingEnd culv bad0 bad1 own recorded => Sys2Proof.Machine.execCulvertTrainingEnd culv bad0 bad1 own recorded s
  | .timingMonitorWarning dom => Sys2Proof.Machine.execTimingMonitorWarning dom s
  | .perstRelease => Sys2Proof.Machine.execPerstRelease s

end Sys2Proof.Machine
end

