-- ==== Sys2Proof/Safety.lean ====
section
/-! DEFINITION. What counts as a safe run, and the words that claims are stated in. No step of a safe run is refused: a refusal is
one of the spec's cases of undefined behaviour (R540), which a program must not bring about. -/

namespace Sys2Proof

/-- Every one of the next `k` steps from a state answers a next state. -/
def Safe : Nat → Machine.State → Prop
  | 0, _ => True
  | k + 1, s => ∃ t, Machine.step s = .next t ∧ Safe k t

/-- A field lies within its register. -/
abbrev Placed (f : Machine.FieldRef) : Prop := f.lo ≤ f.hi ∧ f.hi < 32 * f.words

/-- Two fields that share no bit: of registers apart, or of one register and bits apart. -/
abbrev Apart (f g : Machine.FieldRef) : Prop :=
  f.off + 4 * f.words ≤ g.off ∨ g.off + 4 * g.words ≤ f.off ∨
    (f.off = g.off ∧ f.words = g.words ∧ f.lo ≤ f.hi ∧ g.lo ≤ g.hi ∧ g.hi < 32 * g.words ∧ (f.hi < g.lo ∨ g.hi < f.lo))

/-- Every register field that shares no bit with one of a list reads the same in two states. -/
def RegsBut (gs : List Machine.FieldRef) (s t : Machine.State) : Prop :=
  ∀ f, (∀ g ∈ gs, Apart f g) → t.getF f = s.getF f

/-- Two states that differ in register words alone, and there at most in the fields of a list. -/
def OnlyRegs (gs : List Machine.FieldRef) (s t : Machine.State) : Prop := t = { s with regs := t.regs } ∧ RegsBut gs s t

/-! ### The words of the statements -/

open Sys2Proof.Machine

/-- Whether a time master's load takes effect at the tick that is about to come (R192). -/
def MasterLoadDue (s : State) : Prop :=
  s.forerunner = true ∧ s.flag Reg.WHL_TIME_CTL_MASTER = true ∧ s.flag Reg.WHL_TIME_STATUS_LOAD_PENDING = true ∧ (s.tide.count + 1).toNat % 100000 = 0

/-- The refusals of a LOAD (R191, R192): while a polder runs, for SECONDS whose count would not fit, and on a forerunner package that is
not the time master. -/
def LoadRefused (s : State) (seconds : Nat) : Prop :=
  (∃ p < 8, (s.wheel p).runs = true) ∨ 2814749767 < seconds ∨ (s.forerunner = true ∧ s.flag Reg.WHL_TIME_CTL_MASTER = false)

/-- How far a TMARK edge at a phase of the present tick lies from the predicted one, in TREF cycles (R193). -/
def Deviation (s : State) (phase : Nat) : Int :=
  ((s.now * 1000 + phase : Nat) : Int) - (State.nearestMark (s.now * 1000 + phase) * 1000 : Nat)

/-- The commands that can move the tide: its own events, the slots, whose events carry a phase, and those that can reset the package. -/
def MovesTide : Instr → Bool
  | .tideTick .. | .tmarkEdge .. | .tmarkMissing | .trefLost | .tmarkPulseEnd => true
  | .syncExchange .. | .timeReq .. | .timeResp .. | .syncMiss .. | .slotStart .. | .slotEnd .. => true
  | .vauxGood .. | .vauxLoss | .coldReset .. | .registerWrite .. | .apertureWrite .. | .jtagCwacc .. => true
  | .installJob .. | .installSectionsDone .. | .reshard .. => true
  | _ => false

/-- The commands that can change the supplies, the reset pins or whether the main side runs: events of these, resets, and the security requests,
which end in one. -/
def ChangesSupplies : Instr → Bool
  | .pwrgoodRise .. | .pwrgoodFall | .resetAssert | .resetRelease .. | .warmReset .. | .perst | .perstRelease => true
  | .culvertTrainingEnd .. | .recoveryBoot => true
  | .takeOwnership .. | .replaceKeys .. | .lcRelease .. | .enterRma .. | .allowRollback .. => true
  | _ => false

/-- Two states that differ in the lane ports, register words and what has been sent alone. -/
def OnlyLink (s t : State) : Prop := t = { s with ports := t.ports, regs := t.regs, out := t.out }

/-- The state in which the frame of a codeword acts: the codeword is counted, and in ALIGN it may end the alignment (R407, R426, R432, R434). -/
def AfterCodeword (p : Nat) (w : Codeword) (s : State) : State := (s.codeword p w).alignWord p w.intact

/-- How far a start comes (R522): the identity of some die fails, no firmware runs, no configuration image is loaded, or every culvert trains and the
domains are on. -/
def StartReaches (t : State) : Prop :=
  (t.getF Reg.MGT_IDENT_DONE_DONE = 1 ∧ t.getF Reg.MGT_IDENT_DONE_FAIL = 1) ∨ t.rtp.mgc = false ∨ t.getF Reg.CFG_STATUS_COPY = 3 ∨
    (t.power.starting = true ∧ ∀ c < 8, t.culvState c = 1)

/-- The commands that can meet one of the cases of undefined behaviour of R540. -/
def MeetsR540 : Instr → Bool
  | .slotStart .. | .issue .. | .listCmd .. | .sstep .. | .scoreboardAccept .. | .commandCompletion .. => true
  | .matmul .. | .matw .. | .vstream .. | .xmove .. | .xfill .. | .xatom .. => true
  | .msend .. | .mrecv .. | .mflush .. | .qpush .. | .take .. | .inject .. => true
  | .delivery .. | .apertureWrite .. | .registerWrite .. | .jtagCwacc .. | .installSectionsDone .. => true
  | _ => false

/-- The operations of R89: their opcodes and their commands. -/
def SeqOps : List (Nat × (Nat → Instr)) :=
  [(0x00, .nop), (0x01, .add), (0x02, .sub), (0x03, .mul), (0x04, .andOp), (0x05, .orOp), (0x06, .xorOp), (0x07, .shl), (0x08, .shr), (0x09, .sra),
   (0x0A, .slt), (0x0B, .sltu), (0x10, .addi), (0x11, .andi), (0x12, .ori), (0x13, .xori), (0x14, .shli), (0x15, .shri), (0x16, .lui)] ++
  [(0x18, .ld), (0x19, .ldw), (0x1A, .st), (0x1B, .stw), (0x20, .beq), (0x21, .bne), (0x22, .blt), (0x23, .bge), (0x24, .jal), (0x25, .jr),
   (0x30, .cmdw), (0x31, .issue), (0x32, .listCmd), (0x33, .waitc), (0x34, .pollc), (0x35, .fence), (0x36, .waits), (0x37, .rdt), (0x3F, .haltOp)]

/-- Core `i`'s sequencer runs, no WAITS holds it, and it stands at an instruction of opcode `op` whose fields are as R88 and R89 ask. -/
def StandsAt (s : State) (i op : Nat) : Prop :=
  (s.core i).halted = false ∧ s.notHeld i = true ∧ insOp (s.insAt i) = op ∧ badField (s.insAt i) = false

/-- From `s` to `t` one core has become `c`; no other core and nothing else of the package differs. -/
def OneCore (i : Nat) (c : Core) (s t : State) : Prop :=
  t = { s with cores := t.cores, free := t.free } ∧ t.core i = c ∧ ∀ j, j ≠ i → t.core j = s.core j

/-- A core with a command at the end of its queues, and the next number after it. -/
def Machine.Core.withCommand (c : Core) (q : QEntry) : Core := { c with queued := c.queued ++ [q], nextSeq := q.seq + 1 }

/-- A sequencer fault (R90) of a core that has become `c`: it stops with its code and the pc in CORE_FAULT, and its polder's step is quiesced. -/
def FaultsAs (i : Nat) (c : Core) (code : Nat) (o : Host.Outcome State Fault Refusal) (s : State) : Prop :=
  ∃ u t : State, o = .next t ∧ t = { u.quiesce (s.core i).polder .sequencerFault with free := t.free } ∧ OneCore i (c.setFault code) s u

/-- A sequencer fault of an instruction that does nothing else. -/
def Faults (i code : Nat) (o : Host.Outcome State Fault Refusal) (s : State) : Prop := FaultsAs i (s.core i) code o s

/-- The command of number `q` on core `i` is in flight with this record of what it has done, at some place in the core's order of issue. -/
def InFlight (t : State) (i : Nat) (q : BitVec 16) (f : Flight) : Prop :=
  (∃ e ∈ (t.core i).sb, e.q.seq = q) ∧ ∀ e ∈ (t.core i).sb, e.q.seq = q → ∃ n, e.flight = some { f with order := n }

/-- From `s` to `t` at most one core differs, and how many free values have been used. -/
def OnlyCore (i : Nat) (s t : State) : Prop := OneCore i (t.core i) s t

/-- A flight that has ended with a status and leaves nothing to write. -/
def Ended (status : Nat) : Flight := { Flight.start with fin := true, status := status }

/-- When an abandoned core restarts (R143, R157): nothing of it is left, none of its polder's lost tiles is still to be repaired, and its turn has just
started, unless it takes part in no turn. -/
def RestartDue (s : State) (i : Nat) : Prop :=
  (s.core i).restart = true ∧ (s.core i).sb = [] ∧ (s.core i).queued = [] ∧ (∀ x ∈ s.power.fixes, x.1 ≠ (s.core i).polder) ∧
    (8 ≤ (s.core i).polder ∨ (s.wheel (s.core i).polder).runs = false ∨ (s.core i).wheel.fresh = true)

/-- One context of a core became `k`; the rest of its core but its counters, every other core, memory and the stacks are as before. -/
def OneCtx (i n : Nat) (k : Ctx) (s t : State) : Prop :=
  (t.core i).ctx n = k ∧ (∀ m, m ≠ n → (t.core i).ctx m = (s.core i).ctx m) ∧
    t = { s with cores := t.cores, free := t.free, net := t.net, ports := t.ports, regs := t.regs, out := t.out } ∧ ∀ j, j ≠ i → t.core j = s.core j

/-- What the MSEND `e` of core `i`, issued with flight `f`, does from a state (R154, R168, R169, R171, R185): it ends when its context is CLOSED, its route lets nothing
in or its message exceeds the ring; it waits for OPEN, for its turn, for credits and for a free request; else a byte message's tiles pass their glazes and the
record is placed and charged, behind a pad where it does not fit the ring's tail. -/
def SendRuns (i n : Nat) (e : SbEntry) (f : Flight) (o : Host.Outcome State Fault Refusal) (s : State) : Prop :=
  ∀ (w : CmdWord) (k : Ctx) (len u rs tail : Nat) (reply : Bool) (r : ChnRecord) (bad : Option Nat) (out : List (BitVec 16 × Option Nat)),
    w = e.q.cmd → k = (s.core i).ctx n → len = w.u32 0x0C → u = (if len = 0 then tileUnits (w.u8 0x0A) else byteUnits len) →
    rs = s.routeStatus (State.dieOf i) (ctxRoute k) 1 ((msgTiles w).any fun t => ((s.core i).attr t).isSealed) →
    reply = (ctxReplyExpected k && decide (n < 64)) → r = s.recordFor i e f.stamp → tail = k.ringUnits - k.wr →
    bad = (if len = 0 then none else (msgTiles w).find? fun t => !(s.spTile i t).ok) →
    out = (if reply then k.outstanding ++ [(e.q.seq, none)] else k.outstanding) →
    (k.state = .closed ∨ k.state = .off → ∃ t, o = .next t ∧ InFlight t i e.q.seq (Ended 0x2002) ∧ OnlyCore i s t) ∧
    (k.state = .opening ∨ k.state = .isOpen ∧ k.waiting.head? ≠ some e.q.seq → ∃ t, o = .next t ∧ OneCore i { s.core i with page := (t.core i).page } s t) ∧
    (k.state = .isOpen → k.waiting.head? = some e.q.seq →
      (rs ≠ 0 ∨ k.ringUnits < u → ∃ t, o = .next t ∧ InFlight t i e.q.seq (Ended (if rs ≠ 0 then rs else 0x2001)) ∧ OnlyCore i s t) ∧
      (rs = 0 → u ≤ k.ringUnits →
        (reply = true → 64 ≤ k.outstanding.length → o = .next s) ∧
        (reply = false ∨ k.outstanding.length < 64 →
          (∀ b, bad = some b → ∃ v : State, o = .next (v.glazeFail i b 2) ∧ InFlight v i e.q.seq (Ended 0x1003) ∧ OnlyCore i s v) ∧
          (bad = none →
            (k.credits < min u tail ∨ u ≤ tail ∧ k.credits < u → ∃ t, o = .next t ∧ OneCore i { s.core i with page := (t.core i).page } s t) ∧
            (u ≤ tail → u ≤ k.credits → ∃ t, o = .next t ∧ InFlight t i e.q.seq { f with sent := true, count := if len = 0 then 2048 * w.u8 0x0A else len } ∧
              OneCtx i n { k with credits := k.credits - u, wr := (k.wr + u) % k.ringUnits, waiting := k.waiting.tail, msgSeq := k.msgSeq + 1, outstanding := out,
                                  unacked := k.unacked ++ [⟨some e.q.seq, false, k.epoch.toNat, u, packetsOf r⟩] } s t ∧
              ((ctxPeer k).pkg = s.pkgId → t.net = s.net ++ [.chn r] ∧ t.ports = s.ports ∧ t.regs = s.regs ∧ t.out = s.out) ∧
              (∀ p v, (ctxPeer k).pkg ≠ s.pkgId → s.ctxLane (s.ctxId i n) = some (p, v) →
                t.net = s.net ∧ t.ports = ((State.lanePkts (.chn r)).foldl (fun s q => s.sendLane p v q) s).ports)) ∧
            (tail < u → tail ≤ k.credits → (ctxPeer k).pkg = s.pkgId → ∃ t, o = .next t ∧ t.ports = s.ports ∧ t.regs = s.regs ∧ t.out = s.out ∧
              (k.credits - tail < u → t.net = s.net ++ [.chn (s.padFor i n tail)] ∧
                OneCtx i n { k with credits := k.credits - tail, wr := 0, unacked := k.unacked ++ [⟨none, true, k.epoch.toNat, tail, 1⟩] } s t) ∧
              (u ≤ k.credits - tail → t.net = s.net ++ [.chn (s.padFor i n tail), .chn r] ∧
                InFlight t i e.q.seq { f with sent := true, count := if len = 0 then 2048 * w.u8 0x0A else len } ∧
                OneCtx i n { k with credits := k.credits - tail - u, wr := u % k.ringUnits, waiting := k.waiting.tail, msgSeq := k.msgSeq + 1, outstanding := out,
                                    unacked := k.unacked ++ [⟨none, true, k.epoch.toNat, tail, 1⟩, ⟨some e.q.seq, false, k.epoch.toNat, u, packetsOf r⟩] } s t))))))

/-- What the issued MRECV `e` of core `i` does from a state (R172 to R174, R185): it ends when its context is not OPEN; first in its line it takes a timeout that
waits for it, or the whole message at the front of the ring; else it waits. -/
def RecvRuns (i n : Nat) (e : SbEntry) (o : Host.Outcome State Fault Refusal) (s : State) : Prop :=
  ∀ (k : Ctx) (late : Bool), k = (s.core i).ctx n → late = (decide (64 ≤ n) && decide (0 < ((s.core i).ctx (n - 64)).timedOut)) →
    (k.state ≠ .isOpen → ∃ t, o = .next t ∧ InFlight t i e.q.seq (Ended 0x2002) ∧ OnlyCore i s t) ∧
    (k.state = .isOpen → k.waiting.head? ≠ some e.q.seq ∨ late = false ∧ s.recvMessage i e.q.cmd k = none → ∃ t, o = .next t ∧
      OneCore i { s.core i with page := (t.core i).page } s t) ∧
    (k.state = .isOpen → k.waiting.head? = some e.q.seq →
      (late = true → ∃ t, o = .next t ∧ InFlight t i e.q.seq (Ended 0x2003) ∧ OnlyCore i s t ∧
        ((t.core i).ctx (n - 64)).timedOut = ((s.core i).ctx (n - 64)).timedOut - 1 ∧
        (t.core i).ctx n = { k with waiting := k.waiting.filter fun q => q ≠ e.q.seq }) ∧
      (∀ g r, late = false → s.recvMessage i e.q.cmd k = some (g, r, false) → ∃ t, o = .next t ∧ InFlight t i e.q.seq g ∧
        OneCtx i n { k with waiting := k.waiting.filter fun q => q ≠ e.q.seq } s t ∧ t.net = s.net) ∧
      (∀ g r rest, late = false → s.recvMessage i e.q.cmd k = some (g, r, true) → k.recs = r :: rest → (rest.head?.all fun q => !(q.isPad && q.isWhole)) = true →
        ∃ t, o = .next t ∧ InFlight t i e.q.seq g ∧
          OneCtx i n { k with waiting := k.waiting.filter (fun q => q ≠ e.q.seq), recs := rest, rd := (r.start + r.units) % max 1 (32 * ctxRingTiles k) } s t ∧
          ((ctxPeer k).pkg = s.pkgId → t.net = s.net ++ [.chnCredit (ctxPeer k) (s.ctxId i n) r.units])))

/-- What the QPUSH `e` of core `i`, issued with flight `f`, does from a state (R296, R302 to R304, R326, R443): it ends with its error, waits for HEAD or its peer's
notice, or sends its part: over the mesh to an end of this package, as one packet for each tile to another. -/
def PushRuns (i : Nat) (e : SbEntry) (f : Flight) (o : Host.Outcome State Fault Refusal) (s : State) : Prop :=
  ∀ (w : CmdWord) (l d g st : Nat), w = e.q.cmd → l = qLink w → d = s.linkDesc l → g = ldGroup d → st = s.pushStatus i w →
    (st ≠ 0 → ∃ t, o = .next t ∧ InFlight t i e.q.seq (Ended st) ∧ OnlyCore i s t) ∧
    (st = 0 → (s.linkEnd l).paused = true ∨ seqOlder (w.u32 0x10) (s.linkHead l + ldDepth d) = false → ∃ t, o = .next t ∧
      t = { s with regs := t.regs, free := t.free } ∧ RegsBut [Reg.PIP_CNT_FLOW_WAIT_COUNT g] s t) ∧
    (st = 0 → (s.linkEnd l).paused = false → seqOlder (w.u32 0x10) (s.linkHead l + ldDepth d) = true →
      ∃ x, s.stashOf g (ldInfer d) (w.u32 0x10) = some x ∧
        (ldPeerPkg d = s.pkgId → ∃ t, o = .next t ∧ t.net = s.net ++ [.pipPart (ldPeer d) (s.partFor i l w x)] ∧
          InFlight t i e.q.seq { f with sent := true, stamp := s.linkEpoch l } ∧ t = { s with net := t.net, cores := t.cores }) ∧
        (∀ p v, ldPeerPkg d ≠ s.pkgId → s.routeLane (State.dieOf i) (qRoute w) = some (p, v) → ∃ t, o = .next t ∧
          InFlight t i e.q.seq { f with sent := true, stamp := s.linkEpoch l } ∧
          t = { (s.partPkts i l (s.partFor i l w x)).foldl (fun s q => s.sendLane p v q) s with cores := t.cores }) ∧
        (ldPeerPkg d ≠ s.pkgId → s.routeLane (State.dieOf i) (qRoute w) = none → o = .next s))

/-- What the issued TAKE `e` of core `i` does from a state (R302, R306, R309, R311 to R314): it ends with its error, waits for its entry or the weirs, finds or makes
its binding, waits for a stash entry or a version, and then has its binding record written and its tiles in flight. -/
def TakeRuns (i : Nat) (e : SbEntry) (o : Host.Outcome State Fault Refusal) (s : State) : Prop :=
  ∀ (w : CmdWord) (l d g a n st p : Nat) (inf : Bool), w = e.q.cmd → l = qLink w → d = s.linkDesc l → g = ldGroup d → n = w.u8 0x0A → inf = qInfer w →
    a = ldSlot d (w.u32 0x10) + (1 + w.u16 0x14) * 2048 → st = s.takeStatus i w → p = (s.core i).polder →
    (st ≠ 0 → ∃ t, o = .next t ∧ InFlight t i e.q.seq (Ended st) ∧ OnlyCore i s t) ∧
    (st = 0 → (s.linkEnd l).queue.find? (fun q => q.mbSeq == w.u32 0x10 && q.ready.isSome) = none → ∃ t, o = .next t ∧
      OneCore i { s.core i with page := (t.core i).page } s t) ∧
    (∀ q, st = 0 → (s.linkEnd l).queue.find? (fun q => q.mbSeq == w.u32 0x10 && q.ready.isSome) = some q →
      (n ≠ 0 → s.weirPass p readTile a = false → o = .next (s.weirHold p a)) ∧
      (n = 0 ∨ s.weirPass p readTile a = true →
        (ldBwd d = true → s.stashOf g inf q.mbSeq = none → ∃ t, o = .next t ∧ InFlight t i e.q.seq (Ended 0x5005) ∧ OnlyCore i s t) ∧
        (ldBwd d = true → ∀ b, s.stashOf g inf q.mbSeq = some b → b.vtag ≠ q.vtag → ∃ t, o = .next t ∧ InFlight t i e.q.seq (Ended 0x5006) ∧ OnlyCore i s t) ∧
        (ldBwd d = false → ∀ b, s.stashAt g (State.stashIdx inf q.mbSeq) = some b → b.mbSeq ≠ q.mbSeq → ∃ t, o = .next t ∧
          t = { s with regs := t.regs, free := t.free } ∧ RegsBut [Reg.PIP_CNT_STASH_WAIT_COUNT g] s t) ∧
        (ldBwd d = false → s.stashAt g (State.stashIdx inf q.mbSeq) = none →
          (s.bindTo g q.vtag = .wait → ∃ t, o = .next t ∧ t = { s with regs := t.regs, free := t.free } ∧ RegsBut [Reg.PIP_CNT_VER_WAIT_COUNT g] s t) ∧
          (s.bindTo g q.vtag = .refuse → ∃ t, o = .next t ∧ InFlight t i e.q.seq (Ended 0x5006) ∧ OnlyCore i s t)) ∧
        (∀ (v u : State) (b : StashEntry) (first : Bool),
          (ldBwd d = true ∧ s.stashOf g inf q.mbSeq = some b ∧ b.vtag = q.vtag ∧ v = s ∧ first = false ∨
           ldBwd d = false ∧ s.stashAt g (State.stashIdx inf q.mbSeq) = some b ∧ b.mbSeq = q.mbSeq ∧ v = s ∧ first = false ∨
           ldBwd d = false ∧ s.stashAt g (State.stashIdx inf q.mbSeq) = none ∧ ∃ j, s.bindTo g q.vtag = .slot j ∧
             v = s.makeBinding g j inf ⟨q.mbSeq, q.step, q.index, q.cls, q.vtag, 0, 0, 0, 0⟩ ∧
             b = ⟨q.mbSeq, q.step, q.index, q.cls, q.vtag, s.verNumber g j, j, s.now, 0⟩ ∧ first = true) →
          u = (List.range n).foldl (fun s k => s.meter p readTile (a + k * 2048)) (v.modCore i fun k => k.dwrite (w.u16 0x1C) (v.bindingRecord g inf first b)) →
          v.stashOf g inf q.mbSeq = some b ∧
          (ldSlotTiles d < w.u16 0x14 + n → ∃ t, o = .next t ∧ InFlight t i e.q.seq (Ended 0x5004) ∧ OnlyCore i v t ∧
            (t.core i).dread (w.u16 0x1C) 32 = v.bindingRecord g inf first b) ∧
          (w.u16 0x14 + n ≤ ldSlotTiles d → ∃ t, o = .next t ∧ (t.core i).dread (w.u16 0x1C) 32 = v.bindingRecord g inf first b ∧
            InFlight t i e.q.seq { Ended 0 with count := 2048 * n, writes := (List.range n).map fun k =>
              ⟨(qTiles w).getD k 0, u.tile (a + k * 2048), u.inSaggar (a + k * 2048), none⟩ } ∧
            t = { u with cores := t.cores }))))

/-- What the issued INJECT `e` of core `i` does from a state (R307, R309, R312, R313): a core of no group is refused; it finds the binding of its micro-batch or makes
one to the version it is bound to; else it waits, or ends where there is no version. -/
def InjectRuns (i : Nat) (e : SbEntry) (o : Host.Outcome State Fault Refusal) (s : State) : Prop :=
  ∀ (w : CmdWord) (inf : Bool) (mb step : Nat), w = e.q.cmd → inf = qInfer w → mb = w.u32 0x10 → step = (if inf then 0 else w.u32 0x18) →
    (s.groupOf i = none → ∃ t, o = .next t ∧ InFlight t i e.q.seq (Ended 0x5001) ∧ OnlyCore i s t) ∧
    (∀ g tag index, s.groupOf i = some g → tag = (match s.verIn g 3 with | some j => s.verNumber g j | none => 0) →
      index = (mb + 2 ^ 48 - step * s.getF (Reg.PIP_GROUP_MB_MB_PER_STEP g)) % 65536 →
      (∀ b, s.stashAt g (State.stashIdx inf mb) = some b →
        (b.mbSeq ≠ mb → ∃ t, o = .next t ∧ t = { s with regs := t.regs, free := t.free } ∧ RegsBut [Reg.PIP_CNT_STASH_WAIT_COUNT g] s t) ∧
        (b.mbSeq = mb → ∃ t, o = .next t ∧ InFlight t i e.q.seq (Ended 0) ∧ OnlyCore i s t ∧
          (t.core i).dread (w.u16 0x1C) 32 = s.bindingRecord g inf false b)) ∧
      (s.stashAt g (State.stashIdx inf mb) = none →
        (s.bindTo g tag = .wait → ∃ t, o = .next t ∧ t = { s with regs := t.regs, free := t.free } ∧ RegsBut [Reg.PIP_CNT_VER_WAIT_COUNT g] s t) ∧
        (s.bindTo g tag = .refuse → ∃ t, o = .next t ∧ InFlight t i e.q.seq (Ended 0x5006) ∧ OnlyCore i s t) ∧
        (∀ j x, s.bindTo g tag = .slot j → x = (⟨mb, step, index, w.u8 0x16 % 64, tag, s.verNumber g j, j, s.now, 0⟩ : StashEntry) → ∃ t, o = .next t ∧
          t.stashOf g inf mb = some x ∧ InFlight t i e.q.seq (Ended 0) ∧
          (j < 4 → t.getF (Reg.PIP_VER_REFS g j) = (s.getF (Reg.PIP_VER_REFS g j) + 1) % 2 ^ 8) ∧
          (t.core i).dread (w.u16 0x1C) 32 = t.bindingRecord g inf true x ∧ t.mem = s.mem ∧ ∀ k, k ≠ i → t.core k = s.core k)))

/-- A packet of a kind stands at the head of a VC, for a core that the VC's polder owns and whose slot owns the route of its context (R373, R417). -/
def LaneHas (p v : Nat) (q : LanePkt) (s : State) : Prop :=
  s.laneHead p v = some q ∧ s.laneDike p v (State.pktCore q) = true ∧
    s.ownsRoute (State.pktCore q) (ctxRoute ((s.core (State.pktCore q)).ctx (State.pktCtx q))) = true

/-- A bucket tile that is due at its kiln: the operation and its tile, a lent slot, no other delivery of the polder held before it (R329, R332, R341, R348, R462). -/
def DeliveryDue (s : State) (ce p op idx : Nat) (o : ColOp) (c : ColTile) (e : PullEntry) (k : Nat) : Prop :=
  s.colOp ce p op = some o ∧ SMap.get (fun _ => none) o.results idx = some c ∧ o.entryOf idx = some (e, k) ∧ o.kind = 1 ∧ o.code = 0 ∧
    State.runReady o idx = true ∧ s.kilnBusy ce p op (8 * ce + e.kiln) (o.runOf idx) = false ∧ s.repairHolds ce p o.group = false ∧
    s.lenders (8 * ce + e.kiln) p ≠ [] ∧ (s.heldAt (8 * ce + e.kiln) p).any (· != (op, idx)) = false

/-- What the failure of a fetch or write-back does from a state (R349): it is counted and captured; the first time the polder's step is abandoned and it is issued
again, the second time the polder is restored. -/
def FetchFails (f : KFetch) (o : Host.Outcome State Fault Refusal) (s : State) : Prop :=
  ∃ u : State, u = { s with regs := u.regs, fetches := s.fetches.filter fun x => x.id != f.id } ∧
    u.getF (Reg.KLN_CNT_FETCH_FAIL_COUNT f.kiln) = (s.getF (Reg.KLN_CNT_FETCH_FAIL_COUNT f.kiln) + 1) % 2 ^ 64 ∧
    (s.flag Reg.KLN_ERR_LAST_VALID = false → u.getF Reg.KLN_ERR_LAST_CODE = 0x8005 ∧ u.getF Reg.KLN_ERR_LAST_KILN = f.kiln) ∧
    (f.failed = true → o = .next (u.dueRestore f.polder)) ∧
    (∀ q : State, f.failed = false → q = u.quiesce f.polder .kilnFetch → ∃ t, o = .next t ∧ t.cores = q.cores ∧
      (∀ p v, f.pkg ≠ q.pkgId → q.collPath (f.kiln / 8) f.polder f.pkg = some (p, v) →
        t.fetches = u.fetches ++ [{ f with failed := true, lane := some (p, v), left := 5000 }]) ∧
      (f.pkg = q.pkgId → region f.addr = .host → f.kiln < 8 → t.fetches = u.fetches ++ [{ f with failed := true, lane := none, left := 5000 }]) ∧
      (f.pkg ≠ q.pkgId → q.collPath (f.kiln / 8) f.polder f.pkg = none → f.polder < 8 → f.polder ∈ t.power.due))

/-- What the failure of a collective operation does from a state (R475, R480): its status is kept and captured, and its polder's step is abandoned or, past the point of
no return, the polder restored. -/
def OpFails (j p n code : Nat) (out : Host.Outcome State Fault Refusal) (v : State) : Prop :=
  ∀ o, v.colOp j p n = some o → o.code = 0 → ∃ u : State, out = .next (if v.pastReturn p o.step then u.dueRestore p else u.quiesce p .collective) ∧
    u.colOp j p n = some { o with code := code } ∧ u = { v with ops := u.ops, regs := u.regs } ∧
    (v.flag (Reg.COL_ERR_LAST_VALID j) = false → u.getF (Reg.COL_ERR_LAST_CODE j) = code)

/-- What a digest record does in its operation (R465): it is kept, sent on until it has crossed every other member, and the step is decided once every member's
record is there; nothing is decided before, and a step on which all agree is counted and done with. -/
def DigestTaken (j p n : Nat) (r : DigestRec) (out : Host.Outcome State Fault Refusal) (v : State) : Prop :=
  ∀ o, v.colOp j p n = some o → ∃ t w : State, t.colOp j p n = some { o with recs := o.recs ++ [r] } ∧ t = { v with ops := t.ops } ∧ out = .next w ∧
    (o.ahead 1 ≠ r.origin → w = (t.colSend j p n (o.ahead 1) 0 ⟨0x22, false, false, 0, 0, n, 0, r.step + r.origin * 2 ^ 32,
      r.subs.flatMap fun d => bytesLE 8 d.toNat⟩).decideDigest j p n r.step) ∧
    (o.ahead 1 = r.origin → w = t.decideDigest j p n r.step ∧
      ((∃ m < o.m, ∀ x ∈ o.recs ++ [r], x.step = r.step → x.origin ≠ m) → w = t) ∧
      ((∀ m < o.m, ∃ x ∈ o.recs ++ [r], x.step = r.step ∧ x.origin = m) → (∀ x ∈ o.recs ++ [r], x.step = r.step → x.subs = r.subs) →
        w.colOp j p n = some { o with recs := (o.recs ++ [r]).filter fun x => x.step != r.step } ∧
        w.getF (Reg.COL_CNT_DIGEST_COUNT j) = (v.getF (Reg.COL_CNT_DIGEST_COUNT j) + 1) % 2 ^ 64 ∧
        w.getF (Reg.COL_CNT_MISMATCH_COUNT j) = v.getF (Reg.COL_CNT_MISMATCH_COUNT j)))

/-- What a sum that a member has finished does (R460, R463): the owner's goes into its result buffer and on to the members it sends results to; any other goes on
to the next member, and with OWNER set its sender is done with it. -/
def SumDone (j p n t hops : Nat) (o : ColOp) (c : ColTile) (out : Host.Outcome State Fault Refusal) (v : State) : Prop :=
  ∃ u : State, u = { v with ops := u.ops } ∧
    (o.ownerOf t = o.self → u.colOp j p n = some { o with contrib := SMap.set (fun _ => none) o.contrib t none, results := SMap.set (fun _ => none) o.results t (some c) } ∧
      out = .next ((if o.owner then [] else o.downOf t).foldl (fun s m => s.colSend j p n m (o.runOf t) (State.colPkt 0x21 n t o.step 1 c)) u)) ∧
    (o.ownerOf t ≠ o.self → u.colOp j p n = some { o with contrib := SMap.set (fun _ => none) o.contrib t none, done := if o.owner then t :: o.done else o.done } ∧
      out = .next ((u.colSend j p n (o.upOf t) (o.runOf t) (State.colPkt 0x20 n t o.step hops c)).advanceOp j p n))

/-- What a gathered tile does at a member (R468): refused where it is SEALED and DEST is not, or where DEST may not be reached; else written at DEST, passed on, and done. -/
def Gathered (j p n t : Nat) (o : ColOp) (c : ColTile) (out : Host.Outcome State Fault Refusal) (v : State) : Prop :=
  ∀ a, a = o.dest + 2048 * t →
    (c.isSealed = true → v.inSaggar a = false → OpFails j p n 0x6002 out v) ∧
    (c.isSealed = false ∨ v.inSaggar a = true →
      (v.colAccess p a ≠ 0 → OpFails j p n (v.colAccess p a) out (v.colRefuse p a (v.colAccess p a))) ∧
      (v.colAccess p a = 0 → a % 2048 = 0 → ∃ w : State, w.colOp j p n = some { o with done := t :: o.done } ∧
        w.tile a = ⟨padTo 2048 c.tile.data, c.tile.tag, c.tile.glaze⟩ ∧ (∀ x, x < a ∨ a + 2048 ≤ x → Memory.read w.mem x = Memory.read v.mem x) ∧
        out = .next (((o.downOf t).foldl (fun s m => s.colSend j p n m (o.runOf t) (State.colPkt 0x23 n t o.step 1 c)) w).advanceOp j p n)))

/-- Offsets of registers whose write does nothing beside setting their fields: no command is in them, no polder, core page or table port. -/
def PlainOffset (off : Nat) : Prop :=
  (∀ v bl u, writeCommand off v bl u = .next u) ∧ ¬(0x8000 ≤ off ∧ off < 0x10000) ∧ ¬(0x101000 ≤ off ∧ off < 0x102000 ∧ off % 0x200 = 0) ∧ off ≠ 0x108008 ∧
    ¬(0x700000 ≤ off ∧ off < 0x740000 ∧ 0x1000 ≤ off % 0x10000 ∧ off % 0x1000 = 0 ∧ off % 0x10000 < 0x9000) ∧ ¬(0x600000 ≤ off ∧ off < 0x610000 ∧ off % 0x100 = 0)

end Sys2Proof
end

