-- ==== Sys2Proof/Certificates/Slice0/Obligations.lean ====
section
/-! DEFINITION. The statements, from the numbered rules of the spec. Each says of its commands when they answer a next state, what that state holds, and what is as
before. -/

open Sys2Proof Sys2Proof.Machine

/-! ### The queue, memory, and what every step keeps -/

/-- A step takes the command at the front of the queue and runs it with the queue's rest.
A step on an empty queue changes nothing (the model's choice, log 20). -/
def Obligations.StepsRunTheFrontCommandOrIdle : Prop :=
  (∀ (c : Instr) (rest : List Instr) (s : State), s.pending = c :: rest → step s = exec c { s with pending := rest }) ∧
  (∀ s : State, s.pending = [] → step s = .next s)

/-- Device memory and tile metadata in canonical form stay so in every step.
Where the rules leave a point open it follows the model's own choices (log 3). -/
def Obligations.EveryStepKeepsMemoryCanonical : Prop :=
  ∀ s t : State, Memory.wf s.mem = true → SMap.wf wipedMeta s.tags = true → step s = .next t →
    Memory.wf t.mem = true ∧ SMap.wf wipedMeta t.tags = true

/-- The package right after reset: no command waits, nothing has been sent, memory and metadata list nothing and are canonical,
and nothing is powered.
Where the rules leave a point open it follows the model's own choices (logs 2, 3). -/
def Obligations.ResetIsCanonicalAndUnpowered : Prop :=
  State.reset.pending = [] ∧ State.reset.out = [] ∧ State.reset.mem = [] ∧ Memory.wf State.reset.mem = true ∧
    SMap.wf wipedMeta State.reset.tags = true ∧ State.reset.power.vaux = false ∧ State.reset.power.main = false ∧ State.reset.tide.count = 0

/-- The counter cells of the root of trust only ever increase, whatever step is taken (R482). -/
def Obligations.CounterCellsOnlyEverIncrease : Prop :=
  ∀ s t : State, step s = .next t →
    s.rtp.fwSvn ≤ t.rtp.fwSvn ∧ s.rtp.revoke ≤ t.rtp.revoke ∧ s.rtp.ownerGen ≤ t.rtp.ownerGen ∧ (s.rtp.rma = true → t.rtp.rma = true)

/-- A command leaves the queue alone and only adds to what has been sent. -/
def Obligations.CommandsLeaveTheQueueAndOnlySendMore : Prop :=
  ∀ (c : Instr) (s t : State), exec c s = .next t → t.pending = s.pending ∧ s.out <+: t.out

/-! ### The tide -/

/-- TIDE_TICK (R189, R192): without VAUX nothing happens; otherwise the phase wraps to 0 and the count increases by one, or becomes
SECONDS × 100,000 when a master's load is due; the time since the last edge and since the last sample of the submission ring grow;
then, while the main side runs, its tick follows. Memory, cores and wheels wait for that.
Where the rules leave a point open it follows the model's own choices (log 98). -/
def Obligations.TideTickCounts : Prop :=
  ∀ (env : TickEnv) (s : State),
    (s.power.vaux = false → exec (.tideTick env) s = .next s) ∧
    (s.power.vaux = true → ∃ u : State,
      exec (.tideTick env) s = .next (if s.power.main then u.mainTick env else u) ∧ u.tide.phase = 0 ∧
      u.tide.quiet = s.tide.quiet + 1 ∧ u.sq = s.sq + 1 ∧
      (¬ MasterLoadDue s → u.tide.count = s.tide.count + 1) ∧
      (MasterLoadDue s → u.tide.count.toNat = s.getF Reg.WHL_TIDE_LOAD_SECONDS * 100000 % 2 ^ 48) ∧
      u = { s with tide := u.tide, regs := u.regs, power := u.power, rtp := u.rtp, sq := u.sq } ∧ u.power.main = s.power.main)

/-- LOAD and TIDE_LOAD (R191, R192): a refused load has no effect but LOAD_REFUSED; any other is pending. TIDE_LOAD writes SECONDS first and
is answered.
Where the rules leave a point open it follows the model's own choices (log 58). -/
def Obligations.LoadIsPendingOrRefused : Prop :=
  ∀ (s : State) (sec : Nat),
    (LoadRefused s (s.getF Reg.WHL_TIDE_LOAD_SECONDS) → ∃ t, exec .loadArm s = .next t ∧
      t.getF Reg.WHL_TIME_STATUS_LOAD_REFUSED = 1 ∧ OnlyRegs [Reg.WHL_TIME_STATUS_LOAD_REFUSED] s t) ∧
    (¬ LoadRefused s (s.getF Reg.WHL_TIDE_LOAD_SECONDS) → ∃ t, exec .loadArm s = .next t ∧
      t.getF Reg.WHL_TIME_STATUS_LOAD_PENDING = 1 ∧ OnlyRegs [Reg.WHL_TIME_STATUS_LOAD_PENDING] s t) ∧
    (sec < 2 ^ 32 → LoadRefused s sec → ∃ t, exec (.tideLoad sec) s = .next { t with out := s.out ++ [.reply 4 1 []] } ∧
      t.getF Reg.WHL_TIDE_LOAD_SECONDS = sec ∧ t.getF Reg.WHL_TIME_STATUS_LOAD_REFUSED = 1 ∧
      OnlyRegs [Reg.WHL_TIDE_LOAD_SECONDS, Reg.WHL_TIME_STATUS_LOAD_REFUSED] s t) ∧
    (sec < 2 ^ 32 → ¬ LoadRefused s sec → ∃ t, exec (.tideLoad sec) s = .next { t with out := s.out ++ [.reply 4 0 []] } ∧
      t.getF Reg.WHL_TIDE_LOAD_SECONDS = sec ∧ t.getF Reg.WHL_TIME_STATUS_LOAD_PENDING = 1 ∧
      OnlyRegs [Reg.WHL_TIDE_LOAD_SECONDS, Reg.WHL_TIME_STATUS_LOAD_PENDING] s t)

/-- A TMARK edge of native mode (R191, R193, R194). After the first, within ±2 cycles the count stays; within ±1,000 it becomes the predicted
multiple of 100,000 at phase 0 and counts in TMARK_ADJUST; a pending LOAD sets it to SECONDS × 100,000 and is over. Each clears TMARK_FAULT and
TMARK_MISSING. One further off, with fewer than two ignored before it, is ignored: TMARK_FAULT is set and TMARK_BAD counts. While no polder runs,
the first edge after a cold start is accepted at any deviation, and a third edge that agrees with two ignored ones realigns the count (R194).
TMARK_MISSING when no edge has arrived for as long as R193 says, TREF_LOST and TREF_RETURN (R195), and the end of the TMARK pulse (R202).
Where the rules leave a point open it follows the model's own choices (logs 64, 66). -/
def Obligations.TmarkEdgesAndConditionsAreJudged : Prop :=
  (∀ (phase : Nat) (s : State), s.power.vaux = true → s.forerunner = false →
    (s.tide.firstEdge = false → (Deviation s phase).natAbs ≤ 1000 → ∃ t, exec (.tmarkEdge phase) s = .next t ∧
      t.getF Reg.WHL_TIME_STATUS_TMARK_FAULT = 0 ∧ t.getF Reg.WHL_TIME_STATUS_TMARK_MISSING = 0 ∧ t.getF Reg.WHL_TIME_STATUS_LOAD_PENDING = 0 ∧
      t.tide.quiet = 0 ∧
      (s.flag Reg.WHL_TIME_STATUS_LOAD_PENDING = true →
        t.tide.count.toNat = s.getF Reg.WHL_TIDE_LOAD_SECONDS * 100000 % 2 ^ 48 ∧ t.tide.phase = 0) ∧
      (s.flag Reg.WHL_TIME_STATUS_LOAD_PENDING = false → (Deviation s phase).natAbs ≤ 2 →
        t.tide.count = s.tide.count ∧ t.tide.phase = phase) ∧
      (s.flag Reg.WHL_TIME_STATUS_LOAD_PENDING = false → 2 < (Deviation s phase).natAbs →
        t.tide.count = BitVec.ofNat 48 (State.nearestMark (s.now * 1000 + phase)) ∧ t.tide.phase = 0) ∧
      t.getF Reg.WHL_CNT_TMARK_ADJUST_COUNT =
        (s.getF Reg.WHL_CNT_TMARK_ADJUST_COUNT + (if 2 < (Deviation s phase).natAbs then 1 else 0)) % 2 ^ 64 ∧
      t = { s with tide := t.tide, regs := t.regs } ∧
      RegsBut [Reg.WHL_TIME_STATUS_TMARK_FAULT, Reg.WHL_TIME_STATUS_TMARK_MISSING, Reg.WHL_TIME_STATUS_LOAD_PENDING, Reg.WHL_CNT_TMARK_ADJUST_COUNT] s t) ∧
    (s.tide.firstEdge = false → 1000 < (Deviation s phase).natAbs → s.tide.ignored.length < 2 → ∃ t, exec (.tmarkEdge phase) s = .next t ∧
      t.tide.count = s.tide.count ∧ t.tide.phase = phase ∧ t.getF Reg.WHL_TIME_STATUS_TMARK_FAULT = 1 ∧
      t.getF Reg.WHL_CNT_TMARK_BAD_COUNT = (s.getF Reg.WHL_CNT_TMARK_BAD_COUNT + 1) % 2 ^ 64 ∧
      t = { s with tide := t.tide, regs := t.regs } ∧ RegsBut [Reg.WHL_TIME_STATUS_TMARK_FAULT, Reg.WHL_CNT_TMARK_BAD_COUNT] s t) ∧
    (s.tide.firstEdge = true → (∀ p < 8, (s.wheel p).runs = false) → ∃ t, exec (.tmarkEdge phase) s = .next t ∧
      t.tide.phase = 0 ∧ t.tide.firstEdge = false ∧
      t.tide.count.toNat = (if s.flag Reg.WHL_TIME_STATUS_LOAD_PENDING then s.getF Reg.WHL_TIDE_LOAD_SECONDS * 100000
        else State.nearestMark (s.now * 1000 + phase)) % 2 ^ 48 ∧
      t = { s with tide := t.tide, regs := t.regs }) ∧
    (s.tide.firstEdge = false → 1000 < (Deviation s phase).natAbs → (∀ p < 8, (s.wheel p).runs = false) →
      s.flag Reg.WHL_TIME_STATUS_TREF_LOST = false →
      (∃ a b, s.tide.ignored = [a, b] ∧ (b - a).natAbs ≤ 2 ∧ (Deviation s phase - a).natAbs ≤ 2) → ∃ t, exec (.tmarkEdge phase) s = .next t ∧
      t.tide.phase = 0 ∧ t.tide.ignored = [] ∧ t.alert = true ∧
      t.getF Reg.WHL_CNT_REALIGN_COUNT = (s.getF Reg.WHL_CNT_REALIGN_COUNT + 1) % 2 ^ 64 ∧
      t.tide.count.toNat = (if s.flag Reg.WHL_TIME_STATUS_LOAD_PENDING then s.getF Reg.WHL_TIDE_LOAD_SECONDS * 100000
        else State.nearestMark (s.now * 1000 + phase)) % 2 ^ 48 ∧
      t = { s with tide := t.tide, regs := t.regs, events := s.events ++ [.realign], alert := true, out := s.out ++ [.msix 0] })) ∧
  (∀ s : State,
    (s.power.vaux = true → s.forerunner = false → s.tide.missAt ≤ s.tide.quiet → ∃ t, exec .tmarkMissing s = .next t ∧
      t.getF Reg.WHL_TIME_STATUS_TMARK_MISSING = 1 ∧ t.getF Reg.WHL_CNT_TMARK_BAD_COUNT = (s.getF Reg.WHL_CNT_TMARK_BAD_COUNT + 1) % 2 ^ 64 ∧
      t = { s with regs := t.regs, tide := { s.tide with missAt := s.tide.missAt + 100000 } } ∧
      RegsBut [Reg.WHL_TIME_STATUS_TMARK_MISSING, Reg.WHL_CNT_TMARK_BAD_COUNT] s t) ∧
    (s.flag Reg.WHL_TIME_STATUS_TREF_LOST = false → ∃ t, exec .trefLost s = .next t ∧
      t.getF Reg.WHL_TIME_STATUS_TREF_LOST = 1 ∧ t.alert = true ∧ t.events = s.events ++ [.trefLost] ∧ t.tide.count = s.tide.count ∧
      t.getF Reg.WHL_CNT_TREF_LOSS_COUNT = (s.getF Reg.WHL_CNT_TREF_LOSS_COUNT + 1) % 2 ^ 64 ∧
      t = { s with regs := t.regs, tide := { s.tide with ignored := [] }, events := t.events, alert := true, out := s.out ++ [.msix 0] } ∧
      RegsBut [Reg.WHL_TIME_STATUS_TREF_LOST, Reg.WHL_CNT_TREF_LOSS_COUNT] s t) ∧
    (∃ t, exec .trefReturn s = .next t ∧ t.getF Reg.WHL_TIME_STATUS_TREF_LOST = 0 ∧ OnlyRegs [Reg.WHL_TIME_STATUS_TREF_LOST] s t) ∧
    (s.tide.markOut = true → s.tide.markLeft = 0 → exec .tmarkPulseEnd s = .next { s with tide := { s.tide with markOut := false } }))

/-- No other command moves the tide: nothing that a core, a lane, a kiln or a collective does changes the count or its phase. No other command changes VAUX,
PWRGOOD, RESET#, PERST#, THERMTRIP# or whether the main side runs. -/
def Obligations.TideAndSuppliesChangeByTheirOwnCommandsOnly : Prop :=
  ∀ (c : Instr) (s t : State), MovesTide c = false → exec c s = .next t →
    t.tide = s.tide ∧ (ChangesSupplies c = false →
      t.power.vaux = s.power.vaux ∧ t.power.pwrgood = s.power.pwrgood ∧ t.power.resetLow = s.power.resetLow ∧ t.power.perstLow = s.power.perstLow ∧
        t.power.therm = s.power.therm ∧ t.power.main = s.power.main)

/-- No command ever faults. From every state and with every operand a command answers a next state, but for those that can meet a case of undefined behaviour:
they stop by name in one of R540's cases and nowhere else (R10, R107, R208, R246, R261, R331, R343). -/
def Obligations.CommandsAnswerANextState : Prop :=
  (∀ (c : Instr) (s : State) (f : Fault), exec c s ≠ .fault f) ∧
  (∀ (c : Instr) (s : State), MeetsR540 c = false → ∃ t, exec c s = .next t) ∧
  (∀ (c : Instr) (s : State) (x : Refusal), exec c s = .refused x →
    ∃ case, x = .undefinedBehaviour case ∧ case ∈ ["R10", "R107", "R208", "R246", "R261", "R331", "R343"])

/-- R29: the 44-bit device address space is decoded as its table says: DRAM by stack and channel in the populated part of each channel window, scratchpads by core in
the populated part of each core window, the control window and the host window; every other address is unmapped. -/
def Obligations.DeviceAddressesDecodeAsTheTableSays : Prop :=
  (∀ st ch o, st < 16 → ch < 32 → o < 0x80000000 → region (st * 0x1000000000 + ch * 0x80000000 + o) = if o < 0x60000000 then .dram st ch else .unmapped) ∧
  (∀ i o, i < 8192 → o < 0x80000 → region (0x10000000000 + i * 0x80000 + o) = if o < 0x60000 then .scratch i else .unmapped) ∧
  (∀ o, o < 0x4000000 → region (0x20000000000 + o) = .control) ∧
  (∀ h, h < 0x80000000000 → region (0x80000000000 + h) = .host) ∧
  (∀ a, 0x10100000000 ≤ a → a < 0x20000000000 ∨ (0x20004000000 ≤ a ∧ a < 0x80000000000) → region a = .unmapped)

/-! ### The time exchange of forerunner mode -/

/-- Once SYNC_INTERVAL has passed, a child stamps t1 and sends TIME_REQ with its next ID on its ACTIVE parent port (R197, R198, R436).
A reply that has not come within one tick is a miss: the bound widens by 100 ns, and the sixteenth in a row sets SYNC_LOST and raises ALERT#
(R201).
Where the rules leave a point open it follows the model's own choices (logs 4, 46). -/
def Obligations.SyncExchangesStartAndAreMissed : Prop :=
  (∀ (phase : Nat) (s : State), s.power.main = true → s.forerunner = true → s.flag Reg.WHL_TIME_CTL_MASTER = false →
    256 * 2 ^ s.getF Reg.WHL_TIME_CTL_INTERVAL ≤ s.tide.sinceSync → ∃ t, exec (.syncExchange phase) s = .next t ∧
      t.tide.syncId = (s.tide.syncId + 1) % 256 ∧ t.tide.t1 = some (s.now * 1000 + max s.tide.phase phase) ∧ t.tide.sinceSync = 0 ∧
      t.tide.count = s.tide.count ∧
      (s.portState (s.getF Reg.WHL_TIME_CTL_PARENT) = 6 → ∃ f : Frame, f.ftype = 2 ∧ f.payload = [6, BitVec.ofNat 8 ((s.tide.syncId + 1) % 256)] ∧
        t.out = s.out ++ [.frame (s.getF Reg.WHL_TIME_CTL_PARENT) f]) ∧
      (s.portState (s.getF Reg.WHL_TIME_CTL_PARENT) ≠ 6 → t = { s with tide := t.tide }) ∧
      OnlyLink { s with tide := t.tide } t) ∧
  (∀ (phase t1 : Nat) (s : State), s.tide.t1 = some t1 → t1 + 1000 < s.now * 1000 + max s.tide.phase phase →
    ∃ t, exec (.syncMiss phase) s = .next t ∧ t.tide.t1 = none ∧ t.tide.misses = s.tide.misses + 1 ∧ t.tide.count = s.tide.count ∧
      t.getF Reg.WHL_SYNC_BOUND_VALUE = (s.getF Reg.WHL_SYNC_BOUND_VALUE + 100) % 2 ^ 32 ∧
      t.getF Reg.WHL_CNT_SYNC_MISS_COUNT = (s.getF Reg.WHL_CNT_SYNC_MISS_COUNT + 1) % 2 ^ 64 ∧
      (s.tide.misses = 15 → t.getF Reg.WHL_TIME_STATUS_SYNC_LOST = 1 ∧ t.alert = true ∧ t.events = s.events ++ [.syncLost]) ∧
      (s.tide.misses ≠ 15 → OnlyRegs [Reg.WHL_SYNC_BOUND_VALUE, Reg.WHL_CNT_SYNC_MISS_COUNT] { s with tide := t.tide } t))

/-- A parent in forerunner mode answers TIME_REQ with the ID, HOPS, LOCKED and its own stamps t2 and t3 (R198, R436); a child takes the TIME_RESP to
its own exchange that comes within one tick: OFFSET and DELAY are the halves of R198's sums (which way an odd sum rounds is free), HOPS is one more
than the parent's, the bound is that of R200, and an unlocked package steps its count by the offset while a locked one slews by an offset of up to
one tick (R199).
Where the rules leave a point open it follows the model's own choices (logs 32, 46, 47). -/
def Obligations.TimeRequestsAreAnsweredAndAnswersTaken : Prop :=
  ∀ (p : Nat) (f : Frame) (w : Codeword) (phase turn : Nat) (s : State), w.intact = true →
    ∀ r : State, r = AfterCodeword p w (s.atPhase phase) → r.portState p = 6 →
    (r.forerunner = true → ∃ t g, exec (.timeReq p f w phase turn) s = .next t ∧ (∃ l, t.out = r.out ++ l ++ [.frame p g]) ∧ g.ftype = 2 ∧
      g.payload = [7, BitVec.ofNat 8 (numAt f.payload 1 1), BitVec.ofNat 8 (r.getF Reg.WHL_TIME_STATUS_HOPS), BitVec.ofNat 8 (b2n r.locked)] ++
        List.replicate 4 0 ++ bytesLE 8 r.stamp ++ bytesLE 8 (r.stamp + turn) ∧ OnlyLink r t) ∧
    (∀ t1, r.tide.t1 = some t1 → r.isChild = true → p = r.getF Reg.WHL_TIME_CTL_PARENT → numAt f.payload 1 1 = r.tide.syncId → r.stamp ≤ t1 + 1000 →
      ∃ (t : State) (off delay : Int), exec (.timeResp p f w phase) s = .next t ∧
        (2 * off - (((numAt f.payload 8 8 : Int) - t1) - ((r.stamp : Int) - numAt f.payload 16 8))).natAbs ≤ 1 ∧
        (2 * delay - (((r.stamp : Int) - t1) - ((numAt f.payload 16 8 : Int) - numAt f.payload 8 8))).natAbs ≤ 1 ∧
        t.getF Reg.WHL_SYNC_OFFSET_VALUE = unsignedOf 32 off ∧ t.getF Reg.WHL_SYNC_DELAY_VALUE = unsignedOf 32 delay ∧
        t.getF Reg.WHL_CNT_SYNC_EXCH_COUNT = (r.getF Reg.WHL_CNT_SYNC_EXCH_COUNT + 1) % 2 ^ 64 ∧ t.tide.t1 = none ∧ t.tide.misses = 0 ∧
        t.getF Reg.WHL_TIME_STATUS_HOPS = min 15 (numAt f.payload 2 1 + 1) ∧
        t.getF Reg.WHL_SYNC_BOUND_VALUE = 250 + 150 * min 15 (numAt f.payload 2 1 + 1) ∧
        (r.flag Reg.WHL_TIME_STATUS_LOCKED = false → t.stamp = (((r.stamp : Int) + off) % ((2 ^ 48 * 1000 : Nat) : Int)).toNat) ∧
        (r.flag Reg.WHL_TIME_STATUS_LOCKED = true → off.natAbs ≤ 1000 → t.stamp = r.stamp ∧ t.tide.slew = off))

/-! ### Lane ports and the Ciolha Link -/

/-- A DATA frame on an ACTIVE port (R419, R423, R424). When its SEQ is the one expected it is accepted: the next SEQ is expected, and a packet that is
whole, unsealed, allowed, for this package and of the link's epoch enters its VC's receive buffer. An older frame changes neither. A later one asks for
a replay once a frame has been accepted.
Where the rules leave a point open it follows the model's own choices (log 71). -/
def Obligations.DataFramesAreAcceptedInOrder : Prop :=
  ∀ (p : Nat) (f : Frame) (w : Codeword) (s : State), w.intact = true → p < 16 → f.cvc < 16 → ∀ r : State, r = AfterCodeword p w s → r.portState p = 6 →
    (f.seq = (r.port p).rxSeq → ∀ (l : List Byte) (q : LanePkt) (rest : List Byte),
      l = SMap.get (fun _ => []) (r.port p).chunk f.vc ++ padTo 628 f.payload → l.head? ≠ some 0 → packetAt l = some (q, rest) → rest.head? = some 0 →
      roleAllows (r.portRole p) q.ptype = true → r.isCl2 p = false → q.dstPkg = r.pkgId → q.lepoch = r.getF (Reg.LNK_PORT_EPOCH_LINK_EPOCH p) →
      q.isSealed = false → ∃ t, exec (.dataFrame p f w) s = .next t ∧ (t.port p).rxSeq = ((r.port p).rxSeq + 1) % 4096 ∧
        (t.port p).ack = f.seq ∧ (t.port p).accepted = true ∧
        SMap.get (fun _ => []) (t.port p).rx f.vc = SMap.get (fun _ => []) (r.port p).rx f.vc ++ [q] ∧ OnlyLink r t) ∧
    (2048 ≤ (f.seq + 4096 - (r.port p).rxSeq) % 4096 → f.seq < 4096 → ∃ t, exec (.dataFrame p f w) s = .next t ∧
      (t.port p).rxSeq = (r.port p).rxSeq ∧ (t.port p).rx = (r.port p).rx ∧ (t.port p).ack = (r.port p).ack ∧ OnlyLink r t) ∧
    (f.seq ≠ (r.port p).rxSeq → (f.seq + 4096 - (r.port p).rxSeq) % 4096 < 2048 → (r.port p).accepted = true → ∃ t g,
      exec (.dataFrame p f w) s = .next t ∧ (t.port p).rxSeq = (r.port p).rxSeq ∧ (t.port p).rx = (r.port p).rx ∧ (t.port p).awaited = true ∧
      (∃ l, t.out = r.out ++ l ++ [.frame p g]) ∧ g.nak = true ∧ OnlyLink r t)

/-- The header of an IDLE or VC_STATUS frame on an ACTIVE port: what the peer has acknowledged leaves the replay buffer, NAK starts a replay of what is left,
CRED adds to the window of its VC, and then what waits in the streams may be sent (R409, R420, R423). VC_STATUS also gives the EMPTY bits and the ACK
they stand for (R425). A control frame that cannot be used is counted (R409).
Where the rules leave a point open it follows the model's own choices (log 71). -/
def Obligations.HeadersAcknowledgeAndGiveCredit : Prop :=
  ∀ (p : Nat) (f : Frame) (w : Codeword) (s : State), w.intact = true → p < 16 → ∀ r : State, r = AfterCodeword p w s →
    (∀ kept : List Frame, r.portState p = 6 → f.cvc < 16 →
      kept = (if f.ack = 0xFFF ∧ ¬ (r.port p).replay.any (fun g => g.seq == 0xFFF) then (r.port p).replay
        else State.dropBefore ((f.ack + 1) % 4096) (r.port p).replay) →
      (∃ u : State, exec (.idleFrame p f w) s = .next (u.pump p) ∧ OnlyLink r u ∧ (u.port p).replay = kept ∧
        u.getF (Reg.LNK_VC_STATE_WINDOW p f.cvc) = (r.getF (Reg.LNK_VC_STATE_WINDOW p f.cvc) + f.cred) % 2 ^ 15 ∧
        (f.nak = false → u.out = r.out ∧ RegsBut [Reg.LNK_VC_STATE_WINDOW p f.cvc, Reg.LNK_PORT_STATUS_RIP p] r u) ∧
        (f.nak = true → State.dropBefore ((f.ack + 1) % 4096) kept ≠ [] → u.getF (Reg.LNK_PORT_STATUS_RIP p) = 1 ∧
          u.getF (Reg.LNK_CNT_REPLAY_COUNT p) = (r.getF (Reg.LNK_CNT_REPLAY_COUNT p) + 1) % 2 ^ 64 ∧ u.out.length = r.out.length +
            (State.dropBefore ((f.ack + 1) % 4096) kept).length)) ∧
      (f.nak = false → (∀ v, SMap.get (fun _ => []) (r.port p).streams v = [] ∧ SMap.get (fun _ => []) (r.port p).going v = []) →
        ∃ t, exec (.idleFrame p f w) s = .next t ∧ (t.port p).replay = kept ∧
          t.getF (Reg.LNK_VC_STATE_WINDOW p f.cvc) = (r.getF (Reg.LNK_VC_STATE_WINDOW p f.cvc) + f.cred) % 2 ^ 15 ∧
          t = { r with ports := t.ports, regs := t.regs } ∧ RegsBut [Reg.LNK_VC_STATE_WINDOW p f.cvc, Reg.LNK_PORT_STATUS_RIP p] r t) ∧
      (r.isCl2 p = false → ∃ t, exec (.vcStatus p f w) s = .next t ∧ (t.port p).statAck = f.ack ∧ OnlyLink r t ∧
        (∀ v < 16, t.getF (Reg.LNK_VC_STATE_PEER_EMPTY p v) = b2n (bitOf (numAt f.payload 2 2) v)) ∧
        (f.nak = false → (∀ v, SMap.get (fun _ => []) (r.port p).streams v = [] ∧ SMap.get (fun _ => []) (r.port p).going v = []) →
          t.getF (Reg.LNK_VC_STATE_WINDOW p f.cvc) = (r.getF (Reg.LNK_VC_STATE_WINDOW p f.cvc) + f.cred) % 2 ^ 15 ∧ t.out = r.out))) ∧
    (∃ t, exec (.ctrlBad p w) s = .next t ∧ t.getF (Reg.LNK_CNT_CTRL_BAD_COUNT p) = (r.getF (Reg.LNK_CNT_CTRL_BAD_COUNT p) + 1) % 2 ^ 64 ∧
      OnlyRegs [Reg.LNK_CNT_CTRL_BAD_COUNT p] r t)

/-- CAPS and CREDIT_INIT (R423, R429). In NEGOTIATE a CAPS gives the peer's serial, port and package, and is answered with CAPS; an end that sees itself
becomes DISABLED with ERR 5 once both ends have been seen; while the peer has not seen this end, NEGOTIATE goes on. In CREDIT, CREDIT_INIT sets the initial
windows and the port becomes ACTIVE.
A REQ on an ACTIVE port is answered with REQ_ACK and adopted, unless this end leads with a request of its own, which it then says in LEADER; a REQ_ACK
to this end's request is adopted (R433). Adopting enters RETRAIN with everything kept, and counts.
Where the rules leave a point open it follows the model's own choices (log 4). -/
def Obligations.NegotiationAndWidthRequestsAreAnswered : Prop :=
  (∀ (p : Nat) (f : Frame) (w : Codeword) (s : State), w.intact = true → p < 16 → ∀ r : State, r = AfterCodeword p w s →
    (r.portState p = 4 → bitOf (numAt f.payload 2 1) 0 = false → bitOf (numAt f.payload 2 1) 2 = false → (r.port p).seenGot = false →
      ∃ t g, exec (.capsFrame p f w) s = .next t ∧ t.portState p = 4 ∧ t.out = r.out ++ [.frame p g] ∧ g.ftype = 2 ∧
        numAt g.payload 0 1 = 1 ∧ t.getF (Reg.LNK_PEER_SERIAL_SERIAL p) = numAt f.payload 8 8 ∧ OnlyLink r t) ∧
    (r.portState p = 4 → bitOf (numAt f.payload 2 1) 0 = false → bitOf (numAt f.payload 2 1) 2 = true → numAt f.payload 0x18 8 ≠ 0 →
      (r.port p).retrain = false → numAt f.payload 8 8 = r.getF Reg.MGT_PKG_SERIAL_SERIAL → numAt f.payload 0x10 1 = p →
      ∃ t, exec (.capsFrame p f w) s = .next t ∧ t.portState p = 0 ∧ t.getF (Reg.LNK_PORT_STATUS_ERR p) = 5 ∧ OnlyLink r t) ∧
    (r.portState p = 5 → ∃ t, exec (.creditInit p f w) s = .next t ∧ t.portState p = 6 ∧ t.getF (Reg.LNK_PORT_STATUS_FAILS p) = 0 ∧
      t.getF (Reg.LNK_PORT_STATUS_ERR p) = 0 ∧ (∀ v < 16, t.getF (Reg.LNK_VC_STATE_INIT p v) = numAt f.payload (2 + 2 * v) 2 % 2 ^ 15) ∧ OnlyLink r t)) ∧
  (∀ (p : Nat) (f : Frame) (w : Codeword) (s : State), w.intact = true → p < 16 → f.cvc < 16 → ∀ r : State, r = AfterCodeword p w s →
    r.portState p = 6 →
    ((r.port p).req.isSome = true → r.leads p = true → ∃ t, exec (.reqFrame p f w) s = .next t ∧ t.getF (Reg.LNK_PORT_STATUS_LEADER p) = 1 ∧
      t.portState p = 6 ∧ OnlyLink r t) ∧
    ((r.port p).req = none ∨ r.leads p = false → ∃ t g, exec (.reqFrame p f w) s = .next t ∧ t.portState p = 7 ∧ t.getF (Reg.LNK_PORT_STATUS_RIP p) = 1 ∧
      t.getF (Reg.LNK_CNT_RETRAIN_COUNT p) = (r.getF (Reg.LNK_CNT_RETRAIN_COUNT p) + 1) % 2 ^ 64 ∧ (∃ l, t.out = r.out ++ l ++ [.frame p g]) ∧
      g.ftype = 2 ∧ g.payload.head? = some 5 ∧ OnlyLink r t) ∧
    ((r.port p).req.isSome = true → ∃ t, exec (.reqAckFrame p f w) s = .next t ∧ t.portState p = 7 ∧ (t.port p).req = none ∧
      t.getF (Reg.LNK_CNT_RETRAIN_COUNT p) = (r.getF (Reg.LNK_CNT_RETRAIN_COUNT p) + 1) % 2 ^ 64 ∧
      (numAt f.payload 1 1 ≠ 0 → ∀ n < 8, bitOf (numAt f.payload 2 1) n = true → t.getF (Reg.LNK_LANE_STATUS_EXCLUDED (8 * p + n)) = 1) ∧
      OnlyLink r t))

/-- Training blocks (R426, R427, R434): the first one takes a port from DETECT to EQUALISE, in EQUALISE it shows whether its lane is
qualified, a port in RETRAIN goes back to EQUALISE with it, and on an ACTIVE port it means that the link is down.
Where the rules leave a point open it follows the model's own choices (log 4). -/
def Obligations.TrainingBlocksTrainOrTakeDown : Prop :=
  ∀ (p : Nat) (b : TrainBlock) (s : State), p < 16 → b.lane < 8 →
    ((s.portState p = 1 ∨ s.portState p = 2) → b.own = false → b.lane < 2 ^ s.getF (Reg.LNK_PORT_CFG_MAXW p) → ∃ t, exec (.trainingBlock p b) s = .next t ∧ t.portState p = 2 ∧
      t.getF (Reg.LNK_LANE_STATUS_QUALIFIED (8 * p + b.lane)) = 0 ∧ t = { s with ports := t.ports, regs := t.regs }) ∧
    ((s.portState p = 1 ∨ s.portState p = 2 ∨ s.portState p = 7) → (∃ n < 2 ^ s.getF (Reg.LNK_PORT_CFG_MAXW p), n ≠ b.lane ∧ n ∉ s.goodLanes p) →
      ∃ t, exec (.trainingBlock p b) s = .next t ∧ t.portState p = 2 ∧ t.getF (Reg.LNK_LANE_STATUS_QUALIFIED (8 * p + b.lane)) = b2n b.own ∧
        bitOf (t.port p).peerQual b.lane = b.qual ∧ t = { s with ports := t.ports, regs := t.regs }) ∧
    (s.portState p = 6 → ∃ t, exec (.trainingBlock p b) s = .next t ∧ t.portState p = 1 ∧ (t.port p).detected = true ∧
      t.getF (Reg.LNK_PORT_STATUS_WIDTH p) = 0)

/-- The timers and commands of a port. ACK_TIMEOUT replays from the oldest unacknowledged frame (R420) and NAK_REPEAT asks again (R419); REPLAY_BOUND,
LEAK_TIMER and REQ_TIMEOUT enter RETRAIN (R421, R425, R433); the limits of training fail the agreement, and the third failure in a row disables the port
(R431); EQUALISE's ends in ALIGN with a good lane (R426, R428);
RETRAIN_LIMIT, PORT_DOWN and PORT_RESET take the port down to DETECT (R434); PORT_ENABLE takes a DISABLED port there (R426); PORT_RETRAIN sends a REQ
(R433).
Where the rules leave a point open it follows the model's own choices (logs 4, 71, 72). -/
def Obligations.PortTimersAndCommandsActOnTheirPort : Prop :=
  ∀ (p v : Nat) (s : State), p < 16 → v < 16 →
    (∀ f rest, (s.port p).replay = f :: rest → s.portState p = 6 → ∃ t, exec (.ackTimeout p) s = .next t ∧
      t.getF (Reg.LNK_CNT_REPLAY_COUNT p) = (s.getF (Reg.LNK_CNT_REPLAY_COUNT p) + 1) % 2 ^ 64 ∧ t.getF (Reg.LNK_PORT_STATUS_RIP p) = 1 ∧
      (t.port p).replay = (s.port p).replay ∧ OnlyLink s t) ∧
    ((s.port p).awaited = true → s.portState p = 6 → ∃ t f, exec (.nakRepeat p) s = .next t ∧ t.out = s.out ++ [.frame p f] ∧ f.nak = true ∧
      f.ack = (s.port p).ack ∧ OnlyLink s t) ∧
    ((s.port p).replayTo.isSome = true → s.portState p = 6 → ∃ t, exec (.replayBound p) s = .next t ∧ t.portState p = 7 ∧
      t.getF (Reg.LNK_CNT_REPLAY_BOUND_COUNT p) = (s.getF (Reg.LNK_CNT_REPLAY_BOUND_COUNT p) + 1) % 2 ^ 64 ∧
      t = { s with ports := t.ports, regs := t.regs }) ∧
    (s.leaking p v = true → ∃ t, exec (.leakTimer p v) s = .next t ∧ t.portState p = 7 ∧
      t.getF (Reg.LNK_CNT_LEAK_RETRAIN_COUNT p) = (s.getF (Reg.LNK_CNT_LEAK_RETRAIN_COUNT p) + 1) % 2 ^ 64 ∧
      t = { s with ports := t.ports, regs := t.regs }) ∧
    ((s.port p).req.isSome = true → s.portState p = 6 → ∃ t, exec (.reqTimeout p) s = .next t ∧ t.portState p = 7 ∧
      t = { s with ports := t.ports, regs := t.regs }) ∧
    (s.portState p = 2 → s.goodLanes p ≠ [] → ∃ t, exec (.trainingLimit p) s = .next t ∧ t.portState p = 3 ∧
      t = { s with ports := t.ports, regs := t.regs }) ∧
    (((s.portState p = 2 ∧ s.goodLanes p = []) ∨ s.portState p = 3 ∨ s.portState p = 4 ∨ s.portState p = 5) →
      s.getF (Reg.LNK_PORT_STATUS_FAILS p) = 2 → ∃ t, exec (.trainingLimit p) s = .next t ∧ t.portState p = 0 ∧
      t.getF (Reg.LNK_PORT_STATUS_ERR p) = 1 ∧ t.alert = true) ∧
    (((s.portState p = 2 ∧ s.goodLanes p = []) ∨ s.portState p = 3 ∨ s.portState p = 4 ∨ s.portState p = 5) →
      s.getF (Reg.LNK_PORT_STATUS_FAILS p) < 2 → ∃ t,
      exec (.trainingLimit p) s = .next t ∧ t.portState p = 2 ∧
      t.getF (Reg.LNK_PORT_STATUS_FAILS p) = s.getF (Reg.LNK_PORT_STATUS_FAILS p) + 1 ∧ t = { s with ports := t.ports, regs := t.regs }) ∧
    ((s.port p).retrain = true → ∃ t, exec (.retrainLimit p) s = .next t ∧ t.portState p = 1 ∧ (t.port p).retrain = false) ∧
    (s.portState p = 0 → s.portRole p ≠ 0 → ∃ t, exec (.portEnable p) s = .next t ∧ t.portState p = 1 ∧
      t.getF (Reg.LNK_PORT_STATUS_FAILS p) = 0 ∧ t = { s with ports := t.ports, regs := t.regs }) ∧
    (s.portState p ≠ 0 → ∃ t, exec (.portReset p) s = .next t ∧ t.portState p = 1 ∧ (t.port p).fresh = true) ∧
    (s.portState p = 0 → ∃ t, exec (.portReset p) s = .next t ∧ (t.port p).fresh = true ∧
      t.getF (Reg.LNK_PORT_EPOCH_WIDTH_EPOCH p) = nextWidthEpoch (s.getF (Reg.LNK_PORT_EPOCH_WIDTH_EPOCH p)) ∧ t = { s with ports := t.ports, regs := t.regs }) ∧
    (s.portState p ≠ 0 → ∃ t, exec (.portDown p) s = .next t ∧ t.portState p = 1) ∧
    (s.portState p = 6 → ∃ t f, exec (.portRetrain p) s = .next t ∧ (t.port p).req = some (0, 0) ∧ t.out = s.out ++ [.frame p f] ∧ f.ftype = 2 ∧
      f.payload = [4, 0, 0] ∧ OnlyLink s t)

/-! ### The difference stream and the culverts -/

/-- EXPORT (R438). A record that its source has sent before is dropped and counted; any other for which the ring has room, whose place the VC's polder
owns and the weirs let pass is written unit by unit at TAIL, which moves past it. Nothing else in memory changes.
EXPORT_DRAIN (R437). A record under way on a lane is passed once every frame of its VC is acknowledged; a record at the HEAD of the ring that the
drain visits goes to the host ring when that is the target and has room, HEAD moves past it, and the drain goes to the next kiln; when a lane is the
target it goes out on it, and HEAD waits for the acknowledgement.
Where the rules leave a point open it follows the model's own choices (logs 33, 44, 45). -/
def Obligations.ExportRecordsAreWrittenAndDrained : Prop :=
  (∀ (p v : Nat) (q : LanePkt) (s : State), p < 16 → s.laneHead p v = some q → q.ptype = 0x30 →
    (s.exportSeen p q.payload = true → ∃ t, exec (.exportPkt p v) s = .next t ∧ t.mem = s.mem ∧
      t.getF (Reg.LNK_CNT_EXPORT_DUP_COUNT p) = (s.getF (Reg.LNK_CNT_EXPORT_DUP_COUNT p) + 1) % 2 ^ 64 ∧
      SMap.get (fun _ => []) (t.port p).rx v = (SMap.get (fun _ => []) (s.port p).rx v).tail ∧ OnlyLink s t) ∧
    (∀ n tail : Nat, n = ceilDiv q.payload.length 64 → tail = s.getF (Reg.LNK_SINK_IDX_TAIL p) → s.exportSeen p q.payload = false →
      State.ringUsed tail (s.getF (Reg.LNK_SINK_IDX_HEAD p)) + n ≤ s.sinkUnits p → s.ownsAddr (s.vcPolder p v) (s.sinkAddr p tail) = true →
      s.weirPass (s.vcPolder p v) writeShort (s.sinkAddr p tail) = true → ∃ t, exec (.exportPkt p v) s = .next t ∧
        t.getF (Reg.LNK_SINK_IDX_TAIL p) = (tail + n) % 2 ^ 32 ∧
        (∀ k < n, t.bytes (s.sinkAddr p (tail + k)) 64 = padTo 64 ((q.payload.drop (64 * k)).take 64)) ∧
        (∀ a, (∀ k < n, a < s.sinkAddr p (tail + k) ∨ s.sinkAddr p (tail + k) + 64 ≤ a) → Memory.read t.mem a = Memory.read s.mem a))) ∧
  (∀ (p : Nat) (s : State) (d : Drain), p < 8 → d = s.drainOf p → d.kiln < 16 →
    (∀ port v, d.lane = some (port, v) → (s.getF (Reg.LNK_EXPORT_CFG_TARGET p) = 1 ∨ s.getF (Reg.LNK_EXPORT_CFG_TARGET p) = 2) →
      s.vcQuiet port v = true → ∃ t, exec (.exportDrain p) s = .next t ∧
        t.exportHead d.kiln p = (s.exportHead d.kiln p + d.units) % s.exportUnits d.kiln p % 2 ^ 32 ∧ t.drainOf p = ⟨(d.kiln + 1) % 16, 0, none⟩ ∧
        OnlyRegs [Reg.KLN_EXPORT_IDX_HEAD d.kiln p] { s with drains := t.drains } t) ∧
    (∀ l, d.lane = none → s.getF (Reg.LNK_EXPORT_CFG_TARGET p) = 2 → s.exportHead d.kiln p ≠ s.exportTail d.kiln p →
      l = s.exportRecord d.kiln p → numAt l 0 1 ≠ 0x0F → s.ownsAddr p (s.exportAddr d.kiln p (s.exportHead d.kiln p)) = true →
      s.weirPass p readShort (s.exportAddr d.kiln p (s.exportHead d.kiln p)) = true → s.hostRoom (l.length / 64) = true →
      ∃ t, exec (.exportDrain p) s = .next t ∧ t.drainOf p = ⟨(d.kiln + 1) % 16, 0, none⟩ ∧
        t.getF Reg.LNK_EXPORT_HOST_IDX_TAIL = (s.getF Reg.LNK_EXPORT_HOST_IDX_TAIL + l.length / 64) % 2 ^ 32 ∧
        t.exportHead d.kiln p = (s.exportHead d.kiln p + l.length / 64) % s.exportUnits d.kiln p % 2 ^ 32) ∧
    (∀ l q v, d.lane = none → s.getF (Reg.LNK_EXPORT_CFG_TARGET p) = 1 → s.exportHead d.kiln p ≠ s.exportTail d.kiln p →
      l = s.exportRecord d.kiln p → numAt l 0 1 ≠ 0x0F → s.ownsAddr p (s.exportAddr d.kiln p (s.exportHead d.kiln p)) = true →
      s.weirPass p readShort (s.exportAddr d.kiln p (s.exportHead d.kiln p)) = true → q = s.getF (Reg.LNK_EXPORT_CFG_PORT p) →
      v = s.getF (Reg.LNK_EXPORT_CFG_VC p) → s.laneStatus q 0x30 = 0 →
      ∃ t u : State, exec (.exportDrain p) s = .next t ∧ u = s.meter p readShort (s.exportAddr d.kiln p (s.exportHead d.kiln p)) ∧
        t.drainOf p = ⟨d.kiln, l.length / 64, some (q, v)⟩ ∧ OnlyLink { u with drains := t.drains } t))

/-- Beats of an ACTIVE culvert (R441): an intact one with the number expected is taken; one whose CRC fails, or that comes out of order while no replay of its
direction is under way, asks for a replay, and recovery is in progress; out of order during a replay it is ignored. A replay not over within its bound makes the culvert RECOVERING (R443).
Where the rules leave a point open it follows the model's own choices (log 4). -/
def Obligations.CulvertBeatsAreTakenInOrder : Prop :=
  ∀ (c dir q : Nat) (last : Bool) (s : State), c < 8 → dir < 2 → s.culvState c = 2 →
    (q = s.nextBeat c dir → (s.culvert c).replays.contains dir = false ∨ last = false → ∃ t, exec (.culvertBeat c dir q true last) s = .next t ∧
      t.nextBeat c dir = (q + 1) % 1024 ∧ t.nextBeat c (1 - dir) = s.nextBeat c (1 - dir) ∧ t = { s with culverts := t.culverts }) ∧
    (q = s.nextBeat c dir → (s.culvert c).replays = [dir] → ∃ t, exec (.culvertBeat c dir q true true) s = .next t ∧
      t.nextBeat c dir = (q + 1) % 1024 ∧ (t.culvert c).replays = [] ∧ t.getF (Reg.LNK_CULV_STATUS_RIP c) = 0 ∧
      OnlyRegs [Reg.LNK_CULV_STATUS_RIP c] { s with culverts := t.culverts } t) ∧
    ((∃ t, exec (.culvertBeat c dir q false last) s = .next t ∧ dir ∈ (t.culvert c).replays ∧ t.getF (Reg.LNK_CULV_STATUS_RIP c) = 1 ∧
      t.getF (Reg.LNK_CNT_CULV_CRC_COUNT c) = (s.getF (Reg.LNK_CNT_CULV_CRC_COUNT c) + 1) % 2 ^ 64 ∧
      t.getF (Reg.LNK_CNT_CULV_REPLAY_COUNT c) = (s.getF (Reg.LNK_CNT_CULV_REPLAY_COUNT c) + 1) % 2 ^ 64)) ∧
    (q ≠ s.nextBeat c dir → (s.culvert c).replays.contains dir = false → ∃ t, exec (.culvertBeat c dir q true last) s = .next t ∧
      dir ∈ (t.culvert c).replays ∧ t.nextBeat c dir = s.nextBeat c dir ∧ t.getF (Reg.LNK_CULV_STATUS_RIP c) = 1) ∧
    (q ≠ s.nextBeat c dir → (s.culvert c).replays.contains dir = true → exec (.culvertBeat c dir q true last) s = .next s) ∧
    ((s.culvert c).replays ≠ [] → ∃ t, exec (.culvertReplayBound c) s = .next t ∧ t.culvState c = 3 ∧ (t.culvert c).replays = [] ∧
      t.getF (Reg.LNK_CNT_CULV_RETRAIN_COUNT c) = (s.getF (Reg.LNK_CNT_CULV_RETRAIN_COUNT c) + 1) % 2 ^ 64)

/-- Culverts in recovery and after it (R443 to R446). A recovery that has not ended in time leaves the culvert in QUARANTINE, reported and counted. REJOIN
trains a quarantined culvert that is not disabled and whose dies have their identity and clock. A training whose failing wires have spares at both
ends and whose wire epochs agree makes the culvert ACTIVE; one that fails counts towards three.
Where the rules leave a point open it follows the model's own choices (logs 12, 83). -/
def Obligations.CulvertsAreQuarantinedAndRejoin : Prop :=
  ∀ (c : Nat) (s : State), c < 8 →
    (s.culvState c = 3 → ∃ t, exec (.culvertRecoveryLimit c) s = .next t ∧ t.culvState c = 4 ∧ t.alert = true ∧ t.getF Reg.MGT_STATUS_DEGRADED = 1 ∧
      t.getF (Reg.LNK_CNT_CULV_QUAR_COUNT c) = (s.getF (Reg.LNK_CNT_CULV_QUAR_COUNT c) + 1) % 2 ^ 64) ∧
    (s.culvState c = 4 → s.flag (Reg.LNK_CULV_STATUS_DISABLED c) = false →
      (∀ x ∈ s.power.noClock, x.1 ≠ (State.culvEnds c).1 ∧ x.1 ≠ (State.culvEnds c).2) →
      s.getF (Reg.MGT_DIE_STATUS_ERR (State.culvEnds c).1) = 0 → s.getF (Reg.MGT_DIE_STATUS_ERR (State.culvEnds c).2) = 0 →
      ∃ t, exec (.rejoin c) s = .next t ∧ t.culvState c = 1 ∧ t.getF (Reg.LNK_CULV_STATUS_FAILS c) = 0 ∧ t = { s with regs := t.regs }) ∧
    (s.culvState c ≠ 4 ∨ s.flag (Reg.LNK_CULV_STATUS_DISABLED c) = true → exec (.rejoin c) s = .next s) ∧
    (∀ bad0 bad1 own recorded, (s.culvState c = 1 ∨ s.culvState c = 3) → s.power.starting = false → s.wireDiffer c own recorded = false → own < 256 →
      (bad0 ≤ State.culvSpares c → bad1 ≤ State.culvSpares c → ∃ t, exec (.culvertTrainingEnd c bad0 bad1 own recorded) s = .next t ∧
        t.culvState c = 2 ∧ t.getF (Reg.LNK_CULV_STATUS_SPARES_USED c) = bad0 + bad1 ∧ t.getF (Reg.LNK_CULV_STATUS_RIP c) = 0 ∧
        t.getF (Reg.LNK_CULV_STATUS_PEER_WIRE_EPOCH c) = own ∧ (t.culvert c).fresh = false) ∧
      (State.culvSpares c < bad0 → s.getF (Reg.LNK_CULV_STATUS_FAILS c) < 2 → ∃ t, exec (.culvertTrainingEnd c bad0 bad1 own recorded) s = .next t ∧
        t.culvState c = s.culvState c ∧ t.getF (Reg.LNK_CULV_STATUS_FAILS c) = s.getF (Reg.LNK_CULV_STATUS_FAILS c) + 1 ∧
        OnlyRegs [Reg.LNK_CULV_STATUS_FAILS c] s t)) ∧
    (∀ bad0 bad1 own recorded, s.culvState c = 1 → s.power.starting = true → s.wireDiffer c own recorded = false →
      bad0 ≤ State.culvSpares c → bad1 ≤ State.culvSpares c → (∀ d < 8, d ≠ c → s.culvState d = 2) →
      ∃ t, exec (.culvertTrainingEnd c bad0 bad1 own recorded) s = .next t ∧ t.power.main = true ∧ t.power.starting = false ∧
        t.getF Reg.MGT_STATUS_MAIN_UP = 1 ∧ t.getF Reg.CFG_STATUS_LOCKED = 1 ∧ t.slices = [] ∧ t.tags = [])

/-! ### Supplies, starts and resets -/

/-- VAUX (R515, R522, R548). When it becomes good, the always-on domain starts: the tide stands at 0, the straps are sampled, the life-cycle state and the
counter cells are shown; flash, counter cells and owner records hold what they held. When it is lost, only these do. When PWRGOOD falls, every
domain that VMAIN feeds is off, and RESET# stops the main side (R530).
Where the rules leave a point open it follows the model's own choices (log 2). -/
def Obligations.SuppliesComeAndGo : Prop :=
  ∀ s : State,
    (∀ sel addr, s.power.vaux = false → ∃ t, exec (.vauxGood sel addr) s = .next t ∧ t.power.vaux = true ∧ t.power.main = false ∧
      t.tide.count = 0 ∧ t.lands.sel = sel ∧ t.lands.addr = addr % 8 ∧ t.flash = s.flash ∧ t.rtp.fwSvn = s.rtp.fwSvn ∧ t.rtp.ownerA = s.rtp.ownerA ∧
      t.rtp.ownerB = s.rtp.ownerB ∧ t.cores = [] ∧ t.getF Reg.SEC_SVN_OWNER_GEN = s.rtp.ownerGen % 64 ∧
      (s.rtp.rma = true → t.getF Reg.SEC_STATUS_LC_STATE = 3)) ∧
    (∃ t, exec .vauxLoss s = .next t ∧ t.power.vaux = false ∧ t.power.main = false ∧ t.regs = [] ∧ t.cores = [] ∧ t.flash = s.flash ∧
      t.rtp.fwSvn = s.rtp.fwSvn ∧ t.rtp.revoke = s.rtp.revoke ∧ t.rtp.ownerGen = s.rtp.ownerGen ∧ t.rtp.rma = s.rtp.rma ∧
      ∀ a, a < 0x80000000000 → Memory.read t.mem a = 0) ∧
    (s.power.pwrgood = true → ∃ t, exec .pwrgoodFall s = .next t ∧ t.power.pwrgood = false ∧ t.power.main = false ∧
      t.getF Reg.MGT_STATUS_MAIN_UP = 0 ∧ ∀ d < 287, t.getF (Reg.PWR_DOM_ON d) = 0) ∧
    (s.power.vaux = true → s.power.resetLow = false → ∃ t, exec .resetAssert s = .next t ∧ t.power.resetLow = true ∧ t.power.main = false ∧
      t.getF Reg.MGT_STATUS_MAIN_UP = 0 ∧ ∀ c < 8, t.culvState c = 0)

/-- PWRGOOD_RISE, RESET_RELEASE, COLD_RESET and WARM_RESET start the main side (R515, R522, R530, R554), as far as R522 lets it come; while RESET# is
low a rise of PWRGOOD is only noted. A cold reset sets the tide to 0 and keeps flash and counter cells; a warm one keeps the tide.
Where the rules leave a point open it follows the model's own choices (logs 12, 81). -/
def Obligations.StartsAndWideResets : Prop :=
  ∀ (bs : List (Nat × List Byte)) (s : State), s.power.vaux = true → s.power.therm = false → s.flag Reg.SEC_STATUS_RECOVERY = false →
    (s.power.pwrgood = false → s.power.resetLow = false → ∃ t, exec (.pwrgoodRise bs) s = .next t ∧ t.power.pwrgood = true ∧ StartReaches t) ∧
    (s.power.pwrgood = false → s.power.resetLow = true → exec (.pwrgoodRise bs) s = .next { s with power := { s.power with pwrgood := true } }) ∧
    (s.power.pwrgood = true → s.power.resetLow = true → ∃ t, exec (.resetRelease bs) s = .next t ∧ t.power.resetLow = false ∧ StartReaches t) ∧
    (s.power.pwrgood = true → s.power.resetLow = false → ∃ t, exec (.coldReset bs) s = .next t ∧ t.tide.count = 0 ∧ t.rtp.fwSvn = s.rtp.fwSvn ∧
      t.cores = [] ∧ t.wheels = [] ∧ StartReaches t) ∧
    (s.power.pwrgood = true → s.power.resetLow = false → ∃ t, exec (.warmReset bs) s = .next t ∧ t.tide.count = s.tide.count ∧
      t.jobs = [] ∧ StartReaches t)

/-- Resets of a polder and of dies (R530 to R533). A polder reset stops its wheel, clears its telemetry and starts to wipe its channels. A die that
is reset, or whose clock returns, loses its tables; when its identity record differs from the one read at the start its ERR is 6, and otherwise its
culverts train where both their dies are sound. A die whose clock is lost is quarantined, its stacks are offline and the package is
degraded; a clock that does not return is reported once.
Where the rules leave a point open it follows the model's own choices (logs 12, 81, 83). -/
def Obligations.PolderAndDieResets : Prop :=
  ∀ s : State,
    (∀ p < 8, ∃ t, exec (.polderReset p) s = .next t ∧ t.wheel p = Wheel.empty ∧ (∀ k, k / 64 = p → SMap.get (fun _ => 0) t.tel k = 0) ∧
      (∀ k < 512, s.chanOwner (k / 32) (k % 32) = p → k ∈ t.wiping)) ∧
    (∀ d rec, d < 6 → s.power.main = true → s.power.noClock = [] → ∃ t, exec (.dieReset d rec) s = .next t ∧
      (d < 4 → ∀ k, k / 65536 = d → SMap.get (fun _ => 0) t.routes k = 0) ∧
      (rec.take 128 ≠ (SMap.get (fun _ => []) s.idents d).take 128 → t.getF (Reg.MGT_DIE_STATUS_ERR d) = 6 ∧ t.getF (Reg.MGT_DIE_STATUS_ID_OK d) = 0) ∧
      (rec.take 128 = (SMap.get (fun _ => []) s.idents d).take 128 → (∀ e < 6, t.getF (Reg.MGT_DIE_STATUS_ERR e) = 0) →
        ∀ c ∈ State.culvertsOf d, t.flag (Reg.LNK_CULV_STATUS_DISABLED c) = false → t.culvState c = 1)) ∧
    (∀ d, d < 6 → s.power.main = true → s.clockLost d = false → (∀ p < 8, s.usesDie p d = false) → ∃ t, exec (.dieClockLoss d) s = .next t ∧
      t.clockLost d = true ∧ t.getF (Reg.MGT_DIE_STATUS_QUARANTINE d) = 1 ∧ t.getF Reg.MGT_STATUS_DEGRADED = 1 ∧
      (d < 4 → ∀ m < 4, t.getF (Reg.MEM_STACK_STATUS_OFFLINE (4 * d + m)) = 1) ∧ ∀ c ∈ State.culvertsOf d, t.culvState c = 4) ∧
    (∀ d, d < 6 → s.power.main = true → s.clockLost d = false → ∃ t, exec (.dieClockLoss d) s = .next t ∧ t.clockLost d = true) ∧
    (∀ d rec n, d < 6 → s.power.main = true → (d, n) ∈ s.power.noClock → n < 100000 → ∃ t, exec (.dieClockReturn d rec) s = .next t ∧
      t.power.noClock = s.power.noClock.filter (fun x => x.1 ≠ d) ∧
      (rec.take 128 ≠ (SMap.get (fun _ => []) s.idents d).take 128 → t.getF (Reg.MGT_DIE_STATUS_ERR d) = 6) ∧
      (rec.take 128 = (SMap.get (fun _ => []) s.idents d).take 128 → (∀ e < 6, t.getF (Reg.MGT_DIE_STATUS_ERR e) = 0) →
        t.power.noClock = [] → ∀ c ∈ State.culvertsOf d, t.flag (Reg.LNK_CULV_STATUS_DISABLED c) = false → t.culvState c = 1)) ∧
    (∀ d, (d, 100000) ∈ s.power.noClock → ∃ t, exec (.dieClockTimeout d) s = .next t ∧ t.events = s.events ++ [.dieMissing d] ∧
      t.power.noClock = s.power.noClock.map (fun x => if x.1 = d then (d, 100001) else x) ∧ t = { s with events := t.events, power := t.power })

/-- Recovery (R534 to R537). Abandoning a step ends with nothing pending and the watchdog restarted; a restore asks for one and is reported; a watchdog
that expires while nothing is pending quiesces the step with cause 7, and while a cause is pending restores the polder.
Where the rules leave a point open it follows the model's own choices (logs 60, 69, 82). -/
def Obligations.RecoveryAbandonsAndRestores : Prop :=
  ∀ (p : Nat) (s : State), p < 8 →
    (∃ t, exec (.recovAbandon p) s = .next t ∧ t.getF (Reg.PWR_RECOV_STATUS_PENDING p) = 0 ∧ SMap.get (fun _ => 0) t.power.watch p = 0) ∧
    (∃ t, exec (.recovRestore p) s = .next t ∧ t.getF (Reg.PWR_RECOV_STATUS_RESTORE_NEEDED p) = 1 ∧ t.getF (Reg.PWR_RECOV_STATUS_PENDING p) = 0 ∧
      (∃ l, t.events = l ++ [.restore p]) ∧ (t.job p).active = false) ∧
    (s.watchTicks p ≠ 0 → s.watchTicks p ≤ SMap.get (fun _ => 0) s.power.watch p → s.flag (Reg.PWR_RECOV_STATUS_PENDING p) = false →
      ∃ t, exec (.watchdogExpiry p) s = .next t ∧ t.getF (Reg.PWR_RECOV_STATUS_PENDING p) = 1 ∧ t.getF (Reg.PWR_RECOV_STATUS_CAUSE p) = 7 ∧
        t.getF Reg.PWR_CNT_WDOG_COUNT = (s.getF Reg.PWR_CNT_WDOG_COUNT + 1) % 2 ^ 64 ∧ t.alert = true ∧ SMap.get (fun _ => 0) t.power.watch p = 0) ∧
    (s.watchTicks p ≠ 0 → s.watchTicks p ≤ SMap.get (fun _ => 0) s.power.watch p → s.flag (Reg.PWR_RECOV_STATUS_PENDING p) = true →
      ∃ t, exec (.watchdogExpiry p) s = .next t ∧ t.getF (Reg.PWR_RECOV_STATUS_RESTORE_NEEDED p) = 1 ∧ t.getF (Reg.PWR_RECOV_STATUS_PENDING p) = 0)

/-! ### The wheel -/

/-- WHEEL_RUN (R213, R224): a wheel whose tables or lock fail a check stays off with the code and detail of the first; one that passes starts its plan at the
next multiple of 100,000 when it is anchored and at the next tick when it is free; a wheel that runs goes on. WHEEL_STOP (R567): with no turn in progress,
or one that every core has left, the wheel stops at once; a turn in progress goes on to its end.
Where the rules leave a point open it follows the model's own choices (log 66). -/
def Obligations.WheelsRunAndStop : Prop :=
  ∀ (p : Nat) (s : State), p < 8 →
    (∀ e d, (s.wheel p).runs = false → s.wheelErr p = some (e, d) → ∃ t, exec (.wheelRun p) s = .next t ∧ t.getF (Reg.WHL_POLDER_CTL_RUN p) = 0 ∧
      t.getF (Reg.WHL_POLDER_STATUS_ERR p) = e % 16 ∧ t.getF (Reg.WHL_POLDER_STATUS_DETAIL p) = d % 2 ^ 14 ∧
      OnlyRegs [Reg.WHL_POLDER_CTL_RUN p, Reg.WHL_POLDER_STATUS_ERR p, Reg.WHL_POLDER_STATUS_DETAIL p] s t) ∧
    ((s.wheel p).runs = false → s.locked = false → ∃ t, exec (.wheelRun p) s = .next t ∧ t.getF (Reg.WHL_POLDER_STATUS_ERR p) = 4) ∧
    ((s.wheel p).runs = false → s.wheelErr p = none → ∃ t, exec (.wheelRun p) s = .next t ∧ t.getF (Reg.WHL_POLDER_CTL_RUN p) = 1 ∧
      t.getF (Reg.WHL_POLDER_STATUS_ERR p) = 0 ∧ (t.wheel p).runs = true ∧ (t.wheel p).turnOpen = false ∧ (t.wheel p).nextEntry = 0 ∧
      (t.wheel p).nextRep = 0 ∧
      (s.flag (Reg.WHL_POLDER_CTL_ANCHOR p) = true → (t.wheel p).nextStart % 100000 = 0 ∨ (t.wheel p).nextStart = 0) ∧
      (s.flag (Reg.WHL_POLDER_CTL_ANCHOR p) = true → s.now + 100000 < 2 ^ 48 → s.now < (t.wheel p).nextStart ∧ (t.wheel p).nextStart ≤ s.now + 100000) ∧
      (s.flag (Reg.WHL_POLDER_CTL_ANCHOR p) = false → (t.wheel p).nextStart = (s.now + 1) % 2 ^ 48) ∧
      (∀ q, q ≠ p → t.wheel q = s.wheel q) ∧ t = { s with regs := t.regs, wheels := t.wheels, weirs := t.weirs }) ∧
    ((s.wheel p).runs = true → ∃ t, exec (.wheelRun p) s = .next t ∧ t.getF (Reg.WHL_POLDER_CTL_RUN p) = 1 ∧ OnlyRegs [Reg.WHL_POLDER_CTL_RUN p] s t) ∧
    ((s.wheel p).runs = false → ∃ t, exec (.wheelStop p) s = .next t ∧ t.getF (Reg.WHL_POLDER_CTL_RUN p) = 0 ∧ OnlyRegs [Reg.WHL_POLDER_CTL_RUN p] s t) ∧
    ((s.wheel p).runs = true → (s.wheel p).turnOpen = true → s.turnOver p = true → ∃ t, exec (.wheelStop p) s = .next t ∧ t.wheel p = Wheel.empty) ∧
    ((s.wheel p).runs = true → (s.wheel p).turnOpen = false → ∃ t, exec (.wheelStop p) s = .next t ∧ t.wheel p = Wheel.empty) ∧
    ((s.wheel p).runs = true → (s.wheel p).turnOpen = true → s.turnOver p = false → ∃ t, exec (.wheelStop p) s = .next t ∧
      t.getF (Reg.WHL_POLDER_CTL_RUN p) = 0 ∧ OnlyRegs [Reg.WHL_POLDER_CTL_RUN p] s t)

/-- The data port of the tables (R210, R223). A read shows the word of the selected table at OFFSET, 0 beyond the table's end; a write replaces it while
the table is open, and either moves OFFSET on by 4. Every other word of every table stays. -/
def Obligations.TableWordsAreReadAndWrittenThroughThePort : Prop :=
  ∀ (s : State) (k u o : Nat) (v : Word), k = s.getF Reg.WHL_TBL_ADDR_TARGET → u = s.getF Reg.WHL_TBL_ADDR_UNIT →
    o = s.getF Reg.WHL_TBL_ADDR_OFFSET →
    (State.tableSize k ≤ o → (∃ t, exec .whlTblDataRead s = .next t ∧ t.getF Reg.WHL_TBL_DATA_DATA = 0 ∧ t.getF Reg.WHL_TBL_ADDR_OFFSET = (o + 4) % 2 ^ 20 ∧
        OnlyRegs [Reg.WHL_TBL_DATA_DATA, Reg.WHL_TBL_ADDR_OFFSET] s t) ∧
      ∃ t, exec (.whlTblDataWrite v) s = .next t ∧ OnlyRegs [Reg.WHL_TBL_ADDR_OFFSET] s t) ∧
    (o < State.tableSize k → ∃ t, exec .whlTblDataRead s = .next t ∧ t.getF Reg.WHL_TBL_DATA_DATA = (s.tableWord k u (o / 4)).toNat ∧
      t.getF Reg.WHL_TBL_ADDR_OFFSET = (o + 4) % 2 ^ 20 ∧ OnlyRegs [Reg.WHL_TBL_DATA_DATA, Reg.WHL_TBL_ADDR_OFFSET] s t) ∧
    (o < State.tableSize k → s.tableOpen k u = true → ∃ t, exec (.whlTblDataWrite v) s = .next t ∧ t.tableWord k u (o / 4) = v ∧
      t.getF Reg.WHL_TBL_ADDR_OFFSET = (o + 4) % 2 ^ 20 ∧ t.mem = s.mem ∧ RegsBut [Reg.WHL_TBL_ADDR_OFFSET] s t ∧
      ∀ k' u' o', k' < 4 → (k' < 2 → u' < 8192) → (2 ≤ k' → u' < 4) → o' < State.tableSize k' → (k', u', o' / 4) ≠ (k, (if k < 2 then u else u % 4), o / 4) →
        t.tableWord k' u' (o' / 4) = s.tableWord k' u' (o' / 4)) ∧
    (s.tableOpen k u = false → ∃ t, exec (.whlTblDataWrite v) s = .next t ∧ OnlyRegs [Reg.WHL_TBL_ADDR_OFFSET] s t)

/-- TURN_START (R213, R216, R219 to R221): a turn that every core has left, or that the guard has cut short, ends first. Where the next turn of the wheel may
then start, it is in progress: the turn registers show its number, its nominal and its actual start and its plan entry, the turn after it lies the entry's
length later (the next repetition, the next entry, or the plan's next period), the submission ring is due for a sample, and every member core, and every one that
rejoins, enters the turn at its first slot with no slot in progress. Where no turn may start, nothing else happens.
Where the rules leave a point open it follows the model's own choices (logs 4, 68). -/
def Obligations.TurnsStart : Prop :=
  ∀ (p : Nat) (s r : State) (w : Wheel) (e : PlanEntry), p < 8 → r = s.settleTurn p → w = r.wheel p → e = r.plan p w.nextEntry →
    ((s.wheel p).turnOpen = false → (s.wheel p).guarded = none → r = s) ∧
    (r.mayTurn p = false → exec (.turnStart p) s = .next r) ∧
    (r.mayTurn p = true → ∃ t, exec (.turnStart p) s = .next t ∧
      (t.wheel p).runs = true ∧ (t.wheel p).turnOpen = true ∧ (t.wheel p).guarded = none ∧ t.sq = 100 ∧
      (w.nextRep + 1 < e.rep →
        (t.wheel p).nextStart = (w.nextStart + e.len) % 2 ^ 48 ∧ (t.wheel p).nextEntry = w.nextEntry ∧ (t.wheel p).nextRep = w.nextRep + 1) ∧
      (e.rep ≤ w.nextRep + 1 → w.nextEntry + 1 < (r.planEntries p).length →
        (t.wheel p).nextStart = (w.nextStart + e.len) % 2 ^ 48 ∧ (t.wheel p).nextEntry = w.nextEntry + 1 ∧ (t.wheel p).nextRep = 0) ∧
      (e.rep ≤ w.nextRep + 1 → (r.planEntries p).length ≤ w.nextEntry + 1 →
        (t.wheel p).nextStart = (if r.flag (Reg.WHL_POLDER_CTL_ANCHOR p) then min ((w.nextStart / 100000 + 1) * 100000) (2 ^ 48) % 2 ^ 48
          else (w.nextStart + e.len) % 2 ^ 48) ∧ (t.wheel p).nextEntry = 0 ∧ (t.wheel p).nextRep = 0) ∧
      t.getF (Reg.WHL_TURN_VALUE p) = (r.getF (Reg.WHL_TURN_VALUE p) + 1) % 2 ^ 32 ∧
      t.getF (Reg.WHL_TURN_NOMINAL_VALUE p) = w.nextStart % 2 ^ 64 ∧ t.getF (Reg.WHL_TURN_START_VALUE p) = r.now ∧
      t.getF (Reg.WHL_POLDER_STATUS_RUNNING p) = 1 ∧
      t.getF (Reg.WHL_CNT_TURNS_COUNT p) = (r.getF (Reg.WHL_CNT_TURNS_COUNT p) + 1) % 2 ^ 64 ∧
      ∀ i ∈ r.coresOf p, (r.core i).wheel.outside = false ∨ (r.core i).wheel.rejoin = true →
        (t.core i).wheel.cur = none ∧ (t.core i).wheel.next = 0 ∧ (t.core i).wheel.outside = false)

/-- SLOT_START and SLOT_END (R208, R217, R218). A slot that is due starts: it is the one in progress and the next one follows it; then what waits for its
routes goes on. Two overlapping slots that own one resource, and a slot that owns a channel reserved to a media front-end (R261), are undefined behaviour. A slot that is done ends, its overrun counted in TREF cycles'
eighths of a tick, and with the last one the core's turn.
Where the rules leave a point open it follows the model's own choices (logs 4, 7). -/
def Obligations.SlotsStartAndEnd : Prop :=
  ∀ (i ph : Nat) (s r : State), r = s.atPhase ph →
    (r.slotDue i = true → r.slotClash (r.core i).polder i (r.core i).wheel.next = false → r.slotFetch (r.core i).polder i (r.core i).wheel.next = false →
      ∃ u : State, exec (.slotStart i ph) s = .next (((u.releaseRev i).markPulls i).allKilnWork (u.core i).polder) ∧
        (u.core i).wheel.cur = some (r.core i).wheel.next ∧ (u.core i).wheel.next = (r.core i).wheel.next + 1 ∧
        ((r.core i).wait = .slotStart → (r.core i).pc.toNat + 1 < 8192 → (u.core i).wait = .none ∧ (u.core i).pc = (r.core i).pc + 1) ∧
        ((r.core i).wait = .slotStart → (r.core i).pc.toNat = 8191 → (u.core i).faultCode = 3) ∧
        ((r.core i).wait ≠ .slotStart ∨ (r.core i).pc.toNat + 1 < 8192 → (u.core i).wheel.released = (r.core i).wheel.relAll ∧
          u = { r with cores := u.cores } ∧ ∀ j, j ≠ i → u.core j = r.core j)) ∧
    (r.slotDue i = true → r.slotClash (r.core i).polder i (r.core i).wheel.next = true →
      exec (.slotStart i ph) s = .refused (.undefinedBehaviour "R208")) ∧
    (r.slotDue i = true → r.slotClash (r.core i).polder i (r.core i).wheel.next = false → r.slotFetch (r.core i).polder i (r.core i).wheel.next = true →
      exec (.slotStart i ph) s = .refused (.undefinedBehaviour "R261")) ∧
    (r.slotDue i = false → exec (.slotStart i ph) s = .next r) ∧
    ((r.core i).wheel.cur = none → exec (.slotEnd i ph) s = .next r) ∧
    (∀ k, (r.core i).wheel.cur = some k → r.slotDone i k = false → exec (.slotEnd i ph) s = .next r) ∧
    (∀ k, (r.core i).wheel.cur = some k → r.slotDone i k = true → (r.core i).polder < 8 →
      ∃ u : State, exec (.slotEnd i ph) s = .next (u.closeTurn (r.core i).polder) ∧ (u.core i).wheel.cur = none ∧
        (u.core i).wheel.ended = decide ((r.core i).wheel.count ≤ (r.core i).wheel.next) ∧
        (0 < r.slotOver (r.core i).polder i k →
          u.getF (Reg.WHL_CNT_OVERRUN_COUNT (r.core i).polder) = (s.getF (Reg.WHL_CNT_OVERRUN_COUNT (r.core i).polder) + 1) % 2 ^ 64 ∧
          u.getF (Reg.WHL_CNT_OVERRUN_EIGHTHS_COUNT (r.core i).polder) =
            (s.getF (Reg.WHL_CNT_OVERRUN_EIGHTHS_COUNT (r.core i).polder) + ceilDiv (r.slotOver (r.core i).polder i k).toNat 125) % 2 ^ 64) ∧
        (r.slotOver (r.core i).polder i k ≤ 0 → u.regs = s.regs) ∧ (∀ j, j ≠ i → u.core j = r.core j))

/-- GUARD_EXPIRY (R220): a turn still in progress RT_GUARD ticks after the nominal start of a real-time entry's first turn is quiesced with cause 5 and
counted. SQ_SAMPLE (R221, R510, R511): the sample is counted and TAIL read from the ring's first tile; a descriptor of the form of R511 is taken in ring order
and waits behind one that its polder has in progress, and one of bad form is refused.
Where the rules leave a point open it follows the model's own choices (logs 4, 79). -/
def Obligations.GuardsExpireAndTheRingIsSampled : Prop :=
  ∀ s : State,
    (∀ p < 8, (s.wheel p).runs = true → (s.wheel p).turnOpen = true → (s.plan p (s.wheel p).nextEntry).guardT ≠ 0 → (s.wheel p).nextRep = 0 →
      (s.wheel p).guarded = none → s.turnOver p = false →
      ((s.plan p (s.wheel p).nextEntry).guardT : Int) ≤ wrapDiff 48 s.now (s.wheel p).nextStart → ∃ t, exec (.guardExpiry p) s = .next t ∧
        t.getF (Reg.WHL_CNT_GUARD_ABANDON_COUNT p) = (s.getF (Reg.WHL_CNT_GUARD_ABANDON_COUNT p) + 1) % 2 ^ 64 ∧
        t.getF (Reg.PWR_RECOV_STATUS_PENDING p) = 1 ∧ t.getF (Reg.PWR_RECOV_STATUS_CAUSE p) = 5 ∧ t.alert = true ∧
        (t.wheel p).guarded = some s.now ∧ (t.wheel p).runs = true) ∧
    (s.flag Reg.MGT_STATUS_MAIN_UP = true → s.flag Reg.MGT_SQ_CFG_ENABLE = true → 100 ≤ s.sq → ∃ t, exec .sqSample s = .next t ∧ t.sq = 0 ∧
      t.getF Reg.MGT_CNT_SAMPLES_COUNT = (s.getF Reg.MGT_CNT_SAMPLES_COUNT + 1) % 2 ^ 64) ∧
    (s.flag Reg.MGT_STATUS_MAIN_UP = true → s.flag Reg.MGT_SQ_CFG_ENABLE = true → 100 ≤ s.sq → s.owedCq = [] → s.cqRoom = true →
      ∀ (h : Nat) (d : List Byte), h = s.getF Reg.MGT_SQ_IDX_HEAD → d = s.descAt h →
      State.ringUsed (s.memNat (s.getF Reg.MGT_SQ_BASE_ADDR) 4) h = 1 →
      (jdOk (s.getF Reg.MGT_JD_VERSION_ALLOWED) d = true → s.takenOf (jdPolder d) = none → ∃ t, exec .sqSample s = .next t ∧
        t.takenOf (jdPolder d) = some ⟨d, h⟩ ∧ t.getF Reg.MGT_SQ_IDX_HEAD = (h + 1) % 2 ^ 32 ∧ t.sq = 0 ∧
        t.getF Reg.MGT_CNT_SAMPLES_COUNT = (s.getF Reg.MGT_CNT_SAMPLES_COUNT + 1) % 2 ^ 64 ∧
        (∀ a, a < s.getF Reg.MGT_SQ_BASE_ADDR + 4 ∨ s.getF Reg.MGT_SQ_BASE_ADDR + 8 ≤ a → Memory.read t.mem a = Memory.read s.mem a)) ∧
      (∀ x, jdOk (s.getF Reg.MGT_JD_VERSION_ALLOWED) d = true → s.takenOf (jdPolder d) = some x → ∃ t, exec .sqSample s = .next t ∧
        t.taken = s.taken ∧ t.lined = s.lined ++ [⟨d, h⟩] ∧ t.getF Reg.MGT_SQ_IDX_HEAD = (h + 1) % 2 ^ 32 ∧ t.sq = 0) ∧
      (jdOk (s.getF Reg.MGT_JD_VERSION_ALLOWED) d = false → ∃ t, exec .sqSample s = .next t ∧ t.sq = 0 ∧ t.taken = s.taken ∧
        t.getF Reg.MGT_SQ_IDX_HEAD = (h + 1) % 2 ^ 32 ∧ t.getF Reg.MGT_CNT_REFUSED_COUNT = (s.getF Reg.MGT_CNT_REFUSED_COUNT + 1) % 2 ^ 64))

/-! ### The sequencer -/

/-- R89: the arithmetic instructions write X[d], where d is not 0 (R87), and step to the next index; nothing else changes.
Where the rules leave a point open it follows the model's own choices (log 4). -/
def Obligations.ArithmeticInstructionsWriteTheirRegister : Prop :=
  ∀ (i : Nat) (s : State) (w : Word) (x y : DWord) (imm : BitVec 16),
    w = s.insAt i → x = (s.core i).getX (insA w) → y = (s.core i).getX (insB w) → imm = insImm w →
    ∀ op ins v, (op, ins, v) ∈ [(0x01, Instr.add, x + y), (0x02, Instr.sub, x - y), (0x03, Instr.mul, x * y), (0x04, Instr.andOp, x &&& y), (0x05, Instr.orOp, x ||| y),
      (0x06, Instr.xorOp, x ^^^ y), (0x07, Instr.shl, x <<< (y.toNat % 64)), (0x08, Instr.shr, x >>> (y.toNat % 64)),
      (0x09, Instr.sra, x.sshiftRight (y.toNat % 64)), (0x0A, Instr.slt, if x.toInt < y.toInt then 1 else 0),
      (0x0B, Instr.sltu, if x.toNat < y.toNat then 1 else 0), (0x10, Instr.addi, x + imm.signExtend 64), (0x11, Instr.andi, x &&& imm.zeroExtend 64),
      (0x12, Instr.ori, x ||| imm.zeroExtend 64), (0x13, Instr.xori, x ^^^ imm.zeroExtend 64), (0x14, Instr.shli, x <<< imm.toNat),
      (0x15, Instr.shri, x >>> imm.toNat), (0x16, Instr.lui, imm.signExtend 64 <<< 16)] →
    StandsAt s i op → ((s.core i).pc.toNat < 8191 → ∃ t, exec (ins i) s = .next t ∧ (t.core i).pc = (s.core i).pc + 1 ∧
      (∀ n, (t.core i).getX n = if n = insD w ∧ n ≠ 0 then v else (s.core i).getX n) ∧
      OneCore i { s.core i with x := (t.core i).x, pc := (t.core i).pc } s t) ∧
    ((s.core i).pc.toNat = 8191 → FaultsAs i ((s.core i).setX (insD w) v) 3 (exec (ins i) s) s)

/-- R87, R89, R90: loads read X[d] and stores write the data store at X[a] + sext(imm16), aligned to their size and below 0x4000; any other address is
fault 2. NOP only steps on. A store changes the bytes stored and no other.
Where the rules leave a point open it follows the model's own choices (log 4). -/
def Obligations.LoadsAndStoresReachTheDataStore : Prop :=
  ∀ (i : Nat) (s : State) (w : Word) (c : Core) (a : Nat), w = s.insAt i → c = s.core i → a = (c.getX (insA w) + (insImm w).signExtend 64).toNat →
    (StandsAt s i 0 → c.pc.toNat < 8191 → ∃ t, exec (.nop i) s = .next t ∧ OneCore i { c with pc := c.pc + 1 } s t) ∧
    (StandsAt s i 0 → c.pc.toNat = 8191 → Faults i 3 (exec (.nop i) s) s) ∧
    (∀ op n ins, (op, n, ins) ∈ [(0x18, 8, Instr.ld), (0x19, 4, Instr.ldw)] → StandsAt s i op →
      (a + n ≤ 0x4000 → a % n = 0 → c.pc.toNat < 8191 → ∃ t, exec (ins i) s = .next t ∧
        OneCore i { c.setX (insD w) (BitVec.ofNat 64 (numLE (c.dread a n))) with pc := c.pc + 1 } s t) ∧
      (a + n ≤ 0x4000 → a % n = 0 → c.pc.toNat = 8191 → FaultsAs i (c.setX (insD w) (BitVec.ofNat 64 (numLE (c.dread a n)))) 3 (exec (ins i) s) s) ∧
      (¬ (a + n ≤ 0x4000 ∧ a % n = 0) → Faults i 2 (exec (ins i) s) s)) ∧
    (∀ op n ins, (op, n, ins) ∈ [(0x1A, 8, Instr.st), (0x1B, 4, Instr.stw)] → StandsAt s i op →
      (a + n ≤ 0x4000 → a % n = 0 → c.pc.toNat < 8191 → ∃ t, exec (ins i) s = .next t ∧
        (t.core i).dread a n = bytesLE n ((c.getX (insD w)).toNat) ∧
        (∀ b, b < a ∨ a + n ≤ b → (t.core i).dread b 1 = c.dread b 1) ∧
        OneCore i { c with dstore := (t.core i).dstore, pc := c.pc + 1 } s t) ∧
      (a + n ≤ 0x4000 → a % n = 0 → c.pc.toNat = 8191 → FaultsAs i (c.dwrite a (bytesLE n (c.getX (insD w)).toNat)) 3 (exec (ins i) s) s) ∧
      (¬ (a + n ≤ 0x4000 ∧ a % n = 0) → Faults i 2 (exec (ins i) s) s))

/-- R89, R90: a branch taken, JAL and JR go to their target, and to fault 3 with no register written where it lies outside the store. A branch not taken
steps on. HALT stops the sequencer one index on. A pc never wraps: at index 8,191 a branch not taken and HALT run into fault 3.
R88, R89, R90: a reserved opcode, or an instruction with a bad field, is fault 1: RESERVED_OPCODE of the sequencer and every instruction alike. R140: SSTEP
executes one instruction of a halted sequencer under CORE_CTL.HALT, whatever it waits for: it does what the instruction does where the sequencer runs, and
leaves it halted; a reserved opcode or a bad field is fault 1, a misplaced access fault 2, a target outside the store fault 3.
Where the rules leave a point open it follows the model's own choices (logs 4, 15, 107). -/
def Obligations.BranchesHaltAndReservedOpcodesMoveThePc : Prop :=
  (∀ (i : Nat) (s : State) (w : Word) (c : Core) (x y : DWord) (g : Int), w = s.insAt i → c = s.core i → x = c.getX (insD w) → y = c.getX (insA w) →
    g = c.pc.toNat + (insImm w).toInt →
    (∀ op ins taken, (op, ins, taken) ∈ [(0x20, Instr.beq, decide (x = y)), (0x21, Instr.bne, decide (x ≠ y)), (0x22, Instr.blt, decide (x.toInt < y.toInt)),
        (0x23, Instr.bge, decide (y.toInt ≤ x.toInt))] → StandsAt s i op →
      (taken = false → c.pc.toNat < 8191 → ∃ t, exec (ins i) s = .next t ∧ OneCore i { c with pc := c.pc + 1 } s t) ∧
      (taken = false → c.pc.toNat = 8191 → Faults i 3 (exec (ins i) s) s) ∧
      (taken = true → 0 ≤ g → g ≤ 8191 → ∃ t, exec (ins i) s = .next t ∧ OneCore i { c with pc := BitVec.ofNat 13 g.toNat } s t) ∧
      (taken = true → (g < 0 ∨ 8191 < g) → Faults i 3 (exec (ins i) s) s)) ∧
    (StandsAt s i 0x24 → 0 ≤ g → g ≤ 8191 → ∃ t, exec (.jal i) s = .next t ∧
      OneCore i { c.setX (insD w) (BitVec.ofNat 64 (c.pc.toNat + 1)) with pc := BitVec.ofNat 13 g.toNat } s t) ∧
    (StandsAt s i 0x24 → (g < 0 ∨ 8191 < g) → Faults i 3 (exec (.jal i) s) s) ∧
    (StandsAt s i 0x25 → y.toNat ≤ 8191 → ∃ t, exec (.jr i) s = .next t ∧ OneCore i { c with pc := BitVec.ofNat 13 y.toNat } s t) ∧
    (StandsAt s i 0x25 → 8191 < y.toNat → Faults i 3 (exec (.jr i) s) s) ∧
    (StandsAt s i 0x3F → c.pc.toNat < 8191 → ∃ t, exec (.haltOp i) s = .next t ∧ OneCore i { c with pc := c.pc + 1, halted := true, haltReq := false } s t) ∧
    (StandsAt s i 0x3F → c.pc.toNat = 8191 → Faults i 3 (exec (.haltOp i) s) s)) ∧
  (∀ (i : Nat) (s : State), (s.core i).halted = false → s.notHeld i = true →
    ((∀ e ∈ SeqOps, e.1 ≠ insOp (s.insAt i)) → Faults i 1 (exec (.reservedSequencerOpcode i) s) s) ∧
    (∀ e ∈ SeqOps, e.1 = insOp (s.insAt i) → badField (s.insAt i) = true → Faults i 1 (exec (e.2 i) s) s)) ∧
  (∀ (i : Nat) (s : State) (w : Word) (c : Core), w = s.insAt i → c = s.core i →
    (c.flag Reg.CORE_CTL_HALT = false ∨ c.halted = false → exec (.sstep i) s = .next s) ∧
    (c.flag Reg.CORE_CTL_HALT = true → c.halted = true →
      (∀ e ∈ SeqOps, e.1 = insOp w → badField w = false → ∀ u, exec (e.2 i) (s.modCore i fun c => { c with halted := false, wait := .none }) = .next u →
        (u.core i).halted = false → ∃ t, exec (.sstep i) s = .next t ∧ t = { u with cores := t.cores } ∧ (∀ j, j ≠ i → t.core j = u.core j) ∧
          t.core i = { u.core i with halted := true, haltReq := c.haltReq, wait := (t.core i).wait }) ∧
      (insOp w = 0x3F → badField w = false → c.pc.toNat < 8191 → ∃ t, exec (.sstep i) s = .next t ∧
        OneCore i { c with pc := c.pc + 1, haltReq := false } s t) ∧
      ((∀ e ∈ SeqOps, e.1 ≠ insOp w) ∨ badField w = true → Faults i 1 (exec (.sstep i) s) s) ∧
      (∀ a n, a = (c.getX (insA w) + (insImm w).signExtend 64).toNat → (insOp w, n) ∈ [(0x18, 8), (0x19, 4), (0x1A, 8), (0x1B, 4)] →
        ¬ (a + n ≤ 0x4000 ∧ a % n = 0) → Faults i 2 (exec (.sstep i) s) s) ∧
      (insOp w = 0x25 → badField w = false → 8191 < (c.getX (insA w)).toNat → Faults i 3 (exec (.sstep i) s) s)))

/-- R89, R91, R95 to R101: the instructions that make and await commands. CMDW fills a word of the buffer; ISSUE puts the buffer in its engine's queue under the
next number, a VEXT behind its VSTREAM under that one's; it stalls while a list dispatches or the queue is full, and where the queue rules of R107 or R246 are
broken the behaviour is undefined. LIST checks its header, starts its list and answers its first number, or leaves a record and answers all ones. WAITC, POLLC
and FENCE ask what is complete; WAITS releases the slot; RDT reads an item.
Where the rules leave a point open it follows the model's own choices (logs 4, 57, 106). -/
def Obligations.CommandInstructionsQueueAndWait : Prop :=
  ∀ (i : Nat) (s : State) (w : Word) (c : Core) (x : DWord), w = s.insAt i → c = s.core i → x = c.getX (insA w) → c.pc.toNat < 8191 →
    (StandsAt s i 0x30 → ∃ t, exec (.cmdw i) s = .next t ∧
      OneCore i { c with cbuf := SMap.set (fun _ => 0) c.cbuf (insD w) x, pc := c.pc + 1 } s t) ∧
    (∀ v, v = c.cmdBuffer → StandsAt s i 0x31 →
      (c.list.isSome = true → ∃ t, exec (.issue i) s = .next t ∧ OneCore i c s t) ∧
      (c.list = none → c.queueFull v = true → ∃ t, exec (.issue i) s = .next t ∧ OneCore i { c with page := (t.core i).page } s t) ∧
      (c.list = none → c.queueFull v = false →
        (∀ k m, c.push false v = .ok k m → ∃ t, exec (.issue i) s = .next t ∧ OneCore i { k.setX (insD w) (m.zeroExtend 64) with pc := c.pc + 1 } s t) ∧
        (∀ y, c.push false v = .undef y → exec (.issue i) s = .refused (.undefinedBehaviour y)) ∧
        (c.extWait = false → opcodeOf v ∉ [0x10, 0x11, 0x12, 0x20, 0x22] → Core.tagsOk c.ftqTags = true → ∃ t, exec (.issue i) s = .next t ∧
          OneCore i { (c.withCommand ⟨BitVec.ofNat 512 (setBits v.toNat 31 16 c.nextSeq.toNat), c.nextSeq, false, false, none, false⟩).setX (insD w)
            (c.nextSeq.zeroExtend 64) with pc := c.pc + 1 } s t) ∧
        (opcodeOf v = 0x10 → c.matwOpen = true → exec (.issue i) s = .refused (.undefinedBehaviour "R246")) ∧
        (opcodeOf v = 0x10 → c.matwOpen = false → c.extWait = false → cmdLast v = true → v.u8 4 ∈ c.ftqTags ∨ 8 ≤ c.ftqTags.length →
          exec (.issue i) s = .refused (.undefinedBehaviour "R107")))) ∧
    (∀ k m v, c.push false v = .ok k m → c.extWait = false → m = c.nextSeq ∧ k.nextSeq = c.nextSeq + 1 ∧
      k.queued = c.queued ++ [⟨BitVec.ofNat 512 (setBits v.toNat 31 16 c.nextSeq.toNat), c.nextSeq, false, false, none, false⟩] ∧
      k = { c with queued := k.queued, nextSeq := k.nextSeq, ftqTags := k.ftqTags, extWait := k.extWait, extTags := k.extTags, matwOpen := k.matwOpen }) ∧
    (∀ k m v q, c.push false v = .ok k m → c.extWait = true → opcodeOf v = 0x22 → c.lastVector = some q → m = q.seq ∧ k.nextSeq = c.nextSeq ∧
      k.extWait = false ∧ k.queued = c.queued ++ [⟨v, q.seq, false, true, none, false⟩]) ∧
    (StandsAt s i 0x32 → c.list.isSome = true → ∃ t, exec (.listCmd i) s = .next t ∧ OneCore i c s t) ∧
    (StandsAt s i 0x32 → c.list = none → 191 < x.toNat → c.ringFull = false → ∃ t, exec (.listCmd i) s = .next t ∧
      OneCore i { (c.listRecord (s.seqEnv i) 0x1005 0).setX (insD w) (BitVec.allOnes 64) with pc := c.pc + 1 } s t) ∧
    (∀ h n v d, h = s.spTile i x.toNat → n = numAt h.data 6 2 → v = numAt h.data 4 1 → d = numAt h.data 8 4 → StandsAt s i 0x32 → c.list = none →
      x.toNat ≤ 191 →
      (s.tilePending i x.toNat = true → ∃ t, exec (.listCmd i) s = .next t ∧ OneCore i c s t) ∧
      (s.tilePending i x.toNat = false → h.ok = false → c.ringFull = false → ∃ u t, exec (.listCmd i) s = .next t ∧
        t = { State.glazeFail i x.toNat 3 u with free := t.free } ∧
        OneCore i { (c.listRecord (s.seqEnv i) 0x1003 d).setX (insD w) (BitVec.allOnes 64) with pc := c.pc + 1 } s u) ∧
      (s.tilePending i x.toNat = false → h.ok = true → numAt h.data 0 4 ≠ 0x4C435142 ∨ n = 0 ∨ 1023 < n → c.ringFull = false →
        ∃ t, exec (.listCmd i) s = .next t ∧
          OneCore i { (c.listRecord (s.seqEnv i) 0x1005 d).setX (insD w) (BitVec.allOnes 64) with pc := c.pc + 1 } s t) ∧
      (s.tilePending i x.toNat = false → h.ok = true → numAt h.data 0 4 = 0x4C435142 → 1 ≤ n → n ≤ 1023 →
        (v ≠ 2 ∧ v ≠ 3 ∨ bitOf (c.getF Reg.CORE_CL_VERSION_ALLOWED) v = false → c.ringFull = false → ∃ t, exec (.listCmd i) s = .next t ∧
          OneCore i { (c.listRecord (s.seqEnv i) 0x1002 d).setX (insD w) (BitVec.allOnes 64) with pc := c.pc + 1 } s t) ∧
        (v = 2 ∨ v = 3 → bitOf (c.getF Reg.CORE_CL_VERSION_ALLOWED) v = true → ∀ l, l = { c with list := some ⟨x.toNat, 1, n, v = 2, d⟩ } →
          (∀ k, Core.dispatchList (s.seqEnv i) 1024 l = .ok k none → ∃ t, exec (.listCmd i) s = .next t ∧
            OneCore i { k.setX (insD w) (c.nextSeq.zeroExtend 64) with pc := c.pc + 1 } s t) ∧
          (∀ y, Core.dispatchList (s.seqEnv i) 1024 l = .undef y → exec (.listCmd i) s = .refused (.undefinedBehaviour y)) ∧
          (c.queueFull (listEntry h 1) = true → Core.dispatchList (s.seqEnv i) 1024 l = .ok l none) ∧
          (∀ k m, c.queueFull (listEntry h 1) = false → l.push (v = 2) (listEntry h 1) = .ok k m → n = 1 →
            Core.dispatchList (s.seqEnv i) 1024 l = .ok { k with list := none } none)))) ∧
    (StandsAt s i 0x33 → ∃ t, exec (.waitc i) s = .next t ∧
      OneCore i (if c.seqComplete (BitVec.ofNat 16 x.toNat) then { c with wait := .none, pc := c.pc + 1 } else { c with wait := .waitc }) s t) ∧
    (StandsAt s i 0x34 → ∃ t, exec (.pollc i) s = .next t ∧
      OneCore i { c.setX (insD w) (if c.seqComplete (BitVec.ofNat 16 x.toNat) then 1 else 0) with pc := c.pc + 1 } s t) ∧
    (StandsAt s i 0x35 → ∃ t, exec (.fence i) s = .next t ∧
      OneCore i (if c.queued = [] ∧ c.sb = [] ∧ c.list = none then { c with wait := .none, pc := c.pc + 1 } else { c with wait := .fence }) s t) ∧
    (StandsAt s i 0x36 → insImm w = 0 → ∃ t, exec (.waits i) s = .next t ∧
      OneCore i { c with wait := .slotStart, wheel := { c.wheel with released := true } } s t) ∧
    (StandsAt s i 0x36 → insImm w = 1 → ∃ t, exec (.waits i) s = .next t ∧
      OneCore i { c with wait := .turnStart, wheel := { c.wheel with released := true, relAll := true } } s t) ∧
    (∀ v, (insImm w, v) ∈ [(0#16, s.now), (2#16, s.getF (Reg.WHL_TURN_VALUE c.polder) % 2 ^ 32), (3#16, i), (4#16, (s.job c.polder).step), (5#16, c.tail),
        (6#16, (c.sb.filter fun e => e.flight.isSome).length)] ∨ (insImm w = 1#16 ∧ ∃ k, c.wheel.cur = some k ∧ v = c.wheel.first + k) →
      StandsAt s i 0x37 → ∃ t, exec (.rdt i) s = .next t ∧ OneCore i { c.setX (insD w) (BitVec.ofNat 64 v) with pc := c.pc + 1 } s t) ∧
    (StandsAt s i 0x37 → insImm w = 1 → c.wheel.cur = none → ∃ t v, exec (.rdt i) s = .next t ∧ OneCore i { c.setX (insD w) v with pc := c.pc + 1 } s t)

/-! ### The scoreboard and the engines -/

/-- R102: the oldest command of the queues enters the scoreboard while it has an entry free, a VSTREAM with its extension; a dispatching list goes on behind it
(R99). R95: a reserved opcode does nothing and ends with CORE_E_BADOP. R104, R105, R110, R111, R115: a command whose work is done completes, of the matrix and
vector engines only the oldest: its tiles and finished tiles are placed, a LAST command closes its banks, a record is written where R110 asks for one, and the
matrix engine takes up its next command. It waits while its finished tiles or its record find no room. Two finished tiles of one tag are undefined (R107).
Where the rules leave a point open it follows the model's own choices (logs 4, 5, 62, 100). -/
def Obligations.CommandsAreAcceptedAndComplete : Prop :=
  ∀ (i : Nat) (s : State) (c : Core), c = s.core i →
    (∀ q, c.list = none → c.acceptable = some q → c.sb.length < 64 → ∃ t, exec (.scoreboardAccept i) s = .next t ∧
      OneCore i { c with queued := c.queued.filter (fun x => x.seq ≠ q.seq), sb := c.sb ++ [⟨{ q with ext := c.extOf q }, none⟩] } s t) ∧
    (c.list = none → c.acceptable = none ∨ 64 ≤ c.sb.length → ∃ t, exec (.scoreboardAccept i) s = .next t ∧ OneCore i c s t) ∧
    (∀ (u : State) (k : Core), u = s.modCore i Core.accept → k = u.core i →
      (∀ l, Core.dispatchList (u.dispatchEnv i) 1024 k = .ok l none → ∃ t, exec (.scoreboardAccept i) s = .next t ∧
        OneCore i { l with page := (t.core i).page } s t) ∧
      (∀ l b, Core.dispatchList (u.dispatchEnv i) 1024 k = .ok l (some b) → ∃ v : State, exec (.scoreboardAccept i) s = .next (v.glazeFail i b 3) ∧
        OneCore i l s v) ∧
      (∀ y, Core.dispatchList (u.dispatchEnv i) 1024 k = .undef y → exec (.scoreboardAccept i) s = .refused (.undefinedBehaviour y))) ∧
    (∀ e, s.nextIssue i = some e → opcodeListed e.q.v2 (opcodeOf e.q.cmd) = false → ∃ t, exec (.reservedOpcode i e.q.seq.toNat) s = .next t ∧
      InFlight t i e.q.seq (Ended 0x1001) ∧ OnlyCore i s t) ∧
    (∀ (e : SbEntry) (f : Flight) (n : Nat) (left : List Finished), c.sb.find? (fun e => e.q.seq.toNat == n) = some e → e.flight = some f →
      left = f.ftq.drop (8 - c.ftq.length) →
      (f.fin = false ∨ ((engineOf e.q.cmd = .matrix ∨ engineOf e.q.cmd = .vector) ∧ State.engineFirst c e = false) →
        exec (.commandCompletion i n) s = .next s) ∧
      (f.fin = true → (engineOf e.q.cmd = .matrix ∨ engineOf e.q.cmd = .vector → State.engineFirst c e = true) →
        ((∃ x ∈ f.ftq, ∃ y ∈ c.ftq, y.tag = x.tag) → exec (.commandCompletion i n) s = .refused (.undefinedBehaviour "R107")) ∧
        ((∀ x ∈ f.ftq, ∀ y ∈ c.ftq, y.tag ≠ x.tag) →
          (left ≠ [] ∨ (needsRecord e.q.cmd f.status = true ∧ c.ringFull = true) → ∃ t, exec (.commandCompletion i n) s = .next t ∧
            (t.core i).ftq = c.ftq ++ f.ftq.take (8 - c.ftq.length) ∧ InFlight t i e.q.seq { f with ftq := left } ∧
            OneCore i { c with page := (t.core i).page, ftq := (t.core i).ftq, sb := (t.core i).sb } s t) ∧
          (left = [] → needsRecord e.q.cmd f.status = false ∨ c.ringFull = false → ∃ u : State,
            exec (.commandCompletion i n) s = .next (if engineOf e.q.cmd = .matrix then u.resumeMatrix i else u) ∧
            (u.core i).sb = c.sb.filter (fun x => x.q.seq ≠ e.q.seq) ∧ (u.core i).ftq = c.ftq ++ f.ftq ∧
            (∀ b, (u.core i).bank b = if e.q.op ∈ [0x10, 0x11] ∧ cmdLast e.q.cmd = true ∧ b ∈ State.banksOf e.q then Bank.empty else c.bank b) ∧
            (u.core i).getF Reg.CORE_CNT_COMPLETED_COUNT = (c.getF Reg.CORE_CNT_COMPLETED_COUNT + 1) % 2 ^ 64 ∧
            (needsRecord e.q.cmd f.status = true → (u.core i).tail = (c.tail + 1) % 256 ∧
              (c.tail < 256 → (u.core i).dread (16 * c.tail) 16 = recordBytes e.q.seq.toNat (opcodeOf e.q.cmd) f.sat f.replays f.status f.fscale
                (e.q.cmd.u8 4) f.count s.now)) ∧
            (needsRecord e.q.cmd f.status = false → (u.core i).tail = c.tail ∧ (u.core i).dstore = c.dstore) ∧
            (∀ a, (∀ w ∈ f.writes, a < tileAddr i w.idx ∨ tileAddr i w.idx + 2048 ≤ a) → Memory.read u.mem a = Memory.read s.mem a) ∧
            (∀ w, f.writes = [w] → w.tile.data.length = 2048 → u.spTile i w.idx = w.tile ∧ (u.core i).attr (w.idx % 192) = ⟨w.isSealed, w.origin⟩) ∧
            (u.core i).x = c.x ∧ (u.core i).pc = c.pc ∧ ∀ j, j ≠ i → u.core j = s.core j))))

/-- MATMUL, MATW, MDUMP (R54 to R62, R105, R110, R113 to R116, R136, R240 to R246, R569): a product issues, its scale records read where it starts a chain; it
waits for the commands issued before it. Its banks then hold the replay loop's pairs, which LAST hands over as finished tiles. One refused, of a discarded
chain, or with a bad tile discards its chain. MDUMP shows a bank in debug mode. Reserved fields are undefined behaviour.
Where the rules leave a point open it follows the model's own choices (logs 9, 10, 62). -/
def Obligations.MatrixCommandsMultiplyIntoTheirBanks : Prop :=
  ∀ (i n : Nat) (s u v : State) (e : SbEntry) (w : CmdWord) (k : Core) (st : Nat), w = e.q.cmd → k = s.core i →
    (∀ (op : Nat) (ins : Nat → Nat → Instr) (bs : List Nat) (prods : Nat → Nat → Nat → List FV) (ab : List (OpTile × OpTile)) (k0 : Bank) (carry : Bool)
      (bad : Option Nat) (gone : Nat → Nat → Bank),
      st = s.matrixStatus i e →
      u = (if st = 0x3002 then s.dikeFail 0 k.polder (if s.srecStatus i (w.u64 0x10) = 0x3002 then w.u64 0x10 else w.u64 0x18)
        else if st = 0 ∧ sigmaAutoSet e.q.v2 w = true ∧ s.carries i e = false then s.srecMeter i [w.u64 0x10, w.u64 0x18] else s) →
      v = u.launch i e { Flight.start with status := st } →
      ab = ((mmTilesA w).map (v.opTile i (mmFmtA w))).zip ((mmTilesB w).map (v.opTile i (mmFmtB w))) →
      (op = 0x10 ∧ ins = Instr.matmul ∧ bs = [mmBank w] ∧ mmReserved e.q.v2 w = false ∧
        prods = (fun _ a b => ab.flatMap (pairProducts (mmFmtA w) (mmFmtB w) (mmTransB w) a b)) ∨
       op = 0x11 ∧ ins = Instr.matw ∧ bs = [0, 1, 2, 3] ∧ mwReserved w = false ∧
        prods = (fun r a b => (ab.zip (List.range ab.length)).flatMap fun p =>
          if winogradC r (p.2 % 16) = 0 then [] else if winogradC r (p.2 % 16) = 1 then pairProducts (mmFmtA w) (mmFmtB w) true a b p.1
          else (pairProducts (mmFmtA w) (mmFmtB w) true a b p.1).map FV.neg)) →
      k0 = k.bank (bs.headD 0) → carry = (cmdChain w && k0.isOpen) →
      bad = v.firstBad i ((mmTilesA w).flatMap (v.verified i (mmFmtA w)) ++ (mmTilesB w).flatMap (v.verified i (mmFmtB w))) →
      gone = (fun code b => { Bank.empty with isOpen := true, failed := code, isSealed := (k.bank b).isSealed && (k.bank b).isOpen && cmdChain w }) →
      s.issuing i n op = some e →
      (∀ a, s.matrixHeld i e = some a → exec (ins i n) s = .next (s.weirHold k.polder a)) ∧
      (s.matrixHeld i e = none → State.matrixBusy k = true → exec (ins i n) s = .next v ∧ InFlight v i e.q.seq { Flight.start with status := st } ∧
        OnlyCore i u v) ∧
      (s.matrixHeld i e = none → State.matrixBusy k = false →
        (∀ x, x = (if carry = true ∧ k0.failed ≠ 0 then k0.failed else st) → x ≠ 0 → ∃ t, exec (ins i n) s = .next t ∧ InFlight t i e.q.seq (Ended x) ∧
          (∀ b ∈ bs, (t.core i).bank b = gone x b) ∧ OnlyCore i u t) ∧
        (¬ (carry = true ∧ k0.failed ≠ 0) → st = 0 →
          (∀ b, bad = some b → ∃ x : State, exec (ins i n) s = .next (x.glazeFail i b 0) ∧ InFlight x i e.q.seq (Ended 0x1003) ∧
            (∀ b ∈ bs, (x.core i).bank b = gone 0x1003 b) ∧ OnlyCore i u x) ∧
          (∀ ps sg rp d sealed, bad = none →
            replayLoop (replayLimit e.q.v2 w) (bs.map prods) 4 (if carry then k0.sigma else v.startSigma e.q.v2 w (State.chainK w))
              (if carry then k0.replays else 0) (bs.map fun b => if carry then (k.bank b).pairs else List.replicate 1024 AccPair.zero) 0 = (ps, sg, rp, d) →
            sealed = (carry && k0.isSealed || (s.entryReads e).any fun t => (k.attr t).isSealed) →
            ∃ t f, exec (ins i n) s = .next t ∧ InFlight t i e.q.seq f ∧ f.fin = true ∧ f.status = 0 ∧ f.writes = [] ∧
              (∀ p ∈ bs.zip ps, (t.core i).bank p.1 = ⟨true, p.2, sg, rp, sealed, 0⟩) ∧
              (cmdLast w = false → f.ftq = [] ∧ f.sat = false ∧ f.replays = 0 ∧ f.fscale = 0) ∧
              (cmdLast w = true → f.replays = rp ∧ f.fscale = sg ∧
                f.ftq = (bs.zip ps).map fun p => ⟨(w.u8 4 + p.1 - bs.headD 0) % 256, p.2, sg, rp, anyClamped p.2, sealed⟩) ∧
              OnlyCore i u t)))) ∧
    (s.issuing i n 0x10 = some e → mmReserved e.q.v2 w = true → exec (.matmul i n) s = .refused (.undefinedBehaviour "R10")) ∧
    (s.issuing i n 0x11 = some e → mwReserved w = true → exec (.matw i n) s = .refused (.undefinedBehaviour "R10")) ∧
    (s.issuing i n 0x12 = some e → st = s.tileRefusal i e →
      (State.matrixBusy k = true → ∃ t, exec (.mdump i n) s = .next t ∧ InFlight t i e.q.seq { Flight.start with status := st } ∧ OnlyCore i s t) ∧
      (State.matrixBusy k = false → st ≠ 0 ∨ k.flag Reg.CORE_CTL_DEBUG = false → ∃ t, exec (.mdump i n) s = .next t ∧
        InFlight t i e.q.seq (Ended (if st = 0 then 0x1006 else st)) ∧ OnlyCore i s t) ∧
      (State.matrixBusy k = false → st = 0 → k.flag Reg.CORE_CTL_DEBUG = true → ∃ t f, exec (.mdump i n) s = .next t ∧ InFlight t i e.q.seq f ∧
        f.fin = true ∧ f.status = 0 ∧
        f.writes.map (fun x => (x.idx, x.tile.data, x.isSealed)) =
          [(w.u8 8 % 192, State.accTile (k.bank (mmBank w)).pairs 0, (k.bank (mmBank w)).isSealed),
           ((w.u8 8 + 1) % 192, State.accTile (k.bank (mmBank w)).pairs 16, (k.bank (mmBank w)).isSealed)] ∧
        (t.core i).banks = k.banks ∧ OnlyCore i s t))

/-- VSTREAM, VEXT, VROLL (R64, R67, R96, R117 to R127, R569): a VSTREAM that passes its checks runs its chain, consuming the finished tiles it names: its elements
go converted into its output tiles, a reduction or mask into its result tile. A refused one ends with its status, one with a bad tile or a bad scale record with
its glaze failure and the step quiesced; the weirs hold its scale record. VEXT joins the VSTREAM before it. VROLL rolls its scale record over.
Where the rules leave a point open it follows the model's own choices (logs 8, 13, 62, 105, 108, 110). -/
def Obligations.VectorCommandsRunTheirChains : Prop :=
  ∀ (i n : Nat) (s u : State) (e : SbEntry) (w : CmdWord) (st : List StageWord) (p a x : Nat), w = e.q.cmd → st = vsStages w e.q.ext → p = (s.core i).polder →
    (s.issuing i n 0x20 = some e → e.q.bad = true → ∃ t, exec (.vstream i n) s = .next t ∧ InFlight t i e.q.seq (Ended 0x1001) ∧ OnlyCore i s t) ∧
    (s.issuing i n 0x20 = some e → e.q.bad = false → vsReserved e.q.v2 w e.q.ext = true → exec (.vstream i n) s = .refused (.undefinedBehaviour "R10")) ∧
    (s.issuing i n 0x20 = some e → e.q.bad = false → vsReserved e.q.v2 w e.q.ext = false → a = vsSrec w →
      x = (if s.tileRefusal i e ≠ 0 then s.tileRefusal i e else s.srecStatus i a) →
      u = (if s.tileRefusal i e = 0 ∧ x = 0x3002 then s.dikeFail 0 p a else s) →
      (x ≠ 0 → ∃ t, exec (.vstream i n) s = .next t ∧ InFlight t i e.q.seq (Ended x) ∧ OnlyCore i u t ∧
        (t.core i).ftq = (s.core i).ftq.filter (fun y => y.tag ∉ vsTags w st)) ∧
      (x = 0 → (s.srecHeld i [a]).isSome = true → exec (.vstream i n) s = .next (s.weirHold p a)) ∧
      (x = 0 → s.srecHeld i [a] = none →
        (∀ b, s.firstBad i (s.vsVerified i w st) = some b → ∃ v : State, exec (.vstream i n) s = .next (v.glazeFail i b 1) ∧
          InFlight v i e.q.seq (Ended 0x1003) ∧ OnlyCore i s v) ∧
        (s.firstBad i (s.vsVerified i w st) = none → vsTail st ≠ 1 → a ≠ 0 → s.tileOk a = false → ∃ v : State,
          exec (.vstream i n) s = .next (v.lineGlazeFail i) ∧ InFlight v i e.q.seq (Ended 0x3004) ∧ OnlyCore i s v) ∧
        (s.firstBad i (s.vsVerified i w st) = none → vsTail st = 1 ∨ a = 0 ∨ s.tileOk a = true → ∃ t f, exec (.vstream i n) s = .next t ∧
          InFlight t i e.q.seq f ∧ f.fin = true ∧ f.status = 0 ∧ f.ftq = [] ∧
          (t.core i).ftq = (s.core i).ftq.filter (fun y => y.tag ∉ vsTags w st) ∧ (∀ j, j ≠ i → t.core j = s.core j) ∧
          (vsTail st = 0 → isMx (vsFmtOut w) = false → f.writes.map (fun y => (y.idx, y.tile.data)) =
            ((vsOutTiles w st).zip (List.range (vsN w))).map fun y => (y.1, (encodeTileKeep (vsFmtOut w) (s.vsScale w)
              ((vsTile w st (s.vsInput i w st) (s.vsScale w) s.fr y.2).map (·.v)) ((vsTile w st (s.vsInput i w st) (s.vsScale w) s.fr y.2).map (·.kept))).data)) ∧
          (vsTail st = 1 → f.writes.map (·.idx) = [vsResTile w]) ∧ (vsTail st = 2 → f.writes.getLast?.map (·.idx) = some (vsResTile w)) ∧
          (vsTail st = 1 ∨ a = 0 → OnlyCore i s t)))) ∧
    (∀ y, (s.core i).queued.find? (fun q => q.isExt && q.seq.toNat == n) = some y → ∃ t, exec (.vext i n) s = .next t ∧
      (∀ q ∈ (t.core i).queued, q.seq.toNat = n → q.ext = some y.cmd ∧ q.isExt = false) ∧
      OneCore i { s.core i with queued := (t.core i).queued } s t) ∧
    ((s.core i).queued.find? (fun q => q.isExt && q.seq.toNat == n) = none → s.issuing i n 0x22 = some e → ∃ t, exec (.vext i n) s = .next t ∧
      InFlight t i e.q.seq (Ended 0x1001) ∧ OnlyCore i s t) ∧
    (s.issuing i n 0x21 = some e → e.q.bad = true → ∃ t, exec (.vroll i n) s = .next t ∧ InFlight t i e.q.seq (Ended 0x1001) ∧ OnlyCore i s t) ∧
    (s.issuing i n 0x21 = some e → e.q.bad = false → a = w.u64 0x10 →
      x = (if a ≠ 0 then s.srecStatus i a else if p < 8 ∧ s.chanOwner 0 0 = p then 0 else 0x3002) →
      (x ≠ 0 → ∃ t, exec (.vroll i n) s = .next t ∧ InFlight t i e.q.seq (Ended x) ∧ OnlyCore i (if x = 0x3002 then s.dikeFail 0 p a else s) t) ∧
      (x = 0 → s.weirPass p atomicAccess a = false → exec (.vroll i n) s = .next (s.weirHold p a)) ∧
      (x = 0 → s.weirPass p atomicAccess a = true → u = s.srecAtomic i a → ∃ t, exec (.vroll i n) s = .next t ∧
        t.bytes a 64 = ((SRec.read (u.bytes a 64)).rollover (w.u32 8)).write ∧
        (∀ b, b < a ∨ a + 64 ≤ b → Memory.read t.mem b = Memory.read u.mem b) ∧ InFlight t i e.q.seq (Ended 0)))

/-- XMOVE, XFILL, XATOM (R31, R128 to R133, R151, R331, R371, R385 to R390): an XMOVE issues and moves its tiles one by one, in any number of steps: a tile goes out
at once and comes in with the completion; one that may not be reached ends the command with the number moved, the weirs hold one. XFILL leaves its pattern for
its tiles. An XATOM changes its target elements in the slice and may fetch their old values. Far addresses in the scratchpads or not aligned end with
CORE_E_BADADDR; reserved fields and channels lent to a kiln are undefined behaviour.
Where the rules leave a point open it follows the model's own choices (logs 17, 18, 43, 52, 105, 111). -/
def Obligations.TransferCommandsMoveTilesAndElements : Prop :=
  ∀ (i n m : Nat) (s : State) (e : SbEntry) (w : CmdWord) (p : Nat), w = e.q.cmd → p = (s.core i).polder →
    (s.going i n 0x30 = none → s.issuing i n 0x30 = some e →
      (xmReserved w = true → exec (.xmove i n m) s = .refused (.undefinedBehaviour "R10")) ∧
      (∀ x, x = (if s.tileRefusal i e ≠ 0 then s.tileRefusal i e else if inScratchRange (w.u64 0x10 : Nat) = true ∨ w.u64 0x10 % 2048 ≠ 0 then 0x1007 else 0) →
        xmReserved w = false →
        (x ≠ 0 → ∃ t, exec (.xmove i n m) s = .next t ∧ InFlight t i e.q.seq (Ended x) ∧ OnlyCore i s t) ∧
        (x = 0 → ∃ t, exec (.xmove i n 0) s = .next t ∧ InFlight t i e.q.seq { Flight.start with stamp := s.getF Reg.MGT_HOST_TAG_BASE_BASE } ∧
          OnlyCore i s t))) ∧
    (∀ (f : Flight) (a : Int) (u : State) (x k : Nat), s.going i n 0x30 = some (e, f) → a = farAddr w f.count → u = s.meter p (xmAccess w) a.toNat →
      x = s.moveStatus i f a → k = strideTile (w.u8 8) (signed 8 (w.u8 9)) f.count →
      (w.u8 0x0A ≤ f.count → ∃ t, exec (.xmove i n m) s = .next t ∧ InFlight t i e.q.seq { f with fin := true } ∧ OnlyCore i s t) ∧
      (f.count < w.u8 0x0A →
        (x ≠ 0 → ∃ t, exec (.xmove i n (m + 1)) s = .next t ∧ InFlight t i e.q.seq { f with fin := true, status := x } ∧
          OnlyCore i (if x = 0x3002 then s.dikeFail 0 p a.toNat else s) t) ∧
        (x = 0 → s.lendsNow i a.toNat = true → exec (.xmove i n (m + 1)) s = .refused (.undefinedBehaviour "R331")) ∧
        (x = 0 → s.lendsNow i a.toNat = false → s.weirPass p (xmAccess w) a.toNat = false → ∃ t, exec (.xmove i n (m + 1)) s = .next t ∧
          InFlight t i e.q.seq f ∧ OnlyCore i (s.weirHold p a.toNat) t) ∧
        (x = 0 → s.lendsNow i a.toNat = false → s.weirPass p (xmAccess w) a.toNat = true → m = 0 ∨ w.u8 0x0A ≤ f.count + 1 →
          ∃ t g, exec (.xmove i n (m + 1)) s = .next t ∧ g.fin = decide (w.u8 0x0A ≤ f.count + 1) ∧ InFlight t i e.q.seq g ∧
            (xmOut w = false → g = { f with fin := g.fin, count := f.count + 1, writes := f.writes ++ [⟨k, u.farTile f.stamp a.toNat, u.inSaggar a.toNat, some a.toNat⟩] } ∧
              OnlyCore i u t) ∧
            (xmOut w = true → g = { f with fin := g.fin, count := f.count + 1 } ∧
              (region a.toNat ≠ .host → t.tile a.toNat = u.spTile i k) ∧
              (region a.toNat ≠ .host ∨ f.stamp = 0 → t.bytes a.toNat 2048 = (u.spTile i k).data ∧
                ∀ b, b < a.toNat ∨ a.toNat + 2048 ≤ b → Memory.read t.mem b = Memory.read u.mem b) ∧
              (region a.toNat = .host → f.stamp ≠ 0 → t.memNat (State.hostTagAddr f.stamp a.toNat) 8 = (u.spTile i k).tag.toNat ∧
                t.memNat (State.hostTagAddr f.stamp a.toNat + 8) 8 = (u.spTile i k).glaze.toNat))))) ∧
    (s.issuing i n 0x32 = some e → (xfReserved e.q.v2 w = true → exec (.xfill i n) s = .refused (.undefinedBehaviour "R10")) ∧
      (xfReserved e.q.v2 w = false → s.tileRefusal i e ≠ 0 → ∃ t, exec (.xfill i n) s = .next t ∧ InFlight t i e.q.seq (Ended (s.tileRefusal i e)) ∧
        OnlyCore i s t) ∧
      (xfReserved e.q.v2 w = false → s.tileRefusal i e = 0 → ∃ t, exec (.xfill i n) s = .next t ∧
        InFlight t i e.q.seq { Ended 0 with count := w.u8 0x0A, writes := (xfTiles w).map fun k => ⟨k, fillTile (w.u16 0x10) (w.u8 0x12), false, none⟩ } ∧
        OnlyCore i s t)) ∧
    (∀ a u x z, a = xaTarget w → u = s.meter p atomicAccess a → z = xaSize w → x = (if s.tileRefusal i e ≠ 0 then s.tileRefusal i e else s.atomStatus i w) →
      s.issuing i n 0x31 = some e →
      (xaReserved w = true → exec (.xatom i n) s = .refused (.undefinedBehaviour "R10")) ∧
      (xaReserved w = false → s.lendsNow i a = true → exec (.xatom i n) s = .refused (.undefinedBehaviour "R331")) ∧
      (xaReserved w = false → s.lendsNow i a = false →
        (x ≠ 0 → ∃ t, exec (.xatom i n) s = .next t ∧ InFlight t i e.q.seq (Ended x) ∧
          OnlyCore i (if s.tileRefusal i e = 0 ∧ x = 0x3002 then s.dikeFail 0 p a else s) t) ∧
        (x = 0 → (s.spTile i (xaOpndTile w)).ok = false → ∃ v : State, exec (.xatom i n) s = .next (v.glazeFail i (xaOpndTile w) 2) ∧
          InFlight v i e.q.seq (Ended 0x1003) ∧ OnlyCore i s v) ∧
        (x = 0 → (s.spTile i (xaOpndTile w)).ok = true →
          (s.weirPass p atomicAccess a = false → exec (.xatom i n) s = .next (s.weirHold p a)) ∧
          (s.weirPass p atomicAccess a = true → (u.tile (a / 2048 * 2048)).ok = false → ∃ v : State, exec (.xatom i n) s = .next (v.lineGlazeFail i) ∧
            InFlight v i e.q.seq (Ended 0x3004) ∧ OnlyCore i u v) ∧
          (s.weirPass p atomicAccess a = true → (u.tile (a / 2048 * 2048)).ok = true → ∃ t f, exec (.xatom i n) s = .next t ∧ InFlight t i e.q.seq f ∧
            f.fin = true ∧ f.status = 0 ∧ (∀ j, j ≠ i → t.core j = s.core j) ∧ f.writes.map (·.idx) = (if xaFetch w then [w.u8 9 % 192] else []) ∧
            (∀ k < xaCount w, ∀ y g, y = u.memNat (a + k * z) z → g = numAt (u.spTile i (xaOpndTile w)).data (k * xaOpnd w) z → xaOp w ≤ 6 →
              (∀ h ∈ f.writes, numAt h.tile.data (k * z) z = y) ∧
              t.memNat (a + k * z) z = match xaOp w with
                | 0 => (y + g) % 2 ^ (8 * z)
                | 1 => if signed (8 * z) g < signed (8 * z) y then g else y
                | 2 => min y g
                | 3 => if signed (8 * z) y < signed (8 * z) g then g else y
                | 4 => max y g
                | 5 => g
                | _ => if y = g then numAt (u.spTile i (xaOpndTile w)).data (k * 16 + 8) 8 else y)))))

/-! ### Core control -/

/-- CORE_ABANDON, STEP_ENTRY_RESTART, CORE_RESET (R143, R144, R182, R183): an abandoned core is stopped with its queues and banks empty, what is left of its
scoreboard only to be recorded, its open contexts closed or opening, and a restart due. A restart that is due places the sequencer at CORE_STEP_ENTRY. A core
reset clears the core and its scratchpad, keeping its polder, raising its contexts' epochs by one, and abandons the step of the polder's other cores; no core
outside the polder changes, and no memory but the scratchpads.
Where the rules leave a point open it follows the model's own choices (logs 14, 56, 114). -/
def Obligations.CoresAreAbandonedRestartedAndReset : Prop :=
  ∀ (i : Nat) (s : State) (c : Core), c = s.core i →
    (∃ t, exec (.coreAbandon i) s = .next t ∧ (t.core i).halted = true ∧ (t.core i).wait = .none ∧ (t.core i).queued = [] ∧ (t.core i).list = none ∧
      (t.core i).banks = [] ∧ (t.core i).ftq = [] ∧ (t.core i).ftqTags = [] ∧ (t.core i).matwOpen = false ∧ (t.core i).extWait = false ∧
      (t.core i).restart = true ∧ (t.core i).pc = c.pc ∧ (t.core i).x = c.x ∧
      (∀ e ∈ (t.core i).sb, ∃ f, e.flight = some f ∧ f.fin = true) ∧
      (∀ n < 128, ((c.ctx n).state = .isOpen → ctxRole (c.ctx n) = 2 → ((t.core i).ctx n).state = .closed ∧ ((t.core i).ctx n).epoch = (c.ctx n).epoch + 1 ∧
          ((t.core i).ctx n).recs = [] ∧ ((t.core i).ctx n).waiting = []) ∧
        ((c.ctx n).state = .isOpen → ctxRole (c.ctx n) ≠ 2 → ((t.core i).ctx n).state = .opening ∧ ((t.core i).ctx n).credits = 0 ∧
          ((t.core i).ctx n).waiting = []) ∧
        ((c.ctx n).state ≠ .isOpen → ((t.core i).ctx n).state = (c.ctx n).state ∧ ((t.core i).ctx n).waiting = [])) ∧
      ∀ j, j ≠ i → t.core j = s.core j) ∧
    (¬ RestartDue s i → exec (.stepEntryRestart i) s = .next s) ∧
    (RestartDue s i → ∃ u : State, exec (.stepEntryRestart i) s = .next (u.reopenCtxs i) ∧
      OneCore i { c with restart := false, pc := BitVec.ofNat 13 (c.getF Reg.CORE_STEP_ENTRY_PC), wait := .none, halted := c.flag Reg.CORE_CTL_HALT,
                         haltReq := c.flag Reg.CORE_CTL_HALT } s u) ∧
    (∀ q : Nat → Prop, q = (fun j => j = i ∨ (c.polder < 8 ∧ (s.core j).polder = c.polder)) → i < 8192 → ∃ t, exec (.coreReset i) s = .next t ∧
      (t.core i).halted = true ∧ (t.core i).x = [] ∧ (t.core i).pc = 0 ∧ (t.core i).istore = [] ∧
      (t.core i).dstore = [] ∧ (t.core i).queued = [] ∧ (t.core i).sb = [] ∧ (t.core i).nextSeq = 0 ∧ (t.core i).tail = 0 ∧ (t.core i).faultCode = 0 ∧
      (t.core i).polder = c.polder ∧ (∀ n < 128, ((t.core i).ctx n).state = .off ∧ ((t.core i).ctx n).epoch = (c.ctx n).epoch + 1) ∧
      (∀ a, scratchAddr i 0 ≤ a → a < scratchAddr i 0x60000 → Memory.read t.mem a = 0) ∧
      (∀ a, (∀ j, q j → a < scratchAddr j 0 ∨ scratchAddr j 0x60000 ≤ a) → Memory.read t.mem a = Memory.read s.mem a) ∧
      (∀ j, ¬ q j → t.core j = s.core j) ∧ (∀ j, q j → j ≠ i → (t.core j).halted = true ∧ (t.core j).restart = true ∧ (t.core j).queued = []) ∧
      (c.polder < 8 → t.getF (Reg.PWR_RECOV_STATUS_PENDING c.polder) = 1))

/-- HALT_REQUEST, RESUME, CORE_RUN and the debug registers (R137 to R141, R223): a halt ends any wait; a resume goes on only after such a halt; RUN from 0 to 1
clears the fault and starts at CORE_PC_START, or marks a core outside its polder's turns; a snapshot shows a row of a bank, as it stands or as some moment of the
command that runs on it leaves it, or the fixed pattern of a SEALED one.
Where the rules leave a point open it follows the model's own choices (logs 57, 86). -/
def Obligations.CoresHaltResumeRunAndShowTheirState : Prop :=
  ∀ (i : Nat) (s : State) (c : Core), c = s.core i →
    (∃ t, exec (.haltRequest i) s = .next t ∧ (t.core i).flag Reg.CORE_CTL_HALT = true ∧ (c.halted = false → (t.core i).wait = .none) ∧
      OneCore i { c with page := (t.core i).page, halted := true, haltReq := c.haltReq || !c.halted, wait := (t.core i).wait } s t) ∧
    (∃ t, exec (.resumeCore i) s = .next t ∧ (t.core i).flag Reg.CORE_CTL_HALT = false ∧
      OneCore i { c with page := (t.core i).page, halted := c.halted && !c.haltReq, haltReq := false } s t) ∧
    (c.flag Reg.CORE_CTL_RUN = true → ∃ t, exec (.coreRun i) s = .next t ∧ OneCore i c s t) ∧
    (c.flag Reg.CORE_CTL_RUN = false → ∃ t, exec (.coreRun i) s = .next t ∧ (t.core i).flag Reg.CORE_CTL_RUN = true ∧
      (c.wheel.outside = false ∨ 8 ≤ c.polder →
        OneCore i { c with page := (t.core i).page, faultCode := 0, faultPc := 0, pc := BitVec.ofNat 13 (c.getF Reg.CORE_PC_START_PC), wait := .none,
                           halted := c.flag Reg.CORE_CTL_HALT, haltReq := c.flag Reg.CORE_CTL_HALT } s t) ∧
      (c.wheel.outside = true → c.polder < 8 →
        OneCore i { c with page := (t.core i).page, faultCode := 0, faultPc := 0, wheel := { c.wheel with rejoin := true } } s t)) ∧
    (∀ v : Word, ∃ t, exec (.dbgAccSel i v) s = .next t ∧ (t.core i).getF Reg.CORE_DBG_ACC_SEL_ROW = (v.extractLsb' 2 5).toNat ∧
      (t.core i).getF Reg.CORE_DBG_ACC_SEL_BANK = (v.extractLsb' 0 2).toNat ∧
      (c.flag Reg.CORE_CTL_DEBUG = true → (t.core i).snapReq = some ((v.extractLsb' 2 5).toNat, (v.extractLsb' 0 2).toNat) ∧
        (t.core i).flag Reg.CORE_DBG_ACC_STAT_VALID = false) ∧
      OneCore i { c with page := (t.core i).page, snapReq := (t.core i).snapReq } s t) ∧
    (c.snapReq = none → exec (.accSnapshotReady i) s = .next s) ∧
    (∀ r b k, c.snapReq = some (r, b) → k = s.bankNow i b → ((∀ e ∈ c.sb, ∀ f, e.flight = some f → ∀ y ∈ f.before, y.1 ≠ b) → k = c.bank b) ∧
      ∃ t, exec (.accSnapshotReady i) s = .next t ∧ (t.core i).flag Reg.CORE_DBG_ACC_STAT_VALID = true ∧
      (∀ j < 32, (t.core i).getF (Reg.CORE_DBG_ACC_DATA_HI j) = if (c.bank b).isSealed then 0xFFC1 else
        (renormStored (k.pairs.getD (r * 32 + j) AccPair.zero)).1.hi.toNat) ∧
      (∀ j < 32, (t.core i).getF (Reg.CORE_DBG_ACC_DATA_LO j) = if (c.bank b).isSealed then 0xFFC1 else
        (renormStored (k.pairs.getD (r * 32 + j) AccPair.zero)).1.lo.toNat) ∧
      (t.core i).flag Reg.CORE_DBG_ACC_STAT_SEALED = (c.bank b).isSealed ∧
      OneCore i { c with page := (t.core i).page, snapReq := none } s t)

/-! ### Channels -/

/-- CORE_DBG_XREG_WRITE (R138, R139): CORE_DBG_XREG, a register of debug mode only, can be written only while the sequencer is halted: a half of X[n] takes the
value, and X[0] stays 0 (R87); at other times such a write has no effect. Outside debug mode CORE_DBG_XREG and CORE_DBG_ACC_DATA read 0. -/
def Obligations.DebugRegistersNeedDebugModeAndAHalt : Prop :=
  ∀ (i : Nat) (s : State) (c : Core), i < 8192 → c = s.core i →
    (∀ (n : Nat) (high : Bool) (v : Word), n < 32 →
      (c.halted = true → c.flag Reg.CORE_CTL_DEBUG = true → n ≠ 0 → ∃ t, exec (.coreDbgXregWrite i n high v) s = .next t ∧
        (t.core i).getX n = (if high then v ++ (c.getX n).extractLsb' 0 32 else (c.getX n).extractLsb' 32 32 ++ v) ∧
        (∀ m, m ≠ n → (t.core i).getX m = c.getX m) ∧ OneCore i { c with x := (t.core i).x } s t) ∧
      (c.halted = false ∨ c.flag Reg.CORE_CTL_DEBUG = false ∨ n = 0 → ∃ t, exec (.coreDbgXregWrite i n high v) s = .next t ∧ OneCore i c s t)) ∧
    (c.flag Reg.CORE_CTL_DEBUG = false → ∀ o, 0x300 ≤ o → o < 0x480 → s.viewWord (0x1000000 + 0x1000 * i + o) = 0)

/-- MSEND, MRECV, MFLUSH (R154, R168, R169, R171 to R174, R184, R185): bad lengths, roles and tiles end a command with their codes; one that issues joins its
context's line and does from there what R169 and R172 say, at once or later (`SendRuns`, `RecvRuns`); a sent MSEND only waits. A message is SHORT when it has
more tiles than named. MFLUSH empties a receive context, stops what a send context sends and ends what waits. A context above 127 is undefined behaviour.
Where the rules leave a point open it follows the model's own choices (logs 4, 61). -/
def Obligations.MessageCommandsSendReceiveAndFlush : Prop :=
  ∀ (i m n x : Nat) (s : State) (e : SbEntry) (w : CmdWord) (k : Ctx) (f : Flight), w = e.q.cmd → n = w.u8 8 → k = (s.core i).ctx n →
    (127 < n →
      (s.going i m 0x40 = none → s.issuing i m 0x40 = some e → exec (.msend i m) s = .refused (.undefinedBehaviour "R10")) ∧
      (s.going i m 0x41 = none → s.issuing i m 0x41 = some e → exec (.mrecv i m) s = .refused (.undefinedBehaviour "R10")) ∧
      (s.issuing i m 0x42 = some e → exec (.mflush i m) s = .refused (.undefinedBehaviour "R10"))) ∧
    (n ≤ 127 → s.going i m 0x40 = none → s.issuing i m 0x40 = some e →
      x = (if w.u8 0x0A = 0 ∨ 64 < w.u8 0x0A ∨ w.u8 0x0A * 2048 < w.u32 0x0C then 0x2006 else if ctxRole k ≠ 1 then 0x2007 else s.tileRefusal i e) →
      f = { Flight.start with stamp := s.now } →
      (x ≠ 0 → ∃ t, exec (.msend i m) s = .next t ∧ InFlight t i e.q.seq (Ended x) ∧ OnlyCore i s t) ∧
      (x = 0 → ∃ v : State, InFlight v i e.q.seq f ∧ OnlyCore i s v ∧ (v.core i).ctx n = { k with waiting := k.waiting ++ [e.q.seq] } ∧
        SendRuns i n e f (exec (.msend i m) s) v)) ∧
    (n ≤ 127 → s.going i m 0x40 = some (e, f) → (f.sent = true → exec (.msend i m) s = .next s) ∧ (f.sent = false → SendRuns i n e f (exec (.msend i m) s) s)) ∧
    (n ≤ 127 → s.going i m 0x41 = none → s.issuing i m 0x41 = some e → x = (if ctxRole k ≠ 2 then 0x2007 else s.tileRefusal i e) →
      (x ≠ 0 → ∃ t, exec (.mrecv i m) s = .next t ∧ InFlight t i e.q.seq (Ended x) ∧ OnlyCore i s t) ∧
      (x = 0 → ∃ v : State, InFlight v i e.q.seq Flight.start ∧ OnlyCore i s v ∧ (v.core i).ctx n = { k with waiting := k.waiting ++ [e.q.seq] } ∧
        RecvRuns i n e (exec (.mrecv i m) s) v)) ∧
    (n ≤ 127 → s.going i m 0x41 = some (e, f) → RecvRuns i n e (exec (.mrecv i m) s) s) ∧
    (∀ g r z, s.recvMessage i w k = some (g, r, z) → g.fin = true ∧ k.recs.head? = some r ∧ r.isPad = false ∧ r.isWhole = true ∧
      (numAt (s.ringRead i k r.start 1) 0 1 = 2 → g.count = 2048 * numAt (s.ringRead i k r.start 1) 6 2 ∧
        g.status = (if w.u8 0x0A < numAt (s.ringRead i k r.start 1) 6 2 then 0x2005 else 0)) ∧
      (numAt (s.ringRead i k r.start 1) 0 1 ≠ 2 → g.count = numAt (s.ringRead i k r.start 1) 8 4 ∧
        (w.u8 0x0A * 2048 < g.count → g.status = 0x2005) ∧ (g.count ≤ w.u8 0x0A * 2048 → g.status = 0 ∨ g.status = 0x2004))) ∧
    (n ≤ 127 → s.issuing i m 0x42 = some e → ∃ t, exec (.mflush i m) s = .next t ∧ InFlight t i e.q.seq (Ended 0) ∧
      OneCtx i n ((t.core i).ctx n) s t ∧
      (ctxRole k = 1 → (t.core i).ctx n = { k with waiting := [], unacked := ((t.core i).ctx n).unacked } ∧
        ((t.core i).ctx n).unacked.map (·.who) = k.unacked.map (fun _ => none) ∧
        (∀ y ∈ (t.core i).sb, y.q.seq ∈ k.waiting ++ s.sentOn i n → ∀ g, y.flight = some g → g.fin = true) ∧
        (∀ r, .chn r ∈ t.net → r.src = s.ctxId i n → r.typ ≠ 0x0F → r.cut = true) ∧ t.regs = s.regs ∧ t.out = s.out) ∧
      (ctxRole k = 2 → ((t.core i).ctx n).recs = [] ∧ ((t.core i).ctx n).waiting = [] ∧ ((t.core i).ctx n).epoch = k.epoch ∧
        (∀ y ∈ (t.core i).sb, y.q.seq ∈ k.waiting → ∀ g, y.flight = some g → g.fin = true) ∧
        ((ctxPeer k).pkg = s.pkgId → t.net = s.net ++ if k.fill = 0 then [] else [.chnCredit (ctxPeer k) (s.ctxId i n) k.fill])) ∧
      (ctxRole k ≠ 1 → ctxRole k ≠ 2 → (t.core i).ctx n = k ∧ t.net = s.net))

/-- CTX_OPEN, CTX_CLOSE, REPLY_TIMEOUT (R179, R181, R185): a receive context opens with an empty ring and sends its notice, a send context waits for one; a
context that closes ends what waits on it, one that is CLOSED turns OFF; a request whose deadline has passed retires and is counted.
Where the rules leave a point open it follows the model's own choices (logs 4, 55). -/
def Obligations.ContextsOpenCloseAndTimeOut : Prop :=
  ∀ (i n : Nat) (s : State) (k : Ctx), n = s.selCtx i → n < 128 → k = (s.core i).ctx n →
    (k.state = .isOpen ∨ k.state = .opening ∨ ctxRole k ≠ 1 ∧ ctxRole k ≠ 2 → exec (.ctxOpen i) s = .next s) ∧
    (k.state = .off ∨ k.state = .closed → ctxRole k = 1 → ∃ t, exec (.ctxOpen i) s = .next t ∧ t.net = s.net ∧ t.ports = s.ports ∧
      OneCtx i n { k with state := .opening, credits := 0 } s t) ∧
    (k.state = .off ∨ k.state = .closed → ctxRole k = 2 → ∃ t, exec (.ctxOpen i) s = .next t ∧
      OneCtx i n { k with state := .isOpen, recs := [], rd := 0, ringUnits := 32 * ctxRingTiles k, wasOpen := false } s t ∧
      ((ctxPeer k).pkg = s.pkgId → t.net = s.net ++ [.openNotice (ctxPeer k) (s.ctxId i n) k.epoch.toNat (32 * ctxRingTiles k)])) ∧
    (k.state = .off → exec (.ctxClose i) s = .next s) ∧
    (k.state = .closed → ∃ t, exec (.ctxClose i) s = .next t ∧ OneCtx i n { k with state := .off } s t ∧ t.net = s.net) ∧
    (k.state = .isOpen ∨ k.state = .opening → ∃ t, exec (.ctxClose i) s = .next t ∧
      (∀ x ∈ (t.core i).sb, x.q.seq ∈ k.waiting → ∀ g, x.flight = some g → g.fin = true) ∧
      (ctxRole k ≠ 2 → t.net = s.net ∧ OneCtx i n { k with state := .closed, waiting := [] } s t) ∧
      (ctxRole k = 2 → ((t.core i).ctx n).state = .closed ∧ ((t.core i).ctx n).epoch = k.epoch + 1 ∧ ((t.core i).ctx n).recs = [] ∧
        ((t.core i).ctx n).waiting = [] ∧ OneCtx i n ((t.core i).ctx n) s t ∧
        ((ctxPeer k).pkg = s.pkgId → t.net = s.net ++ [.closedNotice (ctxPeer k) (s.ctxId i n) (k.epoch + 1).toNat]))) ∧
    (∀ m l q r, ((s.core i).ctx m).outstanding = l ++ (q, some 0) :: r → (∀ x ∈ l, x.2 ≠ some 0) → ∃ t, exec (.replyTimeout i m) s = .next t ∧
      OneCtx i m { (s.core i).ctx m with outstanding := l ++ r, timedOut := ((s.core i).ctx m).timedOut + 1 } s t ∧
      (t.core i).getF Reg.CHN_CNT_TIMEOUT_COUNT = ((s.core i).getF Reg.CHN_CNT_TIMEOUT_COUNT + 1) % 2 ^ 64) ∧
    (∀ m, (∀ x ∈ ((s.core i).ctx m).outstanding, x.2 ≠ some 0) → exec (.replyTimeout i m) s = .next s)

/-- CHN_DATA, CHN_ACK, CHN_CREDIT, OPEN_NOTICE, CLOSED_NOTICE (R162, R165, R170, R171, R174, R178, R180, R181): what arrives over the mesh or a lane acts on the
context it names, unless the dike parts the two. A record for a context that does not take it is dropped, counted and answered; one that fits is written to the
ring, and answered with its last packet. Credits never exceed the ring. An OPEN notice opens a send context that is not OFF, a CLOSED one closes it.
Where the rules leave a point open it follows the model's own choices (logs 54, 55). -/
def Obligations.ChannelPacketsActOnTheirContext : Prop :=
  ∀ (s u : State) (j p v : Nat) (q : LanePkt) (i n : Nat) (k : Ctx), k = (u.core i).ctx n →
    (∀ r net, netTake recKey j s.net = some (.chn r, net) → r.dst.pkg = s.pkgId → i = r.dst.core → n = r.dst.ctx → u = { s with net := net } →
      (s.sameDike r.dst r.src = false → exec (.chnData (.mesh j)) s = .next u) ∧
      (s.sameDike r.dst r.src = true → r.arrived = 0 → State.takes r k = false → r.src.pkg = s.pkgId → ∃ t, exec (.chnData (.mesh j)) s = .next t ∧
        (t.core i).getF Reg.CHN_CNT_STALE_DROP_COUNT = ((s.core i).getF Reg.CHN_CNT_STALE_DROP_COUNT + 1) % 2 ^ 64 ∧
        t.net = net ++ [.chnAck r.src r.dst 0x2002 k.epoch.toNat (k.state == .isOpen) 0] ∧
        OneCore i { s.core i with page := (t.core i).page } u { t with net := net }) ∧
      (s.sameDike r.dst r.src = true → (r.arrived = 0 ∧ State.takes r k = true) ∨
          (0 < r.arrived ∧ k.state = .isOpen ∧ (∃ y ∈ k.recs, y.isWhole = false) ∧ k.epoch.toNat = r.epoch) → r.cut = false →
        (r.arrived + 1 < packetsOf r → ∃ t, exec (.chnData (.mesh j)) s = .next t ∧
          t.net = net.take j ++ [.chn { r with arrived := r.arrived + 1 }] ++ net.drop j ∧
          ((t.core i).ctx n).recs = k.recs.filter (·.isWhole) ++ [⟨State.ringPos k, r.units, r.arrived + 1, false, r.typ == 0x0F, r.isSealed⟩] ∧
          t.mem = (u.ringWrite i k (State.ringPos k + (packetOf r r.arrived).1) (packetOf r r.arrived).2).mem) ∧
        (packetsOf r ≤ r.arrived + 1 → r.typ ≠ 0x0F → r.src.pkg = s.pkgId → (∀ y ∈ k.recs, y.isPad = false) → ∃ t,
          exec (.chnData (.mesh j)) s = .next t ∧ t.net = net ++ [.chnAck r.src r.dst 0 k.epoch.toNat true 0] ∧
          ((t.core i).ctx n).recs = k.recs.filter (·.isWhole) ++ [⟨State.ringPos k, r.units, r.arrived + 1, true, false, r.isSealed⟩] ∧
          (64 ≤ n → ((t.core i).ctx (n - 64)).outstanding = ((u.core i).ctx (n - 64)).outstanding.tail) ∧
          t.mem = (u.ringWrite i k (State.ringPos k + (packetOf r r.arrived).1) (packetOf r r.arrived).2).mem))) ∧
    (LaneHas p v q s → q.ptype = 1 → exec (.chnData (.lane p v)) s = .next (State.arriveLane q (s.laneTake p v))) ∧
    (s.laneHead p v = some q → q.ptype ∈ [1, 2, 3] → s.laneDike p v (State.pktCore q) = false →
      exec ((if q.ptype = 1 then Instr.chnData else if q.ptype = 2 then Instr.chnAck else Instr.chnCredit) (.lane p v)) s = .next (s.laneTake p v).laneDrop) ∧
    (∀ x y st ep op le, s.revItem j = some (.chnAck x y st ep op le, u) → i = x.core → n = x.ctx →
      (u.sameDike x y = false → exec (.chnAck (.mesh j)) s = .next u) ∧
      (u.sameDike x y = true → ∃ t, exec (.chnAck (.mesh j)) s = .next t ∧ ((t.core i).ctx n).unacked = k.unacked.tail ∧ t = { u with cores := t.cores } ∧
        (st ≠ 0x2002 → (t.core i).ctx n = { k with unacked := k.unacked.tail }) ∧
        ∀ b z, k.unacked.head? = some b → b.who = some z → u.sentFlight i z = true →
          (∀ e ∈ (t.core i).sb, e.q.seq = z → ∀ g, e.flight = some g → g.fin = true ∧ g.status = st) ∧
          (st = 0x2002 → op = false → ((t.core i).ctx n).state = .closed))) ∧
    (∀ x y d, s.revItem j = some (.chnCredit x y d, u) → i = x.core → n = x.ctx →
      (u.sameDike x y = false → exec (.chnCredit (.mesh j)) s = .next u) ∧
      (u.sameDike x y = true → ∃ t, exec (.chnCredit (.mesh j)) s = .next t ∧
        OneCtx i n (if k.state = .isOpen then { k with credits := min k.ringUnits (k.credits + d) } else k) u t)) ∧
    (LaneHas p v q s → q.ptype = 3 → i = State.pktCore q → n = State.pktCtx q → u = s.laneTake p v → ∃ t, exec (.chnCredit (.lane p v)) s = .next t ∧
      OneCtx i n (if k.state = .isOpen then { k with credits := min k.ringUnits (k.credits + bitsOf q.aux 11 0) } else k) u t) ∧
    (∀ x y ep ru, s.revItem j = some (.openNotice x y ep ru, u) → i = x.core → n = x.ctx →
      (u.sameDike x y = false → exec (.openNotice (.mesh j)) s = .next u) ∧
      (u.sameDike x y = true → ∃ t, exec (.openNotice (.mesh j)) s = .next t ∧
        OneCtx i n (if k.state = .off ∨ ctxRole k ≠ 1 then k else
          { k with state := .isOpen, epoch := BitVec.ofNat 16 ep, ringUnits := ru, credits := ru, wr := 0, msgSeq := 0 }) u t)) ∧
    (∀ x y ep, s.revItem j = some (.closedNotice x y ep, u) → i = x.core → n = x.ctx →
      (u.sameDike x y = false ∨ k.state = .off → exec (.closedNotice (.mesh j)) s = .next u) ∧
      (u.sameDike x y = true → k.state ≠ .off → ∃ t, exec (.closedNotice (.mesh j)) s = .next t ∧
        OneCtx i n { k with state := .closed, waiting := [], credits := 0 } u t ∧
        ∀ e ∈ (t.core i).sb, e.q.seq ∈ k.waiting ++ u.sentOn i n → ∀ g, e.flight = some g → g.fin = true)) ∧
    (LaneHas p v q s → q.ptype = 4 → i = State.pktCore q → n = State.pktCtx q → u = s.laneTake p v →
      (bitsOf q.aux 1 0 = 1 → ∃ t, exec (.openNotice (.lane p v)) s = .next t ∧
        OneCtx i n (if k.state = .off ∨ ctxRole k ≠ 1 then k else
          { k with state := .isOpen, epoch := BitVec.ofNat 16 (bitsOf q.aux 31 16), ringUnits := bitsOf q.aux 43 32, credits := bitsOf q.aux 43 32, wr := 0,
                   msgSeq := 0 }) u t) ∧
      (bitsOf q.aux 1 0 = 2 → k.state ≠ .off → ∃ t, exec (.closedNotice (.lane p v)) s = .next t ∧
        OneCtx i n { k with state := .closed, waiting := [], credits := 0 } u t))

/-! ### Stage groups and links -/

/-- QPUSH, TAKE, INJECT, RELEASE (R287, R300 to R309, R311 to R314): a command that issues, or goes on, does what its rules say from there (`PushRuns`, `TakeRuns`,
`InjectRuns`): it is refused with its PIP code, waits, or sends its part, takes its entry or binds. Reserved fields are undefined behaviour, a tile of another
owner ends the command; a RELEASE of a core of no group ends with PIP_E_NOGROUP.
Where the rules leave a point open it follows the model's own choices (logs 21, 23, 25). -/
def Obligations.QueueCommandsPushTakeInjectAndRelease : Prop :=
  ∀ (i m : Nat) (s : State) (e : SbEntry) (w : CmdWord) (f : Flight), w = e.q.cmd →
    (s.going i m 0x48 = none → s.issuing i m 0x48 = some e →
      (qpReserved w = true → exec (.qpush i m) s = .refused (.undefinedBehaviour "R10")) ∧
      (qpReserved w = false → s.tileRefusal i e ≠ 0 → ∃ t, exec (.qpush i m) s = .next t ∧ InFlight t i e.q.seq (Ended (s.tileRefusal i e)) ∧ OnlyCore i s t) ∧
      (qpReserved w = false → s.tileRefusal i e = 0 → ∃ v : State, InFlight v i e.q.seq Flight.start ∧ OnlyCore i s v ∧
        PushRuns i e Flight.start (exec (.qpush i m) s) v)) ∧
    (s.going i m 0x48 = some (e, f) → (f.sent = true → exec (.qpush i m) s = .next s) ∧ (f.sent = false → PushRuns i e f (exec (.qpush i m) s) s)) ∧
    (s.going i m 0x49 = none → s.issuing i m 0x49 = some e →
      (qoReserved w = true → qMode w = 0 ∨ qMode w = 3 → exec (.take i m) s = .refused (.undefinedBehaviour "R10")) ∧
      (qoReserved w = true → qMode w = 1 → exec (.inject i m) s = .refused (.undefinedBehaviour "R10")) ∧
      (qoReserved w = false → qMode w = 0 → s.tileRefusal i e ≠ 0 → ∃ t, exec (.take i m) s = .next t ∧ InFlight t i e.q.seq (Ended (s.tileRefusal i e)) ∧
        OnlyCore i s t) ∧
      (qoReserved w = false → qMode w = 0 → s.tileRefusal i e = 0 → ∃ v : State, InFlight v i e.q.seq Flight.start ∧ OnlyCore i s v ∧
        TakeRuns i e (exec (.take i m) s) v) ∧
      (qoReserved w = false → qMode w = 1 → ∃ v : State, InFlight v i e.q.seq Flight.start ∧ OnlyCore i s v ∧ InjectRuns i e (exec (.inject i m) s) v)) ∧
    (s.going i m 0x49 = some (e, f) → (qMode w = 0 → TakeRuns i e (exec (.take i m) s) s) ∧ (qMode w = 1 → InjectRuns i e (exec (.inject i m) s) s)) ∧
    (s.issuing i m 0x49 = some e → qMode w = 2 → s.groupOf i = none → ∃ t, exec (.release i m) s = .next t ∧ InFlight t i e.q.seq (Ended 0x5001) ∧
      OnlyCore i s t)

/-- PIP_PART, PIP_ACK, PIP_HEAD (R293, R294, R296, R297, R299, R304, R327, R328): a part that reaches its RX end is written to its slot and counted, or dropped with
its status, and answered; an answer ends its push, and one of PIP_E_LINK closes an OPEN end of a remote link; a HEAD notice is adopted, and new epochs end waits
after abandonments.
Where the rules leave a point open it follows the model's own choices (logs 24, 48, 49, 116). -/
def Obligations.PartsAnswersAndHeadsArrive : Prop :=
  ∀ (j p v l : Nat) (s u : State) (x : PipPart) (q : LanePkt),
    (s.net[j]? = some (.pipPart l x) → s.partPass l x = true → u = { s with net := s.net.eraseIdx j } →
      (s.partStatus l x ≠ 0 → s.partStatus l x ≠ 0x5007 → s.partStatus l x ≠ 0x3002 → ∀ b, exec (.pipPart (.mesh j) b) s =
        .next { u with net := u.net ++ [.pipAck (ldPeer (s.linkDesc l)) x.mbSeq x.part (s.partStatus l x) x.epoch] }) ∧
      (s.partStatus l x = 0x3002 → ∀ b, ∃ t, exec (.pipPart (.mesh j) b) s = .next t ∧
        t = { State.dikeFail 0 (s.linkPolder l) (ldSlot (s.linkDesc l) x.mbSeq) u with
          net := u.net ++ [.pipAck (ldPeer (s.linkDesc l)) x.mbSeq x.part 0x3002 x.epoch] }) ∧
      (s.partStatus l x = 0x5007 → l < 512 → ∀ b, ∃ t, exec (.pipPart (.mesh j) b) s = .next t ∧
        t.getF (Reg.PIP_CNT_STALE_COUNT l) = (s.getF (Reg.PIP_CNT_STALE_COUNT l) + 1) % 2 ^ 64 ∧ t.mem = s.mem ∧ t.links = s.links ∧
        t.net = u.net ++ [.pipAck (ldPeer (s.linkDesc l)) x.mbSeq x.part 0x5007 x.epoch]) ∧
      (s.partStatus l x = 0 → ∀ b, ∃ t y, exec (.pipPart (.mesh j) b) s = .next t ∧ t.net = u.net ++ [.pipAck (ldPeer (s.linkDesc l)) x.mbSeq x.part 0 x.epoch] ∧
        y ∈ (t.linkEnd l).queue ∧ y.mbSeq = x.mbSeq ∧ x.part ∈ y.parts ∧ (ldParts (s.linkDesc l) ≤ y.parts.length → y.ready = some s.now) ∧
        (∀ z ∈ (s.linkEnd l).queue, z.mbSeq ≠ x.mbSeq → z ∈ (t.linkEnd l).queue) ∧ ∀ k, k ≠ l → t.linkEnd k = s.linkEnd k)) ∧
    (s.net[j]? = some (.pipPart l x) → s.partPass l x = false → ∀ b, exec (.pipPart (.mesh j) b) s = .next (s.partHold l x)) ∧
    (∀ b ins, (b, ins) ∈ [(0x10, Instr.pipPart (.lane p v) true), (0x10, Instr.pipPart (.lane p v) false), (0x11, Instr.pipAck (.lane p v)),
        (0x12, Instr.pipHead (.lane p v))] → s.laneHead p v = some q → q.ptype = b → s.linkDike p v (q.dst % 512) = false →
      exec ins s = .next (s.laneTake p v).laneDrop) ∧
    (s.laneHead p v = some q → q.ptype = 0x10 → l = q.dst % 512 → s.linkDike p v l = true → x = partAt q →
      (s.groupOwns (ldGroup (s.linkDesc l)) (ldRxRoute (s.linkDesc l)) = false → ∀ b, exec (.pipPart (.lane p v) b) s = .next s) ∧
      (s.groupOwns (ldGroup (s.linkDesc l)) (ldRxRoute (s.linkDesc l)) = true → s.partPass l x = false → ∀ b,
        exec (.pipPart (.lane p v) b) s = .next (s.partHold l x)) ∧
      (s.groupOwns (ldGroup (s.linkDesc l)) (ldRxRoute (s.linkDesc l)) = true → s.partPass l x = true → ∀ t st b,
        (s.laneTake p v).takePart l x b = (t, st) → (b = false → st = none ∧ exec (.pipPart (.lane p v) b) s = .next t) ∧
        (b = true → st = some ((s.laneTake p v).partStatus l x) ∧ exec (.pipPart (.lane p v) b) s = .next (t.sendLane p v
          { t.pipPkt l 0 0x11 (x.mbSeq + x.part * 2 ^ 32 + (s.laneTake p v).partStatus l x * 2 ^ 48) [] with resp := true, lepoch := q.lepoch })))) ∧
    (∀ mb part st ep net, netTake State.answerKey j s.net = some (.pipAck l mb part st ep, net) → u = { s with net := net } →
      (u.pushOf l mb part (some ep) = none → exec (.pipAck (.mesh j)) s = .next u) ∧
      (∀ i n, u.pushOf l mb part (some ep) = some (i, n) → ∃ t, exec (.pipAck (.mesh j)) s = .next t ∧
        (∀ e ∈ (t.core i).sb, e.q.seq = n → e.flight = some { Ended st with count := 2048 * e.q.cmd.u8 0x0A }) ∧
        (st ≠ 0 → t = { u with cores := t.cores }) ∧ (st = 0 → t = { u with cores := t.cores, links := t.links, regs := t.regs }))) ∧
    (∀ st, s.laneHead p v = some q → q.ptype = 0x11 → l = q.dst % 512 → s.linkDike p v l = true → st = bitsOf q.aux 63 48 →
      u = (s.laneTake p v).ackPush l (bitsOf q.aux 31 0) (bitsOf q.aux 47 32) st none →
      (st ≠ 0x5002 ∨ u.linkOpen l = false ∨ ldPeerPkg (u.linkDesc l) = u.pkgId → exec (.pipAck (.lane p v)) s = .next u) ∧
      (st = 0x5002 → u.linkOpen l = true → ldPeerPkg (u.linkDesc l) ≠ u.pkgId → ∃ t : State, exec (.pipAck (.lane p v)) s =
        .next (t.quiesce (u.linkPolder l) .linkDown) ∧ t.getF (Reg.PIP_LINK_STATE_STATE l) = 2 ∧ t.linkEnd l = LinkEnd.empty ∧
        t = { u with regs := t.regs, links := t.links })) ∧
    (∀ h ep r, (∃ net, netTake State.answerKey j s.net = some (.pipHead l h ep, net) ∧ u = { s with net := net }) →
      l < 512 → r = (ep + 65536 - s.linkEpoch l) % 65536 → ∃ t, exec (.pipHead (.mesh j)) s = .next t ∧ t.linkHead l = h % 2 ^ 32 ∧
      t.linkEpoch l = ep % 2 ^ 16 ∧ t.linkEnd l = { s.linkEnd l with
        heard := true, acked := if r = 0 then (s.linkEnd l).acked else [],
        due := if (s.linkEnd l).heard then (s.linkEnd l).due - r else if r = 0 then (s.linkEnd l).due else max 0 ((s.linkEnd l).due - 1) } ∧
      t = { u with regs := t.regs, links := t.links } ∧ RegsBut [Reg.PIP_LINK_HEAD_HEAD l, Reg.PIP_LINK_STATE_EPOCH l] s t) ∧
    (s.laneHead p v = some q → q.ptype = 0x12 → l = q.dst % 512 → s.linkDike p v l = true → u = s.laneTake p v → ∃ t, exec (.pipHead (.lane p v)) s = .next t ∧
      t.linkHead l = bitsOf q.aux 31 0 ∧ t.linkEpoch l = bitsOf q.aux 47 32 ∧ t = { u with regs := t.regs, links := t.links } ∧
      RegsBut [Reg.PIP_LINK_HEAD_HEAD l, Reg.PIP_LINK_STATE_EPOCH l] u t)

/-- LINK_OPEN, LINK_CLOSE, PIP_OPEN, PIP_OPEN_RETRY, GROUP_INIT, PIP_ABANDON (R292, R316, R326): a link end opens when its peer of this package matches it, and
asks a peer elsewhere, again every 100 ticks; OPEN closes, CLOSED turns OFF; a group starts with one CURRENT version; an abandonment frees the later training
stash entries, raises the epochs of the RX ends and makes the TX ends wait; then the polder's kilns work.
Where the rules leave a point open it follows the model's own choices (logs 26, 48, 50). -/
def Obligations.LinksOpenCloseAndAbandon : Prop :=
  ∀ (l p v : Nat) (s : State) (d late : Nat) (q : LanePkt), l < 512 → d = s.linkDesc l → late = (s.now + 2 ^ 48 - (s.linkEnd l).asked) % 2 ^ 48 →
    (s.getF (Reg.PIP_LINK_STATE_STATE l) = 1 → exec (.linkOpen l) s = .next s) ∧
    (s.getF (Reg.PIP_LINK_STATE_STATE l) ≠ 1 → ldPeerPkg d = s.pkgId → ∃ t, exec (.linkOpen l) s = .next t ∧
      t.getF (Reg.PIP_LINK_STATE_STATE l) = (if ldMatch s.pkgId l d s.pkgId (ldPeer d) (s.linkDesc (ldPeer d)) then 1 else 2) ∧
      t.getF (Reg.PIP_LINK_STATE_ERR l) = (if ldMatch s.pkgId l d s.pkgId (ldPeer d) (s.linkDesc (ldPeer d)) then 0 else 1) ∧
      OnlyRegs [Reg.PIP_LINK_STATE_STATE l, Reg.PIP_LINK_STATE_ERR l, Reg.PIP_LINK_STATE_OPEN_WAIT l] s t) ∧
    (s.getF (Reg.PIP_LINK_STATE_STATE l) ≠ 1 → ldPeerPkg d ≠ s.pkgId → s.stagePath l = none → ∃ t, exec (.linkOpen l) s = .next t ∧
      t.getF (Reg.PIP_LINK_STATE_STATE l) = 2 ∧ t.getF (Reg.PIP_LINK_STATE_ERR l) = 2 ∧ t.getF (Reg.PIP_LINK_STATE_OPEN_WAIT l) = 0 ∧
      OnlyRegs [Reg.PIP_LINK_STATE_STATE l, Reg.PIP_LINK_STATE_ERR l, Reg.PIP_LINK_STATE_OPEN_WAIT l] s t) ∧
    (∀ a b ins u, s.stagePath l = some (a, b) → ins = Instr.linkOpen l ∧ s.getF (Reg.PIP_LINK_STATE_STATE l) ≠ 1 ∧ ldPeerPkg d ≠ s.pkgId ∨
        ins = Instr.pipOpenRetry l ∧ s.flag (Reg.PIP_LINK_STATE_OPEN_WAIT l) = true ∧ 100 ≤ late →
      u = (s.setLinkState l 2 0 1).modLink l (fun x => { x with asked := s.now }) →
      u.getF (Reg.PIP_LINK_STATE_STATE l) = 2 ∧ u.getF (Reg.PIP_LINK_STATE_ERR l) = 0 ∧ u.getF (Reg.PIP_LINK_STATE_OPEN_WAIT l) = 1 ∧
      (u.linkEnd l).asked = s.now ∧ exec ins s = .next (u.sendLane a b (s.pipPkt l 0 0x13 (s.openAux l false) (s.descBytes l)))) ∧
    (s.flag (Reg.PIP_LINK_STATE_OPEN_WAIT l) = false ∨ late < 100 → exec (.pipOpenRetry l) s = .next s) ∧
    (s.flag (Reg.PIP_LINK_STATE_OPEN_WAIT l) = true → 100 ≤ late → s.stagePath l = none → ∃ t, exec (.pipOpenRetry l) s = .next t ∧
      t.linkEnd l = { s.linkEnd l with asked := s.now } ∧ t = { s with links := t.links }) ∧
    (s.getF (Reg.PIP_LINK_STATE_STATE l) = 1 → ∃ t, exec (.linkClose l) s = .next t ∧ t.getF (Reg.PIP_LINK_STATE_STATE l) = 2 ∧ t.linkEnd l = LinkEnd.empty ∧
      (∀ k, k ≠ l → t.linkEnd k = s.linkEnd k) ∧ t = { s with regs := t.regs, links := t.links }) ∧
    (s.getF (Reg.PIP_LINK_STATE_STATE l) = 2 → ∃ t, exec (.linkClose l) s = .next t ∧ t.getF (Reg.PIP_LINK_STATE_STATE l) = 0 ∧ t = { s with regs := t.regs }) ∧
    (s.getF (Reg.PIP_LINK_STATE_STATE l) ∉ [1, 2] → exec (.linkClose l) s = .next s) ∧
    (∀ u, s.laneHead p v = some q → q.ptype = 0x13 → l = q.dst % 512 → s.linkDike p v l = true →
      u = (s.laneTake p v).modLink l (fun x => { x with vault := bitOf q.aux 1 }) →
      (bitOf q.aux 0 = false → exec (.pipOpen p v) s = .next (u.sendLane p v { u.pipPkt l 0 0x13 (u.openAux l true) (u.descBytes l) with
        resp := true, lepoch := q.lepoch, dstPkg := bitsOf q.src 35 22, dst := q.src % 512 })) ∧
      (bitOf q.aux 0 = true → u.flag (Reg.PIP_LINK_STATE_OPEN_WAIT l) = false → exec (.pipOpen p v) s = .next u) ∧
      (bitOf q.aux 0 = true → u.flag (Reg.PIP_LINK_STATE_OPEN_WAIT l) = true → ∃ t, exec (.pipOpen p v) s = .next t ∧
        t.getF (Reg.PIP_LINK_STATE_STATE l) = (if ldMatch u.pkgId l (u.linkDesc l) (bitsOf q.src 35 22) (q.src % 512) (numLE (q.payload.take 32)) then 1 else 2) ∧
        t.flag (Reg.PIP_LINK_STATE_OPEN_WAIT l) = false ∧ t = { u with regs := t.regs })) ∧
    (s.laneHead p v = some q → q.ptype = 0x13 → s.linkDike p v (q.dst % 512) = false → exec (.pipOpen p v) s = .next (s.laneTake p v).laneDrop) ∧
    (∀ (g : Nat) (n : Word), g < 256 → ∃ t, exec (.groupInit g n) s = .next t ∧ t.verState g 0 = 3 ∧ t.verNumber g 0 = n.toNat ∧
      (∀ j, 1 ≤ j → j < 4 → t.verState g j = 0) ∧ (∀ j < 4, t.getF (Reg.PIP_VER_REFS g j) = 0 ∧ t.getF (Reg.PIP_VER_DELTAS g j) = 0xFFF) ∧
      t = { s with regs := t.regs, firings := t.firings }) ∧
    (∀ p n, p < 8 → n = s.getF (Reg.PIP_POLDER_ABANDON_STEP_STEP p) → ∃ t : State, exec (.pipAbandon p) s = .next (t.allKilnWork p) ∧
      (∀ g ∈ s.groupsOf p, ∀ k < 64, t.stashAt g k = (s.stashAt g k).filter fun e => decide (e.step < n)) ∧
      (∀ g k, g ∉ s.groupsOf p → k < 80 → t.stashAt g k = s.stashAt g k) ∧
      (∀ k ∈ s.linksOf p, ldInfer (s.linkDesc k) = false →
        (ldRole (s.linkDesc k) = 2 → t.linkEpoch k = (s.linkEpoch k + 1) % 2 ^ 16 ∧ (t.linkEnd k).queue = (s.linkEnd k).queue.filter fun q => decide (q.step < n)) ∧
        (ldRole (s.linkDesc k) ≠ 2 → t.linkEnd k = { s.linkEnd k with due := (s.linkEnd k).due + 1 })) ∧
      (∀ k, k ∉ s.linksOf p → t.linkEnd k = s.linkEnd k) ∧ t.mem = s.mem ∧ t.cores = s.cores)

/-- R569: a scale record address that is not 0 is checked when its command issues, in A_SREC and B_SREC of a matrix command, OUT_SREC of a VSTREAM and a VROLL:
one that is not a multiple of 64 or lies in the scratchpad, control-window or host-window range ends the command with CORE_E_BADADDR, an unmapped one with
MEM_E_UNMAPPED, one in a channel of another polder with MEM_E_DIKE. Nothing is computed or written, and a matrix chain is discarded: at once, or when the commands
issued before it leave the engine.
Where the rules leave a point open it follows the model's own choices (log 101). -/
def Obligations.ScaleRecordAddressesAreChecked : Prop :=
  ∀ (i n a st p : Nat) (s : State) (e : SbEntry) (w : CmdWord), w = e.q.cmd → p = (s.core i).polder → a ≠ 0 → s.tileRefusal i e = 0 → e.q.bad = false →
    (st = 0x1007 ∧ (a % 64 ≠ 0 ∨ (0x10000000000 ≤ a ∧ a < 0x10100000000) ∨ (0x20000000000 ≤ a ∧ a < 0x20004000000) ∨ (0x80000000000 ≤ a ∧ a < 0x100000000000)) ∨
     st = 0x3001 ∧ a % 64 = 0 ∧ ¬ (0x10000000000 ≤ a ∧ a < 0x10100000000) ∧ region a = .unmapped ∨
     st = 0x3002 ∧ a % 64 = 0 ∧ ∃ d c, region a = .dram d c ∧ (8 ≤ p ∨ s.chanOwner d c ≠ p)) →
    (∀ op ins, (op, ins) ∈ [(0x10, Instr.matmul), (0x11, Instr.matw)] → s.issuing i n op = some e →
      (op = 0x10 → mmReserved e.q.v2 w = false ∧ mmFormatOk w = true) → (op = 0x11 → mwReserved w = false) →
      w.u64 0x10 = a ∨ s.srecStatus i (w.u64 0x10) = 0 ∧ w.u64 0x18 = a → ∃ t, exec (ins i n) s = .next t ∧ t.mem = s.mem ∧ t.tags = s.tags ∧
        (State.matrixBusy (s.core i) = true → InFlight t i e.q.seq { Flight.start with status := st } ∧ (t.core i).banks = (s.core i).banks) ∧
        (State.matrixBusy (s.core i) = false → (∀ b < 4, ((s.core i).bank b).isOpen = true → ((s.core i).bank b).failed = 0) →
          InFlight t i e.q.seq (Ended st) ∧
          ∀ b ∈ State.banksOf e.q, (t.core i).bank b =
            { Bank.empty with isOpen := true, failed := st, isSealed := ((s.core i).bank b).isSealed && ((s.core i).bank b).isOpen && cmdChain w })) ∧
    (s.issuing i n 0x20 = some e → vsReserved e.q.v2 w e.q.ext = false → vsSrec w = a → ∃ t, exec (.vstream i n) s = .next t ∧
      InFlight t i e.q.seq (Ended st) ∧ t.mem = s.mem ∧ t.tags = s.tags) ∧
    (s.issuing i n 0x21 = some e → w.u64 0x10 = a → ∃ t, exec (.vroll i n) s = .next t ∧ InFlight t i e.q.seq (Ended st) ∧ t.mem = s.mem ∧ t.tags = s.tags)

/-- R308: a RELEASE counts one releaser of its micro-batch in the stash that INFER selects; when the count reaches RELEASERS (which its field holds less one)
the entry is freed and its version's REFS falls by one; a micro-batch not in the stash ends it with PIP_E_NOSTASH. It needs no slot's routes. -/
def Obligations.ReleasesCountAndFreeTheStashEntry : Prop :=
  ∀ (i m g : Nat) (s : State) (e : SbEntry) (w : CmdWord), w = e.q.cmd → s.issuing i m 0x49 = some e → qMode w = 2 → s.groupOf i = some g →
    s.owned i e.q = true ∧
    (s.stashOf g (qInfer w) (w.u32 0x10) = none → ∃ t, exec (.release i m) s = .next t ∧ InFlight t i e.q.seq (Ended 0x5005) ∧ OnlyCore i s t) ∧
    (∀ b, s.stashOf g (qInfer w) (w.u32 0x10) = some b → b.count + 1 < s.getF (Reg.PIP_GROUP_MB_RELEASERS g) + 1 → ∃ t, exec (.release i m) s = .next t ∧
      InFlight t i e.q.seq (Ended 0) ∧ t.stashOf g (qInfer w) (w.u32 0x10) = some { b with count := b.count + 1 } ∧ t.regs = s.regs) ∧
    (∀ b, s.stashOf g (qInfer w) (w.u32 0x10) = some b → s.getF (Reg.PIP_GROUP_MB_RELEASERS g) + 1 ≤ b.count + 1 → b.vslot < 4 → ∃ u : State,
      exec (.release i m) s = .next ((u.allKilnWork (s.groupPolder g)).launchError i e 0) ∧ u.stashOf g (qInfer w) (w.u32 0x10) = none ∧
      u.getF (Reg.PIP_VER_REFS g b.vslot) = s.getF (Reg.PIP_VER_REFS g b.vslot) - 1 ∧
      u.getF (Reg.PIP_CNT_RELEASE_COUNT g) = (s.getF (Reg.PIP_CNT_RELEASE_COUNT g) + 1) % 2 ^ 64 ∧ u = { s with regs := u.regs, stash := u.stash })

/-! ### Media front-ends -/

/-- RING_POLL, MFE_SLICE_END, LANDING_WRITE, POSITION_FILLED (R259, R260, R266, R276 to R284): a polled ring's next descriptor goes to the lowest class that takes
it, or fails; the slices go on to the last of their tick; the shaper's sample lands its tiles in slots that own their routes; an engine's sample fills its position,
landed or failed, and the last of a set makes it ready.
Where the rules leave a point open it follows the model's own choices (logs 4, 29, 30, 51). -/
def Obligations.SamplesAreTakenAndLand : Prop :=
  ∀ (m p : Nat) (s : State), m < 4 → p < 8 →
    (s.flag (Reg.MFE_PCTL_RUN m p) = false ∨ (s.mfe m p).polled = some s.now → exec (.ringPoll m p) s = .next s) ∧
    (∀ u v i d src, s.flag (Reg.MFE_PCTL_RUN m p) = true → (s.mfe m p).polled ≠ some s.now →
      u = (s.mfeFetch m p (s.getF (Reg.MFE_RING_BASE_ADDR m p)) 64).modMfe m p (fun x => { x with polled := some s.now }) →
      (s.mfeBytes m p (s.getF (Reg.MFE_RING_BASE_ADDR m p)) 64).length = 64 → i = u.nextIdx m p → d = u.mfeBytes m p (u.descAddr m p i) 32 →
      v = u.mfeFetch m p (u.descAddr m p i) 32 → src = v.sourceOf m p d →
      (numAt (s.mfeBytes m p (s.getF (Reg.MFE_RING_BASE_ADDR m p)) 64) 0 4 = i → exec (.ringPoll m p) s = .next u) ∧
      (i + 1 < 2 ^ 32 → numAt (s.mfeBytes m p (s.getF (Reg.MFE_RING_BASE_ADDR m p)) 64) 0 4 = i + 1 → d.length = 32 →
        ((s.mfe m p).classes.find? (State.classTakes d src) = none → ∃ t, exec (.ringPoll m p) s = .next t ∧
          t.getF (Reg.MFE_RING_IDX_NEXT m p) = i + 1 ∧ t.getF (Reg.MFE_CNT_FAILED_COUNT m p) = (s.getF (Reg.MFE_CNT_FAILED_COUNT m p) + 1) % 2 ^ 64 ∧
          (s.flag (Reg.MFE_ERR_LAST_VALID m p) = false →
            t.getF (Reg.MFE_ERR_LAST_CODE m p) = (if src.length = sdLen d then 0x7007 else 0x7006) ∧ t.getF (Reg.MFE_ERR_LAST_RING_IDX m p) = i) ∧
          (t.mfe m p).flows = (s.mfe m p).flows ∧ (t.mfe m p).sets = (s.mfe m p).sets) ∧
        (∀ c sets b k, (s.mfe m p).classes.find? (State.classTakes d src) = some c → State.givePosition c (sdClose d) (s.mfe m p).sets = some (sets, b, k) →
          ∃ t, exec (.ringPoll m p) s = .next t ∧ t.getF (Reg.MFE_RING_IDX_NEXT m p) = i + 1 ∧ (t.mfe m p).sets = sets ∧
            (t.mfe m p).flows = (s.mfe m p).flows ++ [⟨i, d, src, src.length == sdLen d, c.cls, b, k, [], false⟩]) ∧
        (∀ c, (s.mfe m p).classes.find? (State.classTakes d src) = some c → State.givePosition c (sdClose d) (s.mfe m p).sets = none →
          ∃ t, exec (.ringPoll m p) s = .next t ∧ t.getF (Reg.MFE_RING_IDX_NEXT m p) = i ∧ t.mfe m p = u.mfe m p))) ∧
    (∃ t, exec (.mfeSliceEnd m) s = .next t ∧ SMap.get (fun _ => 0) t.mfSlice m = min 15 (SMap.get (fun _ => 0) s.mfSlice m + 1) ∧
      (∀ k, k ≠ m → SMap.get (fun _ => 0) t.mfSlice k = SMap.get (fun _ => 0) s.mfSlice k) ∧ t = { s with mfSlice := t.mfSlice }) ∧
    (∀ idx entry tile, s.flowOf m p idx = none → exec (.landingWrite m p idx entry tile) s = .next s ∧ exec (.positionFilled m p idx) s = .next s) ∧
    (∀ idx entry tile f c e a, s.flowOf m p idx = some (f, c) → e = c.entry f.buf f.pos entry → a = tileAddr (meCore e) ((meTile e + tile) % 192) →
      (s.mfeWorks m p = false ∨ s.inShaper m p f = false ∨ State.landsAt f c entry tile = false ∨ (entry, tile) ∈ f.landed ∨ f.whole = false ∨ f.failed = true →
        exec (.landingWrite m p idx entry tile) s = .next s) ∧
      (s.mfeWorks m p = true → s.inShaper m p f = true → State.landsAt f c entry tile = true → (entry, tile) ∉ f.landed → f.whole = true → f.failed = false →
        (s.ownsRoute (meCore e) (meRoute e) = false → ∃ t, exec (.landingWrite m p idx entry tile) s = .next t ∧ t = { s with regs := t.regs, free := t.free } ∧
          RegsBut [Reg.MFE_CNT_OUT_WAIT_COUNT m p] s t) ∧
        (s.ownsRoute (meCore e) (meRoute e) = true → ∃ t, exec (.landingWrite m p idx entry tile) s = .next t ∧
          (∀ x, x = unitTile (SMap.get (fun _ => []) s.toks m) c.profile f.desc f.src (meUnit e + tile) (fun k => s.fr k) →
            t.tile a = ⟨padTo 2048 x.data, x.tag, x.glaze⟩) ∧
          (∀ b, b < a ∨ a + 2048 ≤ b → Memory.read t.mem b = Memory.read s.mem b) ∧
          t.getF (Reg.MFE_CNT_TILES_COUNT m p) = (s.getF (Reg.MFE_CNT_TILES_COUNT m p) + 1) % 2 ^ 64 ∧
          (∀ g ∈ (t.mfe m p).flows, g.idx = idx → (entry, tile) ∈ g.landed) ∧ t.cores = s.cores))) ∧
    (∀ idx f c, s.flowOf m p idx = some (f, c) →
      (s.mfeWorks m p = false ∨ s.inEngine m p f = false → exec (.positionFilled m p idx) s = .next s) ∧
      (s.mfeWorks m p = true → s.inEngine m p f = true →
        (State.flowStatus f c = 0 → State.allLanded f c = false → exec (.positionFilled m p idx) s = .next s) ∧
        (∀ z re st r, s.setOf' m p f = some z → z.recs.length = f.pos → re = c.recs.getD z.buf 0 → st = State.flowStatus f c →
          r = sampleRecord (SMap.get (fun _ => []) s.toks m) c.profile f.desc f.src f.idx st s.now →
          (st = 0 → State.allLanded f c = true ∧ ∀ g ∈ (s.mfe m p).flows, g.idx = idx → g.failed = false) →
          (st ≠ 0 → ∀ g ∈ (s.mfe m p).flows, g.idx = idx → g.landed = []) →
          (z.recs.length + 1 ≠ c.positions → z.closed = false ∨ z.recs.length + 1 ≠ z.assigned → ∃ t, exec (.positionFilled m p idx) s = .next t ∧
            t.getF (Reg.MFE_CNT_LANDED_COUNT m p) = (s.getF (Reg.MFE_CNT_LANDED_COUNT m p) + if st = 0 then 1 else 0) % 2 ^ 64 ∧
            t.getF (Reg.MFE_CNT_FAILED_COUNT m p) = (s.getF (Reg.MFE_CNT_FAILED_COUNT m p) + if st = 0 then 0 else 1) % 2 ^ 64 ∧
            (st ≠ 0 → s.flag (Reg.MFE_ERR_LAST_VALID m p) = false → t.getF (Reg.MFE_ERR_LAST_CODE m p) = st) ∧
            (∀ g ∈ (t.mfe m p).flows, g.idx ≠ idx) ∧ t.mem = s.mem ∧ { z with recs := z.recs ++ [r] } ∈ (t.mfe m p).sets) ∧
          (z.recs.length + 1 = c.positions ∨ z.closed = true ∧ z.recs.length + 1 = z.assigned →
            (s.ownsRoute (meCore re) (meRoute re) = false → ∃ t, exec (.positionFilled m p idx) s = .next t ∧ t.mem = s.mem ∧ (t.mfe m p).sets = (s.mfe m p).sets) ∧
            (s.ownsRoute (meCore re) (meRoute re) = true → meTile re < 192 → ∃ t, exec (.positionFilled m p idx) s = .next t ∧
              t.getF (Reg.MFE_CNT_SETS_COUNT m p) = (s.getF (Reg.MFE_CNT_SETS_COUNT m p) + 1) % 2 ^ 64 ∧
              { z with recs := z.recs ++ [r], phase := .ready, readyAt := s.now } ∈ (t.mfe m p).sets ∧
              (∀ x, x = State.recordTile (z.recs ++ [r]) → t.tile (tileAddr (meCore re) (meTile re)) = ⟨padTo 2048 x.data, x.tag, x.glaze⟩) ∧
              (∀ b, b < tileAddr (meCore re) (meTile re) ∨ tileAddr (meCore re) (meTile re) + 2048 ≤ b → Memory.read t.mem b = Memory.read s.mem b))))))

/-- TOK_LOAD, MFE_RUN, MARK, REWIND (R274, R278, R285): a bad table or one while a polder works leaves the table as it is, with the error's number; RUN reads the
tables or names the lowest class refused; MARK records the next index; REWIND drops what has not been taken and reads again from the index marked.
Where the rules leave a point open it follows the model's own choices (log 51). -/
def Obligations.MediaFrontEndsLoadRunMarkAndRewind : Prop :=
  ∀ (m p : Nat) (s : State) (h l : List Byte) (a : Nat), m < 4 → p < 8 → a = s.getF (Reg.MFE_TOK_BASE_ADDR m) → h = s.tokBytes m a 64 →
    l = s.tokBytes m a (64 + 8 * numAt h 0x0C 4) →
    (s.mfeBusy m = true → ∃ t, exec (.tokLoad m) s = .next t ∧ t.getF (Reg.MFE_TOK_CTL_ERR m) = 2 ∧ OnlyRegs [Reg.MFE_TOK_CTL_ERR m] s t) ∧
    (s.mfeBusy m = false → h.length < 64 → ∃ t, exec (.tokLoad m) s = .next t ∧ t.getF (Reg.MFE_TOK_CTL_ERR m) = 3 ∧ OnlyRegs [Reg.MFE_TOK_CTL_ERR m] s t) ∧
    (s.mfeBusy m = false → 64 ≤ h.length → tokHeaderOk h = false → ∃ t, exec (.tokLoad m) s = .next t ∧ t.getF (Reg.MFE_TOK_CTL_ERR m) = 1 ∧
      OnlyRegs [Reg.MFE_TOK_CTL_ERR m] s t) ∧
    (s.mfeBusy m = false → 64 ≤ h.length → tokHeaderOk h = true → l.length < 64 + 8 * numAt h 0x0C 4 → ∃ t, exec (.tokLoad m) s = .next t ∧
      t.getF (Reg.MFE_TOK_CTL_ERR m) = 3 ∧ OnlyRegs [Reg.MFE_TOK_CTL_ERR m] s t) ∧
    (s.mfeBusy m = false → 64 ≤ h.length → tokHeaderOk h = true → 64 + 8 * numAt h 0x0C 4 ≤ l.length → tokMergesOk l = false → ∃ t, exec (.tokLoad m) s = .next t ∧
      t.getF (Reg.MFE_TOK_CTL_ERR m) = 1 ∧ OnlyRegs [Reg.MFE_TOK_CTL_ERR m] s t) ∧
    (s.mfeBusy m = false → 64 ≤ h.length → tokHeaderOk h = true → 64 + 8 * numAt h 0x0C 4 ≤ l.length → tokMergesOk l = true → ∃ t, exec (.tokLoad m) s = .next t ∧
      SMap.get (fun _ => []) t.toks m = tokMerges l ∧ t.getF (Reg.MFE_TOK_CTL_VOCAB m) = numAt h 8 4 ∧ t.getF (Reg.MFE_TOK_CTL_ERR m) = 0 ∧
      t = { s with toks := t.toks, regs := t.regs }) ∧
    (s.flag (Reg.MFE_PCTL_RUN m p) = true → exec (.mfeRun m p) s = .next s) ∧
    (∀ k, s.flag (Reg.MFE_PCTL_RUN m p) = false → s.readTables m p = .error k → k < 64 → ∃ t, exec (.mfeRun m p) s = .next t ∧
      t.getF (Reg.MFE_PCTL_ERR m p) = 1 ∧ t.getF (Reg.MFE_PCTL_ERR_DETAIL m p) = k ∧ t.flag (Reg.MFE_PCTL_RUN m p) = false ∧
      OnlyRegs [Reg.MFE_PCTL_ERR m p, Reg.MFE_PCTL_ERR_DETAIL m p] s t) ∧
    (∀ cs, s.flag (Reg.MFE_PCTL_RUN m p) = false → s.readTables m p = .ok cs → ∃ t, exec (.mfeRun m p) s = .next t ∧ t.flag (Reg.MFE_PCTL_RUN m p) = true ∧
      t.getF (Reg.MFE_PCTL_ERR m p) = 0 ∧ t.mfe m p = { s.mfe m p with classes := cs } ∧ t = { s with regs := t.regs, mfes := t.mfes }) ∧
    (∀ b, b = s.getF (Reg.MFE_RING_BASE_ADDR m p) + 4 →
      (s.mfeReach m p b = false → ∃ t, exec (.mark m p) s = .next t ∧ t.getF (Reg.MFE_RING_IDX_MARKED m p) = s.nextIdx m p ∧
        OnlyRegs [Reg.MFE_RING_IDX_MARKED m p] s t) ∧
      (s.mfeReach m p b = true → ∃ t, exec (.mark m p) s = .next t ∧ t.getF (Reg.MFE_RING_IDX_MARKED m p) = s.nextIdx m p ∧ t.memNat b 4 = s.nextIdx m p ∧
        (∀ x, x < b ∨ b + 4 ≤ x → Memory.read t.mem x = Memory.read s.mem x) ∧ t.cores = s.cores ∧ t.mfes = s.mfes)) ∧
    (∃ t, exec (.rewind m p) s = .next t ∧ t.nextIdx m p = s.getF (Reg.MFE_RING_IDX_MARKED m p) ∧ (t.mfe m p).flows = [] ∧
      (t.mfe m p).sets = (s.mfe m p).sets.filter (fun z => z.phase == .taken) ∧
      t.getF (Reg.MFE_CNT_SETS_DISCARDED_COUNT m p) = (s.getF (Reg.MFE_CNT_SETS_DISCARDED_COUNT m p) +
        ((s.mfe m p).sets.filter (fun z => z.phase != .taken)).length) % 2 ^ 64 ∧ t = { s with regs := t.regs, mfes := t.mfes })

/-! ### Kilns -/

/-- DELIVERY, FETCH_REQ, FETCH_DATA, FETCH_TIMEOUT, WB_DATA, WB_ACK, ROOT_COMPUTATION, TBL_LOAD (R330, R332, R340, R343, R345, R347, R349, R352, R372, R462, R473):
a delivery is taken, waits, or is refused; a tile whose glaze fails may come once more; a stale one is counted and done with; a repeated one is undefined behaviour;
a fetch brings its tile to its parked entry, and its failure is reported and tried again once; a service access is answered with its tile or its refusal; a root
computation ends in a lent slot; tables load when all are good.
Where the rules leave a point open it follows the model's own choices (logs 4, 75, 76, 77). -/
def Obligations.KilnsTakeTilesFetchesAndTables : Prop :=
  ∀ (s : State) (ce p op idx k i : Nat) (o : ColOp) (c : ColTile) (e : PullEntry), ce < 2 → p < 8 → i = 8 * ce + e.kiln → e.kiln < 8 →
    (DeliveryDue s ce p op idx o c e k →
      (s.weirLevel i p 1 < 8 → exec (.delivery ce p op idx) s = .next ((s.weirWait i p).setHeld i p (some (op, idx)))) ∧
      (∀ w off, 8 ≤ s.weirLevel i p 1 → w = s.weirSpend i p 1 8 → off = w.offerTile i p op o.step e.layer (e.ltile + k) c →
        (∀ code u, off = .refused code u → ∃ t : State, t.getF (Reg.KLN_CNT_REFUSED_COUNT i) = (u.getF (Reg.KLN_CNT_REFUSED_COUNT i) + 1) % 2 ^ 64 ∧ t.mem = u.mem ∧
          t.cores = u.cores ∧
          (code = 0x8004 → idx ∉ o.again → exec (.delivery ce p op idx) s = .next t ∧ t.colOp ce p op = (u.colOp ce p op).map fun x => { x with again := idx :: x.again }) ∧
          (code ≠ 0x8004 ∨ idx ∈ o.again → exec (.delivery ce p op idx) s = .next ((t.quiesce p .kilnRefusal).dueRestore p) ∧
            t.colOp ce p op = (u.colOp ce p op).map fun x => { x with code := code })) ∧
        (∀ u b, off = .taken u b → u.colOp ce p op = some o → ∃ v : State, exec (.delivery ce p op idx) s = .next (v.advanceOp ce p op) ∧
          v.colOp ce p op = some { o with results := SMap.set (fun _ => none) o.results idx none, done := idx :: o.done } ∧
          v.getF (Reg.COL_CNT_DELIVERED_COUNT ce) = (u.getF (Reg.COL_CNT_DELIVERED_COUNT ce) + 1) % 2 ^ 64 ∧ v.mem = u.mem ∧ v.cores = u.cores) ∧
        (∀ u, off = .waits u → exec (.delivery ce p op idx) s = .next (State.setHeld i p (some (op, idx)) { u with weirs := s.weirs })) ∧
        (∀ x, off = .undef x → exec (.delivery ce p op idx) s = .refused (.undefinedBehaviour x)) ∧
        (w.lent i p (w.getF (Reg.KLN_LDESC_BASE_ADDR i) + 64 * e.layer) = false → off = .waits w) ∧
        (w.lent i p (w.getF (Reg.KLN_LDESC_BASE_ADDR i) + 64 * e.layer) = true → c.tile.ok = false → off = .refused 0x8004 w) ∧
        (∀ l, w.lent i p (w.getF (Reg.KLN_LDESC_BASE_ADDR i) + 64 * e.layer) = true → w.klayer i e.layer = some l → c.tile.ok = true → tagKind c.tile.tag = 0 →
          tagFmt c.tile.tag ≤ 2 → kdValid l.desc = true → e.ltile + k < kdTiles l.desc → ktUnused (w.ktable l.table) = false →
          (o.step < kdStep (w.ldesc i e.layer) → ∃ u, off = .taken u false ∧ u = { w with regs := u.regs } ∧
            u.getF (Reg.KLN_CNT_STALE_COUNT i) = (w.getF (Reg.KLN_CNT_STALE_COUNT i) + 1) % 2 ^ 64) ∧
          (kdStep (w.ldesc i e.layer) < o.step → o.step ≠ kdStep (w.ldesc i e.layer) + 1 ∨ l.seen.length < kdTiles l.desc → off = .refused 0x8002 w) ∧
          (o.step = kdStep (w.ldesc i e.layer) → (e.ltile + k) ∈ l.seen → exec (.delivery ce p op idx) s = .refused (.undefinedBehaviour "R343"))))) ∧
    (s.colOp ce p op = none → exec (.delivery ce p op idx) s = .next s) ∧
    (∀ port vc q pol a n u id, s.headOf port vc 0x26 = some q → pol = s.vcPolder port vc → a = q.dst % 2 ^ 44 → n = bitsOf q.aux 22 16 → u = s.laneTake port vc →
      id = q.aux % 65536 →
      (s.serveStatus pol a n ≠ 0 → exec (.fetchReq port vc) s =
        .next ((u.colRefuse pol a (s.serveStatus pol a n)).laneReply port vc q 0x27 id (s.serveStatus pol a n) false [])) ∧
      (s.serveStatus pol a n = 0 → (∃ j < n, s.serviceOk (port / 8) pol (a + 2048 * j) = false) → exec (.fetchReq port vc) s = .next s) ∧
      (s.serveStatus pol a n = 0 → (∀ j < n, s.serviceOk (port / 8) pol (a + 2048 * j) = true) →
        (s.weirPass pol readTile a = false → exec (.fetchReq port vc) s = .next (s.weirHold pol a)) ∧
        (s.weirPass pol readTile a = true → s.inSaggar a = true → s.vcKey port vc = [] → exec (.fetchReq port vc) s =
          .next (u.laneReply port vc q 0x27 id 0x9006 false [])) ∧
        (s.weirPass pol readTile a = true → s.inSaggar a = false ∨ s.vcKey port vc ≠ [] → ∃ t, exec (.fetchReq port vc) s = .next t ∧
          t = (List.range n).foldl (fun x j => (x.meter pol readTile (a + 2048 * j)).laneReply port vc q 0x27 (id + j * 2 ^ 16) 0 (s.inSaggar (a + 2048 * j))
            (State.tilePayload (s.tile (a + 2048 * j)))) u ∧ t.mem = s.mem ∧ t.tags = s.tags ∧ t.cores = s.cores))) ∧
    (∀ port vc q pol a, s.headOf port vc 0x28 = some q → pol = s.vcPolder port vc → a = q.dst % 2 ^ 44 →
      (s.serveStatus pol a 1 ≠ 0 → exec (.wbData port vc) s = .next (((s.laneTake port vc).colRefuse pol a (s.serveStatus pol a 1)).laneReply port vc q 0x29
        (q.aux % 65536) (s.serveStatus pol a 1) false [])) ∧
      (s.serveStatus pol a 1 = 0 → s.serviceOk (port / 8) pol a = false → exec (.wbData port vc) s = .next s) ∧
      (s.serveStatus pol a 1 = 0 → s.serviceOk (port / 8) pol a = true → s.weirPass pol writeTile a = false → exec (.wbData port vc) s = .next (s.weirHold pol a)) ∧
      (s.serveStatus pol a 1 = 0 → s.serviceOk (port / 8) pol a = true → s.weirPass pol writeTile a = true → ∃ t, exec (.wbData port vc) s = .next t ∧
        t.tile a = ⟨padTo 2048 (State.payloadTile q.payload).data, (State.payloadTile q.payload).tag, (State.payloadTile q.payload).glaze⟩ ∧
        (∀ x, x < a ∨ a + 2048 ≤ x → Memory.read t.mem x = Memory.read s.mem x) ∧ t.cores = s.cores)) ∧
    (∀ port vc, (s.headOf port vc 0x26 = none → exec (.fetchReq port vc) s = .next s) ∧ (s.headOf port vc 0x28 = none → exec (.wbData port vc) s = .next s) ∧
      (s.headOf port vc 0x27 = none → exec (.fetchData (.lane port vc)) s = .next s) ∧ (s.headOf port vc 0x29 = none → exec (.wbAck (.lane port vc)) s = .next s)) ∧
    (∀ src f y v, (∃ id, src = .host id ∧ s.fetches.find? (fun f => f.id == id && f.lane.isNone && f.data.isNone) = some f ∧ y = s.farTile 0 f.addr ∧ v = s) ∨
        (∃ port vc q, src = .lane port vc ∧ s.headOf port vc 0x27 = some q ∧ v = s.laneTake port vc ∧ v.fetchOf (q.dst % 65536) port vc false = some f ∧
          q.aux % 65536 = 0 ∧ y = State.payloadTile q.payload) →
      ((v.kiln f.kiln).parked.find? (fun x => x.id == f.entry) = none → exec (.fetchData src) s = .next { v with fetches := v.fetches.filter fun z => z.id != f.id }) ∧
      (∀ x, (v.kiln f.kiln).parked.find? (fun x => x.id == f.entry) = some x → ∃ u : State, exec (.fetchData src) s = .next (u.kilnWork f.kiln f.polder) ∧
        u = { v with fetches := v.fetches.filter fun z => z.id != f.id, kilns := u.kilns } ∧
        ((u.kiln f.kiln).parked.find? fun e => e.id == f.entry) = some { x with got := x.got ++ [(f.slot, y)] })) ∧
    (∀ port vc q f x, s.headOf port vc 0x27 = some q → (s.laneTake port vc).fetchOf (q.dst % 65536) port vc false = some f → q.aux % 65536 ≠ 0 → f.kiln < 16 →
      ((s.laneTake port vc).kiln f.kiln).parked.find? (fun x => x.id == f.entry) = some x → FetchFails f (exec (.fetchData (.lane port vc)) s) (s.laneTake port vc)) ∧
    (∀ id, s.fetches.find? (fun f => f.id == id && f.lane.isNone && f.data.isNone) = none → exec (.fetchData (.host id)) s = .next s) ∧
    (∀ id f, s.fetches.find? (fun f => f.id == id && f.left == 0) = some f → f.kiln < 16 → FetchFails f (exec (.fetchTimeout id) s) s) ∧
    (∀ id, s.fetches.find? (fun f => f.id == id && f.left == 0) = none → exec (.fetchTimeout id) s = .next s) ∧
    (∀ src f v, (∃ id w, src = .host id ∧ s.fetches.find? (fun f => f.id == id && f.lane.isNone && f.data.isSome) = some f ∧ f.data = some w ∧ region f.addr = .host ∧
          v.bytes f.addr 2048 = padTo 2048 w.data ∧ v = { s with mem := v.mem }) ∨
        (∃ port vc q, src = .lane port vc ∧ s.headOf port vc 0x29 = some q ∧ v = s.laneTake port vc ∧ v.fetchOf (q.dst % 65536) port vc true = some f ∧
          q.aux % 65536 = 0) → (∀ x, x < f.addr ∨ f.addr + 2048 ≤ x → Memory.read v.mem x = Memory.read s.mem x) →
      ((s.kiln f.kiln).parked.find? (fun e => e.id == f.entry) = none → ∃ t, exec (.wbAck src) s = .next t ∧ t.kilns = s.kilns ∧ t.tags = s.tags ∧
        t.fetches = s.fetches.filter (fun z => z.id != f.id) ∧ (∀ x, Memory.read t.mem x = Memory.read v.mem x)) ∧
      (∀ e, (s.kiln f.kiln).parked.find? (fun e => e.id == f.entry) = some e → 1 < e.wbs → ∃ t, exec (.wbAck src) s = .next t ∧
        ((t.kiln f.kiln).parked.find? fun e => e.id == f.entry) = some { e with wbs := e.wbs - 1 } ∧ t.fetches = s.fetches.filter (fun z => z.id != f.id) ∧
        (∀ x, Memory.read t.mem x = Memory.read v.mem x)) ∧
      (∀ e, (s.kiln f.kiln).parked.find? (fun e => e.id == f.entry) = some e → e.wbs ≤ 1 → ∃ u : State, exec (.wbAck src) s = .next (u.kilnWork f.kiln f.polder) ∧
        (∀ z ∈ (u.kiln f.kiln).parked, z.id ≠ e.id) ∧ u.fetches = s.fetches.filter (fun z => z.id != f.id) ∧ (∀ x, Memory.read u.mem x = Memory.read v.mem x))) ∧
    (∀ port vc q, s.headOf port vc 0x29 = some q → (s.laneTake port vc).fetchOf (q.dst % 65536) port vc true = none →
      exec (.wbAck (.lane port vc)) s = .next (s.laneTake port vc)) ∧
    (∀ port vc q f, s.headOf port vc 0x29 = some q → (s.laneTake port vc).fetchOf (q.dst % 65536) port vc true = some f → q.aux % 65536 ≠ 0 → f.kiln < 16 →
      FetchFails f (exec (.wbAck (.lane port vc)) s) (s.laneTake port vc)) ∧
    (∀ ly b, (s.kiln i).roots.find? (fun r => r.layer == ly && r.block == b && r.res == .pending) = none → exec (.rootComputation i ly b) s = .next s) ∧
    (∀ ly b r g, (s.kiln i).roots.find? (fun r => r.layer == ly && r.block == b && r.res == .pending) = some r → g = s.groupPolder (kdGroup (s.ldesc i ly)) →
      (s.lenders i g = [] ∨ s.lentAll i g (s.workTiles i) = false → exec (.rootComputation i ly b) s = .next s) ∧
      (s.lenders i g ≠ [] → s.lentAll i g (s.workTiles i) = true →
        (∀ n ∈ s.opsOf g, n.1 = i / 8 → ∀ x, s.colOp n.1 g n.2 = some x → ∀ z ∈ x.results, x.kilnOf n.1 z.1 ≠ some i) → ∃ t, exec (.rootComputation i ly b) s = .next t ∧
        t.getF (Reg.KLN_CNT_NEWTON_COUNT i) = (s.getF (Reg.KLN_CNT_NEWTON_COUNT i) + 1) % 2 ^ 64 ∧ r ∉ (t.kiln i).roots ∧
        (∃ x, x ≠ .pending ∧ { r with res := x } ∈ (t.kiln i).roots) ∧ t.cores = s.cores)) ∧
    (s.anyRuns = true → ∃ t, exec .tblLoad s = .next t ∧ t.getF Reg.KLN_TBL_CTL_ERR = 2 ∧ OnlyRegs [Reg.KLN_TBL_CTL_ERR, Reg.KLN_TBL_CTL_ERR_TABLE] s t) ∧
    (s.anyRuns = false → region (s.getF Reg.KLN_TBL_BASE_ADDR) = .unmapped ∨ region (s.getF Reg.KLN_TBL_BASE_ADDR) = .control → ∃ t, exec .tblLoad s = .next t ∧
      t.getF Reg.KLN_TBL_CTL_ERR = 3 ∧ OnlyRegs [Reg.KLN_TBL_CTL_ERR, Reg.KLN_TBL_CTL_ERR_TABLE] s t) ∧
    (s.anyRuns = false → region (s.getF Reg.KLN_TBL_BASE_ADDR) ≠ .unmapped → region (s.getF Reg.KLN_TBL_BASE_ADDR) ≠ .control →
      (∀ n < 64, ktBad (s.getF Reg.KLN_TBL_VERSION_ALLOWED) s.tablesAt (s.tablesAt.getD n []) = true →
        (∀ j < n, ktBad (s.getF Reg.KLN_TBL_VERSION_ALLOWED) s.tablesAt (s.tablesAt.getD j []) = false) → ∃ t, exec .tblLoad s = .next t ∧
        t.getF Reg.KLN_TBL_CTL_ERR = 1 ∧ t.getF Reg.KLN_TBL_CTL_ERR_TABLE = n ∧ OnlyRegs [Reg.KLN_TBL_CTL_ERR, Reg.KLN_TBL_CTL_ERR_TABLE] s t) ∧
      ((∀ j < 64, ktBad (s.getF Reg.KLN_TBL_VERSION_ALLOWED) s.tablesAt (s.tablesAt.getD j []) = false) → ∃ t, exec .tblLoad s = .next t ∧
        t.getF Reg.KLN_TBL_CTL_ERR = 0 ∧ (∀ j < 64, t.ktable j = s.tablesAt.getD j []) ∧
        (∀ j < 64, bitOf (t.getF Reg.KLN_TBL_USED_USED) j = !ktUnused (s.tablesAt.getD j [])) ∧ t = { s with regs := t.regs, ktables := t.ktables }))

/-! ### Stacks, supplies' limits and the registry -/

/-- WEIR_REFILL, THROTTLE_RISE, CURRENT_LIMIT, TIMING_MONITOR_WARNING, APPLY_REPAIR, MARGIN_START, MARGIN_DONE, WIPE, WIPE_DONE (R376, R397 to R401, R518 to R520):
buckets gain their RATE; a domain rises one point ten calm ticks after heat and falls two points on a current limit; a repair takes effect or says why not; a margin
test runs, reports and wipes; wipes zero the populated part of their channels and nothing else.
Where the rules leave a point open it follows the model's own choices (logs 4, 37, 65, 78). -/
def Obligations.StacksAreRefilledThrottledRepairedTestedAndWiped : Prop :=
  ∀ (s : State) (st : Nat), st < 16 →
    (∃ t, exec .weirRefill s = .next t ∧ t = { s with weirs := t.weirs } ∧
      (∀ k n, (k, n) ∈ s.weirs → s.getF (Reg.MEM_WEIR_RATE (k / 27) (k / 3 % 9) (k % 3)) < n →
        (k, n - s.getF (Reg.MEM_WEIR_RATE (k / 27) (k / 3 % 9) (k % 3))) ∈ t.weirs) ∧
      (∀ k n, (k, n) ∈ t.weirs → (k, n + s.getF (Reg.MEM_WEIR_RATE (k / 27) (k / 3 % 9) (k % 3))) ∈ s.weirs ∧ 0 < n)) ∧
    (∀ d < 256, (s.domOn d = true → 10 ≤ (s.dom d).calm → 0 < (s.dom d).therm → ∃ t, exec (.throttleRise d) s = .next t ∧
        t.getF (Reg.PWR_DOM_POINT d) = s.getF (Reg.PWR_DOM_POINT d) - 1 ∧ (t.dom d).therm = (s.dom d).therm - 1 ∧ (t.dom d).calm = 0 ∧
        (∀ e, e ≠ d → t.dom e = s.dom e) ∧ RegsBut [Reg.PWR_DOM_POINT d, Reg.PWR_DOM_VOLT d, Reg.PWR_DOM_THROTTLED d] s t ∧
        t = { s with regs := t.regs, power := t.power }) ∧
      (s.domOn d = false ∨ (s.dom d).calm < 10 ∨ (s.dom d).therm = 0 → exec (.throttleRise d) s = .next s) ∧
      (s.domOn d = true → ∃ t, exec (.timingMonitorWarning d) s = .next t ∧ t.getF (Reg.PWR_DOM_TRIM d) = 0 ∧
        t.getF (Reg.PWR_DOM_VOLT d) = pointVolt (s.getF (Reg.PWR_DOM_POINT d)) ∧ OnlyRegs [Reg.PWR_DOM_TRIM d, Reg.PWR_DOM_VOLT d] s t) ∧
      (s.domOn d = false → exec (.timingMonitorWarning d) s = .next s)) ∧
    (∃ t, exec .currentLimit s = .next t ∧ t.flag Reg.PWR_STATUS_CURR_LIMIT = true ∧
      t.getF Reg.PWR_CNT_CURR_LIMIT_COUNT = (s.getF Reg.PWR_CNT_CURR_LIMIT_COUNT + 1) % 2 ^ 64 ∧
      (∀ d < 256, t.getF (Reg.PWR_DOM_POINT d) = if s.domOn d then min 7 (s.getF (Reg.PWR_DOM_POINT d) + 2) else s.getF (Reg.PWR_DOM_POINT d)) ∧
      t = { s with regs := t.regs, power := t.power }) ∧
    (s.repairErr st ≠ 0 → ∃ t, exec (.applyRepair st) s = .next t ∧ t.getF (Reg.MEM_REPAIR_CTL_ERR st) = s.repairErr st ∧
      OnlyRegs [Reg.MEM_REPAIR_CTL_ERR st] s t) ∧
    (∀ e a, s.repairErr st = 0 → e = s.getF (Reg.MEM_REPAIR_ENTRY_ENTRY st) → State.repKind e = 0 →
      a = st * 0x1000000000 + State.repChan e * 0x80000000 + State.repDie e * 0x8000000 + State.repRow e * 262144 + State.repBank e * 16384 → ∃ t,
        exec (.applyRepair st) s = .next t ∧ t.getF (Reg.MEM_REPAIR_CTL_ERR st) = 0 ∧ t.soft = s.soft ++ [(st, e)] ∧
        (∀ x, a ≤ x → x < a + 16384 → Memory.read t.mem x = 0) ∧ (∀ x, x < a ∨ a + 16384 ≤ x → Memory.read t.mem x = Memory.read s.mem x)) ∧
    (∀ e a, s.repairErr st = 0 → e = s.getF (Reg.MEM_REPAIR_ENTRY_ENTRY st) → State.repKind e = 1 → a = st * 0x1000000000 + State.repChan e * 0x80000000 → ∃ t,
        exec (.applyRepair st) s = .next t ∧ t.getF (Reg.MEM_REPAIR_CTL_ERR st) = 0 ∧ t.soft = s.soft ++ [(st, e)] ∧
        (∀ x, a ≤ x → x < a + 0x60000000 → Memory.read t.mem x = 0) ∧ (∀ x, x < a ∨ a + 0x60000000 ≤ x → Memory.read t.mem x = Memory.read s.mem x)) ∧
    (s.flag (Reg.MEM_STACK_STATUS_MARGIN st) = true → exec (.marginStart st) s = .next s) ∧
    (s.flag (Reg.MEM_STACK_STATUS_MARGIN st) = false → s.marginBad st = true → ∃ t, exec (.marginStart st) s = .next t ∧ t.flag (Reg.MEM_MARGIN_RESULT_FAIL st) = true ∧
      OnlyRegs [Reg.MEM_MARGIN_RESULT_FAIL st] s t) ∧
    (s.flag (Reg.MEM_STACK_STATUS_MARGIN st) = false → s.marginBad st = false → ∃ t, exec (.marginStart st) s = .next t ∧
      t.flag (Reg.MEM_STACK_STATUS_MARGIN st) = true ∧ t.flag (Reg.MEM_MARGIN_RESULT_FAIL st) = false ∧ t.flag (Reg.MEM_MARGIN_RESULT_DONE st) = false ∧
      t.testing = s.testing ++ s.marginChans st ∧ SMap.get (fun _ => 0) t.moved st = s.marginVolt st ∧ t = { s with regs := t.regs, moved := t.moved, testing := t.testing }) ∧
    (∀ n, s.flag (Reg.MEM_STACK_STATUS_MARGIN st) = true → ∃ t, exec (.marginDone st n) s = .next t ∧ t.flag (Reg.MEM_STACK_STATUS_MARGIN st) = false ∧
      t.flag (Reg.MEM_MARGIN_RESULT_DONE st) = true ∧ t.getF (Reg.MEM_MARGIN_RESULT_BIT_ERRORS st) = min n 0xFFFFFFFF ∧ SMap.get (fun _ => 0) t.moved st = 0 ∧
      (∀ c ∈ s.testing, if c / 32 = st then c ∈ t.wiping ∧ c ∉ t.testing else c ∈ t.testing) ∧
      t = { s with regs := t.regs, moved := t.moved, testing := t.testing, wiping := t.wiping }) ∧
    (∀ n, s.flag (Reg.MEM_STACK_STATUS_MARGIN st) = false → exec (.marginDone st n) s = .next s) ∧
    (∀ m, ∃ t, exec (.wipe m) s = .next t ∧ (∀ c ∈ s.wiping, c ∈ t.wiping) ∧ t = { s with regs := t.regs, wiping := t.wiping } ∧
      ∀ p < 8, bitOf m p = true → ((s.wheel p).runs = true → bitOf (t.getF Reg.MEM_WIPE_STATUS_REFUSED) p = true) ∧
        ((s.wheel p).runs = false → ∀ c ∈ s.chanList p, c ∈ t.wiping)) ∧
    (∀ cs, ∃ t, exec (.wipeDone cs) s = .next t ∧ t.wiping = s.wiping.filter (fun c => c ∉ cs) ∧
      (∀ c ∈ s.wiping, c ∈ cs → ∀ o < 0x60000000, Memory.read t.mem (c / 32 * 0x1000000000 + c % 32 * 0x80000000 + o) = 0) ∧
      (∀ a, (∀ c ∈ s.wiping, c ∈ cs → a < c / 32 * 0x1000000000 + c % 32 * 0x80000000 ∨ c / 32 * 0x1000000000 + c % 32 * 0x80000000 + 0x60000000 ≤ a) →
        Memory.read t.mem a = Memory.read s.mem a) ∧ t.cores = s.cores ∧ t.tide = s.tide)

/-- PIN, UNPIN, EVICT, LOAD, REG_LOAD_COMPLETE (R392 to R396): an empty entry is not pinned; a used or pinned one is not evicted; an eviction leaves the entry COLD and
is counted; a LOAD without room says so; a load that failed leaves the entry COLD with FAILED, one that ended well leaves it HOT.
Where the rules leave a point open it follows the model's own choices (log 80). -/
def Obligations.RegistryEntriesArePinnedEvictedAndLoaded : Prop :=
  ∀ (n : Nat) (s : State) (e : List Byte) (a : Nat), e = s.entry n → a = s.getF Reg.MEM_REG_BASE_ADDR + 64 * n → n < 256 →
    (∀ ins ∈ [Instr.pinEntry n, Instr.unpinEntry n], reState e = 0 → ∃ t, exec ins s = .next t ∧ t.getF Reg.MEM_REG_STATUS_ERR = 5 ∧
      t.getF Reg.MEM_REG_STATUS_INDEX = n ∧ OnlyRegs [Reg.MEM_REG_STATUS_ERR, Reg.MEM_REG_STATUS_INDEX] s t) ∧
    (reState e ≠ 0 → ∃ t, exec (.pinEntry n) s = .next t ∧ rePinned (t.entry n) = true ∧ reLast (t.entry n) = s.now ∧ t.getF Reg.MEM_REG_STATUS_ERR = 0 ∧
      (∀ x, x < a ∨ a + 64 ≤ x → Memory.read t.mem x = Memory.read s.mem x) ∧ RegsBut [Reg.MEM_REG_STATUS_ERR, Reg.MEM_REG_STATUS_INDEX] s t) ∧
    (reState e ≠ 0 → ∃ t, exec (.unpinEntry n) s = .next t ∧ rePinned (t.entry n) = false ∧ t.getF Reg.MEM_REG_STATUS_ERR = 0 ∧
      (∀ x, x ≠ a + 9 → Memory.read t.mem x = Memory.read s.mem x) ∧ RegsBut [Reg.MEM_REG_STATUS_ERR, Reg.MEM_REG_STATUS_INDEX] s t) ∧
    (reUsers e ≠ 0 → ∃ t, exec (.evictEntry n) s = .next t ∧ t.getF Reg.MEM_REG_STATUS_ERR = 1 ∧ t.mem = s.mem) ∧
    (reUsers e = 0 → rePinned e = true → ∃ t, exec (.evictEntry n) s = .next t ∧ t.getF Reg.MEM_REG_STATUS_ERR = 3 ∧ t.mem = s.mem) ∧
    (reUsers e = 0 → rePinned e = false → reLive e = true → s.saggars 0 (fun k => s.getF (Reg.SEC_SAGGAR_ENTRY k) == n) = [] →
      s.flag Reg.MGT_TRACE_CTL_ENABLE = false → ∃ t, exec (.evictEntry n) s = .next t ∧ reState (t.entry n) = 1 ∧ t.getF Reg.MEM_REG_STATUS_ERR = 0 ∧
        t.getF Reg.MEM_CNT_REG_EVICT_COUNT = (s.getF Reg.MEM_CNT_REG_EVICT_COUNT + 1) % 2 ^ 64 ∧
        ∀ x, x ≠ a + 8 → Memory.read t.mem x = Memory.read s.mem x) ∧
    (reUsers e = 0 → rePinned e = false → reLive e = false → ∃ t, exec (.evictEntry n) s = .next t ∧ t.getF Reg.MEM_REG_STATUS_ERR = 0 ∧
      OnlyRegs [Reg.MEM_REG_STATUS_ERR, Reg.MEM_REG_STATUS_INDEX] s t) ∧
    (reState e ≠ 1 ∨ s.waitsKey e = true → ∃ t, exec (.regLoad n) s = .next t ∧ t.getF Reg.MEM_REG_STATUS_ERR = 0 ∧ reLast (t.entry n) = s.now ∧
      reState (t.entry n) = reState e) ∧
    (reState e = 1 → s.waitsKey e = false → s.startLoad n = none → ∃ t, exec (.regLoad n) s = .next t ∧ t.getF Reg.MEM_REG_STATUS_ERR = 2 ∧
      OnlyRegs [Reg.MEM_REG_STATUS_ERR, Reg.MEM_REG_STATUS_INDEX] s t) ∧
    (∀ u, reState e = 1 → s.waitsKey e = false → s.startLoad n = some u → ∃ t, exec (.regLoad n) s = .next t ∧ t.getF Reg.MEM_REG_STATUS_ERR = 0 ∧
      reLast (t.entry n) = u.now ∧ (s.flag Reg.MGT_TRACE_CTL_ENABLE = false → reState (t.entry n) = 2)) ∧
    (∀ r, reState e ≠ 2 → exec (.regLoadComplete n r) s = .next s) ∧
    (reState e = 2 → s.saggars 0 (fun k => s.getF (Reg.SEC_SAGGAR_ENTRY k) == n) = [] → s.flag Reg.MGT_TRACE_CTL_ENABLE = false →
      (∀ p < 8, (s.job p).active = true → bitOf (s.job p).models n = false) → ∃ t, exec (.regLoadComplete n .failed) s = .next t ∧ reState (t.entry n) = 1 ∧
        bitOf (numAt (t.entry n) 9 1) 2 = true ∧ t.getF Reg.MEM_CNT_REG_FAIL_COUNT = (s.getF Reg.MEM_CNT_REG_FAIL_COUNT + 1) % 2 ^ 64 ∧
        t.getF Reg.MEM_REG_STATUS_ERR = 4) ∧
    (∀ ts u, reState e = 2 → reSealed e = false → s.homeTiles e .host = some ts → s.writeModel e ts = some u → s.flag Reg.MGT_TRACE_CTL_ENABLE = false →
      (∀ p < 8, (s.job p).active = false) → ∃ t, exec (.regLoadComplete n .host) s = .next t ∧ reState (t.entry n) = 3 ∧
        t.getF Reg.MEM_CNT_REG_LOAD_COUNT = (s.getF Reg.MEM_CNT_REG_LOAD_COUNT + 1) % 2 ^ 64 ∧
        ∀ x, x ≠ a + 8 → Memory.read t.mem x = Memory.read u.mem x)

/-! ### Collectives -/

/-- CONTRIBUTION_PULL, RED_PART, RED_RESULT, DIGEST_REC, GATHER_DATA, PERM_DATA, PERM_ACK (R458 to R470, R475): a contribution whose glaze fails is pulled once more; a sound
one waits for the partial or goes on at once; a partial waits for its contribution and is combined with it; a packet of no operation, an earlier step or a failed
operation is dropped and one of a later step waits; results and gathered tiles are kept, written and passed on; digest records are collected and compared; repair and
permute tiles are sent, passed on and written; acknowledgements are counted.
Where the rules leave a point open it follows the model's own choices (logs 4, 75). -/
def Obligations.CollectivesPullCombineGatherAndPermute : Prop :=
  ∀ (s : State) (ce p n k port vc j : Nat) (q : LanePkt), ce < 2 → p < 8 → n < 1024 → port < 16 → j = port / 8 →
    (s.colOp ce p n = none → ∀ ins ∈ [Instr.contributionPull ce p n k, Instr.digestRec (.own ce p n k), Instr.gatherData (.own ce p n k), Instr.permData (.own ce p n k)],
      exec ins s = .next s) ∧
    (∀ ty ins, (ty, ins) ∈ [(0x20, Instr.redPart port vc), (0x21, Instr.redResult port vc), (0x22, Instr.digestRec (.lane port vc)), (0x23, Instr.gatherData (.lane port vc)),
      (0x24, Instr.permData (.lane port vc)), (0x25, Instr.permAck port vc)] → s.headOf port vc ty = none → exec ins s = .next s) ∧
    (∀ o, s.colOp ce p n = some o → o.pulls[k]? = none → exec (.contributionPull ce p n k) s = .next s) ∧
    (∀ (o : ColOp) (e : PullEntry) (pos t x : Nat) (c : ColTile), s.colOp ce p n = some o → o.pulls[k]? = some e → pos = SMap.get (fun _ => 0) o.pos k →
      t = (e.tile + pos) % 192 → x = e.index + pos → c = ⟨s.spTile e.core t, ((s.core e.core).attr t).isSealed, 0⟩ →
      (o.kind ≠ 1 ∨ o.code ≠ 0 ∨ k ∉ o.started ∨ e.tiles ≤ pos ∨ s.ownsRoute e.core e.route = false ∨ s.tilePending e.core t = true →
        exec (.contributionPull ce p n k) s = .next s) ∧
      (o.kind = 1 → o.code = 0 → k ∈ o.started → pos < e.tiles → s.ownsRoute e.core e.route = true → s.tilePending e.core t = false →
        (s.routeQuarantined (s.route (State.dieOf e.core) e.route) = true → OpFails ce p n 0x4003 (exec (.contributionPull ce p n k) s) s) ∧
        (s.routeQuarantined (s.route (State.dieOf e.core) e.route) = false →
          (s.getF (Reg.COL_SHARE_CONTRIB ce p) ≤ s.contribUsed ce p → ∃ u, exec (.contributionPull ce p n k) s = .next u ∧
            u = { s with regs := u.regs, free := u.free } ∧ RegsBut [Reg.COL_CNT_CONTRIB_FULL_COUNT ce] s u) ∧
          (s.contribUsed ce p < s.getF (Reg.COL_SHARE_CONTRIB ce p) →
            (o.m ≤ 1 → s.resultRoom ce p = false → exec (.contributionPull ce p n k) s = .next s) ∧
            (1 < o.m ∨ s.resultRoom ce p = true →
              (c.tile.ok = false → k ∉ o.glazed → ∃ u, exec (.contributionPull ce p n k) s = .next u ∧
                u.colOp ce p n = some { o with glazed := k :: o.glazed } ∧ u = { s with ops := u.ops, regs := u.regs } ∧
                u.getF (Reg.COL_CNT_PULL_AGAIN_COUNT ce) = (s.getF (Reg.COL_CNT_PULL_AGAIN_COUNT ce) + 1) % 2 ^ 64) ∧
              (c.tile.ok = false → k ∈ o.glazed → OpFails ce p n 0x6001 (exec (.contributionPull ce p n k) s) s) ∧
              (c.tile.ok = true → ∃ (u : State) (y : ColOp), y = { o with pos := SMap.set (fun _ => 0) o.pos k (pos + 1), glazed := o.glazed.filter (· != k) } ∧
                u = { s with ops := u.ops, regs := u.regs } ∧ u.colOp ce p n = some y ∧
                u.getF (Reg.COL_CNT_PULLED_COUNT ce) = (s.getF (Reg.COL_CNT_PULLED_COUNT ce) + 1) % 2 ^ 64 ∧
                (o.partials x ≠ 0 → ∃ v, exec (.contributionPull ce p n k) s = .next v ∧ v = { u with ops := v.ops } ∧
                  v.colOp ce p n = some { y with contrib := SMap.set (fun _ => none) o.contrib x (some c) }) ∧
                (o.partials x = 0 → o.ownerOf x = o.self → SumDone ce p n x 1 y (u.colCombine p (some (State.postFactor o)) [c]).1
                  (exec (.contributionPull ce p n k) s) (u.colCombine p (some (State.postFactor o)) [c]).2) ∧
                (o.partials x = 0 → o.ownerOf x ≠ o.self → SumDone ce p n x 1 y c (exec (.contributionPull ce p n k) s) u))))))) ∧
    (∀ ty kd ins, (ty, kd, ins) ∈ [(0x20, 1, Instr.redPart port vc), (0x21, 1, Instr.redResult port vc), (0x23, 2, Instr.gatherData (.lane port vc))] →
      s.headOf port vc ty = some q →
      (∀ b, s.stepCheck j (s.vcPolder port vc) (q.dst % 2048) kd vc (q.aux % 2 ^ 32) = .drop b → exec ins s = .next (State.colDrop port vc b s)) ∧
      (s.stepCheck j (s.vcPolder port vc) (q.dst % 2048) kd vc (q.aux % 2 ^ 32) = .wait → exec ins s = .next s)) ∧
    (∀ (o : ColOp) (t pl m : Nat) (u : State) (x : ColTile), t = q.dst / 2048 % 16384 → pl = s.vcPolder port vc → m = q.dst % 2048 → u = s.laneTake port vc →
      x = ⟨State.payloadTile q.payload, q.isSealed, 0⟩ →
      (s.headOf port vc 0x20 = some q → s.stepCheck j pl m 1 vc (q.aux % 2 ^ 32) = .take o →
        (SMap.get (fun _ => none) o.contrib t = none → exec (.redPart port vc) s = .next s) ∧
        (∀ c, SMap.get (fun _ => none) o.contrib t = some c →
          (o.ownerOf t = o.self → s.resultRoom j pl = false → exec (.redPart port vc) s = .next s) ∧
          (o.ownerOf t ≠ o.self ∨ s.resultRoom j pl = true →
            (x.tile.ok = false → OpFails j pl m 0x6001 (exec (.redPart port vc) s) u) ∧
            (x.tile.ok = true →
              (c.got + 1 < o.partials t → ∃ w, exec (.redPart port vc) s = .next w ∧ w = { (u.colCombine pl none [x, c]).2 with ops := w.ops } ∧
                w.colOp j pl m = some { o with contrib := SMap.set (fun _ => none) o.contrib t (some { (u.colCombine pl none [x, c]).1 with got := c.got + 1 }) }) ∧
              (∀ z, o.partials t ≤ c.got + 1 → z = u.colCombine pl (if o.ownerOf t = o.self then some (State.postFactor o) else none) [x, c] →
                SumDone j pl m t (q.aux / 2 ^ 32 % 256 + 1) o z.1 (exec (.redPart port vc) s) z.2))))) ∧
      (s.headOf port vc 0x21 = some q → s.stepCheck j pl m 1 vc (q.aux % 2 ^ 32) = .take o →
        (o.owner = true → exec (.redResult port vc) s = .next (State.colDrop port vc false s)) ∧
        (o.owner = false → s.resultRoom j pl = false → exec (.redResult port vc) s = .next s) ∧
        (o.owner = false → s.resultRoom j pl = true → ∃ w : State, w.colOp j pl m = some { o with results := SMap.set (fun _ => none) o.results t (some x) } ∧
          w = { u with ops := w.ops } ∧ exec (.redResult port vc) s =
            .next ((o.downOf t).foldl (fun s i => s.colSend j pl m i (o.runOf t) (State.colPkt 0x21 m t o.step (q.aux / 2 ^ 32 % 256 + 1) x)) w))) ∧
      (∀ a, s.headOf port vc 0x23 = some q → s.stepCheck j pl m 2 vc (q.aux % 2 ^ 32) = .take o → a = o.dest + 2048 * t →
        (s.colAccess pl a = 0 → s.serviceNow j pl writeTile a = false → exec (.gatherData (.lane port vc)) s = .next (State.serviceHold j pl a s)) ∧
        (s.colAccess pl a ≠ 0 ∨ s.serviceNow j pl writeTile a = true → Gathered j pl m t o x (exec (.gatherData (.lane port vc)) s) u)) ∧
      (s.headOf port vc 0x22 = some q → s.colOp j pl m = none → exec (.digestRec (.lane port vc)) s = .next (State.colDrop port vc false s)) ∧
      (s.headOf port vc 0x22 = some q → s.colOp j pl m = some o →
        (o.kind ≠ 1 ∨ o.vc ≠ vc → exec (.digestRec (.lane port vc)) s = .next (State.colDrop port vc false s)) ∧
        (o.kind = 1 → o.vc = vc → o.step < q.aux % 2 ^ 32 → exec (.digestRec (.lane port vc)) s = .next s) ∧
        (o.kind = 1 → o.vc = vc → q.aux % 2 ^ 32 ≤ o.step → State.wantsDigest o (q.aux % 2 ^ 32) = false →
          exec (.digestRec (.lane port vc)) s = .next (State.colDrop port vc true s)) ∧
        (o.kind = 1 → o.vc = vc → q.aux % 2 ^ 32 ≤ o.step → State.wantsDigest o (q.aux % 2 ^ 32) = true →
          DigestTaken j pl m ⟨q.aux % 2 ^ 32, q.aux / 2 ^ 32 % 256, (List.range 16).map fun k => BitVec.ofNat 64 (numAt q.payload (8 * k) 8)⟩
            (exec (.digestRec (.lane port vc)) s) u))) ∧
    (∀ o, s.colOp ce p n = some o →
      (o.digests = [] → exec (.digestRec (.own ce p n k)) s = .next s) ∧
      (∀ st l, o.digests = st :: l →
        (SMap.get (fun _ => 0) o.owing st ≠ 0 ∨ o.code ≠ 0 → exec (.digestRec (.own ce p n k)) s = .next s) ∧
        (SMap.get (fun _ => 0) o.owing st = 0 → o.code = 0 → ∃ u : State, u.colOp ce p n = some { o with digests := l } ∧ u = { s with ops := u.ops } ∧
          DigestTaken ce p n ⟨st, o.self, (List.range 16).map fun i => if i / 8 = ce then s.sub ce o.group st (i % 8) else 0⟩
            (exec (.digestRec (.own ce p n k)) s) u))) ∧
    (∀ o a, s.colOp ce p n = some o → a = o.src + 2048 * k →
      (o.kind ≠ 2 ∨ o.code ≠ 0 ∨ o.tiles ≤ k ∨ o.ownerOf k ≠ o.self ∨ k ∈ o.done → exec (.gatherData (.own ce p n k)) s = .next s) ∧
      (o.kind = 2 → o.code = 0 → k < o.tiles → o.ownerOf k = o.self → k ∉ o.done →
        (s.colAccess p a ≠ 0 → OpFails ce p n (s.colAccess p a) (exec (.gatherData (.own ce p n k)) s) (s.colRefuse p a (s.colAccess p a))) ∧
        (s.colAccess p a = 0 → s.serviceNow ce p readTile a = false ∨ s.serviceNow ce p writeTile (o.dest + 2048 * k) = false →
          exec (.gatherData (.own ce p n k)) s = .next (State.serviceHold ce p a s)) ∧
        (s.colAccess p a = 0 → s.serviceNow ce p readTile a = true → s.serviceNow ce p writeTile (o.dest + 2048 * k) = true →
          Gathered ce p n k o ⟨s.tile a, s.inSaggar a, 0⟩ (exec (.gatherData (.own ce p n k)) s) (s.meter p readTile a)))) ∧
    (∀ o, s.colOp ce p n = some o →
      (o.code ≠ 0 ∨ o.repairs = [] ∧ (o.kind ≠ 3 ∨ o.active = false ∨ State.permTile o.runs o.sent = none) → exec (.permData (.own ce p n k)) s = .next s) ∧
      (∀ a i l, o.code = 0 → o.repairs = (a, i) :: l →
        (s.colAccess p a ≠ 0 → OpFails ce p n (s.colAccess p a) (exec (.permData (.own ce p n k)) s) (s.colRefuse p a (s.colAccess p a))) ∧
        (s.colAccess p a = 0 → s.serviceNow ce p readTile a = false → exec (.permData (.own ce p n k)) s = .next (State.serviceHold ce p a s)) ∧
        (s.colAccess p a = 0 → s.serviceNow ce p readTile a = true → ∃ v : State, v.colOp ce p n = some { o with repairs := l } ∧
          v = { s.meter p readTile a with ops := v.ops } ∧ exec (.permData (.own ce p n k)) s =
            .next (v.colSend ce p n (o.ahead 1) 0 ⟨0x24, s.inSaggar a, false, 0, 0, a, 0, n + i * 2 ^ 11, State.tilePayload (s.tile a)⟩))) ∧
      (∀ r i a, o.code = 0 → o.repairs = [] → o.kind = 3 → o.active = true → State.permTile o.runs o.sent = some (r, i) → a = r.src + 2048 * i →
        (State.permPort o ce r.pkg = none → OpFails ce p n 0x6003 (exec (.permData (.own ce p n k)) s) s) ∧
        (∀ pt, State.permPort o ce r.pkg = some pt →
          (s.colAccess p a ≠ 0 → OpFails ce p n (s.colAccess p a) (exec (.permData (.own ce p n k)) s) (s.colRefuse p a (s.colAccess p a))) ∧
          (s.colAccess p a = 0 → s.serviceNow ce p readTile a = false → exec (.permData (.own ce p n k)) s = .next (State.serviceHold ce p a s)) ∧
          (s.colAccess p a = 0 → s.serviceNow ce p readTile a = true → ∃ v : State, v.colOp ce p n = some { o with sent := o.sent + 1 } ∧
            v = { s.meter p readTile a with ops := v.ops } ∧ exec (.permData (.own ce p n k)) s =
              .next (v.colOut ce p n pt r.pkg ⟨0x24, s.inSaggar a, false, 0, 0, r.dst + 2048 * i, 0, n + 0xFF * 2 ^ 11, State.tilePayload (s.tile a)⟩))))) ∧
    (∀ pl m fin a u, s.headOf port vc 0x24 = some q → pl = s.vcPolder port vc → m = q.aux % 2048 → fin = bitsOf q.aux 18 11 → a = q.dst % 2 ^ 44 →
      u = s.laneTake port vc →
      (s.colOp j pl m = none ∨ (∃ o, s.colOp j pl m = some o ∧ o.vc ≠ vc) → exec (.permData (.lane port vc)) s = .next (State.colDrop port vc false s)) ∧
      (∀ o, s.colOp j pl m = some o → o.vc = vc →
        (fin ≠ 0xFF → fin ≠ o.self → exec (.permData (.lane port vc)) s = .next (u.colSend j pl m (o.ahead 1) 0 { q with lepoch := 0 })) ∧
        (fin = 0xFF → o.kind ≠ 3 ∨ o.active = false → exec (.permData (.lane port vc)) s = .next s) ∧
        (fin = 0xFF ∧ o.kind = 3 ∧ o.active = true ∨ fin ≠ 0xFF ∧ fin = o.self →
          (s.colAccess pl a ≠ 0 → OpFails j pl m (s.colAccess pl a) (exec (.permData (.lane port vc)) s) (u.colRefuse pl a (s.colAccess pl a))) ∧
          (s.colAccess pl a = 0 → s.serviceNow j pl writeTile a = false → exec (.permData (.lane port vc)) s = .next (State.serviceHold j pl a s)) ∧
          (s.colAccess pl a = 0 → s.serviceNow j pl writeTile a = true → a % 2048 = 0 → ∃ w : State,
            w.tile a = ⟨padTo 2048 (State.payloadTile q.payload).data, (State.payloadTile q.payload).tag, (State.payloadTile q.payload).glaze⟩ ∧
            (∀ x, x < a ∨ a + 2048 ≤ x → Memory.read w.mem x = Memory.read s.mem x) ∧
            (fin = 0xFF → w.colOp j pl m = some { o with came := o.came + 1 } ∧
              exec (.permData (.lane port vc)) s = .next (w.laneReply port vc q 0x25 m 1 false [])) ∧
            (fin ≠ 0xFF → w.colOp j pl m = some { o with fixing := o.fixing - 1 } ∧
              w.getF (Reg.COL_CNT_REPAIR_TILES_COUNT j) = (s.getF (Reg.COL_CNT_REPAIR_TILES_COUNT j) + 1) % 2 ^ 64 ∧
              exec (.permData (.lane port vc)) s = .next (State.repaired pl a w)))))) ∧
    (s.headOf port vc 0x25 = some q → ∃ w, exec (.permAck port vc) s = .next w ∧ w = { s.laneTake port vc with ops := w.ops } ∧
      w.colOp j (s.vcPolder port vc) (q.dst % 2048) = (s.colOp j (s.vcPolder port vc) (q.dst % 2048)).map fun x => { x with acked := x.acked + q.aux % 2 ^ 32 })

/-! ### Jobs -/

/-- INSTALL, INSTALL_SECTIONS_DONE, RETIRE, RESHARD (R471, R510 to R513): without a descriptor of its kind in progress a command has no effect; an INSTALL that fails a
check completes with that check's status and leaves the polder's job as it was, and one that passes becomes its job; once its sections are written its completion
follows; a RETIRE stops the wheel and drops the job; a RESHARD goes through its stages.
Where the rules leave a point open it follows the model's own choices (logs 4, 79, 89, 90). -/
def Obligations.JobsAreInstalledRetiredAndResharded : Prop :=
  ∀ (s : State) (p : Nat) (x : Taken), p < 8 →
    (∀ k ins, (k, ins) ∈ [(1, Instr.installJob p), (1, .installSectionsDone p), (2, .retire p), (3, .reshard p)] →
      s.takenKind p k = none ∨ s.flag Reg.MGT_STATUS_MAIN_UP = false → exec ins s = .next s) ∧
    (∀ st det len, ∃ u, u = s.finish p x st det len ∧ u.takenOf p = s.lined.find? (fun y => jdPolder y.desc == p) ∧
      u.lined = (match s.lined.find? fun y => jdPolder y.desc == p with | some y => s.lined.erase y | none => s.lined) ∧ u.jobs = s.jobs ∧ u.wheels = s.wheels ∧ u.keys = s.keys ∧ u.rtp = s.rtp ∧
      (∀ q, q ≠ p → u.takenOf q = s.takenOf q) ∧ u.getF Reg.MGT_CNT_REFUSED_COUNT = (s.getF Reg.MGT_CNT_REFUSED_COUNT + b2n (st != 0)) % 2 ^ 64 ∧
      u.getF Reg.MGT_CNT_ACCEPTED_COUNT = (s.getF Reg.MGT_CNT_ACCEPTED_COUNT + b2n (st == 0)) % 2 ^ 64) ∧
    (∀ i v, i = s.jobBytes x.desc → v = (s.raiseUsers (jdModels x.desc)).nameEntries p (State.namedBy (jdModels x.desc)) →
      s.takenKind p 1 = some x → s.flag Reg.MGT_STATUS_MAIN_UP = true → (s.job p).writing = false → ∃ t, exec (.installJob p) s = .next t ∧
        (jdPolder x.desc = p → (s.job p).active = true → t = s.finish p x 0xA002 0 0) ∧
        (∀ st det, s.installErr x.desc i (s.after p i) v = some (st, det) → t = s.finish p x st det 0) ∧
        (s.installErr x.desc i (s.after p i) v = none → t.job p = State.jobOf x.desc i x.idx ∧ (∀ q, q ≠ p → t.job q = v.1.job q) ∧
          t.flag (Reg.PWR_RECOV_STATUS_RESTORE_NEEDED p) = false ∧ bitOf (t.getF Reg.MGT_STATUS_JOBS) p = true ∧ t = { v.1 with jobs := t.jobs, regs := t.regs })) ∧
    (s.takenKind p 1 = some x → ((s.job p).active && (s.job p).writing) = false → exec (.installSectionsDone p) s = .next s) ∧
    (s.takenKind p 1 = some x → s.flag Reg.MGT_STATUS_MAIN_UP = true → (s.job p).active = true → (s.job p).writing = true →
      (∀ v, s.writeSecs p (s.job p).image (jiSecs (s.job p).image) = .next v → ∃ u, exec (.installSectionsDone p) s = .next (u.tryRun p) ∧
        u = (((v.freshLayers p).setJob p { s.job p with writing := false }).loadOps p (s.job p).step).finish p x 0 0 0) ∧
      (∀ r, s.writeSecs p (s.job p).image (jiSecs (s.job p).image) = .refused r → exec (.installSectionsDone p) s = .refused r)) ∧
    (s.takenKind p 1 = some x → s.flag Reg.MGT_STATUS_MAIN_UP = true → (s.job p).active = true → (s.job p).writing = true →
      (∀ e ∈ jiSecs (s.job p).image, e.2.typ ≠ 2) → ∃ t, exec (.installSectionsDone p) s = .next t ∧
        t.takenOf p = s.lined.find? (fun y => jdPolder y.desc == p) ∧ (t.job p).writing = false) ∧
    (s.takenKind p 2 = some x → s.flag Reg.MGT_STATUS_MAIN_UP = true →
      ((s.job p).active = false → exec (.retire p) s = .next (s.finish p x 0xA002 0 0)) ∧
      ((s.job p).active = true → (s.wheel p).runs = true → (s.wheel p).turnOpen = true → s.turnOver p = false → ∃ t, exec (.retire p) s = .next t ∧
        t.flag (Reg.WHL_POLDER_CTL_RUN p) = false ∧ t.takenOf p = some x ∧ OnlyRegs [Reg.WHL_POLDER_CTL_RUN p] s t) ∧
      (∀ h, (s.job p).active = true → h = s.haltWheel p →
        ((h.wheel p).runs = true → exec (.retire p) s = .next h) ∧
        ((h.wheel p).runs = false → ∃ t, exec (.retire p) s = .next t ∧ t.job p = Job.none ∧ t.takenOf p = h.lined.find? (fun y => jdPolder y.desc == p) ∧
          t.flag (Reg.WHL_POLDER_CTL_RUN p) = false ∧ bitOf (t.getF Reg.MGT_STATUS_JOBS) p = false ∧ (∀ q, q ≠ p → t.job q = h.job q) ∧ t.wheels = h.wheels ∧
          ∀ i ∈ h.coresOf p, ∀ n, ((h.core i).ctx n).state = .isOpen → ctxRole ((h.core i).ctx n) = 2 → ((t.core i).ctx n).state = .closed))) ∧
    (s.takenKind p 3 = some x → s.flag Reg.MGT_STATUS_MAIN_UP = true →
      ((s.job p).active = false → exec (.reshard p) s = .next (s.finish p x 0xA002 0 0)) ∧
      ((s.job p).active = true → (s.job p).writing = true → exec (.reshard p) s = .next s) ∧
      ((s.job p).active = true → (s.job p).writing = false → (s.job p).reshard = 0 → ∀ i, i = s.jobBytes x.desc →
        (imageOk i = false → exec (.reshard p) s = .next (s.finish p x 0xA001 0 0)) ∧
        (∀ k, imageOk i = true → badSec i = some k → exec (.reshard p) s = .next (s.finish p x 0xA001 k 0)) ∧
        (imageOk i = true → badSec i = none → ∃ u, exec (.reshard p) s = .next (u.goReshard p x) ∧
          u = s.setJob p { s.job p with reshard := 1, last := jdStep x.desc, next := i })) ∧
      ((s.job p).active = true → (s.job p).writing = false → (s.job p).reshard = 1 → s.stepDone p (s.job p).last = false → exec (.reshard p) s = .next s) ∧
      ((s.job p).active = true → (s.job p).writing = false → (s.job p).reshard = 1 → s.stepDone p (s.job p).last = true → ∃ t, exec (.reshard p) s = .next t ∧
        (t.job p).reshard = 2 ∧ t.flag (Reg.WHL_POLDER_CTL_RUN p) = false) ∧
      ((s.job p).active = true → (s.job p).writing = false → (s.job p).reshard = 2 → (s.wheel p).runs = true → exec (.reshard p) s = .next s) ∧
      ((s.job p).active = true → (s.job p).writing = false → (s.job p).reshard = 2 → (s.wheel p).runs = false → ∃ t, exec (.reshard p) s = .next t ∧
        (t.job p).reshard = 3 ∧ (∀ k ∈ s.opsOf p, ∀ o, t.colOp k.1 p k.2 = some o → o.kind = 3 → o.active = true) ∧ t = { s with jobs := t.jobs, ops := t.ops }) ∧
      ((s.job p).active = true → (s.job p).writing = false → (s.job p).reshard = 3 → s.permutesDone p = false → exec (.reshard p) s = .next s) ∧
      (∀ j v, j = s.job p → j.active = true → j.writing = false → j.reshard = 3 → s.permutesDone p = true →
        v = (((s.after p j.next).setJob p { j with reshard := 0, image := j.next, digest := padTo 48 (Config.sha384 j.next), next := [] }).loadOps p (j.last + 1)).runWheel p →
        ((v.wheel p).runs = true → exec (.reshard p) s = .next (v.finish p x 0 0 0)) ∧
        ((v.wheel p).runs = false → ∃ det, exec (.reshard p) s = .next (v.finish p x 0xA009 det 0))))

/-! ### Security -/

/-- ATTEST, KEY_IMPORT, KEY_CLEAR (R493 to R499): an ATTEST whose LEN is too short writes nothing and says what it needs; one with room makes a new pair and keeps the
report's digest; an import in RMA, of a blob without its form, without a pair or for another report installs nothing; a clear destroys the polder's keys and no
other's.
Where the rules leave a point open it follows the model's own choices (logs 38, 94). -/
def Obligations.KeysAreMadeImportedAndDestroyed : Prop :=
  ∀ (s : State) (p : Nat) (x : Taken), p < 8 →
    (∀ k ins, (k, ins) ∈ [(4, Instr.attest p), (5, .keyImport p), (6, .keyClear p)] →
      s.takenKind p k = none ∨ s.flag Reg.MGT_STATUS_MAIN_UP = false → exec ins s = .next s) ∧
    (∀ size, s.takenKind p 4 = some x → s.flag Reg.MGT_STATUS_MAIN_UP = true → size = 16864 + 64 * (s.reportEntries (some p)).length + 1665 →
      (jdLen x.desc < size → exec (.attest p) s = .next (s.finish p x 0xA001 size 0)) ∧
      (size ≤ jdLen x.desc → ∃ t, exec (.attest p) s = .next t ∧ t.takenOf p = s.lined.find? (fun y => jdPolder y.desc == p) ∧ SMap.get (fun _ => none) t.rtp.pairs p = some (s.fr 0) ∧
        t.getF (Reg.SEC_KEYS_PAIR p) = 1 ∧ t.keys = s.keys ∧ t.jobs = s.jobs ∧
        (∀ q, q ≠ p → SMap.get (fun _ => none) t.rtp.pairs q = SMap.get (fun _ => none) s.rtp.pairs q ∧
          SMap.get (fun _ => []) t.rtp.reports q = SMap.get (fun _ => []) s.rtp.reports q) ∧
        SMap.get (fun _ => []) t.rtp.reports p = padTo 48 (Config.sha384 (s.report (some p) (jdNonce x.desc)
          (Config.sha384 (padTo 1568 (Config.kemPublic (s.fr 0)) ++ padTo 97 (Config.ecdhPublic (s.fr 0)))))) ∧
        t.rtp = { s.rtp with pairs := t.rtp.pairs, reports := t.rtp.reports })) ∧
    (∀ b, s.takenKind p 5 = some x → s.flag Reg.MGT_STATUS_MAIN_UP = true → b = s.jobBytes x.desc →
      (s.getF Reg.SEC_STATUS_LC_STATE = 3 → ∃ t, exec (.keyImport p) s = .next t ∧ t.keys = s.keys ∧ t.rtp = s.rtp ∧ t.takenOf p = s.lined.find? (fun y => jdPolder y.desc == p) ∧ .msix 1 ∈ t.out) ∧
      (s.getF Reg.SEC_STATUS_LC_STATE ≠ 3 →
        State.blobOk b = false ∨ SMap.get (fun _ => none) s.rtp.pairs p = none ∨ (b.drop 8).take 48 ≠ SMap.get (fun _ => []) s.rtp.reports p →
        ∃ t, exec (.keyImport p) s = .next t ∧ t.keys = s.keys ∧ SMap.get (fun _ => none) t.rtp.pairs p = none ∧ t.getF (Reg.SEC_KEYS_PAIR p) = 0 ∧
          t.takenOf p = s.lined.find? (fun y => jdPolder y.desc == p) ∧ .msix 1 ∈ t.out ∧ t.getF Reg.SEC_CNT_AUTH_FAIL_COUNT = s.getF Reg.SEC_CNT_AUTH_FAIL_COUNT ∧
          t = (s.failImport p x (if State.blobOk b then 0x9004 else 0x9008))) ∧
      (∀ k, s.getF Reg.SEC_STATUS_LC_STATE ≠ 3 → State.blobOk b = true → SMap.get (fun _ => none) s.rtp.pairs p = some k →
        (b.drop 8).take 48 = SMap.get (fun _ => []) s.rtp.reports p → ∃ t, exec (.keyImport p) s = .next t ∧
        (State.openBlob b k = none → t = (s.bump Reg.SEC_CNT_AUTH_FAIL_COUNT 1).failImport p x 0x9005) ∧
        ∀ l, State.openBlob b k = some l →
          (l.all (fun e => e.2.2.2) = false → t = s.failImport p x 0x9008) ∧
          (l.all (fun e => e.2.2.2) = true → s.keyWaits p l = true → t = s) ∧
          (l.all (fun e => e.2.2.2) = true → s.keyWaits p l = false → s.putKeys p l = none → t = s.failImport p x 0x9008) ∧
          ∀ u, l.all (fun e => e.2.2.2) = true → s.keyWaits p l = false → s.putKeys p l = some u →
            t.keys = u.keys ∧ SMap.get (fun _ => none) t.rtp.pairs p = none ∧ t.takenOf p = s.lined.find? (fun y => jdPolder y.desc == p))) ∧
    (s.takenKind p 6 = some x → s.flag Reg.MGT_STATUS_MAIN_UP = true → ∃ t, exec (.keyClear p) s = .next t ∧ t.takenOf p = s.lined.find? (fun y => jdPolder y.desc == p) ∧
      (∀ k, SMap.get (fun _ => []) t.keys k = if k / 17 = p then [] else SMap.get (fun _ => []) s.keys k) ∧ t.getF (Reg.SEC_KEYS_LINK p) = 0 ∧
      t.getF (Reg.SEC_KEYS_MODEL_KEYS p) = 0 ∧ t.rtp = s.rtp ∧ t.jobs = s.jobs)

/-- TAKE_OWNERSHIP, REPLACE_KEYS, RELEASE, ENTER_RMA, ALLOW_ROLLBACK, COMMIT_SVN, FIRMWARE_UPDATE, PRESENCE_LATCH, PRESENCE_EXPIRY, RECOVERY_BOOT (R487 to R492): every
request consumes the presence latch and gets a new nonce and an answer; one without presence, authority or the right state changes nothing else; the others write
the owner record, and all but ALLOW_ROLLBACK transit.
Where the rules leave a point open it follows the model's own choices (logs 4, 91, 92, 96). -/
def Obligations.TheRootOfTrustServesItsRequests : Prop :=
  ∀ (s : State), 
    (∀ (cmd : Nat) (ins : SecFrom → Instr) (bl : List (Nat × List Byte)),
      (cmd, ins) ∈ [(1, fun f => Instr.takeOwnership f bl), (2, fun f => .replaceKeys f bl), (3, fun f => .lcRelease f bl), (4, fun f => .enterRma f bl),
        (5, fun f => .allowRollback f)] →
      (∀ l, s.sideBandUp = false → exec (ins (.sideBand l)) s = .next s) ∧
      (∀ p, s.takenKind p 7 = none ∨ s.flag Reg.MGT_STATUS_MAIN_UP = false → exec (ins (.host p)) s = .next s) ∧
      (∀ p x, s.takenKind p 7 = some x → s.commandOf (s.jobBytes x.desc) ≠ cmd → 1 ≤ s.commandOf (s.jobBytes x.desc) → s.commandOf (s.jobBytes x.desc) ≤ 5 →
        exec (ins (.host p)) s = .next s) ∧
      (∀ l, s.commandOf l ≠ cmd → 1 ≤ s.commandOf l → s.commandOf l ≤ 5 → exec (ins (.sideBand l)) s = .next s) ∧
      (∀ l, s.sideBandUp = true → s.commandOf l = cmd ∨ s.commandOf l = 0 ∨ 5 < s.commandOf l → ∃ t u, exec (ins (.sideBand l)) s = .next t ∧
        u.rtp = { s.rtp with presence := none } ∧
        u.out = s.out ++ [.reply 5 (s.requestErr cmd l) [], .msix 1] ∧ u.flag Reg.SEC_STATUS_PRESENCE = false ∧ u.free = s.free + 8 ∧
        u.getF Reg.SEC_STATUS_LC_STATE = s.getF Reg.SEC_STATUS_LC_STATE ∧ u.keys = s.keys ∧ u.jobs = s.jobs ∧
        t = (if s.requestErr cmd l ≠ 0 then u else if cmd = 5 then u.putOwner (s.ownerAfter cmd l) else u.transition (s.ownerAfter cmd l) (if cmd = 5 then [] else bl))) ∧
      (∀ p x l, s.takenKind p 7 = some x → s.flag Reg.MGT_STATUS_MAIN_UP = true → l = s.jobBytes x.desc →
        s.commandOf l = cmd ∨ s.commandOf l = 0 ∨ 5 < s.commandOf l → ∃ t u, exec (ins (.host p)) s = .next t ∧
          u.rtp = { s.rtp with presence := none } ∧ u.takenOf p = s.lined.find? (fun y => jdPolder y.desc == p) ∧ .msix 1 ∈ u.out ∧ u.keys = s.keys ∧ u.jobs = s.jobs ∧
          u.getF Reg.MGT_CNT_REFUSED_COUNT = (s.getF Reg.MGT_CNT_REFUSED_COUNT + b2n (s.requestErr cmd l != 0)) % 2 ^ 64 ∧
          t = (if s.requestErr cmd l ≠ 0 then u else if cmd = 5 then u.putOwner (s.ownerAfter cmd l) else u.transition (s.ownerAfter cmd l) (if cmd = 5 then [] else bl)))) ∧
    (∀ cmd l, s.rtp.presence = none → s.requestErr cmd l = 0x9001) ∧
    (∀ r bl, (s.transition r bl).keys = [] ∧ (s.transition r bl).jobs = [] ∧ (s.transition r bl).taken = []) ∧
    (∃ t, exec .commitSvn s = .next t ∧ 
      t.rtp = { s.rtp with fwSvn := (if s.flag Reg.SEC_STATUS_ROLLBACK then s.rtp.fwSvn else max s.rtp.fwSvn (s.getF Reg.SEC_SVN_IMAGE_SVN)) } ∧ t = { s with rtp := t.rtp, regs := t.regs } ∧ RegsBut [Reg.SEC_SVN_FW_SVN] s t ∧
      (s.flag Reg.SEC_STATUS_ROLLBACK = false → t.getF Reg.SEC_SVN_FW_SVN = t.rtp.fwSvn % 2 ^ 8)) ∧
    (∀ b, (s.power.vaux = false → exec (.firmwareUpdate b) s = .next s) ∧
      (s.power.vaux = true → ∃ t, exec (.firmwareUpdate b) s = .next t ∧ t.rtp.fwSvn = s.rtp.fwSvn ∧ Out.reply 2 (s.updateErr b) [] ∈ t.out ∧
        (s.updateErr b ≠ 0 → t.flash = s.flash ∧ t.rtp = s.rtp) ∧
        (s.updateErr b = 0 → t = { s with out := t.out, flash := t.flash, rtp := t.rtp } ∧ t.rtp.ownerA = t.rtp.ownerB ∧
          (∀ k < b.length, SMap.get (fun _ => 0xFF) t.flash (State.slotBase s.updateSlot + k) = b.getD k 0xFF) ∧
          (∀ a, a < State.slotBase s.updateSlot ∨ State.slotBase s.updateSlot + b.length ≤ a → SMap.get (fun _ => 0xFF) t.flash a = SMap.get (fun _ => 0xFF) s.flash a)))) ∧
    (s.power.vaux = true → 10000 ≤ s.power.up → ∃ t, exec .presenceLatch s = .next t ∧ t.rtp = { s.rtp with presence := some 0 } ∧ t.flag Reg.SEC_STATUS_PRESENCE = true ∧
      t.getF Reg.SEC_CNT_PRESENCE_COUNT = (s.getF Reg.SEC_CNT_PRESENCE_COUNT + 1) % 2 ^ 64 ∧ t.events = s.events ++ [Ev.presence] ∧
      t.out = s.out ++ [.msix 1] ∧ RegsBut [Reg.SEC_STATUS_PRESENCE, Reg.SEC_CNT_PRESENCE_COUNT] s t ∧
      t = { s with rtp := t.rtp, regs := t.regs, events := t.events, out := t.out }) ∧
    (s.power.vaux = false ∨ s.power.up < 10000 → exec .presenceLatch s = .next s) ∧
    (∀ n, s.rtp.presence = some n → 6000000 ≤ n → ∃ t, exec .presenceExpiry s = .next t ∧ t.rtp = { s.rtp with presence := none } ∧
      t.flag Reg.SEC_STATUS_PRESENCE = false ∧ RegsBut [Reg.SEC_STATUS_PRESENCE] s t ∧ t = { s with rtp := t.rtp, regs := t.regs }) ∧
    ((s.rtp.presence = none ∨ ∃ n, s.rtp.presence = some n ∧ n < 6000000) → exec .presenceExpiry s = .next s) ∧
    (s.power.vaux = true → 10000 ≤ s.power.up → s.flag Reg.SEC_STATUS_RECOVERY = false → ∃ t, exec .recoveryBoot s = .next t ∧
      t.flag Reg.SEC_STATUS_RECOVERY = true ∧ t.flag Reg.MGT_STATUS_MAIN_UP = false ∧ t.rtp.mgc = false ∧ t.power.main = false ∧ t.jobs = [] ∧
      t.rtp.fwSvn = s.rtp.fwSvn ∧ t.flash = s.flash) ∧
    (s.power.vaux = false ∨ s.power.up < 10000 ∨ s.flag Reg.SEC_STATUS_RECOVERY = true → exec .recoveryBoot s = .next s)

/-! ### The lands -/

/-- PLDM_MONITORING, GET_VERSION to CHUNK_GET, BAR_RESIZE, PCIE_CONFIG_REQUEST, PERST, PERST_RELEASE, the JTAG instructions, ENTDAA, SETDASA (R505, R507 to R509, R553
to R555): each interface answers its requests while it is up, and changes nothing else.
Where the rules leave a point open it follows the model's own choices (logs 4, 39, 95). -/
def Obligations.TheLandsAnswerTheirRequests : Prop :=
  ∀ (s : State),
    (∀ r ev, (s.sideBandUp = false → exec (.pldmMonitoring r ev) s = .next s) ∧
      (s.sideBandUp = true → ∃ t l d, exec (.pldmMonitoring r ev) s = .next t ∧ t.out = s.out ++ [.reply 1 0 (Config.pldmAnswer r l d)] ∧
        (s.flag (Reg.PWR_DOM_ON 286) = false → ∀ k < 8, l[k]? = some none) ∧
        (∀ n e, (n, e) ∈ d ↔ n < 23 ∧ e = s.getF (Reg.MGT_DIE_STATUS_ERR n) ∧ e ≠ 0) ∧
        t = { s with out := t.out, free := s.free + 1, events := if ev then [] else s.events, alert := !ev && s.alert })) ∧
    (∀ (r v : List Byte) (ins : Instr), (ins, v) ∈ [(Instr.getCapabilities r, []), (.negotiateAlgorithms r, []), (.getDigests r, Config.sha384 Config.certChain),
        (.getCertificate r, Config.certChain), (.challenge r, Config.sha384 Config.certChain), (.chunkGet r, s.lands.chunk)] →
      (s.sideBandUp = false → exec ins s = .next s) ∧
      (s.sideBandUp = true → ∃ t a, exec ins s = .next t ∧ a = Config.spdmAnswer s.lands.spdm r v ∧ t.out = s.out ++ [.reply 3 0 a] ∧
        t.lands = { s.lands with spdm := s.lands.spdm ++ [r, a] } ∧ t = { s with out := t.out, lands := t.lands })) ∧
    (∀ r, s.sideBandUp = true → ∃ t a, exec (.getVersion r) s = .next t ∧ a = Config.spdmAnswer [] r [] ∧ t.out = s.out ++ [.reply 3 0 a] ∧
      t.lands = { s.lands with spdm := [r, a] } ∧ t = { s with out := t.out, lands := t.lands }) ∧
    (∀ r i n v, s.sideBandUp = true → v = (if i = 0xF0 then s.report none n [] else (s.rtp.bundle.getD (i - 1) (0, [])).2) → ∃ t a,
      exec (.getMeasurements r i n) s = .next t ∧ a = Config.spdmAnswer s.lands.spdm r v ∧ t.out = s.out ++ [.reply 3 0 a] ∧
      t.lands = { s.lands with chunk := v, spdm := s.lands.spdm ++ [r, a] } ∧ t = { s with out := t.out, lands := t.lands }) ∧
    (∀ r i n, s.sideBandUp = false → exec (.getMeasurements r i n) s = .next s) ∧
    (∀ n, (s.endpointUp = true → s.rtp.mgc = true → 30 ≤ n → n ≤ 40 → exec (.barResize n) s = .next { s with lands := { s.lands with bar2 := n } }) ∧
      (s.endpointUp = false ∨ s.rtp.mgc = false ∨ n < 30 ∨ 40 < n → exec (.barResize n) s = .next s)) ∧
    (∀ off n d id, (s.endpointUp = false → exec (.pcieConfigRequest off n d id) s = .next s) ∧
      (s.endpointUp = true → s.rtp.mgc = false → exec (.pcieConfigRequest off n d id) s = .next { s with out := s.out ++ [.pcie id .retry] }) ∧
      (s.endpointUp = true → s.rtp.mgc = true →
        exec (.pcieConfigRequest off n [] id) s = .next { s with out := s.out ++ [.pcie id (.data (Config.pcieRead s.lands.pcie off n))] } ∧
        (d ≠ [] → exec (.pcieConfigRequest off n d id) s =
          .next { s with lands := { s.lands with pcie := s.lands.pcie ++ [(off, d)] }, out := s.out ++ [.pcie id .written] }))) ∧
    (s.power.perstLow = true → exec .perst s = .next s) ∧
    (s.power.perstLow = false → ∃ t, exec .perst s = .next t ∧ t.power = { s.power with perstLow := true } ∧ t.lands = { s.lands with pcie := [], bar2 := 36 } ∧
      t.behind = [] ∧ (∀ e ∈ t.deferred, e.2 ≠ [] ∧ ∀ d ∈ e.2, ∀ a n id, d ≠ .opRead a n id) ∧
      (∀ f : FieldRef, f.off + 4 * f.words ≤ 0x8000 ∨ 0x10000 ≤ f.off → t.getF f = s.getF f) ∧
      t = { s with power := t.power, lands := t.lands, behind := [], deferred := t.deferred, regs := t.regs }) ∧
    exec .perstRelease s = .next { s with power := { s.power with perstLow := false } } ∧
    (∀ ins op sh, (ins, op, sh) ∈ [(Instr.jtagBypass, JtagOp.bypass, []), (.jtagIdcode, .idcode, bytesLE 4 0x1096056B), (.jtagClamp, .clamp, []), (.jtagHighz, .highz, [])] →
      exec ins s = .next (if s.power.vaux then { s with lands := { s.lands with jtagIr := op }, out := s.out ++ [.jtag sh] } else s)) ∧
    (∀ (lv vs : List Bool) (sh : List Byte), sh = lv.map (fun b => if b then 1 else 0) →
      exec (.jtagSamplePreload lv vs) s = .next (if s.power.vaux then
        { s with lands := { s.lands with jtagIr := .samplePreload, scan := vs }, out := s.out ++ [.jtag sh] } else s) ∧
      exec (.jtagExtest lv vs) s = .next (if s.power.vaux then
        { s with lands := { s.lands with jtagIr := .extest, scan := if vs = [] then s.lands.scan else vs }, out := s.out ++ [.jtag sh] } else s)) ∧
    (∀ off v bl u, u = { s with lands := { s.lands with jtagIr := .cwacc } } →
      (s.power.vaux = false → exec (.jtagCwacc off v bl) s = .next s) ∧
      (s.power.vaux = true → windowOpen s off = false ∨ off % 4 ≠ 0 → exec (.jtagCwacc off v bl) s = .next u) ∧
      (s.power.vaux = true → windowOpen s off = true → off % 4 = 0 →
        (∀ w, exec (.jtagCwacc off (some w) bl) s = exec (.registerWrite off w bl) u) ∧
        (off ≠ 0x108008 → exec (.jtagCwacc off none bl) s = .next { u with out := s.out ++ [.jtag (bytesLE 4 (s.viewWord off).toNat)] }))) ∧
    (∀ a st, (s.power.vaux = true → s.lands.sel = false → s.lands.i3c = none → a < 128 →
        exec (.entdaa a) s = .next { s with lands := { s.lands with i3c := some a } } ∧
        exec (.setdasa st a) s = .next (if st = 0x30 + s.lands.addr then { s with lands := { s.lands with i3c := some a } } else s)) ∧
      (s.power.vaux = false ∨ s.lands.sel = true ∨ s.lands.i3c ≠ none ∨ 128 ≤ a → exec (.entdaa a) s = .next s ∧ exec (.setdasa st a) s = .next s))

/-! ### Registers and the aperture -/

/-- RING_ENABLE, SNAP, COUNTER_CLEAR, REGISTER_WRITE, APERTURE_READ, APERTURE_WRITE (R9 to R11, R34, R83, R141, R142, R164, R374, R383, R503, R506, R510, R554): a write
changes each bit as its field's access kind, the locks and the running wheels allow; a reserved encoding is refused; a control bit gives its command; snapshots hold
the live counters; aperture requests reach scratchpads, DRAM and the control window, in order.
Where the rules leave a point open it follows the model's own choices (logs 86, 87, 88, 99). -/
def Obligations.RegistersAndMemoryAreReadAndWritten : Prop :=
  ∀ (s : State),
    (∀ k en h tl, (k, en, h, tl) ∈ [(0, Reg.MGT_SQ_CFG_ENABLE, Reg.MGT_SQ_IDX_HEAD, Reg.MGT_SQ_IDX_TAIL), (1, Reg.MGT_CQ_CFG_ENABLE, Reg.MGT_CQ_IDX_HEAD, Reg.MGT_CQ_IDX_TAIL),
        (2, Reg.MGT_TRACE_CTL_ENABLE, Reg.MGT_TRACE_IDX_HEAD, Reg.MGT_TRACE_IDX_TAIL)] →
      ∃ t, exec (.ringEnable k) s = .next t ∧ t.getF en = 1 ∧ t.getF h = 0 ∧ t.getF tl = 0 ∧ OnlyRegs [en, h, tl] s t) ∧
    (∃ t, exec .snap s = .next t ∧ t = { s with regs := t.regs } ∧ (∀ f : FieldRef, f.off + 4 * f.words ≤ 0x901008 ∨ 0x902000 ≤ f.off → t.getF f = s.getF f) ∧
      (∀ f < 12, t.getF (Reg.TEL_RANGE_TOTAL_COUNT f) = s.telOf (s.getF Reg.TEL_RANGE_CTL_POLDER) (4 * f) % 2 ^ 64 ∧
        t.getF (Reg.TEL_RANGE_OVF_COUNT f) = s.telOf (s.getF Reg.TEL_RANGE_CTL_POLDER) (4 * f + 1) % 2 ^ 64 ∧
        t.getF (Reg.TEL_RANGE_UNF_COUNT f) = s.telOf (s.getF Reg.TEL_RANGE_CTL_POLDER) (4 * f + 2) % 2 ^ 64 ∧
        t.getF (Reg.TEL_RANGE_NAN_COUNT f) = s.telOf (s.getF Reg.TEL_RANGE_CTL_POLDER) (4 * f + 3) % 2 ^ 64) ∧
      (∀ n < 3, t.getF (Reg.TEL_ACC_REPLAY_COUNT n) = s.telOf (s.getF Reg.TEL_RANGE_CTL_POLDER) (48 + n) % 2 ^ 64) ∧
      t.getF Reg.TEL_ACC_SAT_COUNT = s.telOf (s.getF Reg.TEL_RANGE_CTL_POLDER) 51 % 2 ^ 64 ∧
      t.getF Reg.TEL_ACC_TILES_COUNT = s.telOf (s.getF Reg.TEL_RANGE_CTL_POLDER) 52 % 2 ^ 64 ∧ t.getF Reg.TEL_RANGE_SNAP_TIDE_TIDE = s.now % 2 ^ 48) ∧
    (∃ t, exec (.counterClear 0x901000) s = .next t ∧ t = { s with tel := t.tel } ∧ ∀ k, SMap.get (fun _ => 0) t.tel k =
      if s.getF Reg.TEL_RANGE_CTL_POLDER = 15 ∨ k / 64 = s.getF Reg.TEL_RANGE_CTL_POLDER then 0 else SMap.get (fun _ => 0) s.tel k) ∧
    (∀ (i off lo hi : Nat), (off, lo, hi) ∈ [(0x400014 + 0x1000 * (i % 16), 0x200, 0x288), (0x5002F8 + 0x1000 * (i % 16), 0x300, 0x3C8)] →
      ∃ t, exec (.counterClear off) s = .next t ∧ t = { s with regs := t.regs } ∧ ∀ o, o < 0x1000000 → t.rawWord o =
        if off / 0x1000 * 0x1000 + lo ≤ o ∧ o < off / 0x1000 * 0x1000 + hi then winReset o else s.rawWord o) ∧
    (∀ off v bl, windowOpen s off = false ∨ off % 4 ≠ 0 → exec (.registerWrite off v bl) s = .next s) ∧
    (∀ off v bl, windowOpen s off = true → off % 4 = 0 → s.writesReserved off v = true ∨ s.reservedRole off v = true → exec (.registerWrite off v bl) s = .refused (.undefinedBehaviour "R10")) ∧
    (∀ off v bl d w, windowOpen s off = true → off % 4 = 0 → s.writesReserved off v = false → s.reservedRole off v = false → off < 0x1000000 → regAt off = some (d, w) →
      PlainOffset off → ∃ t, exec (.registerWrite off v bl) s = .next t ∧ t = { s with regs := t.regs } ∧ (∀ o, o ≠ off → t.rawWord o = s.rawWord o) ∧
      (∀ f ∈ d.fields, ∀ k < 32, f.lo ≤ 32 * w + k → 32 * w + k ≤ f.hi → (t.rawWord off).getLsbD k =
        match f.acc with
        | .ro | .wo => (s.rawWord off).getLsbD k
        | .rwl => if s.flag Reg.CFG_STATUS_LOCKED then (s.rawWord off).getLsbD k else v.getLsbD k
        | .rw => if s.frozen off then (s.rawWord off).getLsbD k else v.getLsbD k
        | .w1c => (s.rawWord off).getLsbD k && !v.getLsbD k) ∧
      (∀ k < 32, (∀ f ∈ d.fields, 32 * w + k < f.lo ∨ f.hi < 32 * w + k) → (t.rawWord off).getLsbD k = (s.rawWord off).getLsbD k)) ∧
    (∀ n bl off ins (v : Word), windowOpen s off = true → s.writesReserved off v = false → n < 8 →
      (off, v, ins) ∈ [(0x10000C, 1, Instr.loadArm), (0x80000C, 1, .commitSvn), (0x901000, 1, .snap), (0x410010, 1, .tblLoad), (0xA00040 + 16 * n, 0x11, .recovAbandon n),
        (0x209004 + 0x40 * n, 1, .rejoin n), (0x620000 + 0x40 * n, 1, .pipAbandon n), (0x300020, 1, .counterClear 0x300020), (0x400014, 1, .counterClear 0x400014)] →
      exec (.registerWrite off v bl) s = exec ins (s.plainWrite off v)) ∧
    (∀ i v bl u, i < 8192 → windowOpen s 0x1000000 = true → u = s.modCore i (fun c => if c.halted then { c with pc := BitVec.ofNat 13 v.toNat } else c) →
      exec (.registerWrite (0x1000010 + 0x1000 * i) v bl) s = .next u) ∧
    (∀ off n id a, a = s.getF Reg.MGT_APERTURE_BASE_BASE * 2 ^ 30 + off →
      (s.claims2 off n = false → exec (.apertureRead off n id) s = .next s) ∧
      (∀ o, s.claims2 off n = true → o = a - 0x20000000000 → 0x20000000000 ≤ a → o < 0x4000000 →
        (windowOpen s o = false → exec (.apertureRead off n id) s = .next { s with out := s.out ++ [.pcie id .unsupported] }) ∧
        (windowOpen s o = true → n = 4 → o / 4 * 4 ≠ 0x108008 →
          exec (.apertureRead off n id) s = .next { s with out := s.out ++ [.pcie id (.data (bytesLE 4 (s.viewWord (o / 4 * 4)).toNat))] })) ∧
      (s.claims2 off n = true → 0 < n → a % 2048 + n ≤ 2048 → region a ≠ .control →
        (s.behind ≠ [] → exec (.apertureRead off n id) s = .next { s with behind := s.behind ++ [.read a n id] }) ∧
        (s.behind = [] → s.apertureOk a = false → exec (.apertureRead off n id) s = .next { s with out := s.out ++ [.pcie id .unsupported] }) ∧
        (∀ c, s.behind = [] → s.apertureOk a = true → region a = .scratch c →
          (((s.core c).attr (a % 0x80000 / 2048)).isSealed = true ∨ State.ringSealed (s.core c) (a % 0x80000 / 2048) = true →
            exec (.apertureRead off n id) s = .next { s with out := s.out ++ [.pcie id (.data (fixedPattern a n))] }) ∧
          (((s.core c).attr (a % 0x80000 / 2048)).isSealed = false → State.ringSealed (s.core c) (a % 0x80000 / 2048) = false → (s.core c).sb = [] →
            exec (.apertureRead off n id) s = .next { s with out := s.out ++ [.pcie id (.data ((List.range n).map fun k => Memory.read s.mem (a + k)))] })) ∧
        (∀ st ch, s.behind = [] → s.apertureOk a = true → region a = .dram st ch →
          (st * 32 + ch ∈ s.wiping → exec (.apertureRead off n id) s = .next { s with behind := [.read a n id] }) ∧
          (st * 32 + ch ∉ s.wiping → s.weirPass 8 (if n < 2048 then readShort else readTile) a = true → (s.lineOf st a).isSome = false →
            s.chanRuns st ch = true → 16 ≤ (s.queueOf st ch).length → exec (.apertureRead off n id) s = .next { s with behind := [.read a n id] }) ∧
          (st * 32 + ch ∉ s.wiping → s.weirPass 8 (if n < 2048 then readShort else readTile) a = true → (s.lineOf st a).isSome = true →
            exec (.apertureRead off n id) s = .next ((s.meter 8 (if n < 2048 then readShort else readTile) a).perform (.opRead a n id))) ∧
          (st * 32 + ch ∉ s.wiping → s.weirPass 8 (if n < 2048 then readShort else readTile) a = true → (s.lineOf st a).isSome = false →
            s.chanRuns st ch = false ∨ (s.queueOf st ch).length < 16 →
            exec (.apertureRead off n id) s = .next ((s.meter 8 (if n < 2048 then readShort else readTile) a).defer st ch (.opRead a n id)))))) ∧
    (∀ off d bl a, a = s.getF Reg.MGT_APERTURE_BASE_BASE * 2 ^ 30 + off →
      (s.claims2 off d.length = false → exec (.apertureWrite off d bl) s = .next s) ∧
      (s.claims2 off d.length = true → 0x20000000000 ≤ a → a < 0x20004000000 → exec (.apertureWrite off d bl) s =
        exec (.registerWrite (a - 0x20000000000) (BitVec.ofNat 32 (numAt d 0 4)) bl) s) ∧
      (s.claims2 off d.length = true → 0 < d.length → a % 2048 + d.length ≤ 2048 → region a ≠ .control →
        (s.behind ≠ [] → exec (.apertureWrite off d bl) s = .next { s with behind := s.behind ++ [.write a d] }) ∧
        (s.behind = [] → s.apertureOk a = false → exec (.apertureWrite off d bl) s = .next s) ∧
        (∀ c, c < 8192 → s.behind = [] → s.apertureOk a = true → region a = .scratch c →
          ((s.core c).sb ≠ [] → ∃ t, exec (.apertureWrite off d bl) s = .next t ∧ t = { s with cores := t.cores } ∧ (∀ x, x ≠ c → t.core x = s.core x) ∧
            (t.core c).getF Reg.CORE_CNT_EXT_DROP_COUNT = ((s.core c).getF Reg.CORE_CNT_EXT_DROP_COUNT + 1) % 2 ^ 64 ∧
            t.core c = { s.core c with page := (t.core c).page }) ∧
          ((s.core c).sb = [] → ∃ t, exec (.apertureWrite off d bl) s = .next t ∧ t = { s with mem := t.mem, tags := t.tags, cores := t.cores } ∧
            (∀ x, Memory.read t.mem x = if a ≤ x ∧ x < a + d.length then d.getD (x - a) 0 else Memory.read s.mem x) ∧
            (t.core c).attr (a % 0x80000 / 2048) = ⟨((s.core c).attr (a % 0x80000 / 2048)).isSealed, none⟩ ∧
            (∀ x, x / 2048 ≠ a / 2048 → t.metaAt x = s.metaAt x) ∧ (t.metaAt a).1 = (s.metaAt a).1)) ∧
        (∀ st ch, s.behind = [] → s.apertureOk a = true → region a = .dram st ch → st * 32 + ch ∈ s.wiping →
          exec (.apertureWrite off d bl) s = .next { s with behind := [.write a d] })))
end

