-- ==== Sys2Proof/Laws/SMap.lean ====
section
/-! SUPPORT. Laws of sparse maps: reading after writing, clearing, and the canonical form. -/

namespace Sys2Proof.Laws

open Sys2Proof.Machine

variable {α : Type} (d : Nat → α)

/-! ### Reading -/

theorem get_filter_ne (p : Nat → Bool) (m : SMap α) (k : Nat) :
    SMap.get d (m.filter fun e => p e.1) k = if p k then SMap.get d m k else d k := by
  induction m with
  | nil => simp [SMap.get]
  | cons e t ih =>
    obtain ⟨j, v⟩ := e
    rw [List.filter_cons]
    by_cases hk : j = k
    · subst hk
      by_cases hp : p j = true
      · simp [hp, SMap.get]
      · simp only [hp, if_false, Bool.false_eq_true] at ih ⊢
        exact ih
    · by_cases hp : p j = true
      · simp only [hp, if_true, SMap.get, hk, if_false, ih]
      · simp only [hp, if_false, Bool.false_eq_true, SMap.get, hk, ih]

theorem get_erase (m : SMap α) (k j : Nat) : SMap.get d (SMap.erase m k) j = if j = k then d j else SMap.get d m j := by
  have h := get_filter_ne d (fun x => x != k) m j
  simp only [SMap.erase, h]
  by_cases hj : j = k <;> simp [hj]

theorem get_place_ne (k : Nat) (v : α) (m : SMap α) (j : Nat) (h : j ≠ k) :
    SMap.get d (SMap.place k v m) j = SMap.get d m j := by
  induction m with
  | nil => simp [SMap.place, SMap.get, Ne.symm h]
  | cons e t ih =>
    obtain ⟨i, w⟩ := e
    unfold SMap.place
    split
    · simp [SMap.get, Ne.symm h]
    · simp only [SMap.get, ih]

theorem get_place_same (k : Nat) (v : α) (m : SMap α) (h : ∀ e ∈ m, e.1 ≠ k) : SMap.get d (SMap.place k v m) k = v := by
  induction m with
  | nil => simp [SMap.place, SMap.get]
  | cons e t ih =>
    obtain ⟨i, w⟩ := e
    have hi : i ≠ k := h (i, w) (by simp)
    unfold SMap.place
    split
    · simp [SMap.get]
    · simp only [SMap.get, hi, if_false]
      exact ih fun e he => h e (by simp [he])

theorem erase_keys (m : SMap α) (k : Nat) : ∀ e ∈ SMap.erase m k, e.1 ≠ k := by
  intro e he
  simpa [SMap.erase] using (List.mem_filter.mp he).2

variable [DecidableEq α]

/-- Reading after a write: the value written at its key, what was there anywhere else. -/
@[simp] theorem get_set (m : SMap α) (k : Nat) (v : α) (j : Nat) :
    SMap.get d (SMap.set d m k v) j = if j = k then v else SMap.get d m j := by
  unfold SMap.set
  split
  · rename_i hv
    rw [get_erase]
    by_cases h : j = k <;> simp [h, hv]
  · by_cases h : j = k
    · subst h
      simp [SMap.insert, get_place_same d j v _ (erase_keys m j)]
    · simp [SMap.insert, get_place_ne d k v _ j h, get_erase, h]

omit [DecidableEq α] in
/-- Reading after a range is cleared. -/
theorem get_clearRange (m : SMap α) (lo hi k : Nat) :
    SMap.get d (SMap.clearRange m lo hi) k = if lo ≤ k ∧ k < hi then d k else SMap.get d m k := by
  have h := get_filter_ne d (fun x => decide (x < lo) || decide (hi ≤ x)) m k
  have e : SMap.clearRange m lo hi = m.filter fun e => decide (e.1 < lo) || decide (hi ≤ e.1) := rfl
  rw [e, h]
  by_cases h1 : lo ≤ k ∧ k < hi
  · rw [if_pos h1, if_neg (by simp; omega)]
  · rw [if_neg h1, if_pos (by simp; omega)]

omit [DecidableEq α] in
/-- Reading after some keys are cleared. -/
theorem get_clearIf (m : SMap α) (p : Nat → Bool) (k : Nat) :
    SMap.get d (SMap.clearIf m p) k = if p k then d k else SMap.get d m k := by
  have h := get_filter_ne d (fun x => !p x) m k
  have e : SMap.clearIf m p = m.filter fun e => !p e.1 := rfl
  rw [e, h]
  by_cases hp : p k = true <;> simp [hp]

/-! ### The canonical form -/

theorem wfAbove_mono (m : SMap α) (a b : Nat) (h : b ≤ a) (w : SMap.wfAbove d a m = true) : SMap.wfAbove d b m = true := by
  cases m with
  | nil => rfl
  | cons e t =>
    obtain ⟨j, v⟩ := e
    simp only [SMap.wfAbove, Bool.and_eq_true, decide_eq_true_eq] at w ⊢
    exact ⟨⟨by omega, w.1.2⟩, w.2⟩

theorem wfAbove_filter (p : Nat × α → Bool) (m : SMap α) (a : Nat) (w : SMap.wfAbove d a m = true) :
    SMap.wfAbove d a (m.filter p) = true := by
  induction m generalizing a with
  | nil => rfl
  | cons e t ih =>
    obtain ⟨j, v⟩ := e
    simp only [SMap.wfAbove, Bool.and_eq_true, decide_eq_true_eq] at w
    rw [List.filter_cons]
    split
    · simp only [SMap.wfAbove, Bool.and_eq_true, decide_eq_true_eq]
      exact ⟨w.1, ih _ w.2⟩
    · exact wfAbove_mono d _ (j + 1) a (by omega) (ih _ w.2)

theorem wfAbove_place (k : Nat) (v : α) (m : SMap α) (a : Nat) (hv : v ≠ d k) (ha : a ≤ k) (w : SMap.wfAbove d a m = true)
    (h : ∀ e ∈ m, e.1 ≠ k) : SMap.wfAbove d a (SMap.place k v m) = true := by
  induction m generalizing a with
  | nil => simp [SMap.place, SMap.wfAbove, hv, ha]
  | cons e t ih =>
    obtain ⟨j, u⟩ := e
    have hj : j ≠ k := h (j, u) (by simp)
    simp only [SMap.wfAbove, Bool.and_eq_true, decide_eq_true_eq] at w
    unfold SMap.place
    split
    · rename_i hk
      simp only [SMap.wfAbove, Bool.and_eq_true, decide_eq_true_eq]
      exact ⟨⟨ha, hv⟩, ⟨by omega, w.1.2⟩, w.2⟩
    · rename_i hk
      simp only [SMap.wfAbove, Bool.and_eq_true, decide_eq_true_eq]
      exact ⟨w.1, ih (j + 1) (by omega) w.2 fun e he => h e (by simp [he])⟩

/-- Dropping entries keeps the canonical form. -/
theorem wf_filter (p : Nat × α → Bool) (m : SMap α) (w : SMap.wf d m = true) : SMap.wf d (m.filter p) = true :=
  wfAbove_filter d p m 0 w

/-- A write keeps the canonical form. -/
theorem wf_set (m : SMap α) (k : Nat) (v : α) (w : SMap.wf d m = true) : SMap.wf d (SMap.set d m k v) = true := by
  unfold SMap.set
  split
  · exact wf_filter d _ m w
  · rename_i hv
    exact wfAbove_place d k v _ 0 hv (Nat.zero_le _) (wf_filter d _ m w) (erase_keys m k)

theorem wf_clearRange (m : SMap α) (lo hi : Nat) (w : SMap.wf d m = true) : SMap.wf d (SMap.clearRange m lo hi) = true :=
  wf_filter d _ m w

theorem wf_clearIf (m : SMap α) (p : Nat → Bool) (w : SMap.wf d m = true) : SMap.wf d (SMap.clearIf m p) = true :=
  wf_filter d _ m w

theorem get_below (m : SMap α) (a k : Nat) (w : SMap.wfAbove d a m = true) (h : k < a) : SMap.get d m k = d k := by
  induction m generalizing a with
  | nil => rfl
  | cons e t ih =>
    obtain ⟨j, v⟩ := e
    simp only [SMap.wfAbove, Bool.and_eq_true, decide_eq_true_eq] at w
    have hj : j ≠ k := by omega
    simp only [SMap.get, hj, if_false]
    exact ih (j + 1) w.2 (by omega)

/-- Equal contents are equal data: two maps in canonical form that read the same at every key are the same list. -/
theorem wf_ext (m n : SMap α) (a : Nat) (wm : SMap.wfAbove d a m = true) (wn : SMap.wfAbove d a n = true)
    (h : ∀ k, SMap.get d m k = SMap.get d n k) : m = n := by
  induction m generalizing n a with
  | nil =>
    cases n with
    | nil => rfl
    | cons e t =>
      obtain ⟨j, v⟩ := e
      simp only [SMap.wfAbove, Bool.and_eq_true, decide_eq_true_eq] at wn
      have := h j
      simp [SMap.get] at this
      exact absurd this.symm wn.1.2
  | cons e t ih =>
    obtain ⟨j, v⟩ := e
    cases n with
    | nil =>
      simp only [SMap.wfAbove, Bool.and_eq_true, decide_eq_true_eq] at wm
      have := h j
      simp [SMap.get] at this
      exact absurd this wm.1.2
    | cons f u =>
      obtain ⟨i, w⟩ := f
      simp only [SMap.wfAbove, Bool.and_eq_true, decide_eq_true_eq] at wm wn
      have hij : j = i := by
        rcases Nat.lt_trichotomy j i with hlt | heq | hgt
        · have := h j
          simp only [SMap.get, if_true, if_neg (show ¬ i = j by omega)] at this
          rw [get_below d u (i + 1) j wn.2 (by omega)] at this
          exact absurd this wm.1.2
        · exact heq
        · have := h i
          simp only [SMap.get, if_true, if_neg (show ¬ j = i by omega)] at this
          rw [get_below d t (j + 1) i wm.2 (by omega)] at this
          exact absurd this.symm wn.1.2
      subst hij
      have hv : v = w := by simpa [SMap.get] using h j
      subst hv
      have htu : t = u := by
        refine ih u (j + 1) wm.2 wn.2 fun k => ?_
        by_cases hk : j = k
        · subst hk
          rw [get_below d t (j + 1) j wm.2 (by omega), get_below d u (j + 1) j wn.2 (by omega)]
        · have := h k
          simpa only [SMap.get, if_neg hk] using this
      rw [htu]

end Sys2Proof.Laws
end

