-- ==== Sys2Proof/Laws/Memory.lean ====
section
/-! SUPPORT. Laws of device memory: reading after writing, bytes outside a write, and the canonical form that every memory
operation keeps. -/

namespace Sys2Proof.Laws

open Sys2Proof.Machine

/-- A byte read after one is written. -/
@[simp] theorem read_write (m : List Host.Cell) (a : Nat) (b : Byte) (k : Nat) :
    Memory.read (Memory.write m a b) k = if k = a then b else Memory.read m k := get_set zeroByte m a b k

/-- A byte outside a list of bytes that is written. -/
theorem read_writeN_out (m : List Host.Cell) (a : Nat) (l : List Byte) (k : Nat) (h : k < a ∨ a + l.length ≤ k) :
    Memory.read (Memory.writeN m a l) k = Memory.read m k := by
  induction l generalizing m a with
  | nil => rfl
  | cons b t ih =>
    simp only [List.length_cons] at h
    rw [Memory.writeN, ih _ _ (by omega), read_write, if_neg (by omega)]

/-- A byte of a list of bytes that is written. -/
theorem read_writeN_in (m : List Host.Cell) (a : Nat) (l : List Byte) (k : Nat) (h : k < l.length) :
    Memory.read (Memory.writeN m a l) (a + k) = l[k] := by
  induction l generalizing m a k with
  | nil => simp at h
  | cons b t ih =>
    cases k with
    | zero =>
      rw [Memory.writeN, read_writeN_out _ _ _ _ (by omega), read_write, if_pos (Nat.add_zero a)]
      rfl
    | succ k =>
      simp only [List.length_cons] at h
      rw [Memory.writeN, show a + (k + 1) = a + 1 + k by omega, ih _ _ _ (by omega)]
      rfl

/-- Bytes read where they were just written. -/
theorem readN_writeN (m : List Host.Cell) (a : Nat) (l : List Byte) : Memory.readN (Memory.writeN m a l) a l.length = l := by
  induction l generalizing m a with
  | nil => rfl
  | cons b t ih =>
    simp only [List.length_cons, Memory.readN, Memory.writeN]
    rw [ih, read_writeN_out _ _ _ _ (by omega), read_write, if_pos rfl]

/-- Bytes read apart from a write. -/
theorem readN_writeN_out (m : List Host.Cell) (a : Nat) (l : List Byte) (k n : Nat) (h : k + n ≤ a ∨ a + l.length ≤ k) :
    Memory.readN (Memory.writeN m a l) k n = Memory.readN m k n := by
  induction n generalizing k with
  | zero => rfl
  | succ n ih =>
    simp only [Memory.readN]
    rw [ih (k + 1) (by omega), read_writeN_out _ _ _ _ (by omega)]

theorem length_readN (m : List Host.Cell) (a n : Nat) : (Memory.readN m a n).length = n := by
  induction n generalizing a with
  | zero => rfl
  | succ n ih => simp [Memory.readN, ih]

/-- A byte after a wipe: zero inside, as it was outside. -/
theorem read_wipe (m : List Host.Cell) (lo hi k : Nat) :
    Memory.read (Memory.wipe m lo hi) k = if lo ≤ k ∧ k < hi then 0 else Memory.read m k := get_clearRange zeroByte m lo hi k

/-! ### The canonical form -/

theorem wf_write (m : List Host.Cell) (a : Nat) (b : Byte) (w : Memory.wf m = true) : Memory.wf (Memory.write m a b) = true :=
  wf_set zeroByte m a b w

theorem wf_writeN (m : List Host.Cell) (a : Nat) (l : List Byte) (w : Memory.wf m = true) :
    Memory.wf (Memory.writeN m a l) = true := by
  induction l generalizing m a with
  | nil => exact w
  | cons b t ih => exact ih _ _ (wf_write m a b w)

theorem wf_wipe (m : List Host.Cell) (lo hi : Nat) (w : Memory.wf m = true) : Memory.wf (Memory.wipe m lo hi) = true :=
  wf_clearRange zeroByte m lo hi w

/-- Memory after reset is canonical. -/
theorem wf_reset : Memory.wf State.reset.mem = true := rfl

/-! ### Tiles -/

/-- The bytes of a tile that has been put. -/
theorem bytes_putTile (s : State) (a : Nat) (t : Tile) : (s.putTile a t).bytes a 2048 = padTo 2048 t.data := by
  have h : (padTo 2048 t.data).length = 2048 := by simp [padTo]; omega
  have e : (s.putTile a t).bytes a 2048 = Memory.readN (Memory.writeN s.mem a (padTo 2048 t.data)) a 2048 := rfl
  rw [e]
  have := readN_writeN s.mem a (padTo 2048 t.data)
  rwa [h] at this

/-- The metadata of a tile that has been put. -/
theorem metaAt_putTile (s : State) (a : Nat) (t : Tile) : (s.putTile a t).metaAt a = (t.tag, t.glaze) := by
  simp [State.putTile, State.putMeta, State.metaAt]

/-- A byte outside a tile that is put. -/
theorem read_putTile_out (s : State) (a : Nat) (t : Tile) (k : Nat) (h : k < a ∨ a + 2048 ≤ k) :
    Memory.read (s.putTile a t).mem k = Memory.read s.mem k := by
  have hl : (padTo 2048 t.data).length = 2048 := by simp [padTo]; omega
  exact read_writeN_out s.mem a (padTo 2048 t.data) k (by omega)

end Sys2Proof.Laws
end

