-- ==== Sys2Proof/Laws/Kept.lean ====
section
/-! SUPPORT. What every effect of a command keeps of the state before it: device memory and metadata in their canonical form, the
queue, the counter cells (which only rise), what has been sent, and the free values already used; what most effects keep besides, by
level: from 1 on the tide, from 2 on the supplies and pins of the power logic as well. -/

namespace Sys2Proof.Laws

set_option Elab.async false

open Sys2Proof.Machine

/-- The counter cells of the root of trust (R482), between two of its states. -/
structure RtpLe (a b : Rtp) : Prop where
  fwSvn : a.fwSvn ≤ b.fwSvn
  revoke : a.revoke ≤ b.revoke
  ownerGen : a.ownerGen ≤ b.ownerGen
  rma : a.rma = true → b.rma = true

theorem RtpLe.refl (a : Rtp) : RtpLe a a := ⟨(Nat.le_refl _), (Nat.le_refl _), (Nat.le_refl _), id⟩

theorem RtpLe.trans {a b c : Rtp} (h : RtpLe a b) (k : RtpLe b c) : RtpLe a c :=
  ⟨Nat.le_trans h.1 k.1, Nat.le_trans h.2 k.2, Nat.le_trans h.3 k.3, k.4 ∘ h.4⟩

/-- The supplies, the reset pins, THERMTRIP# and whether the main side runs, the same in two states of the power logic. -/
abbrev SameSupplies (a b : Power) : Prop :=
  b.vaux = a.vaux ∧ b.pwrgood = a.pwrgood ∧ b.resetLow = a.resetLow ∧ b.perstLow = a.perstLow ∧ b.therm = a.therm ∧ b.main = a.main

theorem SameSupplies.refl (a : Power) : SameSupplies a a := ⟨rfl, rfl, rfl, rfl, rfl, rfl⟩

theorem SameSupplies.of (a : Power) {doms rows calm watch lost again due fixes noClock starting up} :
    SameSupplies a (Power.mk a.vaux a.pwrgood a.resetLow a.perstLow a.therm a.main doms rows calm watch lost again due fixes noClock starting up) :=
  ⟨rfl, rfl, rfl, rfl, rfl, rfl⟩

theorem SameSupplies.trans {a b c : Power} (h : SameSupplies a b) (k : SameSupplies b c) : SameSupplies a c :=
  ⟨k.1.trans h.1, k.2.1.trans h.2.1, k.2.2.1.trans h.2.2.1, k.2.2.2.1.trans h.2.2.2.1, k.2.2.2.2.1.trans h.2.2.2.2.1,
    k.2.2.2.2.2.trans h.2.2.2.2.2⟩

/-- What a state `z` leaves to a state `s` that follows from it, at a level. -/
structure Kept (κ : Nat) (z s : State) : Prop where
  pending : s.pending = z.pending
  free : z.free ≤ s.free
  mem : Memory.wf z.mem = true → Memory.wf s.mem = true
  tags : SMap.wf wipedMeta z.tags = true → SMap.wf wipedMeta s.tags = true
  rtp : RtpLe z.rtp s.rtp
  out : z.out <+: s.out
  tide : 1 ≤ κ → s.tide = z.tide
  supply : 2 ≤ κ → SameSupplies z.power s.power

theorem Kept.refl (κ : Nat) (s : State) : Kept κ s s :=
  ⟨rfl, (Nat.le_refl _), id, id, RtpLe.refl _, List.prefix_rfl, fun _ => rfl, fun _ => SameSupplies.refl _⟩

theorem Kept.trans {κ : Nat} {a b c : State} (h : Kept κ a b) (k : Kept κ b c) : Kept κ a c :=
  ⟨k.1.trans h.1, Nat.le_trans h.2 k.2, k.3 ∘ h.3, k.4 ∘ h.4, h.5.trans k.5, h.6.trans k.6, fun i => (k.7 i).trans (h.7 i),
    fun i => (h.8 i).trans (k.8 i)⟩

/-- What is kept at a level is kept at every lower one. -/
theorem Kept.lower {κ μ : Nat} {a b : State} (h : Kept κ a b) (i : μ ≤ κ) : Kept μ a b :=
  ⟨h.1, h.2, h.3, h.4, h.5, h.6, fun j => h.7 (Nat.le_trans j i), fun j => h.8 (Nat.le_trans j i)⟩

/-- An update of any fields. -/
theorem Kept.updAll {κ : Nat} {z b : State} (h : Kept κ z b) {free' mem' tags' rtp' out'
    pkgId' regs' power' idents' tide' wheels' routes' sets' cores' tel' reserved' ports' drains' culverts' slices' deferred' behind'
    weirs' links' stash' firings' ops' subs' kilns' ktables' sigmas' fetches' serial' mfes' mfSlice' toks' keys' wiping'
    testing' moved' soft' flash' lands' windows' jobs' taken' lined' owedCq' sq' events' alert' net'}
    (hf : b.free ≤ free') (hm : Memory.wf b.mem = true → Memory.wf mem' = true)
    (ht : SMap.wf wipedMeta b.tags = true → SMap.wf wipedMeta tags' = true) (hr : RtpLe b.rtp rtp') (ho : b.out <+: out')
    (hi : 1 ≤ κ → tide' = b.tide := by exact fun _ => rfl)
    (hp : 2 ≤ κ → SameSupplies b.power power' := by first | exact fun _ => SameSupplies.refl _ | exact fun _ => SameSupplies.of _) :
    Kept κ z (State.mk b.pending free' pkgId' mem' tags' regs' power' idents' tide' wheels' routes' sets' cores' tel' reserved' ports' drains'
      culverts' slices' deferred' behind' weirs' links' stash' firings' ops' subs' kilns' ktables' sigmas' fetches' serial'
      mfes' mfSlice' toks' keys' wiping' testing' moved' soft' flash' rtp' lands' windows' jobs' taken' lined' owedCq' sq' events'
      alert' net' out') :=
  h.trans ⟨rfl, hf, hm, ht, hr, ho, hi, hp⟩

/-- An update of fields none of which is one of those kept. -/
theorem Kept.upd {κ : Nat} {z b : State} (h : Kept κ z b) {pkgId' regs' power' idents' tide' wheels' routes' sets' cores' tel' reserved' ports' drains' culverts' slices' deferred' behind'
    weirs' links' stash' firings' ops' subs' kilns' ktables' sigmas' fetches' serial' mfes' mfSlice' toks' keys' wiping'
    testing' moved' soft' flash' lands' windows' jobs' taken' lined' owedCq' sq' events' alert' net'}
    (hi : 1 ≤ κ → tide' = b.tide := by exact fun _ => rfl)
    (hp : 2 ≤ κ → SameSupplies b.power power' := by first | exact fun _ => SameSupplies.refl _ | exact fun _ => SameSupplies.of _) :
    Kept κ z (State.mk b.pending b.free pkgId' b.mem b.tags regs' power' idents' tide' wheels' routes' sets' cores' tel' reserved' ports'
      drains' culverts' slices' deferred' behind' weirs' links' stash' firings' ops' subs' kilns' ktables' sigmas' fetches'
      serial' mfes' mfSlice' toks' keys' wiping' testing' moved' soft' flash' b.rtp lands' windows' jobs' taken' lined' owedCq' sq'
      events' alert' net' b.out) :=
  h.trans ⟨rfl, Nat.le_refl _, id, id, RtpLe.refl _, List.prefix_rfl, hi, hp⟩

/-- An update of the power logic that leaves the supplies. -/
theorem Kept.power {κ : Nat} {z s : State} (h : Kept κ z s) {p : Power} (hp : SameSupplies s.power p) : Kept κ z { s with power := p } :=
  h.upd (hp := fun _ => hp)

/-- The same with the supplies among the fields. -/
theorem Kept.updPower {κ : Nat} {z b : State} (h : Kept κ z b) {pkgId' regs' power' idents' tide' wheels' routes' sets' cores' tel' reserved' ports' drains' culverts' slices' deferred' behind'
    weirs' links' stash' firings' ops' subs' kilns' ktables' sigmas' fetches' serial' mfes' mfSlice' toks' keys' wiping'
    testing' moved' soft' flash' lands' windows' jobs' taken' lined' owedCq' sq' events' alert' net'}
    (hκ : κ ≤ 1 := by omega) (hi : 1 ≤ κ → tide' = b.tide := by exact fun _ => rfl) :
    Kept κ z (State.mk b.pending b.free pkgId' b.mem b.tags regs' power' idents' tide' wheels' routes' sets' cores' tel' reserved' ports'
      drains' culverts' slices' deferred' behind' weirs' links' stash' firings' ops' subs' kilns' ktables' sigmas' fetches'
      serial' mfes' mfSlice' toks' keys' wiping' testing' moved' soft' flash' b.rtp lands' windows' jobs' taken' lined' owedCq' sq'
      events' alert' net' b.out) :=
  h.trans ⟨rfl, Nat.le_refl _, id, id, RtpLe.refl _, List.prefix_rfl, hi, fun i => absurd i (by omega)⟩

/-- The same with the tide among the fields. -/
theorem Kept.updTide {κ : Nat} {z b : State} (h : Kept κ z b) {pkgId' regs' power' idents' tide' wheels' routes' sets' cores' tel' reserved' ports' drains' culverts' slices' deferred' behind'
    weirs' links' stash' firings' ops' subs' kilns' ktables' sigmas' fetches' serial' mfes' mfSlice' toks' keys' wiping'
    testing' moved' soft' flash' lands' windows' jobs' taken' lined' owedCq' sq' events' alert' net'} (hκ : κ ≤ 0 := by omega) :
    Kept κ z (State.mk b.pending b.free pkgId' b.mem b.tags regs' power' idents' tide' wheels' routes' sets' cores' tel' reserved' ports'
      drains' culverts' slices' deferred' behind' weirs' links' stash' firings' ops' subs' kilns' ktables' sigmas' fetches'
      serial' mfes' mfSlice' toks' keys' wiping' testing' moved' soft' flash' b.rtp lands' windows' jobs' taken' lined' owedCq' sq'
      events' alert' net' b.out) :=
  h.trans ⟨rfl, Nat.le_refl _, id, id, RtpLe.refl _, List.prefix_rfl, fun i => absurd i (by omega), fun i => absurd i (by omega)⟩

/-- An update of fields, the root of trust among them. -/
theorem Kept.updRtp {κ : Nat} {z b : State} (h : Kept κ z b) {rtp' pkgId' regs' power' idents' tide' wheels' routes' sets' cores' tel' reserved' ports' drains' culverts' slices' deferred' behind'
    weirs' links' stash' firings' ops' subs' kilns' ktables' sigmas' fetches' serial' mfes' mfSlice' toks' keys' wiping'
    testing' moved' soft' flash' lands' windows' jobs' taken' lined' owedCq' sq' events' alert' net'}
    (hr : RtpLe b.rtp rtp') (hi : 1 ≤ κ → tide' = b.tide := by exact fun _ => rfl)
    (hp : 2 ≤ κ → SameSupplies b.power power' := by first | exact fun _ => SameSupplies.refl _ | exact fun _ => SameSupplies.of _) :
    Kept κ z (State.mk b.pending b.free pkgId' b.mem b.tags regs' power' idents' tide' wheels' routes' sets' cores' tel' reserved' ports'
      drains' culverts' slices' deferred' behind' weirs' links' stash' firings' ops' subs' kilns' ktables' sigmas' fetches'
      serial' mfes' mfSlice' toks' keys' wiping' testing' moved' soft' flash' rtp' lands' windows' jobs' taken' lined' owedCq' sq'
      events' alert' net' b.out) :=
  h.updAll (Nat.le_refl _) id id hr List.prefix_rfl hi hp

theorem RtpLe.same {a b : Rtp} (h1 : a.fwSvn = b.fwSvn) (h2 : a.revoke = b.revoke) (h3 : a.ownerGen = b.ownerGen) (h4 : a.rma = b.rma) :
    RtpLe a b := ⟨Nat.le_of_eq h1, Nat.le_of_eq h2, Nat.le_of_eq h3, fun h => h4 ▸ h⟩

/-- The same of what a command answers. -/
def KeptO (κ : Nat) (z : State) : Host.Outcome State Fault Refusal → Prop
  | .next t => Kept κ z t
  | _ => True

theorem KeptO.next {κ : Nat} {z t : State} (h : Kept κ z t) : KeptO κ z (.next t) := h

theorem KeptO.refused {κ : Nat} {z : State} (r : Refusal) : KeptO κ z (.refused r) := trivial

theorem KeptO.kept {κ : Nat} {z t : State} {o : Host.Outcome State Fault Refusal} (h : KeptO κ z o) (e : o = .next t) : Kept κ z t := by
  subst e; exact h

/-- The same of an effect that may not be had. -/
def KeptS (κ : Nat) (z : State) (o : Option State) : Prop := ∀ t ∈ o, Kept κ z t

theorem KeptS.none {κ : Nat} {z : State} : KeptS κ z none := by simp [KeptS]

theorem KeptS.some {κ : Nat} {z t : State} (h : Kept κ z t) : KeptS κ z (some t) := by simpa [KeptS] using h

theorem KeptS.map {κ : Nat} {z : State} {α : Type} {o : Option α} {f : α → State} (hf : ∀ a, Kept κ z (f a)) : KeptS κ z (o.map f) := by
  cases o with
  | none => exact KeptS.none
  | some a => exact KeptS.some (hf a)

theorem kept_ite {κ : Nat} {z a b : State} {c : Prop} [Decidable c] (h : Kept κ z a) (k : Kept κ z b) : Kept κ z (if c then a else b) := by
  split <;> assumption

theorem keptO_ite {κ : Nat} {z : State} {a b : Host.Outcome State Fault Refusal} {c : Prop} [Decidable c] (h : KeptO κ z a) (k : KeptO κ z b) :
    KeptO κ z (if c then a else b) := by
  split <;> assumption

theorem kept_foldl {κ : Nat} {α : Type} {z s : State} {f : State → α → State} {l : List α} (h : Kept κ z s)
    (hf : ∀ s a, Kept κ z s → Kept κ z (f s a)) : Kept κ z (l.foldl f s) := by
  induction l generalizing s with
  | nil => exact h
  | cons a t ih => exact ih (hf s a h)

theorem kept_foldUpto {κ : Nat} {z s : State} {f : State → Nat → State} {n : Nat} (h : Kept κ z s)
    (hf : ∀ s a, Kept κ z s → Kept κ z (f s a)) : Kept κ z (foldUpto f n s) := by
  induction n with
  | zero => exact h
  | succ n ih => exact hf _ _ ih

theorem kept_forCores {κ : Nat} {z s : State} {f : Nat → State → State} {l : List Nat} (h : Kept κ z s)
    (hf : ∀ i s, Kept κ z s → Kept κ z (f i s)) : Kept κ z (State.forCores f l s) := by
  induction l generalizing s with
  | nil => exact h
  | cons a t ih => exact ih (hf a s h)

end Sys2Proof.Laws
end

