-- ==== Sys2Proof/Laws/KeptOps.lean ====
section
/-! SUPPORT. What is kept (Laws/Kept.lean) by the named operations, reports, completions, the cache and the sequencer: one lemma for each function that answers a state. -/

namespace Sys2Proof.Laws

set_option Elab.async false

open Sys2Proof.Machine

/-! ### Ops -/

theorem kept_putBytes {κ : Nat} {z : State} (s : State) (a : Nat) (l : List Byte) (h : Kept κ z s) : Kept κ z (State.putBytes s a l) :=
  h.updAll (Nat.le_refl _) (wf_writeN _ _ _) id (RtpLe.refl _) List.prefix_rfl

theorem kept_putMeta {κ : Nat} {z : State} (s : State) (a : Nat) (m : DWord × DWord) (h : Kept κ z s) : Kept κ z (State.putMeta s a m) :=
  h.updAll (Nat.le_refl _) id (wf_set _ _ _ _) (RtpLe.refl _) List.prefix_rfl

theorem kept_putTile {κ : Nat} {z : State} (s : State) (a : Nat) (t : Tile) (h : Kept κ z s) : Kept κ z (State.putTile s a t) := by
  unfold State.putTile
  repeat' first
    | with_reducible assumption | with_reducible apply kept_putBytes | with_reducible apply kept_putMeta | dsimp only

theorem kept_putPart {κ : Nat} {z : State} (s : State) (a : Nat) (l : List Byte) (h : Kept κ z s) :
    Kept κ z (State.putPart s a l) := by
  unfold State.putPart
  conv => zeta
  repeat' first
    | with_reducible assumption | with_reducible apply kept_putBytes | with_reducible apply kept_putMeta | dsimp only

theorem kept_wipeRange {κ : Nat} {z : State} (s : State) (lo hi : Nat) (h : Kept κ z s) : Kept κ z (State.wipeRange s lo hi) :=
  h.updAll (Nat.le_refl _) (wf_wipe _ _ _) (wf_clearRange _ _ _ _) (RtpLe.refl _) List.prefix_rfl

theorem kept_setF {κ : Nat} {z : State} (s : State) (f : FieldRef) (x : Nat) (h : Kept κ z s) : Kept κ z (State.setF s f x) := by
  unfold State.setF
  repeat' first
    | with_reducible assumption | dsimp only | with_reducible refine Kept.upd ?_

theorem kept_bump {κ : Nat} {z : State} (s : State) (f : FieldRef) (n : Nat) (h : Kept κ z s) : Kept κ z (State.bump s f n) := by
  unfold State.bump
  repeat' first
    | with_reducible assumption | with_reducible apply kept_setF | dsimp only

theorem kept_useFree {κ : Nat} {z : State} (s : State) (n : Nat) (h : Kept κ z s) : Kept κ z (State.useFree s n) :=
  h.updAll (Nat.le_add_right _ _) id id (RtpLe.refl _) List.prefix_rfl

theorem kept_bumpFree {κ : Nat} {z : State} (s : State) (f : FieldRef) (h : Kept κ z s) : Kept κ z (State.bumpFree s f) := by
  unfold State.bumpFree
  repeat' first
    | with_reducible assumption | with_reducible apply kept_bump | with_reducible apply kept_useFree | dsimp only

theorem kept_setCore {κ : Nat} {z : State} (s : State) (i : Nat) (c : Core) (h : Kept κ z s) : Kept κ z (State.setCore s i c) := by
  unfold State.setCore
  repeat' first
    | with_reducible assumption | intro _ _ _ _ | intro _ _ _ | intro _ _ | dsimp only | with_reducible refine Kept.upd ?_

theorem kept_modCore {κ : Nat} {z : State} (s : State) (i : Nat) (f : Core → Core) (h : Kept κ z s) :
    Kept κ z (State.modCore s i f) := by
  unfold State.modCore
  repeat' first
    | with_reducible assumption | with_reducible apply kept_setCore | dsimp only

theorem kept_setWheel {κ : Nat} {z : State} (s : State) (p : Nat) (w : Wheel) (h : Kept κ z s) :
    Kept κ z (State.setWheel s p w) := by
  unfold State.setWheel
  repeat' first
    | with_reducible assumption | intro _ _ _ _ | intro _ _ _ | intro _ _ | dsimp only | with_reducible refine Kept.upd ?_

/-! ### Report -/

theorem kept_store {κ : Nat} {z : State} (s : State) (a : Nat) (l : List Byte) (h : Kept κ z s) : Kept κ z (State.store s a l) := by
  unfold State.store
  generalize region a = r
  cases r <;> first | exact kept_putBytes _ _ _ h | exact kept_putPart _ _ _ h

theorem kept_storeIn {κ : Nat} {z : State} (s : State) (feature a : Nat) (l : List Byte) (h : Kept κ z s) : Kept κ z (State.storeIn s feature a l) := by
  unfold State.storeIn
  generalize region a = r
  cases r with
  | host => exact kept_ite (kept_putBytes _ _ _ h) (kept_ite h (kept_bump _ _ _ h))
  | _ => exact kept_putPart _ _ _ h

theorem kept_send {κ : Nat} {z : State} (s : State) (o : Out) (h : Kept κ z s) : Kept κ z (State.send s o) :=
  h.updAll (Nat.le_refl _) id id (RtpLe.refl _) (List.prefix_append _ _)

theorem kept_note {κ : Nat} {z : State} (s : State) (e : Ev) (h : Kept κ z s) : Kept κ z (State.note s e) := by
  unfold State.note
  repeat' first
    | with_reducible assumption | dsimp only | with_reducible refine Kept.upd ?_

theorem kept_raise {κ : Nat} {z : State} (s : State) (e : Ev) (h : Kept κ z s) : Kept κ z (State.raise s e) := by
  unfold State.raise
  repeat' first
    | with_reducible assumption | with_reducible apply kept_note | with_reducible apply kept_send | dsimp only
    | with_reducible refine Kept.upd ?_

theorem kept_trace {κ : Nat} {z : State} (s : State) (cls polder code unit arg0 arg1 : Nat) (h : Kept κ z s) :
    Kept κ z (State.trace s cls polder code unit arg0 arg1) := by
  unfold State.trace
  conv => zeta
  repeat' first
    | with_reducible assumption | with_reducible apply kept_bump | with_reducible apply kept_storeIn
    | with_reducible apply kept_setF | with_reducible apply kept_ite | dsimp only | split

theorem kept_security {κ : Nat} {z : State} (s : State) (polder code unit : Nat) (h : Kept κ z s) :
    Kept κ z (State.security s polder code unit) := by
  unfold State.security
  repeat' first
    | with_reducible assumption | with_reducible apply kept_trace | with_reducible apply kept_send | dsimp only

theorem kept_setJob {κ : Nat} {z : State} (s : State) (p : Nat) (j : Job) (h : Kept κ z s) : Kept κ z (State.setJob s p j) := by
  unfold State.setJob
  repeat' first
    | with_reducible assumption | intro _ _ _ _ | intro _ _ _ | intro _ _ | dsimp only | with_reducible refine Kept.upd ?_

/-! ### Complete -/

theorem kept_applyWrites {κ : Nat} {z : State} (i : Nat) (s : State) (l : List TileWrite) (h : Kept κ z s) : Kept κ z (State.applyWrites i s l) := by
  induction l generalizing s with
  | nil => exact h
  | cons w t ih => exact ih _ (kept_modCore _ _ _ (kept_putTile _ _ _ h))

theorem kept_applyTel {κ : Nat} {z : State} (p : Nat) (s : State) (l : List (Nat × Nat)) (h : Kept κ z s) : Kept κ z (State.applyTel p s l) := by
  induction l generalizing s with
  | nil => exact h
  | cons w t ih => exact ih _ (Kept.upd h)

theorem kept_finishCmd {κ : Nat} {z : State} (i : Nat) (cmd : CmdWord) (seq : BitVec 16) (f : Flight) (s : State)
    (h : Kept κ z s) :
    Kept κ z (State.finishCmd i cmd seq f s) := by
  unfold State.finishCmd
  conv => zeta
  repeat' first
    | with_reducible assumption | with_reducible apply kept_applyWrites | with_reducible apply kept_applyTel
    | with_reducible apply kept_modCore | with_reducible apply kept_ite | intro _ _ _ _ | intro _ _ _ | intro _ _
    | dsimp only | split

theorem kept_flushOne {κ : Nat} {z : State} (i : Nat) (silent : Bool) (q : QEntry) (f : Flight) (s : State)
    (h : Kept κ z s) :
    Kept κ z (State.flushOne i silent q f s) := by
  unfold State.flushOne
  repeat' first
    | with_reducible assumption | with_reducible apply kept_modCore | with_reducible apply kept_finishCmd
    | with_reducible apply kept_ite | intro _ _ _ _ | intro _ _ _ | intro _ _ | dsimp only | split
    | with_reducible refine Kept.upd ?_

theorem kept_flushSb {κ : Nat} {z : State} (i : Nat) (silent : Bool) (l : List SbEntry) (s : State) (h : Kept κ z s) :
    Kept κ z (State.flushSb i silent l s) := by
  induction l generalizing s with
  | nil => exact h
  | cons w t ih => exact ih _ (kept_flushOne _ _ _ _ _ h)

theorem kept_flushQueued {κ : Nat} {z : State} (i : Nat) (silent : Bool) (l : List QEntry) (s : State) (h : Kept κ z s) :
    Kept κ z (State.flushQueued i silent l s) := by
  induction l generalizing s with
  | nil => exact h
  | cons w t ih => exact ih _ (kept_ite h (kept_flushOne _ _ _ _ _ h))

theorem kept_setPort {κ : Nat} {z : State} (p : Nat) (x : Port) (s : State) (h : Kept κ z s) : Kept κ z (State.setPort p x s) := by
  unfold State.setPort
  repeat' first
    | with_reducible assumption | intro _ _ _ _ | intro _ _ _ | intro _ _ | dsimp only | with_reducible refine Kept.upd ?_

theorem kept_modPort {κ : Nat} {z : State} (p : Nat) (f : Port → Port) (s : State) (h : Kept κ z s) :
    Kept κ z (State.modPort p f s) := by
  unfold State.modPort
  repeat' first
    | with_reducible assumption | with_reducible apply kept_setPort | dsimp only

theorem kept_cutSends {κ : Nat} {z : State} (i n : Nat) (s : State) (h : Kept κ z s) : Kept κ z (State.cutSends i n s) := by
  unfold State.cutSends
  conv => zeta
  repeat' first
    | with_reducible assumption | with_reducible apply kept_modPort | with_reducible apply kept_modCore
    | with_reducible apply kept_foldl | with_reducible apply kept_ite | intro _ _ _ _ | intro _ _ _ | intro _ _
    | dsimp only | split | with_reducible refine Kept.upd ?_

theorem kept_abandonCore {κ : Nat} {z : State} (i : Nat) (silent : Bool) (s : State) (h : Kept κ z s) :
    Kept κ z (State.abandonCore i silent s) := by
  unfold State.abandonCore
  conv => zeta
  repeat' first
    | with_reducible assumption | with_reducible apply kept_modCore | with_reducible apply kept_cutSends
    | with_reducible apply kept_flushSb | with_reducible apply kept_flushQueued | with_reducible apply kept_foldl
    | with_reducible apply kept_ite | intro _ _ _ _ | intro _ _ _ | intro _ _ | dsimp only | split
    | with_reducible refine Kept.upd ?_

theorem kept_pend {κ : Nat} {z : State} (p : Nat) (cause : Cause) (s : State) (h : Kept κ z s) :
    Kept κ z (State.pend p cause s) := by
  unfold State.pend
  conv => zeta
  repeat' first
    | with_reducible assumption | with_reducible apply kept_setF | with_reducible apply kept_raise
    | with_reducible apply kept_trace | dsimp only

theorem kept_quiesce {κ : Nat} {z : State} (p : Nat) (cause : Cause) (s : State) (h : Kept κ z s) :
    Kept κ z (State.quiesce p cause s) := by
  unfold State.quiesce
  repeat' first
    | with_reducible assumption | with_reducible apply kept_forCores | with_reducible apply kept_abandonCore
    | with_reducible apply kept_pend | with_reducible apply kept_forCores | with_reducible apply kept_ite
    | intro _ _ _ _ | intro _ _ _ | intro _ _ | dsimp only | split

theorem kept_noteOrigin {κ : Nat} {z : State} (p a : Nat) (s : State) (h : Kept κ z s) : Kept κ z (State.noteOrigin p a s) := by
  unfold State.noteOrigin
  conv => zeta
  repeat' first
    | with_reducible assumption | with_reducible apply kept_ite | intro _ _ _ _ | intro _ _ _ | intro _ _ | dsimp only
    | split | with_reducible refine Kept.power ?_ (SameSupplies.of _) | with_reducible refine Kept.upd ?_

theorem kept_glazeFail {κ : Nat} {z : State} (i tile engine : Nat) (s : State) (h : Kept κ z s) :
    Kept κ z (State.glazeFail i tile engine s) := by
  unfold State.glazeFail
  conv => zeta
  repeat' first
    | with_reducible assumption | with_reducible apply kept_noteOrigin | with_reducible apply kept_modCore
    | with_reducible apply kept_bump | with_reducible apply kept_setF | with_reducible apply kept_quiesce
    | with_reducible apply kept_ite | intro _ _ _ _ | intro _ _ _ | intro _ _ | dsimp only | split
    | with_reducible refine Kept.upd ?_

theorem kept_lineGlazeFail {κ : Nat} {z : State} (i : Nat) (s : State) (h : Kept κ z s) : Kept κ z (State.lineGlazeFail i s) := by
  unfold State.lineGlazeFail
  repeat' first
    | with_reducible assumption | with_reducible apply kept_modCore | with_reducible apply kept_bump
    | with_reducible apply kept_quiesce | intro _ _ _ _ | intro _ _ _ | intro _ _ | dsimp only

/-! ### Cache -/

theorem kept_dikeFail {κ : Nat} {z : State} (master polder a : Nat) (s : State) (h : Kept κ z s) : Kept κ z (State.dikeFail master polder a s) := by
  unfold State.dikeFail
  generalize region a = r
  cases r with
  | dram st ch => exact kept_ite (kept_bump _ _ _ h) (kept_setF _ _ _ (kept_setF _ _ _ (kept_setF _ _ _ (kept_setF _ _ _ (kept_setF _ _ _ (kept_bump _ _ _ h))))))
  | _ => exact h

theorem kept_weirSpend {κ : Nat} {z : State} (st b pt n : Nat) (s : State) (h : Kept κ z s) :
    Kept κ z (State.weirSpend st b pt n s) := by
  unfold State.weirSpend
  conv => zeta
  repeat' first
    | with_reducible assumption | intro _ _ _ _ | intro _ _ _ | intro _ _ | dsimp only | with_reducible refine Kept.upd ?_

theorem kept_weirRefill {κ : Nat} {z : State} (s : State) (h : Kept κ z s) : Kept κ z (State.weirRefill s) := by
  unfold State.weirRefill
  conv => zeta
  repeat' first
    | with_reducible assumption | with_reducible apply kept_ite | intro _ _ _ _ | intro _ _ _ | intro _ _ | dsimp only
    | split | with_reducible refine Kept.upd ?_

theorem kept_weirFull {κ : Nat} {z : State} (p : Nat) (s : State) (h : Kept κ z s) : Kept κ z (State.weirFull p s) := by
  unfold State.weirFull
  repeat' first
    | with_reducible assumption | intro _ _ _ _ | intro _ _ _ | intro _ _ | dsimp only | with_reducible refine Kept.upd ?_

theorem kept_weirWait {κ : Nat} {z : State} (st b : Nat) (s : State) (h : Kept κ z s) : Kept κ z (State.weirWait st b s) := by
  unfold State.weirWait
  repeat' first
    | with_reducible assumption | with_reducible apply kept_bumpFree | dsimp only

theorem kept_setLines {κ : Nat} {z : State} (st a : Nat) (l : List Line) (s : State) (h : Kept κ z s) :
    Kept κ z (State.setLines st a l s) := by
  unfold State.setLines
  repeat' first
    | with_reducible assumption | intro _ _ _ _ | intro _ _ _ | intro _ _ | dsimp only | with_reducible refine Kept.upd ?_

theorem kept_renormWord {κ : Nat} {z : State} (st base w : Nat) (s : State) (h : Kept κ z s) :
    Kept κ z (State.renormWord st base w s) := by
  unfold State.renormWord
  conv => zeta
  repeat' first
    | with_reducible assumption | with_reducible apply kept_putBytes | with_reducible apply kept_bump | dsimp only | split
    | with_reducible refine Kept.upd ?_

theorem kept_renormWords {κ : Nat} {z : State} (st base : Nat) (ws : List Nat) (s : State) (h : Kept κ z s) :
    Kept κ z (State.renormWords st base ws s) := by
  unfold State.renormWords
  conv => zeta
  repeat' first
    | with_reducible assumption | with_reducible apply kept_renormWord | with_reducible apply kept_putMeta
    | with_reducible apply kept_foldl | with_reducible apply kept_ite | intro _ _ _ _ | intro _ _ _ | intro _ _
    | dsimp only | split

theorem kept_renormLine {κ : Nat} {z : State} (st a : Nat) (s : State) (h : Kept κ z s) : Kept κ z (State.renormLine st a s) := by
  unfold State.renormLine
  repeat' first
    | with_reducible assumption | with_reducible apply kept_renormWords | with_reducible apply kept_setLines
    | with_reducible apply kept_ite | intro _ _ _ _ | intro _ _ _ | intro _ _ | dsimp only | split
    | with_reducible refine Kept.upd ?_

theorem kept_setQueue {κ : Nat} {z : State} (st ch : Nat) (l : List Deferred) (s : State) (h : Kept κ z s) :
    Kept κ z (State.setQueue st ch l s) := by
  unfold State.setQueue
  repeat' first
    | with_reducible assumption | intro _ _ _ _ | intro _ _ _ | intro _ _ | dsimp only | with_reducible refine Kept.upd ?_

theorem kept_operatorRead {κ : Nat} {z : State} (s : State) (a n : Nat) (h : Kept κ z s) : Kept κ z (State.operatorRead s a n).1 := by
  unfold State.operatorRead
  generalize region a = r
  cases r with
  | dram st ch =>
    dsimp only
    split
    · exact kept_bump _ _ _ h
    · split
      · exact kept_useFree _ _ h
      · exact h
  | _ => exact h

theorem kept_operatorRead_eq {κ : Nat} {z t' : State} {x'} {s : State} {a n : Nat}
    (h : Kept κ z s) (e' : State.operatorRead s a n = (t', x')) :
    Kept κ z t' := by
  have k := kept_operatorRead s a n h
  rw [e'] at k
  exact k

theorem kept_operatorWrite {κ : Nat} {z : State} (a : Nat) (d : List Byte) (s : State) (h : Kept κ z s) :
    Kept κ z (State.operatorWrite a d s) := by
  unfold State.operatorWrite
  repeat' first
    | with_reducible assumption | with_reducible apply kept_bump | with_reducible apply kept_putPart
    | with_reducible apply kept_ite | dsimp only | split

theorem kept_perform {κ : Nat} {z : State} (s : State) (d : Deferred) (h : Kept κ z s) : Kept κ z (State.perform s d) := by
  cases d with
  | victim a => exact h
  | opRead a n id => exact kept_send _ _ (kept_operatorRead _ _ _ h)
  | opWrite a d => exact kept_operatorWrite _ _ _ h

theorem kept_performQueue {κ : Nat} {z : State} (st ch : Nat) (s : State) (h : Kept κ z s) :
    Kept κ z (State.performQueue st ch s) := by
  unfold State.performQueue
  conv => zeta
  repeat' first
    | with_reducible assumption | with_reducible apply kept_perform | with_reducible apply kept_setQueue
    | with_reducible apply kept_bump | with_reducible apply kept_foldl | intro _ _ _ _ | intro _ _ _ | intro _ _
    | dsimp only

theorem kept_performAll {κ : Nat} {z : State} (st ch : Nat) (s : State) (h : Kept κ z s) :
    Kept κ z (State.performAll st ch s) := by
  unfold State.performAll
  conv => zeta
  repeat' first
    | with_reducible assumption | with_reducible apply kept_perform | with_reducible apply kept_setQueue
    | with_reducible apply kept_bump | with_reducible apply kept_foldl | intro _ _ _ _ | intro _ _ _ | intro _ _
    | dsimp only

theorem kept_defer {κ : Nat} {z : State} (st ch : Nat) (d : Deferred) (s : State) (h : Kept κ z s) :
    Kept κ z (State.defer st ch d s) := by
  unfold State.defer
  conv => zeta
  repeat' first
    | with_reducible assumption | with_reducible apply kept_setQueue | with_reducible apply kept_performAll
    | with_reducible apply kept_ite | dsimp only | split

theorem kept_allocate {κ : Nat} {z : State} (st p a : Nat) (dirty : Bool) (s : State) (h : Kept κ z s) : Kept κ z (State.allocate st p a dirty s) := by
  unfold State.allocate
  dsimp only
  split
  · exact kept_setLines _ _ _ _ h
  · split
    · exact h
    · next v _ =>
      generalize region v.addr = r
      cases r <;> exact kept_ite (kept_bump _ _ _ h)
        (kept_ite (kept_defer _ _ _ _ (kept_setLines _ _ _ _ (kept_renormWords _ _ _ _ h))) (kept_setLines _ _ _ _ (kept_renormWords _ _ _ _ h)))

theorem kept_access {κ : Nat} {z : State} (p : Nat) (k : State.Access) (a : Nat) (s : State) (h : Kept κ z s) : Kept κ z (State.access p k a s) := by
  unfold State.access
  generalize region a = r
  cases r with
  | dram st ch =>
    dsimp only
    have h1 : Kept κ z (if k.short = true then s.bump (Reg.MEM_CNT_SHORT_COUNT st) 1 else s) := kept_ite (kept_bump _ _ _ h) h
    split
    · have h2 := kept_bump _ (Reg.MEM_CNT_HIT_COUNT st) 1 h1
      have h3 := fun c [Decidable c] => kept_ite (c := c) (kept_performQueue st ch _ h2) h2
      exact kept_setLines _ _ _ _ (kept_ite (h3 _) (kept_renormLine _ _ _ (h3 _)))
    · have h2 := kept_bump _ (Reg.MEM_CNT_MISS_COUNT st) 1 h1
      have h3 := fun c [Decidable c] => kept_ite (c := c) (kept_performQueue st ch _ h2) h2
      exact kept_ite (kept_allocate _ _ _ _ _ (h3 _)) (h3 _)
  | _ => exact h

theorem kept_meter {κ : Nat} {z : State} (b : Nat) (k : State.Access) (a : Nat) (s : State) (h : Kept κ z s) : Kept κ z (State.meter b k a s) := by
  unfold State.meter
  generalize region a = r
  cases r with
  | dram st ch => exact kept_access _ _ _ _ (kept_weirSpend _ _ _ _ _ (kept_weirSpend _ _ _ _ _ h))
  | _ => exact h

theorem kept_weirHold {κ : Nat} {z : State} (b a : Nat) (s : State) (h : Kept κ z s) : Kept κ z (State.weirHold b a s) := by
  unfold State.weirHold
  generalize region a = r
  cases r with
  | dram st ch => exact kept_weirWait _ _ _ h
  | _ => exact h

theorem kept_wipeDram {κ : Nat} {z : State} (lo hi : Nat) (s : State) (h : Kept κ z s) : Kept κ z (State.wipeDram lo hi s) := Kept.upd (kept_wipeRange _ _ _ h)

theorem kept_wipeChan {κ : Nat} {z : State} (s : State) (st ch : Nat) (h : Kept κ z s) : Kept κ z (State.wipeChan s st ch) := by
  unfold State.wipeChan
  conv => zeta
  repeat' first
    | with_reducible assumption | with_reducible apply kept_wipeDram | with_reducible apply kept_setQueue | dsimp only

/-! ### Sequencer -/

theorem kept_seqFault {κ : Nat} {z : State} (i code : Nat) (s : State) (h : Kept κ z s) : Kept κ z (State.seqFault i code s) := by
  unfold State.seqFault
  repeat' first
    | with_reducible assumption | with_reducible apply kept_modCore | with_reducible apply kept_quiesce | intro _ _ _ _
    | intro _ _ _ | intro _ _ | dsimp only

theorem kept_placeCore {κ : Nat} {z : State} (i : Nat) (c : Core) (t : Int) (s : State) (h : Kept κ z s) :
    Kept κ z (State.placeCore i c t s) := by
  unfold State.placeCore
  repeat' first
    | with_reducible assumption | with_reducible apply kept_setCore | with_reducible apply kept_seqFault | dsimp only
    | split | with_reducible refine Kept.upd ?_

theorem kept_applySeq {κ : Nat} {z : State} (i : Nat) (r : SeqRes) (s : State) (h : Kept κ z s) :
    Kept κ z (State.applySeq i r s) := by
  unfold State.applySeq
  conv => zeta
  repeat' first
    | with_reducible assumption | with_reducible apply kept_placeCore | with_reducible apply kept_seqFault
    | with_reducible apply kept_setCore | with_reducible apply kept_modCore | with_reducible apply kept_bump
    | with_reducible apply kept_useFree | with_reducible apply kept_glazeFail | with_reducible apply kept_ite
    | intro _ _ _ _ | intro _ _ _ | intro _ _ | dsimp only | split | with_reducible refine Kept.upd ?_

theorem kept_runIns {κ : Nat} {z : State} (i : Nat) (r : SeqRes) (s : State) (h : Kept κ z s) : KeptO κ z (runIns i r s) := by
  unfold runIns
  repeat' first
    | with_reducible assumption | with_reducible apply kept_applySeq | with_reducible apply kept_useFree
    | with_reducible apply KeptO.next | with_reducible apply KeptO.refused | intro _ _ _ _ | intro _ _ _ | intro _ _
    | dsimp only | split | with_reducible refine Kept.upd ?_

theorem kept_seqOp {κ : Nat} {z : State} (op : Nat) (body : SeqEnv → Word → Core → SeqRes) (i : Nat) (s : State)
    (h : Kept κ z s) :
    KeptO κ z (seqOp op body i s) := by
  unfold seqOp
  repeat' first
    | with_reducible assumption | with_reducible apply kept_seqFault | with_reducible apply kept_runIns
    | with_reducible apply kept_ite | with_reducible apply keptO_ite | with_reducible apply KeptO.next | intro _ _ _ _
    | intro _ _ _ | intro _ _ | dsimp only | split

theorem kept_execNop {κ : Nat} {z : State} (core : Nat) (s : State) (h : Kept κ z s) : KeptO κ z (execNop core s) := by
  unfold execNop
  repeat' first
    | with_reducible assumption | with_reducible apply kept_seqOp | with_reducible apply KeptO.next | intro _ _ _ _
    | intro _ _ _ | intro _ _ | dsimp only

theorem kept_execAdd {κ : Nat} {z : State} (core : Nat) (s : State) (h : Kept κ z s) : KeptO κ z (execAdd core s) := by
  unfold execAdd
  repeat' first
    | with_reducible assumption | with_reducible apply kept_seqOp | with_reducible apply KeptO.next | intro _ _ _ _
    | intro _ _ _ | intro _ _ | dsimp only

theorem kept_execSub {κ : Nat} {z : State} (core : Nat) (s : State) (h : Kept κ z s) : KeptO κ z (execSub core s) := by
  unfold execSub
  repeat' first
    | with_reducible assumption | with_reducible apply kept_seqOp | with_reducible apply KeptO.next | intro _ _ _ _
    | intro _ _ _ | intro _ _ | dsimp only

theorem kept_execMul {κ : Nat} {z : State} (core : Nat) (s : State) (h : Kept κ z s) : KeptO κ z (execMul core s) := by
  unfold execMul
  repeat' first
    | with_reducible assumption | with_reducible apply kept_seqOp | with_reducible apply KeptO.next | intro _ _ _ _
    | intro _ _ _ | intro _ _ | dsimp only

theorem kept_execAndOp {κ : Nat} {z : State} (core : Nat) (s : State) (h : Kept κ z s) : KeptO κ z (execAndOp core s) := by
  unfold execAndOp
  repeat' first
    | with_reducible assumption | with_reducible apply kept_seqOp | with_reducible apply KeptO.next | intro _ _ _ _
    | intro _ _ _ | intro _ _ | dsimp only

theorem kept_execOrOp {κ : Nat} {z : State} (core : Nat) (s : State) (h : Kept κ z s) : KeptO κ z (execOrOp core s) := by
  unfold execOrOp
  repeat' first
    | with_reducible assumption | with_reducible apply kept_seqOp | with_reducible apply KeptO.next | intro _ _ _ _
    | intro _ _ _ | intro _ _ | dsimp only

theorem kept_execXorOp {κ : Nat} {z : State} (core : Nat) (s : State) (h : Kept κ z s) : KeptO κ z (execXorOp core s) := by
  unfold execXorOp
  repeat' first
    | with_reducible assumption | with_reducible apply kept_seqOp | with_reducible apply KeptO.next | intro _ _ _ _
    | intro _ _ _ | intro _ _ | dsimp only

theorem kept_execShl {κ : Nat} {z : State} (core : Nat) (s : State) (h : Kept κ z s) : KeptO κ z (execShl core s) := by
  unfold execShl
  repeat' first
    | with_reducible assumption | with_reducible apply kept_seqOp | with_reducible apply KeptO.next | intro _ _ _ _
    | intro _ _ _ | intro _ _ | dsimp only

theorem kept_execShr {κ : Nat} {z : State} (core : Nat) (s : State) (h : Kept κ z s) : KeptO κ z (execShr core s) := by
  unfold execShr
  repeat' first
    | with_reducible assumption | with_reducible apply kept_seqOp | with_reducible apply KeptO.next | intro _ _ _ _
    | intro _ _ _ | intro _ _ | dsimp only

theorem kept_execSra {κ : Nat} {z : State} (core : Nat) (s : State) (h : Kept κ z s) : KeptO κ z (execSra core s) := by
  unfold execSra
  repeat' first
    | with_reducible assumption | with_reducible apply kept_seqOp | with_reducible apply KeptO.next | intro _ _ _ _
    | intro _ _ _ | intro _ _ | dsimp only

theorem kept_execSlt {κ : Nat} {z : State} (core : Nat) (s : State) (h : Kept κ z s) : KeptO κ z (execSlt core s) := by
  unfold execSlt
  repeat' first
    | with_reducible assumption | with_reducible apply kept_seqOp | with_reducible apply KeptO.next | intro _ _ _ _
    | intro _ _ _ | intro _ _ | dsimp only

theorem kept_execSltu {κ : Nat} {z : State} (core : Nat) (s : State) (h : Kept κ z s) : KeptO κ z (execSltu core s) := by
  unfold execSltu
  repeat' first
    | with_reducible assumption | with_reducible apply kept_seqOp | with_reducible apply KeptO.next | intro _ _ _ _
    | intro _ _ _ | intro _ _ | dsimp only

theorem kept_execAddi {κ : Nat} {z : State} (core : Nat) (s : State) (h : Kept κ z s) : KeptO κ z (execAddi core s) := by
  unfold execAddi
  repeat' first
    | with_reducible assumption | with_reducible apply kept_seqOp | with_reducible apply KeptO.next | intro _ _ _ _
    | intro _ _ _ | intro _ _ | dsimp only

theorem kept_execAndi {κ : Nat} {z : State} (core : Nat) (s : State) (h : Kept κ z s) : KeptO κ z (execAndi core s) := by
  unfold execAndi
  repeat' first
    | with_reducible assumption | with_reducible apply kept_seqOp | with_reducible apply KeptO.next | intro _ _ _ _
    | intro _ _ _ | intro _ _ | dsimp only

theorem kept_execOri {κ : Nat} {z : State} (core : Nat) (s : State) (h : Kept κ z s) : KeptO κ z (execOri core s) := by
  unfold execOri
  repeat' first
    | with_reducible assumption | with_reducible apply kept_seqOp | with_reducible apply KeptO.next | intro _ _ _ _
    | intro _ _ _ | intro _ _ | dsimp only

theorem kept_execXori {κ : Nat} {z : State} (core : Nat) (s : State) (h : Kept κ z s) : KeptO κ z (execXori core s) := by
  unfold execXori
  repeat' first
    | with_reducible assumption | with_reducible apply kept_seqOp | with_reducible apply KeptO.next | intro _ _ _ _
    | intro _ _ _ | intro _ _ | dsimp only

theorem kept_execShli {κ : Nat} {z : State} (core : Nat) (s : State) (h : Kept κ z s) : KeptO κ z (execShli core s) := by
  unfold execShli
  repeat' first
    | with_reducible assumption | with_reducible apply kept_seqOp | with_reducible apply KeptO.next | intro _ _ _ _
    | intro _ _ _ | intro _ _ | dsimp only

theorem kept_execShri {κ : Nat} {z : State} (core : Nat) (s : State) (h : Kept κ z s) : KeptO κ z (execShri core s) := by
  unfold execShri
  repeat' first
    | with_reducible assumption | with_reducible apply kept_seqOp | with_reducible apply KeptO.next | intro _ _ _ _
    | intro _ _ _ | intro _ _ | dsimp only

theorem kept_execLui {κ : Nat} {z : State} (core : Nat) (s : State) (h : Kept κ z s) : KeptO κ z (execLui core s) := by
  unfold execLui
  repeat' first
    | with_reducible assumption | with_reducible apply kept_seqOp | with_reducible apply KeptO.next | intro _ _ _ _
    | intro _ _ _ | intro _ _ | dsimp only

theorem kept_execLd {κ : Nat} {z : State} (core : Nat) (s : State) (h : Kept κ z s) : KeptO κ z (execLd core s) := by
  unfold execLd
  repeat' first
    | with_reducible assumption | with_reducible apply kept_seqOp | with_reducible apply KeptO.next | intro _ _ _ _
    | intro _ _ _ | intro _ _ | dsimp only

theorem kept_execLdw {κ : Nat} {z : State} (core : Nat) (s : State) (h : Kept κ z s) : KeptO κ z (execLdw core s) := by
  unfold execLdw
  repeat' first
    | with_reducible assumption | with_reducible apply kept_seqOp | with_reducible apply KeptO.next | intro _ _ _ _
    | intro _ _ _ | intro _ _ | dsimp only

theorem kept_execSt {κ : Nat} {z : State} (core : Nat) (s : State) (h : Kept κ z s) : KeptO κ z (execSt core s) := by
  unfold execSt
  repeat' first
    | with_reducible assumption | with_reducible apply kept_seqOp | with_reducible apply KeptO.next | intro _ _ _ _
    | intro _ _ _ | intro _ _ | dsimp only

theorem kept_execStw {κ : Nat} {z : State} (core : Nat) (s : State) (h : Kept κ z s) : KeptO κ z (execStw core s) := by
  unfold execStw
  repeat' first
    | with_reducible assumption | with_reducible apply kept_seqOp | with_reducible apply KeptO.next | intro _ _ _ _
    | intro _ _ _ | intro _ _ | dsimp only

theorem kept_execBeq {κ : Nat} {z : State} (core : Nat) (s : State) (h : Kept κ z s) : KeptO κ z (execBeq core s) := by
  unfold execBeq
  repeat' first
    | with_reducible assumption | with_reducible apply kept_seqOp | with_reducible apply KeptO.next | intro _ _ _ _
    | intro _ _ _ | intro _ _ | dsimp only

theorem kept_execBne {κ : Nat} {z : State} (core : Nat) (s : State) (h : Kept κ z s) : KeptO κ z (execBne core s) := by
  unfold execBne
  repeat' first
    | with_reducible assumption | with_reducible apply kept_seqOp | with_reducible apply KeptO.next | intro _ _ _ _
    | intro _ _ _ | intro _ _ | dsimp only

theorem kept_execBlt {κ : Nat} {z : State} (core : Nat) (s : State) (h : Kept κ z s) : KeptO κ z (execBlt core s) := by
  unfold execBlt
  repeat' first
    | with_reducible assumption | with_reducible apply kept_seqOp | with_reducible apply KeptO.next | intro _ _ _ _
    | intro _ _ _ | intro _ _ | dsimp only

theorem kept_execBge {κ : Nat} {z : State} (core : Nat) (s : State) (h : Kept κ z s) : KeptO κ z (execBge core s) := by
  unfold execBge
  repeat' first
    | with_reducible assumption | with_reducible apply kept_seqOp | with_reducible apply KeptO.next | intro _ _ _ _
    | intro _ _ _ | intro _ _ | dsimp only

theorem kept_execJal {κ : Nat} {z : State} (core : Nat) (s : State) (h : Kept κ z s) : KeptO κ z (execJal core s) := by
  unfold execJal
  repeat' first
    | with_reducible assumption | with_reducible apply kept_seqOp | with_reducible apply KeptO.next | intro _ _ _ _
    | intro _ _ _ | intro _ _ | dsimp only

theorem kept_execJr {κ : Nat} {z : State} (core : Nat) (s : State) (h : Kept κ z s) : KeptO κ z (execJr core s) := by
  unfold execJr
  repeat' first
    | with_reducible assumption | with_reducible apply kept_seqOp | with_reducible apply KeptO.next | intro _ _ _ _
    | intro _ _ _ | intro _ _ | dsimp only

theorem kept_execCmdw {κ : Nat} {z : State} (core : Nat) (s : State) (h : Kept κ z s) : KeptO κ z (execCmdw core s) := by
  unfold execCmdw
  repeat' first
    | with_reducible assumption | with_reducible apply kept_seqOp | with_reducible apply KeptO.next | intro _ _ _ _
    | intro _ _ _ | intro _ _ | dsimp only

theorem kept_execIssue {κ : Nat} {z : State} (core : Nat) (s : State) (h : Kept κ z s) : KeptO κ z (execIssue core s) := by
  unfold execIssue
  repeat' first
    | with_reducible assumption | with_reducible apply kept_seqOp | with_reducible apply KeptO.next | intro _ _ _ _
    | intro _ _ _ | intro _ _ | dsimp only

theorem kept_execListCmd {κ : Nat} {z : State} (core : Nat) (s : State) (h : Kept κ z s) : KeptO κ z (execListCmd core s) := by
  unfold execListCmd
  repeat' first
    | with_reducible assumption | with_reducible apply kept_seqOp | with_reducible apply KeptO.next | intro _ _ _ _
    | intro _ _ _ | intro _ _ | dsimp only

theorem kept_execWaitc {κ : Nat} {z : State} (core : Nat) (s : State) (h : Kept κ z s) : KeptO κ z (execWaitc core s) := by
  unfold execWaitc
  repeat' first
    | with_reducible assumption | with_reducible apply kept_seqOp | with_reducible apply KeptO.next | intro _ _ _ _
    | intro _ _ _ | intro _ _ | dsimp only

theorem kept_execPollc {κ : Nat} {z : State} (core : Nat) (s : State) (h : Kept κ z s) : KeptO κ z (execPollc core s) := by
  unfold execPollc
  repeat' first
    | with_reducible assumption | with_reducible apply kept_seqOp | with_reducible apply KeptO.next | intro _ _ _ _
    | intro _ _ _ | intro _ _ | dsimp only

theorem kept_execFence {κ : Nat} {z : State} (core : Nat) (s : State) (h : Kept κ z s) : KeptO κ z (execFence core s) := by
  unfold execFence
  repeat' first
    | with_reducible assumption | with_reducible apply kept_seqOp | with_reducible apply KeptO.next | intro _ _ _ _
    | intro _ _ _ | intro _ _ | dsimp only

theorem kept_execWaits {κ : Nat} {z : State} (core : Nat) (s : State) (h : Kept κ z s) : KeptO κ z (execWaits core s) := by
  unfold execWaits
  repeat' first
    | with_reducible assumption | with_reducible apply kept_seqOp | with_reducible apply KeptO.next | intro _ _ _ _
    | intro _ _ _ | intro _ _ | dsimp only

theorem kept_execRdt {κ : Nat} {z : State} (core : Nat) (s : State) (h : Kept κ z s) : KeptO κ z (execRdt core s) := by
  unfold execRdt
  repeat' first
    | with_reducible assumption | with_reducible apply kept_seqOp | with_reducible apply KeptO.next | intro _ _ _ _
    | intro _ _ _ | intro _ _ | dsimp only

theorem kept_execHaltOp {κ : Nat} {z : State} (core : Nat) (s : State) (h : Kept κ z s) : KeptO κ z (execHaltOp core s) := by
  unfold execHaltOp
  repeat' first
    | with_reducible assumption | with_reducible apply kept_seqOp | with_reducible apply KeptO.next | intro _ _ _ _
    | intro _ _ _ | intro _ _ | dsimp only

theorem kept_execReservedSequencerOpcode {κ : Nat} {z : State} (core : Nat) (s : State) (h : Kept κ z s) :
    KeptO κ z (execReservedSequencerOpcode core s) := by
  unfold execReservedSequencerOpcode
  repeat' first
    | with_reducible assumption | with_reducible apply kept_seqFault | with_reducible apply kept_ite
    | with_reducible apply keptO_ite | with_reducible apply KeptO.next | intro _ _ _ _ | intro _ _ _ | intro _ _
    | dsimp only | split

theorem kept_execSstep {κ : Nat} {z : State} (core : Nat) (s : State) (h : Kept κ z s) : KeptO κ z (execSstep core s) := by
  unfold execSstep
  repeat' first
    | with_reducible assumption | with_reducible apply kept_runIns | with_reducible apply kept_ite
    | with_reducible apply keptO_ite | with_reducible apply KeptO.next | intro _ _ _ _ | intro _ _ _ | intro _ _
    | dsimp only | split

end Sys2Proof.Laws
end

