-- ==== Sys2Proof/Laws/KeptLanes.lean ====
section
/-! SUPPORT. What is kept (Laws/Kept.lean) by lanes, the pipeline tables, the collective tables and the kilns: one lemma for each function that answers a state. -/

namespace Sys2Proof.Laws

set_option Elab.async false

open Sys2Proof.Machine

/-! ### Lane -/

theorem kept_sendFrame {κ : Nat} {z : State} (p : Nat) (f : Frame) (s : State) (h : Kept κ z s) :
    Kept κ z (State.sendFrame p f s) := by
  unfold State.sendFrame
  conv => zeta
  repeat' first
    | with_reducible assumption | with_reducible apply kept_setPort | with_reducible apply kept_bump
    | with_reducible apply kept_send | with_reducible apply kept_ite | intro _ _ _ _ | intro _ _ _ | intro _ _
    | dsimp only | split | with_reducible refine Kept.upd ?_

theorem kept_sendControl {κ : Nat} {z : State} (p ftype : Nat) (payload : List Byte) (s : State) (h : Kept κ z s) :
    Kept κ z (State.sendControl p ftype payload s) := by
  unfold State.sendControl
  repeat' first
    | with_reducible assumption | with_reducible apply kept_sendFrame | dsimp only

theorem kept_sendData {κ : Nat} {z : State} (p v : Nat) (s : State) (fb : Nat × List Byte) (h : Kept κ z s) :
    Kept κ z (State.sendData p v s fb) := by
  unfold State.sendData
  conv => zeta
  repeat' first
    | with_reducible assumption | with_reducible apply kept_setPort | with_reducible apply kept_sendFrame | intro _ _ _ _
    | intro _ _ _ | intro _ _ | dsimp only | with_reducible refine Kept.upd ?_

theorem kept_startPackets {κ : Nat} {z : State} (p v n : Nat) (s : State) (h : Kept κ z s) : Kept κ z (State.startPackets p v n s) := by
  induction n generalizing s with
  | zero => exact h
  | succ n ih =>
    unfold State.startPackets
    split
    · exact h
    · exact kept_ite (ih _ (kept_setF _ _ _ (kept_modPort _ _ _ h))) h

theorem kept_pumpVc {κ : Nat} {z : State} (p v n : Nat) (s : State) (h : Kept κ z s) : Kept κ z (State.pumpVc p v n s) := by
  induction n generalizing s with
  | zero => exact h
  | succ n ih =>
    unfold State.pumpVc
    split
    · exact h
    · have h1 := kept_startPackets p v (SMap.get (fun _ => []) (s.port p).streams v).length s h
      dsimp only
      split
      · exact h1
      · exact ih _ (kept_sendData _ _ _ _ (kept_modPort _ _ _ h1))

theorem kept_pump {κ : Nat} {z : State} (p : Nat) (s : State) (h : Kept κ z s) : Kept κ z (State.pump p s) := by
  unfold State.pump
  repeat' first
    | with_reducible assumption | with_reducible apply kept_pumpVc | with_reducible apply kept_foldl
    | with_reducible apply kept_ite | intro _ _ _ _ | intro _ _ _ | intro _ _ | dsimp only | split

theorem kept_sendLane {κ : Nat} {z : State} (p v : Nat) (q : LanePkt) (s : State) (h : Kept κ z s) :
    Kept κ z (State.sendLane p v q s) := by
  unfold State.sendLane
  conv => zeta
  repeat' first
    | with_reducible assumption | with_reducible apply kept_modPort | with_reducible apply kept_pump
    | with_reducible apply kept_ite | intro _ _ _ _ | intro _ _ _ | intro _ _ | dsimp only | split
    | with_reducible refine Kept.upd ?_

theorem kept_laneTake {κ : Nat} {z : State} (p v : Nat) (s : State) (h : Kept κ z s) : Kept κ z (State.laneTake p v s) := by
  unfold State.laneTake
  conv => zeta
  repeat' first
    | with_reducible assumption | with_reducible apply kept_modPort | with_reducible apply kept_sendControl
    | with_reducible apply kept_ite | intro _ _ _ _ | intro _ _ _ | intro _ _ | dsimp only | split
    | with_reducible refine Kept.upd ?_

theorem kept_laneDrop {κ : Nat} {z : State} (s : State) (h : Kept κ z s) : Kept κ z (State.laneDrop s) := by
  unfold State.laneDrop
  repeat' first
    | with_reducible assumption | with_reducible apply kept_bump | dsimp only

theorem kept_laneDeliver {κ : Nat} {z : State} (p v : Nat) (kind : LanePkt → Bool) (core : LanePkt → Nat) (route : LanePkt → State → Nat)
    (f : LanePkt → State → State) (s : State) (h : Kept κ z s) (hf : ∀ q s, Kept κ z s → Kept κ z (f q s)) :
    Kept κ z (State.laneDeliver p v kind core route f s) := by
  unfold State.laneDeliver
  split
  · exact h
  · exact kept_ite h (kept_ite (kept_laneDrop _ (kept_laneTake _ _ _ h)) (kept_ite (hf _ _ (kept_laneTake _ _ _ h)) h))

/-! ### PipTables -/

theorem kept_modLink {κ : Nat} {z : State} (l : Nat) (f : LinkEnd → LinkEnd) (s : State) (h : Kept κ z s) :
    Kept κ z (State.modLink l f s) := by
  unfold State.modLink
  repeat' first
    | with_reducible assumption | intro _ _ _ _ | intro _ _ _ | intro _ _ | dsimp only | with_reducible refine Kept.upd ?_

theorem kept_sendHead {κ : Nat} {z : State} (l : Nat) (s : State) (h : Kept κ z s) : Kept κ z (State.sendHead l s) := by
  unfold State.sendHead
  conv => zeta
  repeat' first
    | with_reducible assumption | with_reducible apply kept_modLink | with_reducible apply kept_sendLane
    | with_reducible apply kept_ite | intro _ _ _ _ | intro _ _ _ | intro _ _ | dsimp only | split
    | with_reducible refine Kept.upd ?_

theorem kept_retryHeads {κ : Nat} {z : State} (s : State) (h : Kept κ z s) : Kept κ z (State.retryHeads s) := by
  unfold State.retryHeads
  repeat' first
    | with_reducible assumption | with_reducible apply kept_sendHead | with_reducible apply kept_foldl
    | with_reducible apply kept_ite | intro _ _ _ _ | intro _ _ _ | intro _ _ | dsimp only | split

theorem kept_setStash {κ : Nat} {z : State} (g k : Nat) (e : Option StashEntry) (s : State) (h : Kept κ z s) :
    Kept κ z (State.setStash g k e s) := by
  unfold State.setStash
  repeat' first
    | with_reducible assumption | intro _ _ _ _ | intro _ _ _ | intro _ _ | dsimp only | with_reducible refine Kept.upd ?_

theorem kept_retireVer {κ : Nat} {z : State} (g j : Nat) (s : State) (h : Kept κ z s) : Kept κ z (State.retireVer g j s) := by
  unfold State.retireVer
  repeat' first
    | with_reducible assumption | with_reducible apply kept_setF | with_reducible apply kept_bump
    | with_reducible apply kept_ite | dsimp only | split

theorem kept_freeStash {κ : Nat} {z : State} (g k : Nat) (s : State) (h : Kept κ z s) : Kept κ z (State.freeStash g k s) := by
  unfold State.freeStash
  repeat' first
    | with_reducible assumption | with_reducible apply kept_setStash | with_reducible apply kept_setF
    | with_reducible apply kept_retireVer | dsimp only | split | with_reducible refine Kept.upd ?_

theorem kept_makeBinding {κ : Nat} {z : State} (g j : Nat) (infer : Bool) (e : StashEntry) (s : State) (h : Kept κ z s) :
    Kept κ z (State.makeBinding g j infer e s) := by
  unfold State.makeBinding
  conv => zeta
  repeat' first
    | with_reducible assumption | with_reducible apply kept_setStash | with_reducible apply kept_setF
    | with_reducible apply kept_bump | dsimp only | with_reducible refine Kept.upd ?_

theorem kept_allocVer {κ : Nat} {z : State} (g v : Nat) (s : State) (h : Kept κ z s) : KeptS κ z (State.allocVer g v s) := by
  unfold State.allocVer
  split
  · exact KeptS.none
  · have hp (j area : Nat) : Kept κ z (((((s.setF (Reg.PIP_VER_NUMBER g j) v).setF (Reg.PIP_VER_REFS g j) 0).setF (Reg.PIP_VER_FULL_AREA g j) area).setF
        (Reg.PIP_VER_DELTAS g j) 0xFFF).setF (Reg.PIP_VER_STATE g j) 1) :=
      kept_setF _ _ _ (kept_setF _ _ _ (kept_setF _ _ _ (kept_setF _ _ _ (kept_setF _ _ _ h))))
    dsimp only
    split
    · exact KeptS.map fun a => Kept.upd (hp _ _)
    · exact KeptS.some (Kept.upd (hp _ _))

theorem kept_allocVer_eq {κ : Nat} {z t' : State} {g v : Nat} {s : State}
    (h : Kept κ z s) (e' : State.allocVer g v s = some t') :
    Kept κ z t' := kept_allocVer g v s h t' e'

theorem kept_sherdDone {κ : Nat} {z : State} (g v stack : Nat) (s : State) (h : Kept κ z s) :
    Kept κ z (State.sherdDone g v stack s) := by
  unfold State.sherdDone
  conv => zeta
  repeat' first
    | with_reducible assumption | with_reducible apply kept_setF | with_reducible apply kept_ite | intro _ _ _ _
    | intro _ _ _ | intro _ _ | dsimp only | split | with_reducible refine Kept.upd ?_

theorem kept_commitOne {κ : Nat} {z : State} (g : Nat) (s : State) (h : Kept κ z s) : Kept κ z (State.commitOne g s) := by
  unfold State.commitOne
  conv => zeta
  repeat' first
    | with_reducible assumption | with_reducible apply kept_setF | with_reducible apply kept_bump
    | with_reducible apply kept_retireVer | with_reducible apply kept_foldl | with_reducible apply kept_ite
    | intro _ _ _ _ | intro _ _ _ | intro _ _ | dsimp only | split | with_reducible refine Kept.upd ?_

theorem kept_commitGroup {κ : Nat} {z : State} (g : Nat) (s : State) (h : Kept κ z s) : Kept κ z (State.commitGroup g s) := by
  unfold State.commitGroup
  repeat' first
    | with_reducible assumption | with_reducible apply kept_commitOne | with_reducible apply kept_foldl | intro _ _ _ _
    | intro _ _ _ | intro _ _ | dsimp only

theorem kept_noReturn {κ : Nat} {z : State} (p n : Nat) (s : State) (h : Kept κ z s) : Kept κ z (State.noReturn p n s) := by
  unfold State.noReturn
  conv => zeta
  repeat' first
    | with_reducible assumption | with_reducible apply kept_setF | with_reducible apply kept_ite | dsimp only | split

theorem kept_advanceHead {κ : Nat} {z : State} (l n : Nat) (s : State) (h : Kept κ z s) : Kept κ z (State.advanceHead l n s) := by
  induction n generalizing s with
  | zero => exact h
  | succ n ih =>
    unfold State.advanceHead
    exact kept_ite (ih _ (kept_modLink _ _ _ (kept_setF _ _ _ h))) h

theorem kept_takeEntry {κ : Nat} {z : State} (l mb : Nat) (s : State) (h : Kept κ z s) : Kept κ z (State.takeEntry l mb s) := by
  unfold State.takeEntry
  conv => zeta
  repeat' first
    | with_reducible assumption | with_reducible apply kept_modLink | with_reducible apply kept_bump
    | with_reducible apply kept_advanceHead | with_reducible apply kept_sendHead | with_reducible apply kept_ite
    | intro _ _ _ _ | intro _ _ _ | intro _ _ | dsimp only | split | with_reducible refine Kept.upd ?_

theorem kept_countTake {κ : Nat} {z : State} (c : CmdWord) (status : Nat) (s : State) (h : Kept κ z s) :
    Kept κ z (State.countTake c status s) := by
  unfold State.countTake
  repeat' first
    | with_reducible assumption | with_reducible apply kept_takeEntry | with_reducible apply kept_ite | dsimp only | split

/-! ### ColTables -/

theorem kept_setOp {κ : Nat} {z : State} (j p n : Nat) (o : Option ColOp) (s : State) (h : Kept κ z s) :
    Kept κ z (State.setOp j p n o s) := by
  unfold State.setOp
  repeat' first
    | with_reducible assumption | intro _ _ _ _ | intro _ _ _ | intro _ _ | dsimp only | with_reducible refine Kept.upd ?_

theorem kept_modOp {κ : Nat} {z : State} (j p n : Nat) (f : ColOp → ColOp) (s : State) (h : Kept κ z s) :
    Kept κ z (State.modOp j p n f s) := by
  unfold State.modOp
  repeat' first
    | with_reducible assumption | with_reducible apply kept_setOp | dsimp only

theorem kept_clearOps {κ : Nat} {z : State} (p : Nat) (s : State) (h : Kept κ z s) : Kept κ z (State.clearOps p s) := by
  unfold State.clearOps
  repeat' first
    | with_reducible assumption | intro _ _ _ _ | intro _ _ _ | intro _ _ | dsimp only | with_reducible refine Kept.upd ?_

theorem kept_loadOps {κ : Nat} {z : State} (p first : Nat) (s : State) (h : Kept κ z s) : Kept κ z (State.loadOps p first s) := by
  unfold State.loadOps
  conv => zeta
  repeat' first
    | with_reducible assumption | with_reducible apply kept_clearOps | with_reducible apply kept_setOp
    | with_reducible apply kept_foldl | intro _ _ _ _ | intro _ _ _ | intro _ _ | dsimp only
    | with_reducible refine Kept.upd ?_

theorem kept_askRepair {κ : Nat} {z : State} (p a : Nat) (s : State) (h : Kept κ z s) : Kept κ z (State.askRepair p a s) := by
  unfold State.askRepair
  repeat' first
    | with_reducible assumption | with_reducible apply kept_send | with_reducible apply kept_ite | dsimp only | split
    | with_reducible refine Kept.power ?_ (SameSupplies.of _) | with_reducible refine Kept.upd ?_

theorem kept_dueRestore {κ : Nat} {z : State} (p : Nat) (s : State) (h : Kept κ z s) : Kept κ z (State.dueRestore p s) := by
  unfold State.dueRestore
  repeat' first
    | with_reducible assumption | with_reducible apply kept_ite | dsimp only | split
    | with_reducible refine Kept.power ?_ (SameSupplies.of _) | with_reducible refine Kept.upd ?_

theorem kept_markFailed {κ : Nat} {z : State} (j p n code : Nat) (s : State) (h : Kept κ z s) :
    Kept κ z (State.markFailed j p n code s) := by
  unfold State.markFailed
  conv => zeta
  repeat' first
    | with_reducible assumption | with_reducible apply kept_modOp | with_reducible apply kept_setF
    | with_reducible apply kept_ite | intro _ _ _ _ | intro _ _ _ | intro _ _ | dsimp only | split
    | with_reducible refine Kept.upd ?_

theorem kept_failOp {κ : Nat} {z : State} (j p n code : Nat) (s : State) (h : Kept κ z s) :
    Kept κ z (State.failOp j p n code s) := by
  unfold State.failOp
  conv => zeta
  repeat' first
    | with_reducible assumption | with_reducible apply kept_markFailed | with_reducible apply kept_dueRestore
    | with_reducible apply kept_quiesce | with_reducible apply kept_ite | dsimp only | split
    | with_reducible refine Kept.upd ?_

theorem kept_dropColVc {κ : Nat} {z : State} (n q v : Nat) (s : State) (h : Kept κ z s) : Kept κ z (State.dropColVc n q v s) := by
  unfold State.dropColVc
  conv => zeta
  repeat' first
    | with_reducible assumption | with_reducible apply kept_modPort | with_reducible apply kept_bump
    | with_reducible apply kept_foldl | with_reducible apply kept_ite | intro _ _ _ _ | intro _ _ _ | intro _ _
    | dsimp only | split | with_reducible refine Kept.upd ?_

theorem kept_abandonCol {κ : Nat} {z : State} (p n : Nat) (s : State) (h : Kept κ z s) : Kept κ z (State.abandonCol p n s) := by
  unfold State.abandonCol
  conv => zeta
  repeat' first
    | with_reducible assumption | with_reducible apply kept_dropColVc | with_reducible apply kept_modOp
    | with_reducible apply kept_foldl | with_reducible apply kept_ite | intro _ _ _ _ | intro _ _ _ | intro _ _
    | dsimp only | split

theorem kept_failLost {κ : Nat} {z : State} (p : Nat) (l : List (Nat × Nat)) (s : State) (h : Kept κ z s) :
    Kept κ z (State.failLost p l s) := by
  unfold State.failLost
  repeat' first
    | with_reducible assumption | with_reducible apply kept_failOp | with_reducible apply kept_foldl | intro _ _ _ _
    | intro _ _ _ | intro _ _ | dsimp only

theorem kept_colOut {κ : Nat} {z : State} (j p n port pkg : Nat) (q : LanePkt) (s : State) (h : Kept κ z s) :
    Kept κ z (State.colOut j p n port pkg q s) := by
  unfold State.colOut
  conv => zeta
  repeat' first
    | with_reducible assumption | with_reducible apply kept_failOp | with_reducible apply kept_sendLane
    | with_reducible apply kept_ite | dsimp only | split | with_reducible refine Kept.upd ?_

theorem kept_colSend {κ : Nat} {z : State} (j p n m run : Nat) (q : LanePkt) (s : State) (h : Kept κ z s) :
    Kept κ z (State.colSend j p n m run q s) := by
  unfold State.colSend
  repeat' first
    | with_reducible assumption | with_reducible apply kept_failOp | with_reducible apply kept_colOut | dsimp only | split
    | with_reducible refine Kept.upd ?_

theorem kept_colRefuse {κ : Nat} {z : State} (p a st : Nat) (s : State) (h : Kept κ z s) :
    Kept κ z (State.colRefuse p a st s) := by
  unfold State.colRefuse
  repeat' first
    | with_reducible assumption | with_reducible apply kept_dikeFail | with_reducible apply kept_ite | dsimp only | split

theorem kept_foldGlaze {κ : Nat} {z : State} (j g n k layer t : Nat) (gw gm1 gm2 : DWord) (s : State) (h : Kept κ z s) :
    Kept κ z (State.foldGlaze j g n k layer t gw gm1 gm2 s) := by
  unfold State.foldGlaze
  conv => zeta
  repeat' first
    | with_reducible assumption | intro _ _ _ _ | intro _ _ _ | intro _ _ | dsimp only | with_reducible refine Kept.upd ?_

theorem kept_clearSubs {κ : Nat} {z : State} (j g n : Nat) (s : State) (h : Kept κ z s) : Kept κ z (State.clearSubs j g n s) := by
  unfold State.clearSubs
  repeat' first
    | with_reducible assumption | dsimp only | with_reducible refine Kept.upd ?_

theorem kept_advanceOp {κ : Nat} {z : State} (j p n : Nat) (s : State) (h : Kept κ z s) : Kept κ z (State.advanceOp j p n s) := by
  unfold State.advanceOp
  repeat' first
    | with_reducible assumption | with_reducible apply kept_modOp | with_reducible apply kept_ite | intro _ _ _ _
    | intro _ _ _ | intro _ _ | dsimp only | split | with_reducible refine Kept.upd ?_

theorem kept_markPulls {κ : Nat} {z : State} (i : Nat) (s : State) (h : Kept κ z s) : Kept κ z (State.markPulls i s) := by
  unfold State.markPulls
  repeat' first
    | with_reducible assumption | with_reducible apply kept_modOp | with_reducible apply kept_foldl | intro _ _ _ _
    | intro _ _ _ | intro _ _ | dsimp only | split | with_reducible refine Kept.upd ?_

/-! ### Kiln -/

theorem kept_modKiln {κ : Nat} {z : State} (i : Nat) (f : Kiln → Kiln) (s : State) (h : Kept κ z s) :
    Kept κ z (State.modKiln i f s) := by
  unfold State.modKiln
  repeat' first
    | with_reducible assumption | intro _ _ _ _ | intro _ _ _ | intro _ _ | dsimp only | with_reducible refine Kept.upd ?_

theorem kept_setKlayer {κ : Nat} {z : State} (i n : Nat) (l : Option KLayer) (s : State) (h : Kept κ z s) :
    Kept κ z (State.setKlayer i n l s) := by
  unfold State.setKlayer
  repeat' first
    | with_reducible assumption | with_reducible apply kept_modKiln | intro _ _ _ _ | intro _ _ _ | intro _ _ | dsimp only
    | with_reducible refine Kept.upd ?_

theorem kept_putDesc {κ : Nat} {z : State} (i n off : Nat) (l : List Byte) (s : State) (h : Kept κ z s) :
    Kept κ z (State.putDesc i n off l s) := by
  unfold State.putDesc
  repeat' first
    | with_reducible assumption | with_reducible apply kept_putPart | dsimp only

theorem kept_kilnError {κ : Nat} {z : State} (i code layer tile : Nat) (s : State) (h : Kept κ z s) :
    Kept κ z (State.kilnError i code layer tile s) := by
  unfold State.kilnError
  repeat' first
    | with_reducible assumption | with_reducible apply kept_setF | with_reducible apply kept_ite | dsimp only | split

theorem kept_kilnMeter {κ : Nat} {z : State} (p : Nat) (k : State.Access) (a : Nat) (s : State) (h : Kept κ z s) : Kept κ z (State.kilnMeter p k a s) := by
  unfold State.kilnMeter
  generalize region a = r
  cases r with
  | dram st ch => exact kept_access _ _ _ _ (kept_weirSpend _ _ _ _ _ h)
  | _ => exact h

theorem kept_kilnPut {κ : Nat} {z : State} (p a : Nat) (t : Tile) (s : State) (h : Kept κ z s) :
    Kept κ z (State.kilnPut p a t s) := by
  unfold State.kilnPut
  repeat' first
    | with_reducible assumption | with_reducible apply kept_kilnMeter | with_reducible apply kept_putTile | dsimp only

theorem kept_exportOne {κ : Nat} {z : State} (i p units : Nat) (r : State.ExRec) (s : State) (h : Kept κ z s) :
    Kept κ z (State.exportOne i p units r s) := by
  unfold State.exportOne
  conv => zeta
  repeat' first
    | with_reducible assumption | with_reducible apply kept_putPart | with_reducible apply kept_setF
    | with_reducible apply kept_bump | with_reducible apply kept_modKiln | with_reducible apply kept_foldl
    | intro _ _ _ _ | intro _ _ _ | intro _ _ | dsimp only | with_reducible refine Kept.upd ?_

theorem kept_exportPut {κ : Nat} {z : State} (i p : Nat) (rs : List State.ExRec) (s : State) (h : Kept κ z s) :
    Kept κ z (State.exportPut i p rs s) := by
  unfold State.exportPut
  conv => zeta
  repeat' first
    | with_reducible assumption | with_reducible apply kept_exportOne | with_reducible apply kept_foldl
    | with_reducible apply kept_ite | intro _ _ _ _ | intro _ _ _ | intro _ _ | dsimp only | split

theorem kept_exportWait {κ : Nat} {z : State} (i : Nat) (s : State) (h : Kept κ z s) : Kept κ z (State.exportWait i s) := by
  unfold State.exportWait
  repeat' first
    | with_reducible assumption | with_reducible apply kept_setF | with_reducible apply kept_bumpFree | dsimp only

theorem kept_beginFiring {κ : Nat} {z : State} (g v : Nat) (s : State) (h : Kept κ z s) {x : Nat × State} (e : State.beginFiring g v s = some x) :
    Kept κ z x.2 := by
  unfold State.beginFiring at e
  dsimp only at e
  have h1 := kept_noReturn (s.groupPolder g) (v - 1) s h
  split at e
  · obtain rfl := Option.some.inj e; exact h1
  · split at e
    · next t ht =>
      obtain ⟨j, -, rfl⟩ := Option.map_eq_some_iff.mp e
      exact kept_foldl (kept_allocVer _ _ _ h1 _ ht) fun _ _ hs => kept_sherdDone _ _ _ _ hs
    · cases e

theorem kept_beginFiring_eq {κ : Nat} {z t : State} {x g v : Nat} {s : State} (h : Kept κ z s) (e : State.beginFiring g v s = some (x, t)) :
    Kept κ z t := kept_beginFiring g v s h e

theorem kept_sendFetch {κ : Nat} {z : State} (f : KFetch) (s : State) (h : Kept κ z s) : Kept κ z (State.sendFetch f s).2 := by
  have hp (x : List KFetch) : Kept κ z { s.bump (Reg.COL_CNT_FETCH_COUNT (f.kiln / 8)) 1 with fetches := x } := Kept.upd (kept_bump _ _ _ h)
  unfold State.sendFetch
  dsimp only
  generalize region f.addr = r
  split
  · cases r with
    | host =>
      dsimp only
      split
      · dsimp only
        exact hp _
      · dsimp only
        exact h
    | _ => dsimp only; exact h
  · split
    · dsimp only; exact h
    · dsimp only; exact kept_sendLane _ _ _ _ (hp _)

theorem kept_sendFetch_eq {κ : Nat} {z t' : State} {x'} {f : KFetch} {s : State}
    (h : Kept κ z s) (e' : State.sendFetch f s = (x', t')) :
    Kept κ z t' := by
  have k := kept_sendFetch f s h
  rw [e'] at k
  exact k

theorem kept_fetchFailed {κ : Nat} {z : State} (f : KFetch) (s : State) (h : Kept κ z s) : Kept κ z (State.fetchFailed f s) := by
  unfold State.fetchFailed
  conv => zeta
  repeat' first
    | with_reducible assumption | with_reducible apply kept_bump | with_reducible apply kept_kilnError
    | with_reducible apply kept_dueRestore | with_reducible apply kept_quiesce | with_reducible apply kept_sendFetch
    | with_reducible apply kept_ite | with_reducible refine kept_sendFetch_eq ?_ ‹_› | intro _ _ _ _ | intro _ _ _
    | intro _ _ | dsimp only | split | with_reducible refine Kept.upd ?_

theorem kept_issueFetch {κ : Nat} {z : State} (i p entry slot a : Nat) (data : Option Tile) (s : State) (h : Kept κ z s) :
    Kept κ z (State.issueFetch i p entry slot a data s) := by
  unfold State.issueFetch
  conv => zeta
  repeat' first
    | with_reducible assumption | with_reducible apply kept_bump | with_reducible apply kept_sendFetch
    | with_reducible apply kept_fetchFailed | with_reducible apply kept_ite
    | with_reducible refine kept_sendFetch_eq ?_ ‹_› | dsimp only | split | with_reducible refine Kept.upd ?_

theorem kept_putAcc {κ : Nat} {z : State} (p a n : Nat) (m : Mat) (sigma : Int) (s : State) (h : Kept κ z s) :
    Kept κ z (State.putAcc p a n m sigma s) := by
  unfold State.putAcc
  conv => zeta
  repeat' first
    | with_reducible assumption | with_reducible apply kept_kilnPut | with_reducible apply kept_foldl | intro _ _ _ _
    | intro _ _ _ | intro _ _ | dsimp only

theorem kept_putS16 {κ : Nat} {z : State} (p a n : Nat) (m : Mat) (s : State) (h : Kept κ z s) :
    Kept κ z (State.putS16 p a n m s) := by
  unfold State.putS16
  conv => zeta
  repeat' first
    | with_reducible assumption | with_reducible apply kept_kilnPut | with_reducible apply kept_foldl | intro _ _ _ _
    | intro _ _ _ | intro _ _ | dsimp only

theorem kept_updateStats {κ : Nat} {z : State} (p : Nat) (d t : List Byte) (b : State.Blocks) (k : Nat) (g : Mat) (s : State)
    (h : Kept κ z s) :
    Kept κ z (State.updateStats p d t b k g s) := by
  unfold State.updateStats
  conv => zeta
  repeat' first
    | with_reducible assumption | with_reducible apply kept_putAcc | with_reducible apply kept_ite | dsimp only | split

theorem kept_putOut {κ : Nat} {z : State} (i p entry slot a : Nat) (d : List Byte) (t : Tile) (s : State) (h : Kept κ z s) :
    Kept κ z (State.putOut i p entry slot a d t s) := by
  unfold State.putOut
  repeat' first
    | with_reducible assumption | with_reducible apply kept_issueFetch | with_reducible apply kept_kilnPut
    | with_reducible apply kept_ite | dsimp only | split

theorem kept_putDelta {κ : Nat} {z : State} (i p entry layer idx j : Nat) (d : List Byte) (c new : Tile) (s : State)
    (h : Kept κ z s) :
    Kept κ z (State.putDelta i p entry layer idx j d c new s) := by
  unfold State.putDelta
  conv => zeta
  repeat' first
    | with_reducible assumption | with_reducible apply kept_setKlayer | with_reducible apply kept_putOut
    | with_reducible apply kept_ite | intro _ _ _ _ | intro _ _ _ | intro _ _ | dsimp only | split
    | with_reducible refine Kept.upd ?_

theorem kept_discardTile {κ : Nat} {z : State} (i : Nat) (e : Parked) (l : KLayer) (w : Tile) (s : State) (h : Kept κ z s) :
    Kept κ z (State.discardTile i e l w s) := by
  unfold State.discardTile
  conv => zeta
  repeat' first
    | with_reducible assumption | with_reducible apply kept_bump | with_reducible apply kept_setKlayer | intro _ _ _ _
    | intro _ _ _ | intro _ _ | dsimp only | with_reducible refine Kept.upd ?_

theorem kept_writeApplied {κ : Nat} {z : State} (i j : Nat) (e : Parked) (l : KLayer) (t : List Byte) (w : Tile) (r : KTile) (recs : List State.ExRec) (s : State)
    (h : Kept κ z s) :
    Kept κ z (State.writeApplied i j e l t w r recs s) := by
  unfold State.writeApplied
  conv => zeta
  repeat' first
    | with_reducible assumption | with_reducible apply kept_putOut | with_reducible apply kept_bump
    | with_reducible apply kept_applyTel | with_reducible apply kept_setKlayer | with_reducible apply kept_putDelta
    | with_reducible apply kept_exportPut | with_reducible apply kept_foldl | with_reducible apply kept_ite
    | intro _ _ _ _ | intro _ _ _ | intro _ _ | dsimp only | split | with_reducible refine Kept.upd ?_

theorem kept_endFiring {κ : Nat} {z : State} (i g n : Nat) (s : State) (h : Kept κ z s) : Kept κ z (State.endFiring i g n s) := by
  unfold State.endFiring
  repeat' first
    | with_reducible assumption | with_reducible apply kept_sherdDone | with_reducible apply kept_bump
    | with_reducible apply kept_exportPut | with_reducible apply kept_ite | dsimp only | split

theorem kept_rootFailed {κ : Nat} {z : State} (i layer : Nat) (s : State) (h : Kept κ z s) :
    Kept κ z (State.rootFailed i layer s) := by
  unfold State.rootFailed
  conv => zeta
  repeat' first
    | with_reducible assumption | with_reducible apply kept_bump | with_reducible apply kept_setF
    | with_reducible apply kept_putDesc | with_reducible apply kept_foldl | with_reducible apply kept_ite
    | intro _ _ _ _ | intro _ _ _ | intro _ _ | dsimp only | split

theorem kept_installRoots {κ : Nat} {z : State} (i layer : Nat) (ready : Option Bool) (l : KLayer) (t : List Byte) (s : State)
    (h : Kept κ z s) :
    Kept κ z (State.installRoots i layer ready l t s).2 := by
  unfold State.installRoots
  conv => zeta
  repeat' first
    | with_reducible assumption | with_reducible apply kept_modKiln | with_reducible apply kept_putS16
    | with_reducible apply kept_foldl | intro _ _ _ _ | intro _ _ _ | intro _ _ | dsimp only | split
    | with_reducible refine Kept.upd ?_

theorem kept_installRoots_eq {κ : Nat} {z t' : State} {x'} {i layer : Nat} {ready : Option Bool} {l : KLayer} {t : List Byte} {s : State}
    (h : Kept κ z s) (e' : State.installRoots i layer ready l t s = (x', t')) :
    Kept κ z t' := by
  have k := kept_installRoots i layer ready l t s h
  rw [e'] at k
  exact k

theorem kept_queueRoots {κ : Nat} {z : State} (i layer : Nat) (idle : Bool) (l : KLayer) (t : List Byte) (s : State)
    (h : Kept κ z s) :
    Kept κ z (State.queueRoots i layer idle l t s) := by
  unfold State.queueRoots
  conv => zeta
  repeat' first
    | with_reducible assumption | with_reducible apply kept_modKiln | with_reducible apply kept_ite | intro _ _ _ _
    | intro _ _ _ | intro _ _ | dsimp only | split | with_reducible refine Kept.upd ?_

theorem kept_putNorms {κ : Nat} {z : State} (l : List Byte) (s : State) (h : Kept κ z s) : Kept κ z (State.putNorms l s) := by
  unfold State.putNorms
  conv => zeta
  repeat' first
    | with_reducible assumption | with_reducible apply kept_bump | with_reducible apply kept_storeIn
    | with_reducible apply kept_setF | with_reducible apply kept_ite | dsimp only | split

theorem kept_closeLayer {κ : Nat} {z : State} (layer : Nat) (ready : Option Bool) (idle : Bool) (x : State.LayerEnd) (norms : List Byte) (s : State) (i : Nat)
    (h : Kept κ z s) :
    Kept κ z (State.closeLayer layer ready idle x norms s i) := by
  unfold State.closeLayer
  conv => zeta
  repeat' first
    | with_reducible assumption | with_reducible apply kept_installRoots | with_reducible apply kept_queueRoots
    | with_reducible apply kept_putDesc | with_reducible apply kept_setKlayer | with_reducible apply kept_exportPut
    | with_reducible apply kept_endFiring | with_reducible refine kept_installRoots_eq ?_ ‹_› | dsimp only | split
    | with_reducible refine Kept.upd ?_

theorem kept_endLayer {κ : Nat} {z : State} (layer : Nat) (s : State) (h : Kept κ z s) : Kept κ z (State.endLayer layer s) := by
  unfold State.endLayer
  conv => zeta
  repeat' first
    | with_reducible assumption | with_reducible apply kept_exportWait | with_reducible apply kept_closeLayer
    | with_reducible apply kept_putNorms | with_reducible apply kept_foldl | with_reducible apply kept_ite
    | intro _ _ _ _ | intro _ _ _ | intro _ _ | dsimp only | split | with_reducible refine Kept.upd ?_

theorem kept_unpark {κ : Nat} {z : State} (i : Nat) (id : Nat) (s : State) (h : Kept κ z s) : Kept κ z (State.unpark i id s) := by
  unfold State.unpark
  repeat' first
    | with_reducible assumption | with_reducible apply kept_setF | with_reducible apply kept_modKiln | intro _ _ _ _
    | intro _ _ _ | intro _ _ | dsimp only | with_reducible refine Kept.upd ?_

theorem kept_setParked {κ : Nat} {z : State} (i : Nat) (e : Parked) (s : State) (h : Kept κ z s) :
    Kept κ z (State.setParked i e s) := by
  unfold State.setParked
  repeat' first
    | with_reducible assumption | with_reducible apply kept_modKiln | with_reducible apply kept_ite | intro _ _ _ _
    | intro _ _ _ | intro _ _ | dsimp only | split | with_reducible refine Kept.upd ?_

theorem kept_notePark {κ : Nat} {z : State} (i : Nat) (e : Parked) (w : ParkWait) (s : State) (h : Kept κ z s) :
    Kept κ z (State.notePark i e w s) := by
  unfold State.notePark
  repeat' first
    | with_reducible assumption | with_reducible apply kept_bump | with_reducible apply kept_dueRestore
    | with_reducible apply kept_askRepair | with_reducible apply kept_ite | intro _ _ _ _ | intro _ _ _ | intro _ _
    | dsimp only | split | with_reducible refine Kept.upd ?_

theorem kept_reportTile {κ : Nat} {z : State} (i p op n layer idx : Nat) (gw gm1 gm2 : DWord) (frozen parked : Bool) (s : State)
    (h : Kept κ z s) :
    Kept κ z (State.reportTile i p op n layer idx gw gm1 gm2 frozen parked s) := by
  unfold State.reportTile
  conv => zeta
  repeat' first
    | with_reducible assumption | with_reducible apply kept_foldGlaze | with_reducible apply kept_modOp
    | with_reducible apply kept_ite | intro _ _ _ _ | intro _ _ _ | intro _ _ | dsimp only | split
    | with_reducible refine Kept.upd ?_

/-- The same of an attempt to apply an entry. -/
def KeptA (κ : Nat) (z : State) : State.Attempt → Prop
  | .applied s _ _ _ => Kept κ z s
  | .park _ s => Kept κ z s
  | .hold s => Kept κ z s
  | .refuse _ s => Kept κ z s

theorem kept_attempt {κ : Nat} {z : State} (i : Nat) (e : Parked) (s : State) (h : Kept κ z s) : KeptA κ z (State.attempt i e s) := by
  unfold State.attempt
  split
  · exact h
  · next l _ =>
    dsimp only
    have hm : Kept κ z (if kdSlow l.desc = true then s else
        (s.tileAddrs l.desc (s.ktable l.table) e.idx).foldl (fun s x => s.kilnMeter e.polder readTile x.2) s) :=
      kept_ite h (kept_foldl h fun s a hs => kept_kilnMeter _ _ _ _ hs)
    revert hm
    generalize (if kdSlow l.desc = true then s else
        (s.tileAddrs l.desc (s.ktable l.table) e.idx).foldl (fun s x => s.kilnMeter e.polder readTile x.2) s) = s1
    intro hm
    split
    · exact h
    · split
      · dsimp only [KeptA]
        exact kept_ite (kept_dikeFail _ _ _ _ h) h
      · split
        · exact h
        · split
          · exact kept_kilnError _ _ _ _ _ h
          · split
            · exact kept_discardTile _ _ _ _ _ hm
            · split
              · exact h
              · split
                · exact kept_exportWait _ _ h
                · split
                  · exact h
                  · next he =>
                    split
                    · exact h
                    · exact kept_writeApplied _ _ _ _ _ _ _ _ _ (kept_beginFiring_eq hm he)

theorem kept_attempt_to {κ : Nat} {z : State} {i : Nat} {e : Parked} {s : State} {a : State.Attempt} (h : Kept κ z s) (k : State.attempt i e s = a) :
    KeptA κ z a := k ▸ kept_attempt i e s h

theorem kept_retry {κ : Nat} {z : State} (i : Nat) (e : Parked) (s : State) (h : Kept κ z s) : Kept κ z (State.retry i e s) := by
  have ha := kept_attempt i e s h
  unfold State.retry
  revert ha
  generalize State.attempt i e s = a
  intro ha
  cases a with
  | applied s gw gm1 gm2 =>
    exact kept_endLayer _ _ (kept_reportTile _ _ _ _ _ _ _ _ _ _ _ _ (kept_ite (kept_setParked _ _ _ ha) (kept_unpark _ _ _ ha)))
  | park w s => exact kept_ite ha (kept_setParked _ _ _ (kept_notePark _ _ _ _ ha))
  | hold s => exact ha
  | refuse c s => exact kept_dueRestore _ _ (kept_kilnError _ _ _ _ _ ha)

theorem kept_openBlock {κ : Nat} {z : State} (i : Nat) (e : Parked) (s : State) (h : Kept κ z s) :
    Kept κ z (State.openBlock i e s) := by
  unfold State.openBlock
  conv => zeta
  repeat' first
    | with_reducible assumption | with_reducible apply kept_updateStats | with_reducible apply kept_setParked
    | with_reducible apply kept_foldl | with_reducible apply kept_ite | intro _ _ _ _ | intro _ _ _ | intro _ _
    | dsimp only | split | with_reducible refine Kept.upd ?_

theorem kept_kilnWork {κ : Nat} {z : State} (i p : Nat) (s : State) (h : Kept κ z s) : Kept κ z (State.kilnWork i p s) := by
  unfold State.kilnWork
  conv => zeta
  repeat' first
    | with_reducible assumption | with_reducible apply kept_openBlock | with_reducible apply kept_retry
    | with_reducible apply kept_endLayer | with_reducible apply kept_foldl | with_reducible apply kept_ite
    | intro _ _ _ _ | intro _ _ _ | intro _ _ | dsimp only | split | with_reducible refine Kept.upd ?_

theorem kept_mend {κ : Nat} {z : State} (i p a : Nat) (s : State) (h : Kept κ z s) : Kept κ z (State.mend i p a s) := by
  unfold State.mend
  conv => zeta
  repeat' first
    | with_reducible assumption | with_reducible apply kept_setParked | with_reducible apply kept_issueFetch
    | with_reducible apply kept_kilnWork | with_reducible apply kept_foldl | with_reducible apply kept_ite
    | intro _ _ _ _ | intro _ _ _ | intro _ _ | dsimp only | split | with_reducible refine Kept.upd ?_

theorem kept_allKilnWork {κ : Nat} {z : State} (p : Nat) (s : State) (h : Kept κ z s) : Kept κ z (State.allKilnWork p s) := by
  unfold State.allKilnWork
  repeat' first
    | with_reducible assumption | with_reducible apply kept_kilnWork | with_reducible apply kept_foldl | intro _ _ _ _
    | intro _ _ _ | intro _ _ | dsimp only

/-! ### MfeTables -/

theorem kept_modMfe {κ : Nat} {z : State} (m p : Nat) (f : Mfe → Mfe) (s : State) (h : Kept κ z s) :
    Kept κ z (State.modMfe m p f s) := by
  unfold State.modMfe
  repeat' first
    | with_reducible assumption | intro _ _ _ _ | intro _ _ _ | intro _ _ | dsimp only | with_reducible refine Kept.upd ?_

theorem kept_takeSet {κ : Nat} {z : State} (m p : Nat) (t : LandSet) (s : State) (h : Kept κ z s) :
    Kept κ z (State.takeSet m p t s) := by
  unfold State.takeSet
  conv => zeta
  repeat' first
    | with_reducible assumption | with_reducible apply kept_modMfe | with_reducible apply kept_modCore
    | with_reducible apply kept_foldl | with_reducible apply kept_ite | intro _ _ _ _ | intro _ _ _ | intro _ _
    | dsimp only | split | with_reducible refine Kept.upd ?_

theorem kept_returnSets {κ : Nat} {z : State} (p : Nat) (s : State) (h : Kept κ z s) : Kept κ z (State.returnSets p s) := by
  unfold State.returnSets
  repeat' first
    | with_reducible assumption | with_reducible apply kept_modMfe | with_reducible apply kept_foldl | intro _ _ _ _
    | intro _ _ _ | intro _ _ | dsimp only | with_reducible refine Kept.upd ?_

end Sys2Proof.Laws
end

