-- ==== Sys2Proof/Laws/KeptCores.lean ====
section
/-! SUPPORT. What is kept (Laws/Kept.lean) by the core: scoreboard, matrix, vector and transfer engines, messages and core control: one lemma for each function that answers a state. -/

namespace Sys2Proof.Laws

set_option Elab.async false

open Sys2Proof.Machine

/-! ### Scoreboard -/

theorem kept_setFlight {κ : Nat} {z : State} (i : Nat) (seq : BitVec 16) (f : Flight) (s : State) (h : Kept κ z s) :
    Kept κ z (State.setFlight i seq f s) := by
  unfold State.setFlight
  repeat' first
    | with_reducible assumption | with_reducible apply kept_modCore | with_reducible apply kept_ite | intro _ _ _ _
    | intro _ _ _ | intro _ _ | dsimp only | split | with_reducible refine Kept.upd ?_

theorem kept_launch {κ : Nat} {z : State} (i : Nat) (e : SbEntry) (f : Flight) (s : State) (h : Kept κ z s) :
    Kept κ z (State.launch i e f s) := by
  unfold State.launch
  repeat' first
    | with_reducible assumption | with_reducible apply kept_modCore | with_reducible apply kept_bump
    | with_reducible apply kept_setFlight | intro _ _ _ _ | intro _ _ _ | intro _ _ | dsimp only
    | with_reducible refine Kept.upd ?_

theorem kept_launchError {κ : Nat} {z : State} (i : Nat) (e : SbEntry) (status : Nat) (s : State) (h : Kept κ z s) :
    Kept κ z (State.launchError i e status s) := by
  unfold State.launchError
  repeat' first
    | with_reducible assumption | with_reducible apply kept_launch | dsimp only | with_reducible refine Kept.upd ?_

theorem kept_srecMeter {κ : Nat} {z : State} (i : Nat) (as : List Nat) (s : State) (h : Kept κ z s) :
    Kept κ z (State.srecMeter i as s) := by
  unfold State.srecMeter
  repeat' first
    | with_reducible assumption | with_reducible apply kept_meter | with_reducible apply kept_foldl
    | with_reducible apply kept_ite | intro _ _ _ _ | intro _ _ _ | intro _ _ | dsimp only | split

theorem kept_srecAtomic {κ : Nat} {z : State} (i a : Nat) (s : State) (h : Kept κ z s) : Kept κ z (State.srecAtomic i a s) := by
  unfold State.srecAtomic
  repeat' first
    | with_reducible assumption | with_reducible apply kept_meter | dsimp only

theorem kept_launchAddrError {κ : Nat} {z : State} (i : Nat) (e : SbEntry) (status a : Nat) (s : State) (h : Kept κ z s) :
    Kept κ z (State.launchAddrError i e status a s) := by
  unfold State.launchAddrError
  conv => zeta
  repeat' first
    | with_reducible assumption | with_reducible apply kept_dikeFail | with_reducible apply kept_launchError
    | with_reducible apply kept_ite | dsimp only | split

theorem kept_countStall {κ : Nat} {z : State} (i : Nat) (s : State) (h : Kept κ z s) : Kept κ z (State.countStall i s) := by
  unfold State.countStall
  repeat' first
    | with_reducible assumption | with_reducible apply kept_modCore | with_reducible apply kept_bump
    | with_reducible apply kept_useFree | with_reducible apply kept_ite | intro _ _ _ _ | intro _ _ _ | intro _ _
    | dsimp only | split

theorem kept_resumeList {κ : Nat} {z : State} (i : Nat) (s : State) (h : Kept κ z s) : KeptO κ z (resumeList i s) := by
  unfold resumeList
  repeat' first
    | with_reducible assumption | with_reducible apply kept_setCore | with_reducible apply kept_countStall
    | with_reducible apply kept_glazeFail | with_reducible apply KeptO.next | with_reducible apply KeptO.refused
    | intro _ _ _ _ | intro _ _ _ | intro _ _ | dsimp only | split | with_reducible refine Kept.upd ?_

theorem kept_execScoreboardAccept {κ : Nat} {z : State} (core : Nat) (s : State) (h : Kept κ z s) :
    KeptO κ z (execScoreboardAccept core s) := by
  unfold execScoreboardAccept
  repeat' first
    | with_reducible assumption | with_reducible apply kept_resumeList | with_reducible apply kept_modCore
    | with_reducible apply KeptO.next | intro _ _ _ _ | intro _ _ _ | intro _ _ | dsimp only

theorem kept_countSynth {κ : Nat} {z : State} (i : Nat) (c : CmdWord) (status : Nat) (s : State) (h : Kept κ z s) :
    Kept κ z (State.countSynth i c status s) := by
  unfold State.countSynth
  repeat' first
    | with_reducible assumption | with_reducible apply kept_bump | with_reducible apply kept_ite | dsimp only | split
    | with_reducible refine Kept.upd ?_

theorem kept_countCycles {κ : Nat} {z : State} (i : Nat) (g : Engine) (s : State) (h : Kept κ z s) :
    Kept κ z (State.countCycles i g s) := by
  unfold State.countCycles
  conv => zeta
  repeat' first
    | with_reducible assumption | with_reducible apply kept_bump | with_reducible apply kept_useFree
    | with_reducible apply kept_modCore | with_reducible apply kept_ite | intro _ _ _ _ | intro _ _ _ | intro _ _
    | dsimp only | split | with_reducible refine Kept.upd ?_

theorem kept_placeFtq {κ : Nat} {z : State} (i : Nat) (e : SbEntry) (f : Flight) (s : State) (h : Kept κ z s) :
    Kept κ z (State.placeFtq i e f s) := by
  unfold State.placeFtq
  conv => zeta
  repeat' first
    | with_reducible assumption | with_reducible apply kept_modCore | with_reducible apply kept_setFlight | intro _ _ _ _
    | intro _ _ _ | intro _ _ | dsimp only | with_reducible refine Kept.upd ?_

theorem kept_completeCmd {κ : Nat} {z : State} (i : Nat) (e : SbEntry) (f : Flight) (s : State) (h : Kept κ z s) :
    Kept κ z (State.completeCmd i e f s) := by
  unfold State.completeCmd
  repeat' first
    | with_reducible assumption | with_reducible apply kept_finishCmd | with_reducible apply kept_modCore
    | with_reducible apply kept_countTake | with_reducible apply kept_countSynth
    | with_reducible apply kept_countCycles | intro _ _ _ _ | intro _ _ _ | intro _ _ | dsimp only

theorem kept_execReservedOpcode {κ : Nat} {z : State} (core seq : Nat) (s : State) (h : Kept κ z s) :
    KeptO κ z (execReservedOpcode core seq s) := by
  unfold execReservedOpcode
  repeat' first
    | with_reducible assumption | with_reducible apply kept_launchError | with_reducible apply kept_ite
    | with_reducible apply keptO_ite | with_reducible apply KeptO.next | intro _ _ _ _ | intro _ _ _ | intro _ _
    | dsimp only | split | with_reducible refine Kept.upd ?_

/-! ### Matrix -/

theorem kept_matrixFail {κ : Nat} {z : State} (i : Nat) (e : SbEntry) (status : Nat) (s : State) (h : Kept κ z s) :
    Kept κ z (State.matrixFail i e status s) := by
  unfold State.matrixFail
  repeat' first
    | with_reducible assumption | with_reducible apply kept_modCore | with_reducible apply kept_setFlight
    | with_reducible apply kept_foldl | intro _ _ _ _ | intro _ _ _ | intro _ _ | dsimp only
    | with_reducible refine Kept.upd ?_

theorem kept_matrixDone {κ : Nat} {z : State} (i : Nat) (e : SbEntry) (before : List (Nat × Bank)) (pairs : List (List AccPair)) (sigma : Int) (replays disc : Nat) (isSealed : Bool) (s : State)
    (h : Kept κ z s) :
    Kept κ z (State.matrixDone i e before pairs sigma replays disc isSealed s) := by
  unfold State.matrixDone
  conv => zeta
  repeat' first
    | with_reducible assumption | with_reducible apply kept_modCore | with_reducible apply kept_bump
    | with_reducible apply kept_setFlight | with_reducible apply kept_foldl | with_reducible apply kept_ite
    | intro _ _ _ _ | intro _ _ _ | intro _ _ | dsimp only | split | with_reducible refine Kept.upd ?_

theorem kept_runMatrix {κ : Nat} {z : State} (i : Nat) (e : SbEntry) (status : Nat) (s : State) (h : Kept κ z s) :
    Kept κ z (State.runMatrix i e status s) := by
  unfold State.runMatrix
  conv => zeta
  repeat' first
    | with_reducible assumption | with_reducible apply kept_matrixFail | with_reducible apply kept_glazeFail
    | with_reducible apply kept_matrixDone | with_reducible apply kept_useFree | with_reducible apply kept_ite
    | intro _ _ _ _ | intro _ _ _ | intro _ _ | dsimp only | split | with_reducible refine Kept.upd ?_

theorem kept_runMdump {κ : Nat} {z : State} (i : Nat) (e : SbEntry) (s : State) (h : Kept κ z s) :
    Kept κ z (State.runMdump i e s) := by
  unfold State.runMdump
  conv => zeta
  repeat' first
    | with_reducible assumption | with_reducible apply kept_setFlight | with_reducible apply kept_ite | dsimp only | split
    | with_reducible refine Kept.upd ?_

theorem kept_runMatrixCmd {κ : Nat} {z : State} (i : Nat) (e : SbEntry) (status : Nat) (s : State) (h : Kept κ z s) :
    Kept κ z (State.runMatrixCmd i e status s) := by
  unfold State.runMatrixCmd
  repeat' first
    | with_reducible assumption | with_reducible apply kept_setFlight | with_reducible apply kept_runMdump
    | with_reducible apply kept_runMatrix | with_reducible apply kept_ite | dsimp only | split
    | with_reducible refine Kept.upd ?_

theorem kept_issueMatrix {κ : Nat} {z : State} (i : Nat) (e : SbEntry) (status : Nat) (s : State) (h : Kept κ z s) :
    Kept κ z (State.issueMatrix i e status s) := by
  unfold State.issueMatrix
  conv => zeta
  repeat' first
    | with_reducible assumption | with_reducible apply kept_launch | with_reducible apply kept_runMatrixCmd
    | with_reducible apply kept_ite | dsimp only | split | with_reducible refine Kept.upd ?_

theorem kept_resumeMatrix {κ : Nat} {z : State} (i : Nat) (s : State) (h : Kept κ z s) : Kept κ z (State.resumeMatrix i s) := by
  unfold State.resumeMatrix
  repeat' first
    | with_reducible assumption | with_reducible apply kept_runMatrixCmd | dsimp only | split
    | with_reducible refine Kept.upd ?_

theorem kept_startMatrix {κ : Nat} {z : State} (i : Nat) (e : SbEntry) (s : State) (h : Kept κ z s) :
    Kept κ z (State.startMatrix i e s) := by
  unfold State.startMatrix
  conv => zeta
  repeat' first
    | with_reducible assumption | with_reducible apply kept_weirHold | with_reducible apply kept_dikeFail
    | with_reducible apply kept_srecMeter | with_reducible apply kept_issueMatrix | with_reducible apply kept_ite
    | dsimp only | split | with_reducible refine Kept.upd ?_

theorem kept_execMatmul {κ : Nat} {z : State} (core seq : Nat) (s : State) (h : Kept κ z s) :
    KeptO κ z (execMatmul core seq s) := by
  unfold execMatmul
  repeat' first
    | with_reducible assumption | with_reducible apply kept_startMatrix | with_reducible apply kept_ite
    | with_reducible apply keptO_ite | with_reducible apply KeptO.next | with_reducible apply KeptO.refused
    | intro _ _ _ _ | intro _ _ _ | intro _ _ | dsimp only | split | with_reducible refine Kept.upd ?_

theorem kept_execMatw {κ : Nat} {z : State} (core seq : Nat) (s : State) (h : Kept κ z s) : KeptO κ z (execMatw core seq s) := by
  unfold execMatw
  repeat' first
    | with_reducible assumption | with_reducible apply kept_startMatrix | with_reducible apply kept_ite
    | with_reducible apply keptO_ite | with_reducible apply KeptO.next | with_reducible apply KeptO.refused
    | intro _ _ _ _ | intro _ _ _ | intro _ _ | dsimp only | split | with_reducible refine Kept.upd ?_

theorem kept_execMdump {κ : Nat} {z : State} (core seq : Nat) (s : State) (h : Kept κ z s) : KeptO κ z (execMdump core seq s) := by
  unfold execMdump
  repeat' first
    | with_reducible assumption | with_reducible apply kept_issueMatrix | with_reducible apply KeptO.next | intro _ _ _ _
    | intro _ _ _ | intro _ _ | dsimp only | split | with_reducible refine Kept.upd ?_

theorem kept_execCommandCompletion {κ : Nat} {z : State} (core seq : Nat) (s : State) (h : Kept κ z s) :
    KeptO κ z (execCommandCompletion core seq s) := by
  unfold execCommandCompletion
  conv => zeta
  repeat' first
    | with_reducible assumption | with_reducible apply kept_placeFtq | with_reducible apply kept_modCore
    | with_reducible apply kept_bump | with_reducible apply kept_useFree | with_reducible apply kept_completeCmd
    | with_reducible apply kept_resumeMatrix | with_reducible apply kept_ite | with_reducible apply keptO_ite
    | with_reducible apply KeptO.next | with_reducible apply KeptO.refused | intro _ _ _ _ | intro _ _ _ | intro _ _
    | dsimp only | split | with_reducible refine Kept.upd ?_

/-! ### Vector -/

theorem kept_mergeAmax {κ : Nat} {z : State} (a : Nat) (vals : List FV) (s : State) (h : Kept κ z s) :
    Kept κ z (State.mergeAmax a vals s) := by
  unfold State.mergeAmax
  conv => zeta
  repeat' first
    | with_reducible assumption | with_reducible apply kept_putPart | with_reducible apply kept_ite | dsimp only | split

theorem kept_dropFtq {κ : Nat} {z : State} (i : Nat) (tags : List Nat) (s : State) (h : Kept κ z s) :
    Kept κ z (State.dropFtq i tags s) := by
  unfold State.dropFtq
  repeat' first
    | with_reducible assumption | with_reducible apply kept_modCore | intro _ _ _ _ | intro _ _ _ | intro _ _ | dsimp only
    | with_reducible refine Kept.upd ?_

theorem kept_vsRun {κ : Nat} {z : State} (i : Nat) (e : SbEntry) (st : List StageWord) (s : State) (h : Kept κ z s) :
    Kept κ z (State.vsRun i e st s) := by
  unfold State.vsRun
  conv => zeta
  repeat' first
    | with_reducible assumption | with_reducible apply kept_dropFtq | with_reducible apply kept_useFree
    | with_reducible apply kept_modCore | with_reducible apply kept_bump | with_reducible apply kept_launch
    | with_reducible apply kept_launchError | with_reducible apply kept_lineGlazeFail
    | with_reducible apply kept_mergeAmax | with_reducible apply kept_srecAtomic | with_reducible apply kept_srecMeter
    | with_reducible apply kept_foldl | with_reducible apply kept_ite | intro _ _ _ _ | intro _ _ _ | intro _ _
    | dsimp only | split | with_reducible refine Kept.upd ?_

theorem kept_execVstream {κ : Nat} {z : State} (core seq : Nat) (s : State) (h : Kept κ z s) :
    KeptO κ z (execVstream core seq s) := by
  unfold execVstream
  conv => zeta
  repeat' first
    | with_reducible assumption | with_reducible apply kept_launchError | with_reducible apply kept_dropFtq
    | with_reducible apply kept_launchAddrError | with_reducible apply kept_weirHold
    | with_reducible apply kept_glazeFail | with_reducible apply kept_vsRun | with_reducible apply kept_ite
    | with_reducible apply keptO_ite | with_reducible apply KeptO.next | with_reducible apply KeptO.refused
    | intro _ _ _ _ | intro _ _ _ | intro _ _ | dsimp only | split | with_reducible refine Kept.upd ?_

theorem kept_execVext {κ : Nat} {z : State} (core seq : Nat) (s : State) (h : Kept κ z s) : KeptO κ z (execVext core seq s) := by
  unfold execVext
  repeat' first
    | with_reducible assumption | with_reducible apply kept_modCore | with_reducible apply kept_launchError
    | with_reducible apply KeptO.next | intro _ _ _ _ | intro _ _ _ | intro _ _ | dsimp only | split
    | with_reducible refine Kept.upd ?_

theorem kept_execVroll {κ : Nat} {z : State} (core seq : Nat) (s : State) (h : Kept κ z s) : KeptO κ z (execVroll core seq s) := by
  unfold execVroll
  conv => zeta
  repeat' first
    | with_reducible assumption | with_reducible apply kept_launchError | with_reducible apply kept_launchAddrError
    | with_reducible apply kept_weirHold | with_reducible apply kept_srecAtomic | with_reducible apply kept_putPart
    | with_reducible apply kept_launch | with_reducible apply kept_ite | with_reducible apply keptO_ite
    | with_reducible apply KeptO.next | intro _ _ _ _ | intro _ _ _ | intro _ _ | dsimp only | split
    | with_reducible refine Kept.upd ?_

/-! ### Transfer -/

theorem kept_putFar {κ : Nat} {z : State} (base a : Nat) (t : Tile) (s : State) (h : Kept κ z s) :
    Kept κ z (State.putFar base a t s) := by
  unfold State.putFar
  conv => zeta
  repeat' first
    | with_reducible assumption | with_reducible apply kept_putBytes | with_reducible apply kept_putTile
    | with_reducible apply kept_ite | dsimp only | split | with_reducible refine Kept.upd ?_

theorem kept_moveTile {κ : Nat} {z : State} (i : Nat) (c : CmdWord) (a : Nat) (f : Flight) (s : State) (h : Kept κ z s) :
    Kept κ z (State.moveTile i c a f s).2 := by
  unfold State.moveTile
  conv => zeta
  repeat' first
    | with_reducible assumption | with_reducible apply kept_meter | with_reducible apply kept_putFar
    | with_reducible apply kept_ite | dsimp only | split | with_reducible refine Kept.upd ?_

theorem kept_moveTile_eq {κ : Nat} {z t' : State} {x'} {i : Nat} {c : CmdWord} {a : Nat} {f : Flight} {s : State}
    (h : Kept κ z s) (e' : State.moveTile i c a f s = (x', t')) :
    Kept κ z t' := by
  have k := kept_moveTile i c a f s h
  rw [e'] at k
  exact k

theorem kept_moveTiles {κ : Nat} {z : State} (i : Nat) (c : CmdWord) (n : Nat) (f : Flight) (s : State) (h : Kept κ z s) :
    ∀ x, State.moveTiles i c n f s = some x → Kept κ z x.2 := by
  induction n generalizing f s with
  | zero =>
    intro x e
    obtain rfl := Option.some.inj e
    exact h
  | succ n ih =>
    intro x e
    unfold State.moveTiles at e
    dsimp only at e
    split at e
    · obtain rfl := Option.some.inj e
      exact h
    · split at e
      · obtain rfl := Option.some.inj e
        exact kept_ite (kept_dikeFail _ _ _ _ h) h
      · split at e
        · cases e
        · split at e
          · obtain rfl := Option.some.inj e
            exact kept_weirHold _ _ _ h
          · exact ih _ _ (kept_moveTile _ _ _ _ _ h) _ e

theorem kept_moveTiles_eq {κ : Nat} {z t' : State} {i : Nat} {c : CmdWord} {n : Nat} {f f' : Flight} {s : State} (h : Kept κ z s)
    (e : State.moveTiles i c n f s = some (f', t')) : Kept κ z t' := kept_moveTiles i c n f s h _ e

theorem kept_runXmove {κ : Nat} {z : State} (i n : Nat) (e : SbEntry) (f : Flight) (s : State) (h : Kept κ z s) :
    KeptO κ z (State.runXmove i n e f s) := by
  unfold State.runXmove
  repeat' first
    | with_reducible assumption | with_reducible apply kept_moveTiles | with_reducible apply kept_setFlight
    | with_reducible apply KeptO.next | with_reducible apply KeptO.refused
    | with_reducible refine kept_moveTiles_eq ?_ ‹_› | intro _ _ _ _ | intro _ _ _ | intro _ _ | dsimp only | split
    | with_reducible refine Kept.upd ?_

theorem kept_execXmove {κ : Nat} {z : State} (core seq tiles : Nat) (s : State) (h : Kept κ z s) :
    KeptO κ z (execXmove core seq tiles s) := by
  unfold execXmove
  conv => zeta
  repeat' first
    | with_reducible assumption | with_reducible apply kept_runXmove | with_reducible apply kept_launchError
    | with_reducible apply kept_launch | with_reducible apply kept_ite | with_reducible apply keptO_ite
    | with_reducible apply KeptO.next | with_reducible apply KeptO.refused | intro _ _ _ _ | intro _ _ _ | intro _ _
    | dsimp only | split | with_reducible refine Kept.upd ?_

theorem kept_execXfill {κ : Nat} {z : State} (core seq : Nat) (s : State) (h : Kept κ z s) : KeptO κ z (execXfill core seq s) := by
  unfold execXfill
  conv => zeta
  repeat' first
    | with_reducible assumption | with_reducible apply kept_launchError | with_reducible apply kept_launch
    | with_reducible apply kept_ite | with_reducible apply keptO_ite | with_reducible apply KeptO.next
    | with_reducible apply KeptO.refused | intro _ _ _ _ | intro _ _ _ | intro _ _ | dsimp only | split
    | with_reducible refine Kept.upd ?_

theorem kept_countAdds {κ : Nat} {z : State} (st a : Nat) (s : State) (h : Kept κ z s) : Kept κ z (State.countAdds st a s) := by
  unfold State.countAdds
  conv => zeta
  repeat' first
    | with_reducible assumption | with_reducible apply kept_setLines | with_reducible apply kept_renormWords
    | with_reducible apply kept_ite | intro _ _ _ _ | intro _ _ _ | intro _ _ | dsimp only | split
    | with_reducible refine Kept.upd ?_

theorem kept_atomEnter {κ : Nat} {z : State} (st a : Nat) (s : State) (h : Kept κ z s) : Kept κ z (State.atomEnter st a s) := by
  unfold State.atomEnter
  repeat' first
    | with_reducible assumption | with_reducible apply kept_setLines | with_reducible apply kept_ite | dsimp only | split

theorem kept_atomLeave {κ : Nat} {z : State} (st a : Nat) (s : State) (h : Kept κ z s) : Kept κ z (State.atomLeave st a s) := by
  unfold State.atomLeave
  repeat' first
    | with_reducible assumption | with_reducible apply kept_renormWords | with_reducible apply kept_setLines
    | with_reducible apply kept_ite | intro _ _ _ _ | intro _ _ _ | intro _ _ | dsimp only | split
    | with_reducible refine Kept.upd ?_

theorem kept_atomElem {κ : Nat} {z : State} (st : Nat) (c : CmdWord) (opnd : List Byte) (r : AtomRun) (e : Nat) (h : Kept κ z r.s) :
    Kept κ z (State.atomElem st c opnd r e).s := by
  unfold State.atomElem
  dsimp only
  split
  · exact kept_ite (kept_bump _ _ _ (kept_countAdds _ _ _ (kept_putBytes _ _ _ (kept_bump _ _ _ h))))
      (kept_countAdds _ _ _ (kept_putBytes _ _ _ (kept_bump _ _ _ h)))
  · exact kept_putBytes _ _ _ (kept_bump _ _ _ h)

theorem kept_atomElems {κ : Nat} {z : State} (st : Nat) (c : CmdWord) (opnd : List Byte) (l : List Nat) (r : AtomRun) (h : Kept κ z r.s) :
    Kept κ z (l.foldl (State.atomElem st c opnd) r).s := by
  induction l generalizing r with
  | nil => exact h
  | cons a t ih => exact ih _ (kept_atomElem _ _ _ _ _ h)

theorem kept_runAtom {κ : Nat} {z : State} (i st : Nat) (e : SbEntry) (s : State) (h : Kept κ z s) : Kept κ z (State.runAtom i st e s) := by
  unfold State.runAtom
  have hm := kept_meter (s.core i).polder atomicAccess (xaTarget e.q.cmd) s h
  have hr := fun o l p => kept_atomElems st e.q.cmd o l ⟨_, p⟩ (kept_atomEnter st (xaTarget e.q.cmd / 2048 * 2048) _ hm)
  exact kept_ite (kept_lineGlazeFail _ _ (kept_launchError _ _ _ _ hm))
    (kept_launch _ _ _ _ (kept_putMeta _ _ _ (kept_ite (hr _ _ _) (kept_atomLeave _ _ _ (hr _ _ _)))))

theorem kept_execXatom {κ : Nat} {z : State} (core seq : Nat) (s : State) (h : Kept κ z s) : KeptO κ z (execXatom core seq s) := by
  unfold execXatom
  conv => zeta
  repeat' first
    | with_reducible assumption | with_reducible apply kept_launchError | with_reducible apply kept_launchAddrError
    | with_reducible apply kept_glazeFail | with_reducible apply kept_weirHold | with_reducible apply kept_runAtom
    | with_reducible apply kept_ite | with_reducible apply keptO_ite | with_reducible apply KeptO.next
    | with_reducible apply KeptO.refused | intro _ _ _ _ | intro _ _ _ | intro _ _ | dsimp only | split
    | with_reducible refine Kept.upd ?_

/-! ### Message -/

theorem kept_ringWrite {κ : Nat} {z : State} (i : Nat) (k : Ctx) (u : Nat) (l : List Byte) (s : State) (h : Kept κ z s) :
    Kept κ z (State.ringWrite i k u l s) := by
  unfold State.ringWrite
  repeat' first
    | with_reducible assumption | with_reducible apply kept_putPart | with_reducible apply kept_foldl | intro _ _ _ _
    | intro _ _ _ | intro _ _ | dsimp only

theorem kept_emit {κ : Nat} {z : State} (p : Pkt) (s : State) (h : Kept κ z s) : Kept κ z (State.emit p s) := by
  unfold State.emit
  split
  · exact Kept.upd h
  · split
    · exact kept_foldl h fun s a hs => kept_sendLane _ _ _ _ hs
    · exact kept_ite (kept_foldl h fun s a hs => kept_sendLane _ _ _ _ hs) (Kept.upd h)

theorem kept_emitNow {κ : Nat} {z : State} (p : Pkt) (s : State) (h : Kept κ z s) : Kept κ z (State.emitNow p s) := by
  unfold State.emitNow
  repeat' first
    | with_reducible assumption | with_reducible apply kept_sendLane | with_reducible apply kept_foldl
    | with_reducible apply kept_ite | intro _ _ _ _ | intro _ _ _ | intro _ _ | dsimp only | split
    | with_reducible refine Kept.upd ?_

theorem kept_releaseRev {κ : Nat} {z : State} (i : Nat) (s : State) (h : Kept κ z s) : Kept κ z (State.releaseRev i s) := by
  unfold State.releaseRev
  conv => zeta
  repeat' first
    | with_reducible assumption | with_reducible apply kept_emit | with_reducible apply kept_foldl | intro _ _ _ _
    | intro _ _ _ | intro _ _ | dsimp only | with_reducible refine Kept.upd ?_

theorem kept_modCtx {κ : Nat} {z : State} (i n : Nat) (f : Ctx → Ctx) (s : State) (h : Kept κ z s) :
    Kept κ z (State.modCtx i n f s) := by
  unfold State.modCtx
  repeat' first
    | with_reducible assumption | with_reducible apply kept_modCore | intro _ _ _ _ | intro _ _ _ | intro _ _ | dsimp only

theorem kept_endFlights {κ : Nat} {z : State} (i status : Nat) (seqs : List (BitVec 16)) (s : State) (h : Kept κ z s) :
    Kept κ z (State.endFlights i status seqs s) := by
  unfold State.endFlights
  repeat' first
    | with_reducible assumption | with_reducible apply kept_modCore | with_reducible apply kept_ite | intro _ _ _ _
    | intro _ _ _ | intro _ _ | dsimp only | split | with_reducible refine Kept.upd ?_

theorem kept_returnUnits {κ : Nat} {z : State} (i n units : Nat) (s : State) (h : Kept κ z s) :
    Kept κ z (State.returnUnits i n units s) := by
  unfold State.returnUnits
  conv => zeta
  repeat' first
    | with_reducible assumption | with_reducible apply kept_emit | dsimp only

theorem kept_skipSome {κ : Nat} {z : State} (i n m : Nat) (s : State) (h : Kept κ z s) : Kept κ z (State.skipSome i n m s) := by
  induction m generalizing s with
  | zero => exact h
  | succ m ih =>
    unfold State.skipSome
    dsimp only
    split
    · exact kept_ite (ih _ (kept_returnUnits _ _ _ _ (kept_modCtx _ _ _ _ h))) h
    · exact h

theorem kept_skipPads {κ : Nat} {z : State} (i n : Nat) (s : State) (h : Kept κ z s) : Kept κ z (State.skipPads i n s) := kept_skipSome _ _ _ _ h

theorem kept_consume {κ : Nat} {z : State} (i n : Nat) (r : RingRec) (s : State) (h : Kept κ z s) :
    Kept κ z (State.consume i n r s) := by
  unfold State.consume
  conv => zeta
  repeat' first
    | with_reducible assumption | with_reducible apply kept_modCtx | with_reducible apply kept_returnUnits
    | with_reducible apply kept_skipPads | intro _ _ _ _ | intro _ _ _ | intro _ _ | dsimp only
    | with_reducible refine Kept.upd ?_

theorem kept_charge {κ : Nat} {z : State} (i n units wr : Nat) (s : State) (h : Kept κ z s) :
    Kept κ z (State.charge i n units wr s) := by
  unfold State.charge
  repeat' first
    | with_reducible assumption | with_reducible apply kept_modCtx | with_reducible apply kept_modCore
    | with_reducible apply kept_bump | intro _ _ _ _ | intro _ _ _ | intro _ _ | dsimp only
    | with_reducible refine Kept.upd ?_

theorem kept_noteRecord {κ : Nat} {z : State} (i n : Nat) (q : Option (BitVec 16)) (r : ChnRecord) (s : State)
    (h : Kept κ z s) :
    Kept κ z (State.noteRecord i n q r s) := by
  unfold State.noteRecord
  repeat' first
    | with_reducible assumption | with_reducible apply kept_modCtx | intro _ _ _ _ | intro _ _ _ | intro _ _ | dsimp only
    | with_reducible refine Kept.upd ?_

theorem kept_placePad {κ : Nat} {z : State} (i n units : Nat) (s : State) (h : Kept κ z s) :
    Kept κ z (State.placePad i n units s) := by
  unfold State.placePad
  conv => zeta
  repeat' first
    | with_reducible assumption | with_reducible apply kept_emit | with_reducible apply kept_noteRecord
    | with_reducible apply kept_charge | with_reducible apply kept_modCore | with_reducible apply kept_bump
    | with_reducible apply kept_ite | intro _ _ _ _ | intro _ _ _ | intro _ _ | dsimp only | split

theorem kept_runSend {κ : Nat} {z : State} (i : Nat) (e : SbEntry) (f : Flight) (s : State) (h : Kept κ z s) :
    Kept κ z (State.runSend i e f s) := by
  unfold State.runSend
  conv => zeta
  repeat' first
    | with_reducible assumption | with_reducible apply kept_modCtx | with_reducible apply kept_setFlight
    | with_reducible apply kept_modCore | with_reducible apply kept_bump | with_reducible apply kept_useFree
    | with_reducible apply kept_glazeFail | with_reducible apply kept_placePad | with_reducible apply kept_emit
    | with_reducible apply kept_noteRecord | with_reducible apply kept_charge | with_reducible apply kept_ite
    | intro _ _ _ _ | intro _ _ _ | intro _ _ | dsimp only | split | with_reducible refine Kept.upd ?_

theorem kept_execMsend {κ : Nat} {z : State} (core seq : Nat) (s : State) (h : Kept κ z s) : KeptO κ z (execMsend core seq s) := by
  unfold execMsend
  conv => zeta
  repeat' first
    | with_reducible assumption | with_reducible apply kept_runSend | with_reducible apply kept_launchError
    | with_reducible apply kept_launch | with_reducible apply kept_modCtx | with_reducible apply kept_ite
    | with_reducible apply keptO_ite | with_reducible apply KeptO.next | with_reducible apply KeptO.refused
    | intro _ _ _ _ | intro _ _ _ | intro _ _ | dsimp only | split | with_reducible refine Kept.upd ?_

theorem kept_runRecv {κ : Nat} {z : State} (i : Nat) (e : SbEntry) (s : State) (h : Kept κ z s) :
    Kept κ z (State.runRecv i e s) := by
  unfold State.runRecv
  conv => zeta
  repeat' first
    | with_reducible assumption | with_reducible apply kept_modCtx | with_reducible apply kept_setFlight
    | with_reducible apply kept_modCore | with_reducible apply kept_bump | with_reducible apply kept_useFree
    | with_reducible apply kept_consume | with_reducible apply kept_ite | intro _ _ _ _ | intro _ _ _ | intro _ _
    | dsimp only | split | with_reducible refine Kept.upd ?_

theorem kept_execMrecv {κ : Nat} {z : State} (core seq : Nat) (s : State) (h : Kept κ z s) : KeptO κ z (execMrecv core seq s) := by
  unfold execMrecv
  conv => zeta
  repeat' first
    | with_reducible assumption | with_reducible apply kept_runRecv | with_reducible apply kept_launchError
    | with_reducible apply kept_launch | with_reducible apply kept_modCtx | with_reducible apply kept_ite
    | with_reducible apply keptO_ite | with_reducible apply KeptO.next | with_reducible apply KeptO.refused
    | intro _ _ _ _ | intro _ _ _ | intro _ _ | dsimp only | split | with_reducible refine Kept.upd ?_

theorem kept_flushSend {κ : Nat} {z : State} (i n : Nat) (s : State) (h : Kept κ z s) : Kept κ z (State.flushSend i n s) := by
  unfold State.flushSend
  conv => zeta
  repeat' first
    | with_reducible assumption | with_reducible apply kept_endFlights | with_reducible apply kept_modCtx
    | with_reducible apply kept_cutSends | intro _ _ _ _ | intro _ _ _ | intro _ _ | dsimp only
    | with_reducible refine Kept.upd ?_

theorem kept_flushRecv {κ : Nat} {z : State} (i n : Nat) (s : State) (h : Kept κ z s) : Kept κ z (State.flushRecv i n s) := by
  unfold State.flushRecv
  conv => zeta
  repeat' first
    | with_reducible assumption | with_reducible apply kept_endFlights | with_reducible apply kept_modCtx
    | with_reducible apply kept_modCore | with_reducible apply kept_bump | with_reducible apply kept_returnUnits
    | with_reducible apply kept_foldl | with_reducible apply kept_ite | intro _ _ _ _ | intro _ _ _ | intro _ _
    | dsimp only | split | with_reducible refine Kept.upd ?_

theorem kept_execMflush {κ : Nat} {z : State} (core seq : Nat) (s : State) (h : Kept κ z s) :
    KeptO κ z (execMflush core seq s) := by
  unfold execMflush
  conv => zeta
  repeat' first
    | with_reducible assumption | with_reducible apply kept_launch | with_reducible apply kept_flushSend
    | with_reducible apply kept_flushRecv | with_reducible apply kept_ite | with_reducible apply keptO_ite
    | with_reducible apply KeptO.next | with_reducible apply KeptO.refused | intro _ _ _ _ | intro _ _ _ | intro _ _
    | dsimp only | split | with_reducible refine Kept.upd ?_

theorem kept_revItem_eq {κ : Nat} {z t' : State} {x' : Pkt} {s : State} {k : Nat} (h : Kept κ z s) (e : State.revItem s k = some (x', t')) :
    Kept κ z t' := by
  unfold State.revItem at e
  split at e
  · split at e
    · split at e
      · cases e; exact Kept.upd h
      · cases e
    · cases e
  · cases e

theorem kept_ack {κ : Nat} {z : State} (r : ChnRecord) (status lepoch : Nat) (s : State) (h : Kept κ z s) :
    Kept κ z (State.ack r status lepoch s) := by
  unfold State.ack
  conv => zeta
  repeat' first
    | with_reducible assumption | with_reducible apply kept_emit | dsimp only

theorem kept_cutRecord {κ : Nat} {z : State} (r : ChnRecord) (k : Ctx) (s : State) (h : Kept κ z s) :
    Kept κ z (State.cutRecord r k s) := by
  unfold State.cutRecord
  conv => zeta
  repeat' first
    | with_reducible assumption | with_reducible apply kept_ringWrite | with_reducible apply kept_modCtx
    | with_reducible apply kept_modCore | with_reducible apply kept_bump | with_reducible apply kept_skipPads
    | intro _ _ _ _ | intro _ _ _ | intro _ _ | dsimp only | with_reducible refine Kept.upd ?_

theorem kept_writePacket {κ : Nat} {z : State} (r : ChnRecord) (l : List Byte) (s : State) (h : Kept κ z s) :
    Kept κ z (State.writePacket r l s).1 := by
  unfold State.writePacket
  conv => zeta
  repeat' first
    | with_reducible assumption | with_reducible apply kept_ringWrite | with_reducible apply kept_modCtx
    | with_reducible apply kept_ite | intro _ _ _ _ | intro _ _ _ | intro _ _ | dsimp only | split
    | with_reducible refine Kept.upd ?_

theorem kept_writePacket_eq {κ : Nat} {z t' : State} {x'} {r : ChnRecord} {l : List Byte} {s : State}
    (h : Kept κ z s) (e' : State.writePacket r l s = (t', x')) :
    Kept κ z t' := by
  have k := kept_writePacket r l s h
  rw [e'] at k
  exact k

theorem kept_arrive {κ : Nat} {z : State} (r : ChnRecord) (l : List Byte) (s : State) (h : Kept κ z s) :
    Kept κ z (State.arrive r l s).1 := by
  unfold State.arrive
  conv => zeta
  repeat' first
    | with_reducible assumption | with_reducible apply kept_modCore | with_reducible apply kept_bump
    | with_reducible apply kept_cutRecord | with_reducible apply kept_writePacket | with_reducible apply kept_modCtx
    | with_reducible apply kept_ite | with_reducible refine kept_writePacket_eq ?_ ‹_› | intro _ _ _ _ | intro _ _ _
    | intro _ _ | dsimp only | split | with_reducible refine Kept.upd ?_

theorem kept_arrive_eq {κ : Nat} {z t' : State} {x'} {r : ChnRecord} {l : List Byte} {s : State}
    (h : Kept κ z s) (e' : State.arrive r l s = (t', x')) :
    Kept κ z t' := by
  have k := kept_arrive r l s h
  rw [e'] at k
  exact k

theorem kept_arriveMesh {κ : Nat} {z : State} (r : ChnRecord) (idx : Nat) (s : State) (h : Kept κ z s) : Kept κ z (State.arriveMesh r idx s) := by
  have ha := kept_arrive r (packetOf r r.arrived).2 s h
  unfold State.arriveMesh
  revert ha
  generalize State.arrive r (packetOf r r.arrived).2 s = x
  intro ha
  obtain ⟨t, o⟩ := x
  dsimp only at ha ⊢
  refine kept_ite h ?_
  cases o with
  | goes => exact Kept.upd ha
  | finished st => exact kept_skipPads _ _ _ (kept_ack _ _ _ _ ha)
  | dropped st => exact kept_ack _ _ _ _ ha

theorem kept_cutEnd {κ : Nat} {z : State} (r : ChnRecord) (dropped : Option Nat) (s : State) (h : Kept κ z s) :
    Kept κ z (State.cutEnd r dropped s).1 := by
  unfold State.cutEnd
  repeat' first
    | with_reducible assumption | with_reducible apply kept_arrive | with_reducible apply kept_ite
    | with_reducible refine kept_arrive_eq ?_ ‹_› | dsimp only | split | with_reducible refine Kept.upd ?_

theorem kept_cutEnd_eq {κ : Nat} {z t' : State} {x'} {r : ChnRecord} {dropped : Option Nat} {s : State}
    (h : Kept κ z s) (e' : State.cutEnd r dropped s = (t', x')) :
    Kept κ z t' := by
  have k := kept_cutEnd r dropped s h
  rw [e'] at k
  exact k

theorem kept_arriveLane {κ : Nat} {z : State} (q : LanePkt) (s : State) (h : Kept κ z s) : Kept κ z (State.arriveLane q s) := by
  unfold State.arriveLane
  conv => zeta
  split
  · exact kept_skipPads _ _ _ (kept_ack _ _ _ _ (kept_modCtx _ _ _ _ (kept_cutEnd _ _ _ h)))
  · have hs := fun c [Decidable c] x y st a b (d : Nat × Nat) (s : State) (h : Kept κ z s) => kept_ite (c := c)
      (kept_ack a st b _ (kept_modCtx (bitsOf q.dst 19 7) (bitsOf q.dst 6 0) x s h)) (kept_modCtx d.1 d.2 y _ h)
    split
    · exact hs _ _ _ _ _ _ (_, _) _ h
    · have ha := kept_arrive ((((s.core (bitsOf q.dst 19 7)).ctx (bitsOf q.dst 6 0)).arriving).getD (State.recordAt s.pkgId q)) q.payload s h
      dsimp only
      revert ha
      generalize State.arrive ((((s.core (bitsOf q.dst 19 7)).ctx (bitsOf q.dst 6 0)).arriving).getD (State.recordAt s.pkgId q)) q.payload s = x
      intro ha
      obtain ⟨t, o⟩ := x
      cases o with
      | goes => exact kept_modCtx _ _ _ _ ha
      | finished st => exact kept_skipPads _ _ _ (kept_ack _ _ _ _ (kept_modCtx _ _ _ _ ha))
      | dropped st => exact hs _ _ _ _ _ _ (_, _) _ ha

theorem kept_chnDeliver {κ : Nat} {z : State} (p v : Nat) (kind : LanePkt → Bool) (f : LanePkt → State → State) (s : State) (h : Kept κ z s)
    (hf : ∀ q s, Kept κ z s → Kept κ z (f q s)) : Kept κ z (State.chnDeliver p v kind f s) := kept_laneDeliver _ _ _ _ _ _ _ h hf

theorem kept_execChnData {κ : Nat} {z : State} (src : From) (s : State) (h : Kept κ z s) : KeptO κ z (execChnData src s) := by
  unfold execChnData
  repeat' first
    | with_reducible assumption | with_reducible apply kept_arriveMesh | with_reducible apply kept_chnDeliver
    | with_reducible apply kept_arriveLane | with_reducible apply kept_ite | with_reducible apply keptO_ite
    | with_reducible apply KeptO.next | intro _ _ _ _ | intro _ _ _ | intro _ _ | dsimp only | split
    | with_reducible refine Kept.upd ?_

theorem kept_closeSend {κ : Nat} {z : State} (i n : Nat) (s : State) (h : Kept κ z s) : Kept κ z (State.closeSend i n s) := by
  unfold State.closeSend
  conv => zeta
  repeat' first
    | with_reducible assumption | with_reducible apply kept_endFlights | with_reducible apply kept_modCtx | intro _ _ _ _
    | intro _ _ _ | intro _ _ | dsimp only | with_reducible refine Kept.upd ?_

theorem kept_ackMsend {κ : Nat} {z : State} (i n status : Nat) (rxOpen : Bool) (s : State) (h : Kept κ z s) :
    Kept κ z (State.ackMsend i n status rxOpen s) := by
  unfold State.ackMsend
  conv => zeta
  repeat' first
    | with_reducible assumption | with_reducible apply kept_modCtx | with_reducible apply kept_closeSend
    | with_reducible apply kept_modCore | with_reducible apply kept_bump | with_reducible apply kept_ite
    | intro _ _ _ _ | intro _ _ _ | intro _ _ | dsimp only | split | with_reducible refine Kept.upd ?_

theorem kept_takeCredit {κ : Nat} {z : State} (i n u : Nat) (s : State) (h : Kept κ z s) :
    Kept κ z (State.takeCredit i n u s) := by
  unfold State.takeCredit
  repeat' first
    | with_reducible assumption | with_reducible apply kept_modCtx | with_reducible apply kept_ite | intro _ _ _ _
    | intro _ _ _ | intro _ _ | dsimp only | split | with_reducible refine Kept.upd ?_

theorem kept_takeOpen {κ : Nat} {z : State} (i n ep ru : Nat) (s : State) (h : Kept κ z s) :
    Kept κ z (State.takeOpen i n ep ru s) := by
  unfold State.takeOpen
  repeat' first
    | with_reducible assumption | with_reducible apply kept_modCtx | with_reducible apply kept_ite | intro _ _ _ _
    | intro _ _ _ | intro _ _ | dsimp only | split | with_reducible refine Kept.upd ?_

theorem kept_takeClosed {κ : Nat} {z : State} (i n : Nat) (s : State) (h : Kept κ z s) : Kept κ z (State.takeClosed i n s) := by
  unfold State.takeClosed
  repeat' first
    | with_reducible assumption | with_reducible apply kept_closeSend | with_reducible apply kept_ite | dsimp only | split

theorem kept_execChnAck {κ : Nat} {z : State} (src : From) (s : State) (h : Kept κ z s) : KeptO κ z (execChnAck src s) := by
  unfold execChnAck
  repeat' first
    | with_reducible assumption | with_reducible apply kept_revItem | with_reducible apply kept_ackMsend
    | with_reducible apply kept_chnDeliver | with_reducible apply kept_ite | with_reducible apply keptO_ite
    | with_reducible apply KeptO.next | with_reducible refine kept_revItem_eq ?_ ‹_› | intro _ _ _ _ | intro _ _ _
    | intro _ _ | dsimp only | split | with_reducible refine Kept.upd ?_

theorem kept_execChnCredit {κ : Nat} {z : State} (src : From) (s : State) (h : Kept κ z s) : KeptO κ z (execChnCredit src s) := by
  unfold execChnCredit
  repeat' first
    | with_reducible assumption | with_reducible apply kept_revItem | with_reducible apply kept_takeCredit
    | with_reducible apply kept_chnDeliver | with_reducible apply kept_ite | with_reducible apply keptO_ite
    | with_reducible apply KeptO.next | with_reducible refine kept_revItem_eq ?_ ‹_› | intro _ _ _ _ | intro _ _ _
    | intro _ _ | dsimp only | split | with_reducible refine Kept.upd ?_

theorem kept_execOpenNotice {κ : Nat} {z : State} (src : From) (s : State) (h : Kept κ z s) :
    KeptO κ z (execOpenNotice src s) := by
  unfold execOpenNotice
  repeat' first
    | with_reducible assumption | with_reducible apply kept_revItem | with_reducible apply kept_takeOpen
    | with_reducible apply kept_chnDeliver | with_reducible apply kept_ite | with_reducible apply keptO_ite
    | with_reducible apply KeptO.next | with_reducible refine kept_revItem_eq ?_ ‹_› | intro _ _ _ _ | intro _ _ _
    | intro _ _ | dsimp only | split | with_reducible refine Kept.upd ?_

theorem kept_execClosedNotice {κ : Nat} {z : State} (src : From) (s : State) (h : Kept κ z s) :
    KeptO κ z (execClosedNotice src s) := by
  unfold execClosedNotice
  repeat' first
    | with_reducible assumption | with_reducible apply kept_revItem | with_reducible apply kept_takeClosed
    | with_reducible apply kept_chnDeliver | with_reducible apply kept_ite | with_reducible apply keptO_ite
    | with_reducible apply KeptO.next | with_reducible refine kept_revItem_eq ?_ ‹_› | intro _ _ _ _ | intro _ _ _
    | intro _ _ | dsimp only | split | with_reducible refine Kept.upd ?_

theorem kept_openRecv {κ : Nat} {z : State} (i n : Nat) (s : State) (h : Kept κ z s) : Kept κ z (State.openRecv i n s) := by
  unfold State.openRecv
  conv => zeta
  repeat' first
    | with_reducible assumption | with_reducible apply kept_modCtx | with_reducible apply kept_emit | intro _ _ _ _
    | intro _ _ _ | intro _ _ | dsimp only | with_reducible refine Kept.upd ?_

theorem kept_openCtx {κ : Nat} {z : State} (i n : Nat) (s : State) (h : Kept κ z s) : Kept κ z (State.openCtx i n s) := by
  unfold State.openCtx
  conv => zeta
  repeat' first
    | with_reducible assumption | with_reducible apply kept_openRecv | with_reducible apply kept_modCtx
    | with_reducible apply kept_ite | intro _ _ _ _ | intro _ _ _ | intro _ _ | dsimp only | split
    | with_reducible refine Kept.upd ?_

theorem kept_closeRecv {κ : Nat} {z : State} (i n : Nat) (s : State) (h : Kept κ z s) : Kept κ z (State.closeRecv i n s) := by
  unfold State.closeRecv
  conv => zeta
  repeat' first
    | with_reducible assumption | with_reducible apply kept_endFlights | with_reducible apply kept_modCtx
    | with_reducible apply kept_modCore | with_reducible apply kept_bump | with_reducible apply kept_emit
    | intro _ _ _ _ | intro _ _ _ | intro _ _ | dsimp only | with_reducible refine Kept.upd ?_

theorem kept_closeCtx {κ : Nat} {z : State} (i n : Nat) (s : State) (h : Kept κ z s) : Kept κ z (State.closeCtx i n s) := by
  unfold State.closeCtx
  conv => zeta
  repeat' first
    | with_reducible assumption | with_reducible apply kept_modCtx | with_reducible apply kept_closeRecv
    | with_reducible apply kept_endFlights | with_reducible apply kept_ite | intro _ _ _ _ | intro _ _ _ | intro _ _
    | dsimp only | split | with_reducible refine Kept.upd ?_

theorem kept_execCtxOpen {κ : Nat} {z : State} (core : Nat) (s : State) (h : Kept κ z s) : KeptO κ z (execCtxOpen core s) := by
  unfold execCtxOpen
  repeat' first
    | with_reducible assumption | with_reducible apply kept_openCtx | with_reducible apply KeptO.next | intro _ _ _ _
    | intro _ _ _ | intro _ _ | dsimp only

theorem kept_execCtxClose {κ : Nat} {z : State} (core : Nat) (s : State) (h : Kept κ z s) : KeptO κ z (execCtxClose core s) := by
  unfold execCtxClose
  repeat' first
    | with_reducible assumption | with_reducible apply kept_closeCtx | with_reducible apply KeptO.next | intro _ _ _ _
    | intro _ _ _ | intro _ _ | dsimp only

theorem kept_execReplyTimeout {κ : Nat} {z : State} (core ctx : Nat) (s : State) (h : Kept κ z s) :
    KeptO κ z (execReplyTimeout core ctx s) := by
  unfold execReplyTimeout
  conv => zeta
  repeat' first
    | with_reducible assumption | with_reducible apply kept_modCtx | with_reducible apply kept_modCore
    | with_reducible apply kept_bump | with_reducible apply KeptO.next | intro _ _ _ _ | intro _ _ _ | intro _ _
    | dsimp only | split | with_reducible refine Kept.upd ?_

/-! ### CoreControl -/

theorem kept_execCoreAbandon {κ : Nat} {z : State} (core : Nat) (s : State) (h : Kept κ z s) :
    KeptO κ z (execCoreAbandon core s) := by
  unfold execCoreAbandon
  repeat' first
    | with_reducible assumption | with_reducible apply kept_abandonCore | with_reducible apply KeptO.next | intro _ _ _ _
    | intro _ _ _ | intro _ _ | dsimp only

theorem kept_reopenCtxs {κ : Nat} {z : State} (i : Nat) (s : State) (h : Kept κ z s) : Kept κ z (State.reopenCtxs i s) := by
  unfold State.reopenCtxs
  repeat' first
    | with_reducible assumption | with_reducible apply kept_openRecv | with_reducible apply kept_foldl
    | with_reducible apply kept_ite | intro _ _ _ _ | intro _ _ _ | intro _ _ | dsimp only | split

theorem kept_execStepEntryRestart {κ : Nat} {z : State} (core : Nat) (s : State) (h : Kept κ z s) :
    KeptO κ z (execStepEntryRestart core s) := by
  unfold execStepEntryRestart
  repeat' first
    | with_reducible assumption | with_reducible apply kept_modCore | with_reducible apply kept_reopenCtxs
    | with_reducible apply kept_ite | with_reducible apply keptO_ite | with_reducible apply KeptO.next | intro _ _ _ _
    | intro _ _ _ | intro _ _ | dsimp only | split | with_reducible refine Kept.upd ?_

theorem kept_noticeClosed {κ : Nat} {z : State} (i : Nat) (s : State) (h : Kept κ z s) : Kept κ z (State.noticeClosed i s) := by
  unfold State.noticeClosed
  conv => zeta
  repeat' first
    | with_reducible assumption | with_reducible apply kept_emitNow | with_reducible apply kept_foldl | intro _ _ _ _
    | intro _ _ _ | intro _ _ | dsimp only

theorem kept_resetCore {κ : Nat} {z : State} (i : Nat) (s : State) (h : Kept κ z s) : Kept κ z (State.resetCore i s) := by
  unfold State.resetCore
  conv => zeta
  repeat' first
    | with_reducible assumption | with_reducible apply kept_abandonCore | with_reducible apply kept_noticeClosed
    | with_reducible apply kept_wipeRange | with_reducible apply kept_modCore | intro _ _ _ _ | intro _ _ _
    | intro _ _ | dsimp only

theorem kept_execCoreReset {κ : Nat} {z : State} (core : Nat) (s : State) (h : Kept κ z s) : KeptO κ z (execCoreReset core s) := by
  unfold execCoreReset
  conv => zeta
  repeat' first
    | with_reducible assumption | with_reducible apply kept_resetCore | with_reducible apply kept_forCores
    | with_reducible apply kept_abandonCore | with_reducible apply kept_pend | with_reducible apply kept_forCores
    | with_reducible apply kept_ite | with_reducible apply keptO_ite | with_reducible apply KeptO.next | intro _ _ _ _
    | intro _ _ _ | intro _ _ | dsimp only | split

theorem kept_execHaltRequest {κ : Nat} {z : State} (core : Nat) (s : State) (h : Kept κ z s) :
    KeptO κ z (execHaltRequest core s) := by
  unfold execHaltRequest
  conv => zeta
  repeat' first
    | with_reducible assumption | with_reducible apply kept_modCore | with_reducible apply kept_setF
    | with_reducible apply kept_ite | with_reducible apply keptO_ite | with_reducible apply KeptO.next | intro _ _ _ _
    | intro _ _ _ | intro _ _ | dsimp only | split | with_reducible refine Kept.upd ?_

theorem kept_execResumeCore {κ : Nat} {z : State} (core : Nat) (s : State) (h : Kept κ z s) :
    KeptO κ z (execResumeCore core s) := by
  unfold execResumeCore
  conv => zeta
  repeat' first
    | with_reducible assumption | with_reducible apply kept_modCore | with_reducible apply kept_setF
    | with_reducible apply kept_ite | with_reducible apply keptO_ite | with_reducible apply KeptO.next | intro _ _ _ _
    | intro _ _ _ | intro _ _ | dsimp only | split | with_reducible refine Kept.upd ?_

theorem kept_execCoreRun {κ : Nat} {z : State} (core : Nat) (s : State) (h : Kept κ z s) : KeptO κ z (execCoreRun core s) := by
  unfold execCoreRun
  conv => zeta
  repeat' first
    | with_reducible assumption | with_reducible apply kept_modCore | with_reducible apply kept_setF
    | with_reducible apply kept_ite | with_reducible apply keptO_ite | with_reducible apply KeptO.next | intro _ _ _ _
    | intro _ _ _ | intro _ _ | dsimp only | split | with_reducible refine Kept.upd ?_

theorem kept_execDbgAccSel {κ : Nat} {z : State} (core : Nat) (value : Word) (s : State) (h : Kept κ z s) :
    KeptO κ z (execDbgAccSel core value s) := by
  unfold execDbgAccSel
  conv => zeta
  repeat' first
    | with_reducible assumption | with_reducible apply kept_modCore | with_reducible apply kept_setF
    | with_reducible apply kept_ite | with_reducible apply keptO_ite | with_reducible apply KeptO.next | intro _ _ _ _
    | intro _ _ _ | intro _ _ | dsimp only | split | with_reducible refine Kept.upd ?_

theorem kept_execAccSnapshotReady {κ : Nat} {z : State} (core : Nat) (s : State) (h : Kept κ z s) :
    KeptO κ z (execAccSnapshotReady core s) := by
  unfold execAccSnapshotReady
  repeat' first
    | with_reducible assumption | with_reducible apply kept_modCore | with_reducible apply kept_useFree
    | with_reducible apply KeptO.next | intro _ _ _ _ | intro _ _ _ | intro _ _ | dsimp only | split
    | with_reducible refine Kept.upd ?_

theorem kept_execCoreDbgXregWrite {κ : Nat} {z : State} (core n : Nat) (high : Bool) (value : Word) (s : State)
    (h : Kept κ z s) :
    KeptO κ z (execCoreDbgXregWrite core n high value s) := by
  unfold execCoreDbgXregWrite
  conv => zeta
  repeat' first
    | with_reducible assumption | with_reducible apply kept_modCore | with_reducible apply kept_ite
    | with_reducible apply keptO_ite | with_reducible apply KeptO.next | intro _ _ _ _ | intro _ _ _ | intro _ _
    | dsimp only | split

end Sys2Proof.Laws
end

