-- ==== Sys2Proof/Laws/KeptPipes.lean ====
section
/-! SUPPORT. What is kept (Laws/Kept.lean) by pipeline commands, media front-ends, the tide and the heat loops: one lemma for each function that answers a state. -/

namespace Sys2Proof.Laws

set_option Elab.async false

open Sys2Proof.Machine

/-! ### Pip -/

theorem kept_writePart {κ : Nat} {z : State} (l : Nat) (p : PipPart) (last : Bool) (s : State) (h : Kept κ z s) :
    Kept κ z (State.writePart l p last s) := by
  unfold State.writePart
  conv => zeta
  repeat' first
    | with_reducible assumption | with_reducible apply kept_meter | with_reducible apply kept_putTile
    | with_reducible apply kept_modLink | with_reducible apply kept_foldl | with_reducible apply kept_ite
    | intro _ _ _ _ | intro _ _ _ | intro _ _ | dsimp only | split | with_reducible refine Kept.upd ?_

theorem kept_takePart {κ : Nat} {z : State} (l : Nat) (p : PipPart) (last : Bool) (s : State) (h : Kept κ z s) :
    Kept κ z (State.takePart l p last s).1 := by
  unfold State.takePart
  conv => zeta
  repeat' first
    | with_reducible assumption | with_reducible apply kept_writePart | with_reducible apply kept_bump
    | with_reducible apply kept_dikeFail | with_reducible apply kept_ite | dsimp only | split

theorem kept_takePart_eq {κ : Nat} {z t' : State} {x'} {l : Nat} {p : PipPart} {last : Bool} {s : State}
    (h : Kept κ z s) (e' : State.takePart l p last s = (t', x')) :
    Kept κ z t' := by
  have k := kept_takePart l p last s h
  rw [e'] at k
  exact k

theorem kept_partHold {κ : Nat} {z : State} (l : Nat) (p : PipPart) (s : State) (h : Kept κ z s) :
    Kept κ z (State.partHold l p s) := by
  unfold State.partHold
  repeat' first
    | with_reducible assumption | with_reducible apply kept_weirHold | dsimp only

theorem kept_pipDeliver {κ : Nat} {z : State} (p v ptype : Nat) (f : LanePkt → Nat → State → State) (s : State) (h : Kept κ z s)
    (hf : ∀ q l s, Kept κ z s → Kept κ z (f q l s)) : Kept κ z (State.pipDeliver p v ptype f s) := by
  unfold State.pipDeliver
  split
  · exact h
  · exact kept_ite h (kept_ite (kept_laneDrop _ (kept_laneTake _ _ _ h)) (hf _ _ _ h))

theorem kept_partFromLane {κ : Nat} {z : State} (p v : Nat) (last : Bool) (q : LanePkt) (l : Nat) (s : State)
    (h : Kept κ z s) :
    Kept κ z (State.partFromLane p v last q l s) := by
  unfold State.partFromLane
  conv => zeta
  repeat' first
    | with_reducible assumption | with_reducible apply kept_partHold | with_reducible apply kept_laneTake
    | with_reducible apply kept_takePart | with_reducible apply kept_sendLane | with_reducible apply kept_ite
    | with_reducible refine kept_takePart_eq ?_ ‹_› | dsimp only | split | with_reducible refine Kept.upd ?_

theorem kept_partFromMesh {κ : Nat} {z : State} (k : Nat) (s : State) (h : Kept κ z s) : Kept κ z (State.partFromMesh k s) := by
  unfold State.partFromMesh
  conv => zeta
  repeat' first
    | with_reducible assumption | with_reducible apply kept_partHold | with_reducible apply kept_takePart
    | with_reducible apply kept_ite | with_reducible refine kept_takePart_eq ?_ ‹_› | dsimp only | split
    | with_reducible refine Kept.upd ?_

theorem kept_execPipPart {κ : Nat} {z : State} (src : From) (last : Bool) (s : State) (h : Kept κ z s) :
    KeptO κ z (execPipPart src last s) := by
  unfold execPipPart
  repeat' first
    | with_reducible assumption | with_reducible apply kept_partFromMesh | with_reducible apply kept_pipDeliver
    | with_reducible apply kept_partFromLane | with_reducible apply KeptO.next | intro _ _ _ _ | intro _ _ _
    | intro _ _ | dsimp only | split | with_reducible refine Kept.upd ?_

theorem kept_countPart {κ : Nat} {z : State} (l mb part : Nat) (s : State) (h : Kept κ z s) :
    Kept κ z (State.countPart l mb part s) := by
  unfold State.countPart
  conv => zeta
  repeat' first
    | with_reducible assumption | with_reducible apply kept_modLink | with_reducible apply kept_bump
    | with_reducible apply kept_ite | intro _ _ _ _ | intro _ _ _ | intro _ _ | dsimp only | split
    | with_reducible refine Kept.upd ?_

theorem kept_peerGone {κ : Nat} {z : State} (l status : Nat) (s : State) (h : Kept κ z s) :
    Kept κ z (State.peerGone l status s) := by
  unfold State.peerGone
  repeat' first
    | with_reducible assumption | with_reducible apply kept_setF | with_reducible apply kept_modLink
    | with_reducible apply kept_quiesce | with_reducible apply kept_ite | intro _ _ _ _ | intro _ _ _ | intro _ _
    | dsimp only | split

theorem kept_ackPush {κ : Nat} {z : State} (l mb part status : Nat) (epoch : Option Nat) (s : State) (h : Kept κ z s) :
    Kept κ z (State.ackPush l mb part status epoch s) := by
  unfold State.ackPush
  conv => zeta
  repeat' first
    | with_reducible assumption | with_reducible apply kept_countPart | with_reducible apply kept_modCore
    | with_reducible apply kept_ite | intro _ _ _ _ | intro _ _ _ | intro _ _ | dsimp only | split
    | with_reducible refine Kept.upd ?_

theorem kept_takeHead {κ : Nat} {z : State} (l head epoch : Nat) (s : State) (h : Kept κ z s) :
    Kept κ z (State.takeHead l head epoch s) := by
  unfold State.takeHead
  conv => zeta
  repeat' first
    | with_reducible assumption | with_reducible apply kept_setF | with_reducible apply kept_modLink
    | with_reducible apply kept_ite | intro _ _ _ _ | intro _ _ _ | intro _ _ | dsimp only | split
    | with_reducible refine Kept.upd ?_

theorem kept_execPipAck {κ : Nat} {z : State} (src : From) (s : State) (h : Kept κ z s) : KeptO κ z (execPipAck src s) := by
  unfold execPipAck
  repeat' first
    | with_reducible assumption | with_reducible apply kept_ackPush | with_reducible apply kept_pipDeliver
    | with_reducible apply kept_laneTake | with_reducible apply kept_peerGone | with_reducible apply KeptO.next
    | intro _ _ _ _ | intro _ _ _ | intro _ _ | dsimp only | split | with_reducible refine Kept.upd ?_

theorem kept_execPipHead {κ : Nat} {z : State} (src : From) (s : State) (h : Kept κ z s) : KeptO κ z (execPipHead src s) := by
  unfold execPipHead
  repeat' first
    | with_reducible assumption | with_reducible apply kept_takeHead | with_reducible apply kept_pipDeliver
    | with_reducible apply kept_laneTake | with_reducible apply KeptO.next | intro _ _ _ _ | intro _ _ _ | intro _ _
    | dsimp only | split | with_reducible refine Kept.upd ?_

theorem kept_endWith {κ : Nat} {z : State} (i : Nat) (e : SbEntry) (status : Nat) (s : State) (h : Kept κ z s) :
    Kept κ z (State.endWith i e status s) := by
  unfold State.endWith
  repeat' first
    | with_reducible assumption | with_reducible apply kept_setFlight | dsimp only | with_reducible refine Kept.upd ?_

theorem kept_runPush {κ : Nat} {z : State} (i : Nat) (e : SbEntry) (f : Flight) (s : State) (h : Kept κ z s) :
    Kept κ z (State.runPush i e f s) := by
  unfold State.runPush
  conv => zeta
  repeat' first
    | with_reducible assumption | with_reducible apply kept_bump | with_reducible apply kept_useFree
    | with_reducible apply kept_endWith | with_reducible apply kept_setFlight | with_reducible apply kept_sendLane
    | with_reducible apply kept_foldl | with_reducible apply kept_ite | intro _ _ _ _ | intro _ _ _ | intro _ _
    | dsimp only | split | with_reducible refine Kept.upd ?_

theorem kept_execQpush {κ : Nat} {z : State} (core seq : Nat) (s : State) (h : Kept κ z s) : KeptO κ z (execQpush core seq s) := by
  unfold execQpush
  repeat' first
    | with_reducible assumption | with_reducible apply kept_runPush | with_reducible apply kept_launchError
    | with_reducible apply kept_launch | with_reducible apply kept_ite | with_reducible apply keptO_ite
    | with_reducible apply KeptO.next | with_reducible apply KeptO.refused | intro _ _ _ _ | intro _ _ _ | intro _ _
    | dsimp only | split | with_reducible refine Kept.upd ?_

theorem kept_countWait {κ : Nat} {z : State} (c : FieldRef) (s : State) (h : Kept κ z s) : Kept κ z (State.countWait c s) := by
  unfold State.countWait
  repeat' first
    | with_reducible assumption | with_reducible apply kept_bump | with_reducible apply kept_useFree | dsimp only

theorem kept_putBinding {κ : Nat} {z : State} (i g : Nat) (c : CmdWord) (infer first : Bool) (e : StashEntry) (s : State)
    (h : Kept κ z s) :
    Kept κ z (State.putBinding i g c infer first e s) := by
  unfold State.putBinding
  repeat' first
    | with_reducible assumption | with_reducible apply kept_modCore | intro _ _ _ _ | intro _ _ _ | intro _ _ | dsimp only

theorem kept_takeTiles {κ : Nat} {z : State} (i : Nat) (e : SbEntry) (s : State) (h : Kept κ z s) :
    Kept κ z (State.takeTiles i e s) := by
  unfold State.takeTiles
  conv => zeta
  repeat' first
    | with_reducible assumption | with_reducible apply kept_endWith | with_reducible apply kept_meter
    | with_reducible apply kept_setFlight | with_reducible apply kept_foldl | with_reducible apply kept_ite
    | intro _ _ _ _ | intro _ _ _ | intro _ _ | dsimp only | split | with_reducible refine Kept.upd ?_

theorem kept_takeBound {κ : Nat} {z : State} (i g : Nat) (e : SbEntry) (b : StashEntry) (first : Bool) (s : State)
    (h : Kept κ z s) :
    Kept κ z (State.takeBound i g e b first s) := by
  unfold State.takeBound
  repeat' first
    | with_reducible assumption | with_reducible apply kept_putBinding | with_reducible apply kept_takeTiles | dsimp only

theorem kept_bind_made {κ : Nat} {z t : State} {g : Nat} {infer b : Bool} {want e : StashEntry} {s : State} (h : Kept κ z s)
    (k : State.bind g infer want s = .made t e b) : Kept κ z t := by
  unfold State.bind at k
  split at k
  · split at k
    · cases k; exact h
    · cases k
  · split at k
    · cases k
    · cases k
    · dsimp only at k
      split at k
      · cases k; exact kept_makeBinding _ _ _ _ _ h
      · cases k

theorem kept_runTake {κ : Nat} {z : State} (i : Nat) (e : SbEntry) (s : State) (h : Kept κ z s) : Kept κ z (State.runTake i e s) := by
  unfold State.runTake
  refine kept_ite (kept_endWith _ _ _ _ h) ?_
  split
  · exact kept_useFree _ _ (kept_modCore _ _ _ h)
  · refine kept_ite (kept_weirHold _ _ _ h) (kept_ite ?_ ?_)
    · split
      · exact kept_endWith _ _ _ _ h
      · exact kept_ite (kept_endWith _ _ _ _ h) (kept_takeBound _ _ _ _ _ _ h)
    · split
      · next hb => exact kept_takeBound _ _ _ _ _ _ (kept_bind_made h hb)
      · exact kept_countWait _ _ h
      · exact kept_endWith _ _ _ _ h

theorem kept_runInject {κ : Nat} {z : State} (i : Nat) (e : SbEntry) (s : State) (h : Kept κ z s) : Kept κ z (State.runInject i e s) := by
  unfold State.runInject
  split
  · exact kept_endWith _ _ _ _ h
  · dsimp only
    split
    · next hb => exact kept_endWith _ _ _ _ (kept_putBinding _ _ _ _ _ _ _ (kept_bind_made h hb))
    · exact kept_countWait _ _ h
    · exact kept_endWith _ _ _ _ h

theorem kept_runRelease {κ : Nat} {z : State} (i : Nat) (c : CmdWord) (s : State) (h : Kept κ z s) :
    Kept κ z (State.runRelease i c s).1 := by
  unfold State.runRelease
  conv => zeta
  repeat' first
    | with_reducible assumption | with_reducible apply kept_setStash | with_reducible apply kept_freeStash
    | with_reducible apply kept_bump | with_reducible apply kept_allKilnWork | with_reducible apply kept_ite
    | dsimp only | split | with_reducible refine Kept.upd ?_

theorem kept_runRelease_eq {κ : Nat} {z t' : State} {x'} {i : Nat} {c : CmdWord} {s : State}
    (h : Kept κ z s) (e' : State.runRelease i c s = (t', x')) :
    Kept κ z t' := by
  have k := kept_runRelease i c s h
  rw [e'] at k
  exact k

theorem kept_execTake {κ : Nat} {z : State} (core seq : Nat) (s : State) (h : Kept κ z s) : KeptO κ z (execTake core seq s) := by
  unfold execTake
  repeat' first
    | with_reducible assumption | with_reducible apply kept_runTake | with_reducible apply kept_launchError
    | with_reducible apply kept_launch | with_reducible apply kept_ite | with_reducible apply keptO_ite
    | with_reducible apply KeptO.next | with_reducible apply KeptO.refused | intro _ _ _ _ | intro _ _ _ | intro _ _
    | dsimp only | split | with_reducible refine Kept.upd ?_

theorem kept_execInject {κ : Nat} {z : State} (core seq : Nat) (s : State) (h : Kept κ z s) :
    KeptO κ z (execInject core seq s) := by
  unfold execInject
  repeat' first
    | with_reducible assumption | with_reducible apply kept_runInject | with_reducible apply kept_launch
    | with_reducible apply kept_ite | with_reducible apply keptO_ite | with_reducible apply KeptO.next
    | with_reducible apply KeptO.refused | intro _ _ _ _ | intro _ _ _ | intro _ _ | dsimp only | split
    | with_reducible refine Kept.upd ?_

theorem kept_execRelease {κ : Nat} {z : State} (core seq : Nat) (s : State) (h : Kept κ z s) :
    KeptO κ z (execRelease core seq s) := by
  unfold execRelease
  conv => zeta
  repeat' first
    | with_reducible assumption | with_reducible apply kept_runRelease | with_reducible apply kept_launchError
    | with_reducible apply kept_ite | with_reducible apply keptO_ite | with_reducible apply KeptO.next
    | with_reducible refine kept_runRelease_eq ?_ ‹_› | intro _ _ _ _ | intro _ _ _ | intro _ _ | dsimp only | split
    | with_reducible refine Kept.upd ?_

theorem kept_setLinkState {κ : Nat} {z : State} (l st err wait : Nat) (s : State) (h : Kept κ z s) :
    Kept κ z (State.setLinkState l st err wait s) := by
  unfold State.setLinkState
  repeat' first
    | with_reducible assumption | with_reducible apply kept_setF | dsimp only

theorem kept_askPeer {κ : Nat} {z : State} (l : Nat) (s : State) (h : Kept κ z s) : Kept κ z (State.askPeer l s) := by
  unfold State.askPeer
  repeat' first
    | with_reducible assumption | with_reducible apply kept_setLinkState | with_reducible apply kept_modLink
    | with_reducible apply kept_sendLane | intro _ _ _ _ | intro _ _ _ | intro _ _ | dsimp only | split
    | with_reducible refine Kept.upd ?_

theorem kept_openLink {κ : Nat} {z : State} (l : Nat) (s : State) (h : Kept κ z s) : Kept κ z (State.openLink l s) := by
  unfold State.openLink
  conv => zeta
  repeat' first
    | with_reducible assumption | with_reducible apply kept_setLinkState | with_reducible apply kept_askPeer
    | with_reducible apply kept_ite | dsimp only | split

theorem kept_closeLink {κ : Nat} {z : State} (l : Nat) (s : State) (h : Kept κ z s) : Kept κ z (State.closeLink l s) := by
  unfold State.closeLink
  repeat' first
    | with_reducible assumption | with_reducible apply kept_setLinkState | with_reducible apply kept_modLink | intro _ _ _ _
    | intro _ _ _ | intro _ _ | dsimp only | split | with_reducible refine Kept.upd ?_

theorem kept_takeOpenPkt {κ : Nat} {z : State} (p v : Nat) (q : LanePkt) (l : Nat) (s : State) (h : Kept κ z s) :
    Kept κ z (State.takeOpenPkt p v q l s) := by
  unfold State.takeOpenPkt
  conv => zeta
  repeat' first
    | with_reducible assumption | with_reducible apply kept_laneTake | with_reducible apply kept_modLink
    | with_reducible apply kept_sendLane | with_reducible apply kept_setLinkState | with_reducible apply kept_ite
    | intro _ _ _ _ | intro _ _ _ | intro _ _ | dsimp only | split | with_reducible refine Kept.upd ?_

theorem kept_execLinkOpen {κ : Nat} {z : State} (link : Nat) (s : State) (h : Kept κ z s) : KeptO κ z (execLinkOpen link s) := by
  unfold execLinkOpen
  repeat' first
    | with_reducible assumption | with_reducible apply kept_openLink | with_reducible apply KeptO.next | intro _ _ _ _
    | intro _ _ _ | intro _ _ | dsimp only

theorem kept_execLinkClose {κ : Nat} {z : State} (link : Nat) (s : State) (h : Kept κ z s) : KeptO κ z (execLinkClose link s) := by
  unfold execLinkClose
  repeat' first
    | with_reducible assumption | with_reducible apply kept_closeLink | with_reducible apply KeptO.next | intro _ _ _ _
    | intro _ _ _ | intro _ _ | dsimp only

theorem kept_execPipOpen {κ : Nat} {z : State} (port vc : Nat) (s : State) (h : Kept κ z s) :
    KeptO κ z (execPipOpen port vc s) := by
  unfold execPipOpen
  repeat' first
    | with_reducible assumption | with_reducible apply kept_pipDeliver | with_reducible apply kept_takeOpenPkt
    | with_reducible apply KeptO.next | intro _ _ _ _ | intro _ _ _ | intro _ _ | dsimp only

theorem kept_execPipOpenRetry {κ : Nat} {z : State} (link : Nat) (s : State) (h : Kept κ z s) :
    KeptO κ z (execPipOpenRetry link s) := by
  unfold execPipOpenRetry
  repeat' first
    | with_reducible assumption | with_reducible apply kept_askPeer | with_reducible apply kept_modLink
    | with_reducible apply kept_ite | with_reducible apply keptO_ite | with_reducible apply KeptO.next | intro _ _ _ _
    | intro _ _ _ | intro _ _ | dsimp only | split | with_reducible refine Kept.upd ?_

theorem kept_execGroupInit {κ : Nat} {z : State} (group : Nat) (number : Word) (s : State) (h : Kept κ z s) :
    KeptO κ z (execGroupInit group number s) := by
  unfold execGroupInit
  conv => zeta
  repeat' first
    | with_reducible assumption | with_reducible apply kept_setF | with_reducible apply kept_foldl
    | with_reducible apply kept_ite | with_reducible apply keptO_ite | with_reducible apply KeptO.next | intro _ _ _ _
    | intro _ _ _ | intro _ _ | dsimp only | split | with_reducible refine Kept.upd ?_

theorem kept_abandonGroup {κ : Nat} {z : State} (n g : Nat) (s : State) (h : Kept κ z s) :
    Kept κ z (State.abandonGroup n g s) := by
  unfold State.abandonGroup
  conv => zeta
  repeat' first
    | with_reducible assumption | with_reducible apply kept_freeStash | with_reducible apply kept_bump
    | with_reducible apply kept_retireVer | with_reducible apply kept_foldl | with_reducible apply kept_ite
    | intro _ _ _ _ | intro _ _ _ | intro _ _ | dsimp only | split | with_reducible refine Kept.upd ?_

theorem kept_abandonLink {κ : Nat} {z : State} (n l : Nat) (s : State) (h : Kept κ z s) : Kept κ z (State.abandonLink n l s) := by
  unfold State.abandonLink
  conv => zeta
  repeat' first
    | with_reducible assumption | with_reducible apply kept_modLink | with_reducible apply kept_bump
    | with_reducible apply kept_setF | with_reducible apply kept_sendHead | with_reducible apply kept_foldl
    | with_reducible apply kept_ite | intro _ _ _ _ | intro _ _ _ | intro _ _ | dsimp only | split
    | with_reducible refine Kept.upd ?_

theorem kept_abandonPip {κ : Nat} {z : State} (p n : Nat) (s : State) (h : Kept κ z s) : Kept κ z (State.abandonPip p n s) := by
  unfold State.abandonPip
  conv => zeta
  repeat' first
    | with_reducible assumption | with_reducible apply kept_abandonGroup | with_reducible apply kept_abandonLink
    | with_reducible apply kept_allKilnWork | with_reducible apply kept_foldl | intro _ _ _ _ | intro _ _ _
    | intro _ _ | dsimp only

theorem kept_execPipAbandon {κ : Nat} {z : State} (polder : Nat) (s : State) (h : Kept κ z s) :
    KeptO κ z (execPipAbandon polder s) := by
  unfold execPipAbandon
  repeat' first
    | with_reducible assumption | with_reducible apply kept_abandonPip | with_reducible apply KeptO.next | intro _ _ _ _
    | intro _ _ _ | intro _ _ | dsimp only

/-! ### Mfe -/

theorem kept_mfeFetch {κ : Nat} {z : State} (m p a n : Nat) (s : State) (h : Kept κ z s) :
    Kept κ z (State.mfeFetch m p a n s) := by
  unfold State.mfeFetch
  conv => zeta
  repeat' first
    | with_reducible assumption | with_reducible apply kept_meter | with_reducible apply kept_dikeFail
    | with_reducible apply kept_foldl | with_reducible apply kept_ite | intro _ _ _ _ | intro _ _ _ | intro _ _
    | dsimp only | split | with_reducible refine Kept.upd ?_

theorem kept_mfeFail {κ : Nat} {z : State} (m p idx code : Nat) (s : State) (h : Kept κ z s) :
    Kept κ z (State.mfeFail m p idx code s) := by
  unfold State.mfeFail
  conv => zeta
  repeat' first
    | with_reducible assumption | with_reducible apply kept_bump | with_reducible apply kept_setF
    | with_reducible apply kept_ite | dsimp only | split

theorem kept_takeSamples {κ : Nat} {z : State} (m p n : Nat) (s : State) (h : Kept κ z s) : Kept κ z (State.takeSamples m p n s) := by
  induction n generalizing s with
  | zero => exact h
  | succ n ih =>
    unfold State.takeSamples
    dsimp only
    refine kept_ite (kept_mfeFetch _ _ _ _ _ h) ?_
    have h2 := kept_mfeFetch m p (sdAddr (s.mfeBytes m p (s.descAddr m p (s.nextIdx m p)) 32) % 2 ^ 44)
      (sdLen (s.mfeBytes m p (s.descAddr m p (s.nextIdx m p)) 32)) _ (kept_mfeFetch m p (s.descAddr m p (s.nextIdx m p)) 32 _ h)
    split
    · exact ih _ (kept_setF _ _ _ (kept_mfeFail _ _ _ _ _ h2))
    · split
      · exact kept_useFree _ _ (kept_bump _ _ _ h2)
      · exact ih _ (kept_setF _ _ _ (kept_modMfe _ _ _ _ h2))

theorem kept_execRingPoll {κ : Nat} {z : State} (mf polder : Nat) (s : State) (h : Kept κ z s) :
    KeptO κ z (execRingPoll mf polder s) := by
  unfold execRingPoll
  conv => zeta
  repeat' first
    | with_reducible assumption | with_reducible apply kept_mfeFetch | with_reducible apply kept_modMfe
    | with_reducible apply kept_takeSamples | with_reducible apply kept_ite | with_reducible apply keptO_ite
    | with_reducible apply KeptO.next | intro _ _ _ _ | intro _ _ _ | intro _ _ | dsimp only | split
    | with_reducible refine Kept.upd ?_

theorem kept_execMfeSliceEnd {κ : Nat} {z : State} (mf : Nat) (s : State) (h : Kept κ z s) : KeptO κ z (execMfeSliceEnd mf s) := by
  unfold execMfeSliceEnd
  repeat' first
    | with_reducible assumption | with_reducible apply KeptO.next | intro _ _ _ _ | intro _ _ _ | intro _ _ | dsimp only
    | with_reducible refine Kept.upd ?_

theorem kept_landHold {κ : Nat} {z : State} (m p : Nat) (s : State) (h : Kept κ z s) : Kept κ z (State.landHold m p s) := by
  unfold State.landHold
  repeat' first
    | with_reducible assumption | with_reducible apply kept_bump | with_reducible apply kept_useFree | dsimp only

theorem kept_land {κ : Nat} {z : State} (m p : Nat) (e j : Nat) (t : Tile) (s : State) (h : Kept κ z s) :
    Kept κ z (State.land m p e j t s) := by
  unfold State.land
  repeat' first
    | with_reducible assumption | with_reducible apply kept_putTile | with_reducible apply kept_bump | dsimp only

theorem kept_modFlow {κ : Nat} {z : State} (m p idx : Nat) (f : Sample → Sample) (s : State) (h : Kept κ z s) :
    Kept κ z (State.modFlow m p idx f s) := by
  unfold State.modFlow
  repeat' first
    | with_reducible assumption | with_reducible apply kept_modMfe | with_reducible apply kept_ite | intro _ _ _ _
    | intro _ _ _ | intro _ _ | dsimp only | split | with_reducible refine Kept.upd ?_

theorem kept_execLandingWrite {κ : Nat} {z : State} (mf polder idx entry tile : Nat) (s : State) (h : Kept κ z s) :
    KeptO κ z (execLandingWrite mf polder idx entry tile s) := by
  unfold execLandingWrite
  conv => zeta
  repeat' first
    | with_reducible assumption | with_reducible apply kept_landHold | with_reducible apply kept_land
    | with_reducible apply kept_modFlow | with_reducible apply kept_useFree | with_reducible apply kept_ite
    | with_reducible apply keptO_ite | with_reducible apply KeptO.next | intro _ _ _ _ | intro _ _ _ | intro _ _
    | dsimp only | split | with_reducible refine Kept.upd ?_

theorem kept_wipeLanded {κ : Nat} {z : State} (f : Sample) (c : MfeClass) (ts : List (Nat × Nat)) (s : State)
    (h : Kept κ z s) :
    Kept κ z (State.wipeLanded f c ts s) := by
  unfold State.wipeLanded
  conv => zeta
  repeat' first
    | with_reducible assumption | with_reducible apply kept_wipeRange | with_reducible apply kept_foldl | intro _ _ _ _
    | intro _ _ _ | intro _ _ | dsimp only

theorem kept_failFlow {κ : Nat} {z : State} (m p : Nat) (f : Sample) (c : MfeClass) (s : State) (h : Kept κ z s) :
    Kept κ z (State.failFlow m p f c s) := kept_modFlow _ _ _ _ _ (kept_wipeLanded _ _ _ _ h)

theorem kept_addRecord {κ : Nat} {z : State} (m p : Nat) (t : LandSet) (r : List Byte) (ready : Bool) (s : State)
    (h : Kept κ z s) :
    Kept κ z (State.addRecord m p t r ready s) := by
  unfold State.addRecord
  conv => zeta
  repeat' first
    | with_reducible assumption | with_reducible apply kept_modMfe | with_reducible apply kept_ite | intro _ _ _ _
    | intro _ _ _ | intro _ _ | dsimp only | split | with_reducible refine Kept.upd ?_

theorem kept_fillPosition {κ : Nat} {z : State} (m p : Nat) (f : Sample) (c : MfeClass) (t : LandSet) (s : State)
    (h : Kept κ z s) :
    Kept κ z (State.fillPosition m p f c t s) := by
  unfold State.fillPosition
  conv => zeta
  repeat' first
    | with_reducible assumption | with_reducible apply kept_landHold | with_reducible apply kept_bump
    | with_reducible apply kept_mfeFail | with_reducible apply kept_modMfe | with_reducible apply kept_addRecord
    | with_reducible apply kept_land | with_reducible apply kept_ite | intro _ _ _ _ | intro _ _ _ | intro _ _
    | dsimp only | split | with_reducible refine Kept.upd ?_

theorem kept_finishSample {κ : Nat} {z : State} (m p : Nat) (f : Sample) (c : MfeClass) (s : State) (h : Kept κ z s) :
    Kept κ z (State.finishSample m p f c s) := by
  unfold State.finishSample
  conv => zeta
  repeat' first
    | with_reducible assumption | with_reducible apply kept_failFlow | with_reducible apply kept_landHold
    | with_reducible apply kept_fillPosition | with_reducible apply kept_ite | intro _ _ _ _ | intro _ _ _ | intro _ _
    | dsimp only | split | with_reducible refine Kept.upd ?_

theorem kept_execPositionFilled {κ : Nat} {z : State} (mf polder idx : Nat) (s : State) (h : Kept κ z s) :
    KeptO κ z (execPositionFilled mf polder idx s) := by
  unfold execPositionFilled
  repeat' first
    | with_reducible assumption | with_reducible apply kept_finishSample | with_reducible apply kept_ite
    | with_reducible apply keptO_ite | with_reducible apply KeptO.next | intro _ _ _ _ | intro _ _ _ | intro _ _
    | dsimp only | split | with_reducible refine Kept.upd ?_

theorem kept_tokErr {κ : Nat} {z : State} (m e : Nat) (s : State) (h : Kept κ z s) : Kept κ z (State.tokErr m e s) := by
  unfold State.tokErr
  repeat' first
    | with_reducible assumption | with_reducible apply kept_setF | dsimp only

theorem kept_execTokLoad {κ : Nat} {z : State} (mf : Nat) (s : State) (h : Kept κ z s) : KeptO κ z (execTokLoad mf s) := by
  unfold execTokLoad
  conv => zeta
  repeat' first
    | with_reducible assumption | with_reducible apply kept_tokErr | with_reducible apply kept_setF
    | with_reducible apply kept_ite | with_reducible apply keptO_ite | with_reducible apply KeptO.next | intro _ _ _ _
    | intro _ _ _ | intro _ _ | dsimp only | split | with_reducible refine Kept.upd ?_

theorem kept_pctlErr {κ : Nat} {z : State} (m p e k : Nat) (s : State) (h : Kept κ z s) : Kept κ z (State.pctlErr m p e k s) := by
  unfold State.pctlErr
  repeat' first
    | with_reducible assumption | with_reducible apply kept_setF | dsimp only

theorem kept_execMfeRun {κ : Nat} {z : State} (mf polder : Nat) (s : State) (h : Kept κ z s) :
    KeptO κ z (execMfeRun mf polder s) := by
  unfold execMfeRun
  repeat' first
    | with_reducible assumption | with_reducible apply kept_pctlErr | with_reducible apply kept_setF
    | with_reducible apply kept_modMfe | with_reducible apply kept_ite | with_reducible apply keptO_ite
    | with_reducible apply KeptO.next | intro _ _ _ _ | intro _ _ _ | intro _ _ | dsimp only | split
    | with_reducible refine Kept.upd ?_

theorem kept_markRing {κ : Nat} {z : State} (m p : Nat) (s : State) (h : Kept κ z s) : Kept κ z (State.markRing m p s) := by
  unfold State.markRing
  conv => zeta
  repeat' first
    | with_reducible assumption | with_reducible apply kept_setF | with_reducible apply kept_meter
    | with_reducible apply kept_store | with_reducible apply kept_ite | dsimp only | split

theorem kept_rewindRing {κ : Nat} {z : State} (m p : Nat) (s : State) (h : Kept κ z s) : Kept κ z (State.rewindRing m p s) := by
  unfold State.rewindRing
  conv => zeta
  repeat' first
    | with_reducible assumption | with_reducible apply kept_modMfe | with_reducible apply kept_bump
    | with_reducible apply kept_setF | intro _ _ _ _ | intro _ _ _ | intro _ _ | dsimp only
    | with_reducible refine Kept.upd ?_

theorem kept_execMark {κ : Nat} {z : State} (mf polder : Nat) (s : State) (h : Kept κ z s) : KeptO κ z (execMark mf polder s) := by
  unfold execMark
  repeat' first
    | with_reducible assumption | with_reducible apply kept_markRing | with_reducible apply KeptO.next | intro _ _ _ _
    | intro _ _ _ | intro _ _ | dsimp only

theorem kept_execRewind {κ : Nat} {z : State} (mf polder : Nat) (s : State) (h : Kept κ z s) :
    KeptO κ z (execRewind mf polder s) := by
  unfold execRewind
  repeat' first
    | with_reducible assumption | with_reducible apply kept_rewindRing | with_reducible apply KeptO.next | intro _ _ _ _
    | intro _ _ _ | intro _ _ | dsimp only

/-! ### Tide -/

theorem kept_startPlan {κ : Nat} {z : State} (p : Nat) (s : State) (h : Kept κ z s) : Kept κ z (State.startPlan p s) := by
  unfold State.startPlan
  repeat' first
    | with_reducible assumption | with_reducible apply kept_setWheel | dsimp only

theorem kept_freeInfer {κ : Nat} {z : State} (g : Nat) (s : State) (h : Kept κ z s) : Kept κ z (State.freeInfer g s) := by
  unfold State.freeInfer
  repeat' first
    | with_reducible assumption | with_reducible apply kept_freeStash | with_reducible apply kept_bump
    | with_reducible apply kept_foldl | with_reducible apply kept_ite | intro _ _ _ _ | intro _ _ _ | intro _ _
    | dsimp only | split

theorem kept_returnTurn {κ : Nat} {z : State} (p : Nat) (s : State) (h : Kept κ z s) : Kept κ z (State.returnTurn p s) := by
  unfold State.returnTurn
  repeat' first
    | with_reducible assumption | with_reducible apply kept_freeInfer | with_reducible apply kept_returnSets
    | with_reducible apply kept_allKilnWork | with_reducible apply kept_foldl | intro _ _ _ _ | intro _ _ _
    | intro _ _ | dsimp only

theorem kept_dropTurn {κ : Nat} {z : State} (p : Nat) (s : State) (h : Kept κ z s) : Kept κ z (State.dropTurn p s) := by
  unfold State.dropTurn
  conv => zeta
  repeat' first
    | with_reducible assumption | with_reducible apply kept_returnTurn | with_reducible apply kept_forCores
    | with_reducible apply kept_modCore | with_reducible apply kept_setF | with_reducible apply kept_forCores
    | with_reducible apply kept_ite | intro _ _ _ _ | intro _ _ _ | intro _ _ | dsimp only | split
    | with_reducible refine Kept.upd ?_

theorem kept_stopWheel {κ : Nat} {z : State} (p : Nat) (s : State) (h : Kept κ z s) : Kept κ z (State.stopWheel p s) := by
  unfold State.stopWheel
  conv => zeta
  repeat' first
    | with_reducible assumption | with_reducible apply kept_dropTurn | with_reducible apply kept_setWheel
    | with_reducible apply kept_setF | with_reducible apply kept_performAll | with_reducible apply kept_foldl
    | intro _ _ _ _ | intro _ _ _ | intro _ _ | dsimp only

theorem kept_markPulse {κ : Nat} {z : State} (s : State) (h : Kept κ z s) (hκ : κ ≤ 0 := by omega) :
    Kept κ z (State.markPulse s) := by
  unfold State.markPulse
  repeat' first
    | with_reducible assumption | omega | with_reducible apply kept_ite | dsimp only | split
    | with_reducible refine Kept.upd ?_ | with_reducible refine Kept.updPower ?_
    | with_reducible refine Kept.updTide ?_

theorem kept_jumpCount {κ : Nat} {z : State} (n : Nat) (s : State) (h : Kept κ z s) (hκ : κ ≤ 0 := by omega) :
    Kept κ z (State.jumpCount n s) := by
  unfold State.jumpCount
  repeat' first
    | with_reducible assumption | omega | with_reducible apply kept_markPulse | dsimp only
    | with_reducible refine Kept.upd ?_ | with_reducible refine Kept.updPower ?_
    | with_reducible refine Kept.updTide ?_

theorem kept_realignTo {κ : Nat} {z : State} (n : Nat) (s : State) (h : Kept κ z s) (hκ : κ ≤ 0 := by omega) :
    Kept κ z (State.realignTo n s) := by
  unfold State.realignTo
  conv => zeta
  repeat' first
    | with_reducible assumption | omega | with_reducible apply kept_quiesce | with_reducible apply kept_dropTurn
    | with_reducible apply kept_jumpCount | with_reducible apply kept_startPlan | with_reducible apply kept_stopWheel
    | with_reducible apply kept_foldl | with_reducible apply kept_ite | intro _ _ _ _ | intro _ _ _ | intro _ _
    | dsimp only | split

theorem kept_realign {κ : Nat} {z : State} (n : Nat) (s : State) (h : Kept κ z s) (hκ : κ ≤ 0 := by omega) :
    Kept κ z (State.realign n s) := by
  unfold State.realign
  repeat' first
    | with_reducible assumption | omega | with_reducible apply kept_realignTo | with_reducible apply kept_bump
    | with_reducible apply kept_raise | dsimp only

theorem kept_armLoad {κ : Nat} {z : State} (s : State) (h : Kept κ z s) : Kept κ z (State.armLoad s) := by
  unfold State.armLoad
  repeat' first
    | with_reducible assumption | with_reducible apply kept_setF | with_reducible apply kept_ite | dsimp only | split

theorem kept_loaded {κ : Nat} {z : State} (s : State) (h : Kept κ z s) : Kept κ z (State.loaded s) := by
  unfold State.loaded
  repeat' first
    | with_reducible assumption | with_reducible apply kept_setF | dsimp only

theorem kept_acceptEdge {κ : Nat} {z : State} (s : State) (h : Kept κ z s) (hκ : κ ≤ 0 := by omega) :
    Kept κ z (State.acceptEdge s) := by
  unfold State.acceptEdge
  conv => zeta
  repeat' first
    | with_reducible assumption | omega | with_reducible apply kept_setF | dsimp only | with_reducible refine Kept.upd ?_
    | with_reducible refine Kept.updPower ?_ | with_reducible refine Kept.updTide ?_

theorem kept_ignoreEdge {κ : Nat} {z : State} (d : Int) (s : State) (h : Kept κ z s) (hκ : κ ≤ 0 := by omega) :
    Kept κ z (State.ignoreEdge d s) := by
  unfold State.ignoreEdge
  conv => zeta
  repeat' first
    | with_reducible assumption | omega | with_reducible apply kept_setF | with_reducible apply kept_bump
    | with_reducible apply kept_ite | dsimp only | split | with_reducible refine Kept.upd ?_
    | with_reducible refine Kept.updPower ?_ | with_reducible refine Kept.updTide ?_

theorem kept_tmarkEdge {κ : Nat} {z : State} (s : State) (h : Kept κ z s) (hκ : κ ≤ 0 := by omega) :
    Kept κ z (State.tmarkEdge s) := by
  unfold State.tmarkEdge
  conv => zeta
  repeat' first
    | with_reducible assumption | omega | with_reducible apply kept_bump | with_reducible apply kept_realignTo
    | with_reducible apply kept_loaded | with_reducible apply kept_acceptEdge | with_reducible apply kept_jumpCount
    | with_reducible apply kept_realign | with_reducible apply kept_ignoreEdge | with_reducible apply kept_ite
    | dsimp only | split

theorem kept_execLoadArm {κ : Nat} {z : State} (s : State) (h : Kept κ z s) : KeptO κ z (execLoadArm s) := by
  unfold execLoadArm
  repeat' first
    | with_reducible assumption | with_reducible apply kept_armLoad | with_reducible apply KeptO.next | intro _ _ _ _
    | intro _ _ _ | intro _ _ | dsimp only

theorem kept_execTideLoad {κ : Nat} {z : State} (seconds : Nat) (s : State) (h : Kept κ z s) :
    KeptO κ z (execTideLoad seconds s) := by
  unfold execTideLoad
  conv => zeta
  repeat' first
    | with_reducible assumption | with_reducible apply kept_setF | with_reducible apply kept_armLoad
    | with_reducible apply kept_send | with_reducible apply KeptO.next | intro _ _ _ _ | intro _ _ _ | intro _ _
    | dsimp only

theorem kept_execTmarkEdge {κ : Nat} {z : State} (phase : Nat) (s : State) (h : Kept κ z s) (hκ : κ ≤ 0 := by omega) :
    KeptO κ z (execTmarkEdge phase s) := by
  unfold execTmarkEdge
  repeat' first
    | with_reducible assumption | omega | with_reducible apply kept_tmarkEdge | with_reducible apply kept_ite
    | with_reducible apply keptO_ite | with_reducible apply KeptO.next | intro _ _ _ _ | intro _ _ _ | intro _ _
    | dsimp only | split | with_reducible refine Kept.upd ?_ | with_reducible refine Kept.updPower ?_
    | with_reducible refine Kept.updTide ?_

theorem kept_execTmarkMissing {κ : Nat} {z : State} (s : State) (h : Kept κ z s) (hκ : κ ≤ 0 := by omega) :
    KeptO κ z (execTmarkMissing s) := by
  unfold execTmarkMissing
  conv => zeta
  repeat' first
    | with_reducible assumption | omega | with_reducible apply kept_setF | with_reducible apply kept_bump
    | with_reducible apply kept_ite | with_reducible apply keptO_ite | with_reducible apply KeptO.next | intro _ _ _ _
    | intro _ _ _ | intro _ _ | dsimp only | split | with_reducible refine Kept.upd ?_
    | with_reducible refine Kept.updPower ?_ | with_reducible refine Kept.updTide ?_

theorem kept_execTrefLost {κ : Nat} {z : State} (s : State) (h : Kept κ z s) (hκ : κ ≤ 0 := by omega) :
    KeptO κ z (execTrefLost s) := by
  unfold execTrefLost
  conv => zeta
  repeat' first
    | with_reducible assumption | omega | with_reducible apply kept_setF | with_reducible apply kept_bump
    | with_reducible apply kept_raise | with_reducible apply kept_ite | with_reducible apply keptO_ite
    | with_reducible apply KeptO.next | intro _ _ _ _ | intro _ _ _ | intro _ _ | dsimp only | split
    | with_reducible refine Kept.upd ?_ | with_reducible refine Kept.updPower ?_
    | with_reducible refine Kept.updTide ?_

theorem kept_execTrefReturn {κ : Nat} {z : State} (s : State) (h : Kept κ z s) : KeptO κ z (execTrefReturn s) := by
  unfold execTrefReturn
  repeat' first
    | with_reducible assumption | with_reducible apply kept_setF | with_reducible apply KeptO.next | intro _ _ _ _
    | intro _ _ _ | intro _ _ | dsimp only

theorem kept_execTmarkPulseEnd {κ : Nat} {z : State} (s : State) (h : Kept κ z s) (hκ : κ ≤ 0 := by omega) :
    KeptO κ z (execTmarkPulseEnd s) := by
  unfold execTmarkPulseEnd
  repeat' first
    | with_reducible assumption | omega | with_reducible apply kept_ite | with_reducible apply keptO_ite
    | with_reducible apply KeptO.next | intro _ _ _ _ | intro _ _ _ | intro _ _ | dsimp only | split
    | with_reducible refine Kept.upd ?_ | with_reducible refine Kept.updPower ?_
    | with_reducible refine Kept.updTide ?_

/-! ### Thermal -/

theorem kept_modDom {κ : Nat} {z : State} (d : Nat) (f : Dom → Dom) (s : State) (h : Kept κ z s) :
    Kept κ z (State.modDom d f s) := by
  unfold State.modDom
  repeat' first
    | with_reducible assumption | intro _ _ _ _ | intro _ _ _ | intro _ _ | dsimp only
    | with_reducible refine Kept.power ?_ (SameSupplies.of _) | with_reducible refine Kept.upd ?_

theorem kept_setPoint {κ : Nat} {z : State} (d n : Nat) (s : State) (h : Kept κ z s) : Kept κ z (State.setPoint d n s) := by
  unfold State.setPoint
  conv => zeta
  repeat' first
    | with_reducible assumption | with_reducible apply kept_setF | dsimp only

theorem kept_fallTo {κ : Nat} {z : State} (d n : Nat) (heat : Bool) (s : State) (h : Kept κ z s) :
    Kept κ z (State.fallTo d n heat s) := by
  unfold State.fallTo
  conv => zeta
  repeat' first
    | with_reducible assumption | with_reducible apply kept_modDom | with_reducible apply kept_setPoint
    | with_reducible apply kept_ite | intro _ _ _ _ | intro _ _ _ | intro _ _ | dsimp only | split
    | with_reducible refine Kept.power ?_ (SameSupplies.of _) | with_reducible refine Kept.upd ?_

theorem kept_riseOne {κ : Nat} {z : State} (d : Nat) (heat : Bool) (s : State) (h : Kept κ z s) :
    Kept κ z (State.riseOne d heat s) := by
  unfold State.riseOne
  repeat' first
    | with_reducible assumption | with_reducible apply kept_modDom | with_reducible apply kept_setPoint
    | with_reducible apply kept_ite | intro _ _ _ _ | intro _ _ _ | intro _ _ | dsimp only | split
    | with_reducible refine Kept.power ?_ (SameSupplies.of _) | with_reducible refine Kept.upd ?_

theorem kept_readSensors {κ : Nat} {z : State} (env : TickEnv) (s : State) (h : Kept κ z s) :
    Kept κ z (State.readSensors env s) := by
  unfold State.readSensors
  conv => zeta
  repeat' first
    | with_reducible assumption | with_reducible apply kept_setF | with_reducible apply kept_foldl
    | with_reducible apply kept_ite | intro _ _ _ _ | intro _ _ _ | intro _ _ | dsimp only | split

theorem kept_refreshTick {κ : Nat} {z : State} (s : State) (h : Kept κ z s) : Kept κ z (State.refreshTick s) := by
  unfold State.refreshTick
  conv => zeta
  repeat' first
    | with_reducible assumption | with_reducible apply kept_setF | with_reducible apply kept_bump
    | with_reducible apply kept_foldl | with_reducible apply kept_ite | intro _ _ _ _ | intro _ _ _ | intro _ _
    | dsimp only | split

theorem kept_dramRowsTick {κ : Nat} {z : State} (s : State) (h : Kept κ z s) : Kept κ z (State.dramRowsTick s) := by
  unfold State.dramRowsTick
  conv => zeta
  repeat' first
    | with_reducible assumption | with_reducible apply kept_foldl | intro _ _ _ _ | intro _ _ _ | intro _ _ | dsimp only
    | with_reducible refine Kept.power ?_ (SameSupplies.of _) | with_reducible refine Kept.upd ?_

theorem kept_heatDom {κ : Nat} {z : State} (d : Nat) (s : State) (h : Kept κ z s) : Kept κ z (State.heatDom d s) := by
  unfold State.heatDom
  conv => zeta
  repeat' first
    | with_reducible assumption | with_reducible apply kept_modDom | with_reducible apply kept_fallTo
    | with_reducible apply kept_bump | with_reducible apply kept_ite | intro _ _ _ _ | intro _ _ _ | intro _ _
    | dsimp only | split | with_reducible refine Kept.upd ?_

theorem kept_heatTick {κ : Nat} {z : State} (s : State) (h : Kept κ z s) : Kept κ z (State.heatTick s) := by
  unfold State.heatTick
  conv => zeta
  repeat' first
    | with_reducible assumption | with_reducible apply kept_heatDom | with_reducible apply kept_dramRowsTick
    | with_reducible apply kept_setF | with_reducible apply kept_foldl | intro _ _ _ _ | intro _ _ _ | intro _ _
    | dsimp only

theorem kept_powerTick {κ : Nat} {z : State} (s : State) (h : Kept κ z s) : Kept κ z (State.powerTick s) := by
  unfold State.powerTick
  conv => zeta
  repeat' first
    | with_reducible assumption | with_reducible apply kept_fallTo | with_reducible apply kept_riseOne
    | with_reducible apply kept_setF | with_reducible apply kept_bump | with_reducible apply kept_foldl
    | with_reducible apply kept_ite | intro _ _ _ _ | intro _ _ _ | intro _ _ | dsimp only | split
    | with_reducible refine Kept.power ?_ (SameSupplies.of _) | with_reducible refine Kept.upd ?_

theorem kept_trimTick {κ : Nat} {z : State} (margin : List Nat) (s : State) (h : Kept κ z s) :
    Kept κ z (State.trimTick margin s) := by
  unfold State.trimTick
  conv => zeta
  repeat' first
    | with_reducible assumption | with_reducible apply kept_setF | with_reducible apply kept_foldl
    | with_reducible apply kept_ite | intro _ _ _ _ | intro _ _ _ | intro _ _ | dsimp only | split

theorem kept_execThrottleRise {κ : Nat} {z : State} (dom : Nat) (s : State) (h : Kept κ z s) :
    KeptO κ z (execThrottleRise dom s) := by
  unfold execThrottleRise
  conv => zeta
  repeat' first
    | with_reducible assumption | with_reducible apply kept_riseOne | with_reducible apply kept_modDom
    | with_reducible apply kept_ite | with_reducible apply keptO_ite | with_reducible apply KeptO.next | intro _ _ _ _
    | intro _ _ _ | intro _ _ | dsimp only | split | with_reducible refine Kept.upd ?_

theorem kept_execCurrentLimit {κ : Nat} {z : State} (s : State) (h : Kept κ z s) : KeptO κ z (execCurrentLimit s) := by
  unfold execCurrentLimit
  conv => zeta
  repeat' first
    | with_reducible assumption | with_reducible apply kept_fallTo | with_reducible apply kept_bump
    | with_reducible apply kept_setF | with_reducible apply kept_foldl | with_reducible apply kept_ite
    | with_reducible apply keptO_ite | with_reducible apply KeptO.next | intro _ _ _ _ | intro _ _ _ | intro _ _
    | dsimp only | split

theorem kept_execTimingMonitorWarning {κ : Nat} {z : State} (dom : Nat) (s : State) (h : Kept κ z s) :
    KeptO κ z (execTimingMonitorWarning dom s) := by
  unfold execTimingMonitorWarning
  repeat' first
    | with_reducible assumption | with_reducible apply kept_setF | with_reducible apply kept_ite
    | with_reducible apply keptO_ite | with_reducible apply KeptO.next | intro _ _ _ _ | intro _ _ _ | intro _ _
    | dsimp only | split

end Sys2Proof.Laws
end

