-- ==== Sys2Proof/Laws/KeptWheel.lean ====
section
/-! SUPPORT. What is kept (Laws/Kept.lean) by turns, links, time exchange, culverts and the difference stream: one lemma for each function that answers a state. -/

namespace Sys2Proof.Laws

set_option Elab.async false

open Sys2Proof.Machine

/-! ### Turn -/

theorem kept_runWheel {κ : Nat} {z : State} (p : Nat) (s : State) (h : Kept κ z s) : Kept κ z (State.runWheel p s) := by
  unfold State.runWheel
  conv => zeta
  repeat' first
    | with_reducible assumption | with_reducible apply kept_setF | with_reducible apply kept_startPlan
    | with_reducible apply kept_weirFull | with_reducible apply kept_ite | dsimp only | split
    | with_reducible refine Kept.upd ?_

theorem kept_markAll {κ : Nat} {z : State} (p : Nat) (s : State) (h : Kept κ z s) : Kept κ z (State.markAll p s) := by
  unfold State.markAll
  repeat' first
    | with_reducible assumption | with_reducible apply kept_markRing | with_reducible apply kept_foldl | intro _ _ _ _
    | intro _ _ _ | intro _ _ | dsimp only

theorem kept_endTurn {κ : Nat} {z : State} (p : Nat) (s : State) (h : Kept κ z s) : Kept κ z (State.endTurn p s) := by
  unfold State.endTurn
  conv => zeta
  repeat' first
    | with_reducible assumption | with_reducible apply kept_returnTurn | with_reducible apply kept_markAll
    | with_reducible apply kept_setWheel | with_reducible apply kept_stopWheel | with_reducible apply kept_ite
    | dsimp only | split | with_reducible refine Kept.upd ?_

theorem kept_closeTurn {κ : Nat} {z : State} (p : Nat) (s : State) (h : Kept κ z s) : Kept κ z (State.closeTurn p s) := by
  unfold State.closeTurn
  repeat' first
    | with_reducible assumption | with_reducible apply kept_endTurn | with_reducible apply kept_ite | dsimp only | split

theorem kept_countOverrun {κ : Nat} {z : State} (p i idx : Nat) (excess : Int) (s : State) (h : Kept κ z s) :
    Kept κ z (State.countOverrun p i idx excess s) := by
  unfold State.countOverrun
  conv => zeta
  repeat' first
    | with_reducible assumption | with_reducible apply kept_bump | with_reducible apply kept_setF
    | with_reducible apply kept_ite | dsimp only | split

theorem kept_selectClass {κ : Nat} {z : State} (p g : Nat) (s : State) (h : Kept κ z s) : Kept κ z (State.selectClass p g s) := by
  unfold State.selectClass
  conv => zeta
  repeat' first
    | with_reducible assumption | with_reducible apply kept_setF | with_reducible apply kept_bump
    | with_reducible apply kept_takeSet | dsimp only | split | with_reducible refine Kept.upd ?_

theorem kept_coreTurn {κ : Nat} {z : State} (prog i : Nat) (s : State) (h : Kept κ z s) : Kept κ z (State.coreTurn prog i s) := by
  unfold State.coreTurn
  conv => zeta
  repeat' first
    | with_reducible assumption | with_reducible apply kept_modCore | with_reducible apply kept_setCore
    | with_reducible apply kept_placeCore | with_reducible apply kept_ite | intro _ _ _ _ | intro _ _ _ | intro _ _
    | dsimp only | split | with_reducible refine Kept.upd ?_

theorem kept_stepBoundary {κ : Nat} {z : State} (p : Nat) (s : State) (h : Kept κ z s) : Kept κ z (State.stepBoundary p s) := by
  unfold State.stepBoundary
  conv => zeta
  repeat' first
    | with_reducible assumption | with_reducible apply kept_setJob | with_reducible apply kept_markAll
    | with_reducible apply kept_ite | intro _ _ _ _ | intro _ _ _ | intro _ _ | dsimp only | split
    | with_reducible refine Kept.power ?_ (SameSupplies.of _) | with_reducible refine Kept.upd ?_

theorem kept_countTurn {κ : Nat} {z : State} (p : Nat) (s : State) (h : Kept κ z s) : Kept κ z (State.countTurn p s) := by
  unfold State.countTurn
  conv => zeta
  repeat' first
    | with_reducible assumption | with_reducible apply kept_setF | with_reducible apply kept_bump
    | with_reducible apply kept_ite | dsimp only | split

theorem kept_startTurn {κ : Nat} {z : State} (p : Nat) (s : State) (h : Kept κ z s) : Kept κ z (State.startTurn p s) := by
  unfold State.startTurn
  conv => zeta
  repeat' first
    | with_reducible assumption | with_reducible apply kept_countTurn | with_reducible apply kept_setWheel
    | with_reducible apply kept_performQueue | with_reducible apply kept_commitGroup
    | with_reducible apply kept_stepBoundary | with_reducible apply kept_selectClass
    | with_reducible apply kept_forCores | with_reducible apply kept_coreTurn | with_reducible apply kept_foldl
    | with_reducible apply kept_forCores | intro _ _ _ _ | intro _ _ _ | intro _ _ | dsimp only
    | with_reducible refine Kept.upd ?_

theorem kept_cutTurn {κ : Nat} {z : State} (p : Nat) (s : State) (h : Kept κ z s) : Kept κ z (State.cutTurn p s) := by
  unfold State.cutTurn
  conv => zeta
  repeat' first
    | with_reducible assumption | with_reducible apply kept_forCores | with_reducible apply kept_countOverrun
    | with_reducible apply kept_modCore | with_reducible apply kept_forCores | intro _ _ _ _ | intro _ _ _ | intro _ _
    | dsimp only | split | with_reducible refine Kept.upd ?_

theorem kept_settleTurn {κ : Nat} {z : State} (p : Nat) (s : State) (h : Kept κ z s) : Kept κ z (State.settleTurn p s) := by
  unfold State.settleTurn
  repeat' first
    | with_reducible assumption | with_reducible apply kept_cutTurn | with_reducible apply kept_closeTurn
    | with_reducible apply kept_ite | dsimp only | split

theorem kept_startSlot {κ : Nat} {z : State} (i : Nat) (s : State) (h : Kept κ z s) : Kept κ z (State.startSlot i s) := by
  unfold State.startSlot
  conv => zeta
  repeat' first
    | with_reducible assumption | with_reducible apply kept_modCore | with_reducible apply kept_placeCore
    | with_reducible apply kept_releaseRev | with_reducible apply kept_markPulls
    | with_reducible apply kept_allKilnWork | with_reducible apply kept_ite | intro _ _ _ _ | intro _ _ _ | intro _ _
    | dsimp only | split | with_reducible refine Kept.upd ?_

theorem kept_endSlot {κ : Nat} {z : State} (i k : Nat) (s : State) (h : Kept κ z s) : Kept κ z (State.endSlot i k s) := by
  unfold State.endSlot
  conv => zeta
  repeat' first
    | with_reducible assumption | with_reducible apply kept_countOverrun | with_reducible apply kept_modCore
    | with_reducible apply kept_closeTurn | intro _ _ _ _ | intro _ _ _ | intro _ _ | dsimp only
    | with_reducible refine Kept.upd ?_

theorem kept_atPhase {κ : Nat} {z : State} (ph : Nat) (s : State) (h : Kept κ z s) (hκ : κ ≤ 0 := by omega) :
    Kept κ z (State.atPhase ph s) := by
  unfold State.atPhase
  repeat' first
    | with_reducible assumption | omega | dsimp only | with_reducible refine Kept.upd ?_
    | with_reducible refine Kept.updPower ?_ | with_reducible refine Kept.updTide ?_

theorem kept_putTableWord {κ : Nat} {z : State} (t u k : Nat) (v : Word) (s : State) (h : Kept κ z s) :
    Kept κ z (State.putTableWord t u k v s) := by
  unfold State.putTableWord
  repeat' first
    | with_reducible assumption | with_reducible apply kept_modCore | with_reducible apply kept_store | intro _ _ _ _
    | intro _ _ _ | intro _ _ | dsimp only | split | with_reducible refine Kept.upd ?_

theorem kept_nextOffset {κ : Nat} {z : State} (s : State) (h : Kept κ z s) : Kept κ z (State.nextOffset s) := by
  unfold State.nextOffset
  repeat' first
    | with_reducible assumption | with_reducible apply kept_setF | dsimp only

theorem kept_execWheelRun {κ : Nat} {z : State} (polder : Nat) (s : State) (h : Kept κ z s) :
    KeptO κ z (execWheelRun polder s) := by
  unfold execWheelRun
  repeat' first
    | with_reducible assumption | with_reducible apply kept_runWheel | with_reducible apply KeptO.next | intro _ _ _ _
    | intro _ _ _ | intro _ _ | dsimp only

theorem kept_execWheelStop {κ : Nat} {z : State} (polder : Nat) (s : State) (h : Kept κ z s) :
    KeptO κ z (execWheelStop polder s) := by
  unfold execWheelStop
  conv => zeta
  repeat' first
    | with_reducible assumption | with_reducible apply kept_setF | with_reducible apply kept_stopWheel
    | with_reducible apply kept_closeTurn | with_reducible apply kept_ite | with_reducible apply keptO_ite
    | with_reducible apply KeptO.next | intro _ _ _ _ | intro _ _ _ | intro _ _ | dsimp only | split

theorem kept_readTable {κ : Nat} {z : State} (s : State) (h : Kept κ z s) : Kept κ z (State.readTable s) := by
  unfold State.readTable
  conv => zeta
  repeat' first
    | with_reducible assumption | with_reducible apply kept_setF | with_reducible apply kept_nextOffset
    | with_reducible apply kept_ite | dsimp only | split

theorem kept_execWhlTblDataRead {κ : Nat} {z : State} (s : State) (h : Kept κ z s) : KeptO κ z (execWhlTblDataRead s) := by
  unfold execWhlTblDataRead
  repeat' first
    | with_reducible assumption | with_reducible apply kept_readTable | with_reducible apply KeptO.next | intro _ _ _ _
    | intro _ _ _ | intro _ _ | dsimp only

theorem kept_execWhlTblDataWrite {κ : Nat} {z : State} (value : Word) (s : State) (h : Kept κ z s) :
    KeptO κ z (execWhlTblDataWrite value s) := by
  unfold execWhlTblDataWrite
  conv => zeta
  repeat' first
    | with_reducible assumption | with_reducible apply kept_putTableWord | with_reducible apply kept_nextOffset
    | with_reducible apply kept_ite | with_reducible apply keptO_ite | with_reducible apply KeptO.next | intro _ _ _ _
    | intro _ _ _ | intro _ _ | dsimp only | split

theorem kept_execTurnStart {κ : Nat} {z : State} (polder : Nat) (s : State) (h : Kept κ z s) :
    KeptO κ z (execTurnStart polder s) := by
  unfold execTurnStart
  conv => zeta
  repeat' first
    | with_reducible assumption | with_reducible apply kept_settleTurn | with_reducible apply kept_startTurn
    | with_reducible apply kept_ite | with_reducible apply keptO_ite | with_reducible apply KeptO.next | intro _ _ _ _
    | intro _ _ _ | intro _ _ | dsimp only | split

theorem kept_execSlotStart {κ : Nat} {z : State} (core phase : Nat) (s : State) (h : Kept κ z s) (hκ : κ ≤ 0 := by omega) :
    KeptO κ z (execSlotStart core phase s) := by
  unfold execSlotStart
  conv => zeta
  repeat' first
    | with_reducible assumption | omega | with_reducible apply kept_atPhase | with_reducible apply kept_startSlot
    | with_reducible apply kept_ite | with_reducible apply keptO_ite | with_reducible apply KeptO.next
    | with_reducible apply KeptO.refused | intro _ _ _ _ | intro _ _ _ | intro _ _ | dsimp only | split

theorem kept_execSlotEnd {κ : Nat} {z : State} (core phase : Nat) (s : State) (h : Kept κ z s) (hκ : κ ≤ 0 := by omega) :
    KeptO κ z (execSlotEnd core phase s) := by
  unfold execSlotEnd
  conv => zeta
  repeat' first
    | with_reducible assumption | omega | with_reducible apply kept_atPhase | with_reducible apply kept_endSlot
    | with_reducible apply kept_ite | with_reducible apply keptO_ite | with_reducible apply KeptO.next | intro _ _ _ _
    | intro _ _ _ | intro _ _ | dsimp only | split | with_reducible refine Kept.upd ?_

theorem kept_execGuardExpiry {κ : Nat} {z : State} (polder : Nat) (s : State) (h : Kept κ z s) :
    KeptO κ z (execGuardExpiry polder s) := by
  unfold execGuardExpiry
  conv => zeta
  repeat' first
    | with_reducible assumption | with_reducible apply kept_bump | with_reducible apply kept_quiesce
    | with_reducible apply kept_setWheel | with_reducible apply kept_ite | with_reducible apply keptO_ite
    | with_reducible apply KeptO.next | intro _ _ _ _ | intro _ _ _ | intro _ _ | dsimp only | split
    | with_reducible refine Kept.upd ?_

/-! ### Link -/

theorem kept_setPortState {κ : Nat} {z : State} (p st : Nat) (s : State) (h : Kept κ z s) :
    Kept κ z (State.setPortState p st s) := by
  unfold State.setPortState
  repeat' first
    | with_reducible assumption | with_reducible apply kept_setF | dsimp only

theorem kept_downCore {κ : Nat} {z : State} (p i : Nat) (s : State) (h : Kept κ z s) : Kept κ z (State.downCore p i s) := by
  unfold State.downCore
  conv => zeta
  repeat' first
    | with_reducible assumption | with_reducible apply kept_endFlights | with_reducible apply kept_modCtx
    | with_reducible apply kept_foldl | intro _ _ _ _ | intro _ _ _ | intro _ _ | dsimp only
    | with_reducible refine Kept.upd ?_

theorem kept_dropTraffic {κ : Nat} {z : State} (p : Nat) (s : State) (h : Kept κ z s) : Kept κ z (State.dropTraffic p s) := by
  unfold State.dropTraffic
  conv => zeta
  repeat' first
    | with_reducible assumption | with_reducible apply kept_setF | with_reducible apply kept_modPort
    | with_reducible apply kept_forCores | with_reducible apply kept_downCore | with_reducible apply kept_failLost
    | with_reducible apply kept_quiesce | with_reducible apply kept_foldl | with_reducible apply kept_forCores
    | with_reducible apply kept_ite | intro _ _ _ _ | intro _ _ _ | intro _ _ | dsimp only | split
    | with_reducible refine Kept.upd ?_

theorem kept_countDown {κ : Nat} {z : State} (p cause : Nat) (s : State) (h : Kept κ z s) :
    Kept κ z (State.countDown p cause s) := by
  unfold State.countDown
  conv => zeta
  repeat' first
    | with_reducible assumption | with_reducible apply kept_bump | with_reducible apply kept_setF
    | with_reducible apply kept_ite | dsimp only | split

theorem kept_setMask {κ : Nat} {z : State} (p mask width : Nat) (s : State) (h : Kept κ z s) :
    Kept κ z (State.setMask p mask width s) := by
  unfold State.setMask
  conv => zeta
  repeat' first
    | with_reducible assumption | with_reducible apply kept_setF | with_reducible apply kept_foldl | intro _ _ _ _
    | intro _ _ _ | intro _ _ | dsimp only

theorem kept_restPort {κ : Nat} {z : State} (p st : Nat) (s : State) (h : Kept κ z s) : Kept κ z (State.restPort p st s) := by
  unfold State.restPort
  conv => zeta
  repeat' first
    | with_reducible assumption | with_reducible apply kept_setMask | with_reducible apply kept_setF
    | with_reducible apply kept_setPortState | with_reducible apply kept_modPort | intro _ _ _ _ | intro _ _ _
    | intro _ _ | dsimp only | with_reducible refine Kept.upd ?_

theorem kept_goDown {κ : Nat} {z : State} (p cause : Nat) (s : State) (h : Kept κ z s) : Kept κ z (State.goDown p cause s) := by
  unfold State.goDown
  repeat' first
    | with_reducible assumption | with_reducible apply kept_countDown | with_reducible apply kept_dropTraffic
    | with_reducible apply kept_restPort | dsimp only

theorem kept_disablePort {κ : Nat} {z : State} (p err : Nat) (s : State) (h : Kept κ z s) :
    Kept κ z (State.disablePort p err s) := by
  unfold State.disablePort
  conv => zeta
  repeat' first
    | with_reducible assumption | with_reducible apply kept_dropTraffic | with_reducible apply kept_restPort
    | with_reducible apply kept_setF | with_reducible apply kept_ite | dsimp only | split

theorem kept_toEqualise {κ : Nat} {z : State} (p : Nat) (all : Bool) (s : State) (h : Kept κ z s) :
    Kept κ z (State.toEqualise p all s) := by
  unfold State.toEqualise
  conv => zeta
  repeat' first
    | with_reducible assumption | with_reducible apply kept_setF | with_reducible apply kept_setPortState
    | with_reducible apply kept_modPort | with_reducible apply kept_foldl | with_reducible apply kept_ite
    | intro _ _ _ _ | intro _ _ _ | intro _ _ | dsimp only | split | with_reducible refine Kept.upd ?_

theorem kept_failAgreement {κ : Nat} {z : State} (p : Nat) (all : Bool) (s : State) (h : Kept κ z s) :
    Kept κ z (State.failAgreement p all s) := by
  unfold State.failAgreement
  conv => zeta
  repeat' first
    | with_reducible assumption | with_reducible apply kept_setF | with_reducible apply kept_toEqualise
    | with_reducible apply kept_disablePort | with_reducible apply kept_raise | with_reducible apply kept_ite
    | dsimp only | split

theorem kept_excludeNone {κ : Nat} {z : State} (p : Nat) (s : State) (h : Kept κ z s) : Kept κ z (State.excludeNone p s) := by
  unfold State.excludeNone
  repeat' first
    | with_reducible assumption | with_reducible apply kept_setF | with_reducible apply kept_foldl | intro _ _ _ _
    | intro _ _ _ | intro _ _ | dsimp only

theorem kept_enterRetrain {κ : Nat} {z : State} (p : Nat) (all : Bool) (s : State) (h : Kept κ z s) :
    Kept κ z (State.enterRetrain p all s) := by
  unfold State.enterRetrain
  conv => zeta
  repeat' first
    | with_reducible assumption | with_reducible apply kept_bump | with_reducible apply kept_setF
    | with_reducible apply kept_excludeNone | with_reducible apply kept_setPortState
    | with_reducible apply kept_modPort | with_reducible apply kept_ite | intro _ _ _ _ | intro _ _ _ | intro _ _
    | dsimp only | split | with_reducible refine Kept.upd ?_

theorem kept_toAlign {κ : Nat} {z : State} (p : Nat) (s : State) (h : Kept κ z s) : Kept κ z (State.toAlign p s) := by
  unfold State.toAlign
  conv => zeta
  repeat' first
    | with_reducible assumption | with_reducible apply kept_failAgreement | with_reducible apply kept_setMask
    | with_reducible apply kept_setPortState | with_reducible apply kept_modPort | with_reducible apply kept_foldl
    | with_reducible apply kept_ite | intro _ _ _ _ | intro _ _ _ | intro _ _ | dsimp only | split
    | with_reducible refine Kept.upd ?_

theorem kept_sendCaps {κ : Nat} {z : State} (p : Nat) (s : State) (h : Kept κ z s) : Kept κ z (State.sendCaps p s) := by
  unfold State.sendCaps
  conv => zeta
  repeat' first
    | with_reducible assumption | with_reducible apply kept_sendControl | with_reducible apply kept_modPort | intro _ _ _ _
    | intro _ _ _ | intro _ _ | dsimp only | with_reducible refine Kept.upd ?_

theorem kept_toNegotiate {κ : Nat} {z : State} (p : Nat) (s : State) (h : Kept κ z s) : Kept κ z (State.toNegotiate p s) := by
  unfold State.toNegotiate
  repeat' first
    | with_reducible assumption | with_reducible apply kept_setPortState | with_reducible apply kept_modPort
    | with_reducible apply kept_sendCaps | intro _ _ _ _ | intro _ _ _ | intro _ _ | dsimp only
    | with_reducible refine Kept.upd ?_

theorem kept_agree {κ : Nat} {z : State} (p : Nat) (l : List Byte) (s : State) (h : Kept κ z s) :
    Kept κ z (State.agree p l s) := by
  unfold State.agree
  conv => zeta
  repeat' first
    | with_reducible assumption | with_reducible apply kept_setF | with_reducible apply kept_modPort
    | with_reducible apply kept_ack | with_reducible apply kept_setPortState | with_reducible apply kept_sendControl
    | with_reducible apply kept_ite | intro _ _ _ _ | intro _ _ _ | intro _ _ | dsimp only | split
    | with_reducible refine Kept.upd ?_

theorem kept_takeCaps {κ : Nat} {z : State} (p : Nat) (l : List Byte) (s : State) (h : Kept κ z s) :
    Kept κ z (State.takeCaps p l s) := by
  unfold State.takeCaps
  conv => zeta
  repeat' first
    | with_reducible assumption | with_reducible apply kept_modPort | with_reducible apply kept_setF
    | with_reducible apply kept_sendCaps | with_reducible apply kept_countDown | with_reducible apply kept_dropTraffic
    | with_reducible apply kept_disablePort | with_reducible apply kept_failAgreement
    | with_reducible apply kept_agree | with_reducible apply kept_ite | intro _ _ _ _ | intro _ _ _ | intro _ _
    | dsimp only | split | with_reducible refine Kept.upd ?_

theorem kept_resend {κ : Nat} {z : State} (p : Nat) (fs : List Frame) (s : State) (h : Kept κ z s) :
    Kept κ z (State.resend p fs s) := by
  unfold State.resend
  repeat' first
    | with_reducible assumption | with_reducible apply kept_sendFrame | with_reducible apply kept_foldl | intro _ _ _ _
    | intro _ _ _ | intro _ _ | dsimp only | with_reducible refine Kept.upd ?_

theorem kept_becomeActive {κ : Nat} {z : State} (p : Nat) (s : State) (h : Kept κ z s) : Kept κ z (State.becomeActive p s) := by
  unfold State.becomeActive
  conv => zeta
  repeat' first
    | with_reducible assumption | with_reducible apply kept_setPortState | with_reducible apply kept_setF
    | with_reducible apply kept_modPort | with_reducible apply kept_resend | with_reducible apply kept_pump
    | intro _ _ _ _ | intro _ _ _ | intro _ _ | dsimp only | with_reducible refine Kept.upd ?_

theorem kept_setWindows {κ : Nat} {z : State} (p : Nat) (l : List Byte) (s : State) (h : Kept κ z s) :
    Kept κ z (State.setWindows p l s) := by
  unfold State.setWindows
  repeat' first
    | with_reducible assumption | with_reducible apply kept_setF | with_reducible apply kept_foldl | intro _ _ _ _
    | intro _ _ _ | intro _ _ | dsimp only

theorem kept_askReq {κ : Nat} {z : State} (p kind exclude : Nat) (s : State) (h : Kept κ z s) :
    Kept κ z (State.askReq p kind exclude s) := by
  unfold State.askReq
  repeat' first
    | with_reducible assumption | with_reducible apply kept_modPort | with_reducible apply kept_sendControl
    | with_reducible apply kept_ite | intro _ _ _ _ | intro _ _ _ | intro _ _ | dsimp only | split
    | with_reducible refine Kept.upd ?_

theorem kept_excludeLanes {κ : Nat} {z : State} (p mask : Nat) (s : State) (h : Kept κ z s) :
    Kept κ z (State.excludeLanes p mask s) := by
  unfold State.excludeLanes
  repeat' first
    | with_reducible assumption | with_reducible apply kept_setF | with_reducible apply kept_foldl
    | with_reducible apply kept_ite | intro _ _ _ _ | intro _ _ _ | intro _ _ | dsimp only | split

theorem kept_adoptReq {κ : Nat} {z : State} (p kind exclude : Nat) (s : State) (h : Kept κ z s) :
    Kept κ z (State.adoptReq p kind exclude s) := by
  unfold State.adoptReq
  repeat' first
    | with_reducible assumption | with_reducible apply kept_enterRetrain | with_reducible apply kept_excludeLanes
    | with_reducible apply kept_ite | dsimp only | split

theorem kept_controlPosition {κ : Nat} {z : State} (p : Nat) (s : State) (h : Kept κ z s) :
    Kept κ z (State.controlPosition p s) := by
  unfold State.controlPosition
  conv => zeta
  repeat' first
    | with_reducible assumption | with_reducible apply kept_sendCaps | with_reducible apply kept_askReq
    | with_reducible apply kept_sendControl | with_reducible apply kept_foldl | with_reducible apply kept_ite
    | intro _ _ _ _ | intro _ _ _ | intro _ _ | dsimp only | split | with_reducible refine Kept.upd ?_

theorem kept_codeword {κ : Nat} {z : State} (p : Nat) (w : Codeword) (s : State) (h : Kept κ z s) :
    Kept κ z (State.codeword p w s) := by
  unfold State.codeword
  conv => zeta
  repeat' first
    | with_reducible assumption | with_reducible apply kept_bump | with_reducible apply kept_setF
    | with_reducible apply kept_askReq | with_reducible apply kept_note | with_reducible apply kept_modPort
    | with_reducible apply kept_goDown | with_reducible apply kept_foldl | with_reducible apply kept_ite
    | intro _ _ _ _ | intro _ _ _ | intro _ _ | dsimp only | split | with_reducible refine Kept.upd ?_

theorem kept_startReplay {κ : Nat} {z : State} (p n : Nat) (s : State) (h : Kept κ z s) : Kept κ z (State.startReplay p n s) := by
  unfold State.startReplay
  conv => zeta
  repeat' first
    | with_reducible assumption | with_reducible apply kept_bump | with_reducible apply kept_setF
    | with_reducible apply kept_modPort | with_reducible apply kept_resend | intro _ _ _ _ | intro _ _ _ | intro _ _
    | dsimp only | split | with_reducible refine Kept.upd ?_

theorem kept_takeAck {κ : Nat} {z : State} (p : Nat) (f : Frame) (s : State) (h : Kept κ z s) :
    Kept κ z (State.takeAck p f s) := by
  unfold State.takeAck
  conv => zeta
  repeat' first
    | with_reducible assumption | with_reducible apply kept_ack | with_reducible apply kept_modPort
    | with_reducible apply kept_setF | with_reducible apply kept_startReplay | with_reducible apply kept_ite
    | intro _ _ _ _ | intro _ _ _ | intro _ _ | dsimp only | split | with_reducible refine Kept.upd ?_

theorem kept_takeCred {κ : Nat} {z : State} (p : Nat) (f : Frame) (s : State) (h : Kept κ z s) :
    Kept κ z (State.takeCred p f s) := by
  unfold State.takeCred
  repeat' first
    | with_reducible assumption | with_reducible apply kept_setF | with_reducible apply kept_ite | dsimp only | split

theorem kept_takeHeader {κ : Nat} {z : State} (p : Nat) (f : Frame) (s : State) (h : Kept κ z s) :
    Kept κ z (State.takeHeader p f s) := by
  unfold State.takeHeader
  repeat' first
    | with_reducible assumption | with_reducible apply kept_takeAck | with_reducible apply kept_takeCred
    | with_reducible apply kept_pump | dsimp only

theorem kept_owe {κ : Nat} {z : State} (p v n : Nat) (s : State) (h : Kept κ z s) : Kept κ z (State.owe p v n s) := by
  unfold State.owe
  repeat' first
    | with_reducible assumption | with_reducible apply kept_modPort | with_reducible apply kept_ite | intro _ _ _ _
    | intro _ _ _ | intro _ _ | dsimp only | split | with_reducible refine Kept.upd ?_

theorem kept_takePacket {κ : Nat} {z : State} (p v : Nat) (q : LanePkt) (s : State) (h : Kept κ z s) :
    Kept κ z (State.takePacket p v q s) := by
  unfold State.takePacket
  conv => zeta
  repeat' first
    | with_reducible assumption | with_reducible apply kept_owe | with_reducible apply kept_bump
    | with_reducible apply kept_modPort | with_reducible apply kept_quiesce | with_reducible apply kept_ite
    | intro _ _ _ _ | intro _ _ _ | intro _ _ | dsimp only | split | with_reducible refine Kept.upd ?_

theorem kept_takePackets {κ : Nat} {z : State} (p v n : Nat) (l : List Byte) (s : State) (h : Kept κ z s) : Kept κ z (State.takePackets p v n l s) := by
  induction n generalizing l s with
  | zero => exact h
  | succ n ih =>
    unfold State.takePackets
    dsimp only
    split
    · exact kept_modPort _ _ _ h
    · refine kept_ite (kept_modPort _ _ _ h) ?_
      split
      · exact kept_modPort _ _ _ h
      · exact ih _ _ (kept_takePacket _ _ _ _ h)

theorem kept_takeData {κ : Nat} {z : State} (p : Nat) (f : Frame) (s : State) (h : Kept κ z s) :
    Kept κ z (State.takeData p f s) := by
  unfold State.takeData
  conv => zeta
  repeat' first
    | with_reducible assumption | with_reducible apply kept_takeAck | with_reducible apply kept_modPort
    | with_reducible apply kept_ack | with_reducible apply kept_takeCred | with_reducible apply kept_takePackets
    | with_reducible apply kept_pump | with_reducible apply kept_ite | intro _ _ _ _ | intro _ _ _ | intro _ _
    | dsimp only | split | with_reducible refine Kept.upd ?_

theorem kept_badFrame {κ : Nat} {z : State} (p : Nat) (s : State) (h : Kept κ z s) : Kept κ z (State.badFrame p s) := by
  unfold State.badFrame
  repeat' first
    | with_reducible assumption | with_reducible apply kept_modPort | intro _ _ _ _ | intro _ _ _ | intro _ _ | dsimp only
    | with_reducible refine Kept.upd ?_

theorem kept_answer {κ : Nat} {z : State} (p : Nat) (s : State) (h : Kept κ z s) : Kept κ z (State.answer p s) := by
  unfold State.answer
  repeat' first
    | with_reducible assumption | with_reducible apply kept_sendControl | with_reducible apply kept_ite | dsimp only | split

theorem kept_alignWord {κ : Nat} {z : State} (p : Nat) (intact : Bool) (s : State) (h : Kept κ z s) :
    Kept κ z (State.alignWord p intact s) := by
  unfold State.alignWord
  repeat' first
    | with_reducible assumption | with_reducible apply kept_modPort | with_reducible apply kept_toNegotiate
    | with_reducible apply kept_ite | intro _ _ _ _ | intro _ _ _ | intro _ _ | dsimp only | split
    | with_reducible refine Kept.upd ?_

theorem kept_receive {κ : Nat} {z : State} (p : Nat) (w : Codeword) (act : State → State) (s : State) (h : Kept κ z s)
    (hf : ∀ s, Kept κ z s → Kept κ z (act s)) : Kept κ z (State.receive p w act s) := by
  have h1 := kept_alignWord p w.intact _ (kept_codeword p w _ h)
  exact kept_ite (hf _ h1) (kept_ite (kept_answer _ _ (kept_badFrame _ _ h1)) h1)

theorem kept_takeTaps {κ : Nat} {z : State} (p : Nat) (b : TrainBlock) (s : State) (h : Kept κ z s) :
    Kept κ z (State.takeTaps p b s) := by
  unfold State.takeTaps
  conv => zeta
  repeat' first
    | with_reducible assumption | with_reducible apply kept_modPort | with_reducible apply kept_foldl | intro _ _ _ _
    | intro _ _ _ | intro _ _ | dsimp only | split | with_reducible refine Kept.upd ?_

theorem kept_equaliseBlock {κ : Nat} {z : State} (p : Nat) (b : TrainBlock) (s : State) (h : Kept κ z s) :
    Kept κ z (State.equaliseBlock p b s) := by
  unfold State.equaliseBlock
  conv => zeta
  repeat' first
    | with_reducible assumption | with_reducible apply kept_takeTaps | with_reducible apply kept_setF
    | with_reducible apply kept_modPort | with_reducible apply kept_toAlign | with_reducible apply kept_ite
    | intro _ _ _ _ | intro _ _ _ | intro _ _ | dsimp only | split | with_reducible refine Kept.upd ?_

theorem kept_execDataFrame {κ : Nat} {z : State} (port : Nat) (f : Frame) (w : Codeword) (s : State) (h : Kept κ z s) :
    KeptO κ z (execDataFrame port f w s) := by
  unfold execDataFrame
  repeat' first
    | with_reducible assumption | with_reducible apply kept_receive | with_reducible apply kept_takeData
    | with_reducible apply kept_answer | with_reducible apply kept_ite | with_reducible apply keptO_ite
    | with_reducible apply KeptO.next | intro _ _ _ _ | intro _ _ _ | intro _ _ | dsimp only | split

theorem kept_execIdleFrame {κ : Nat} {z : State} (port : Nat) (f : Frame) (w : Codeword) (s : State) (h : Kept κ z s) :
    KeptO κ z (execIdleFrame port f w s) := by
  unfold execIdleFrame
  repeat' first
    | with_reducible assumption | with_reducible apply kept_receive | with_reducible apply kept_takeHeader
    | with_reducible apply kept_ite | with_reducible apply keptO_ite | with_reducible apply KeptO.next | intro _ _ _ _
    | intro _ _ _ | intro _ _ | dsimp only | split

theorem kept_execCapsFrame {κ : Nat} {z : State} (port : Nat) (f : Frame) (w : Codeword) (s : State) (h : Kept κ z s) :
    KeptO κ z (execCapsFrame port f w s) := by
  unfold execCapsFrame
  repeat' first
    | with_reducible assumption | with_reducible apply kept_receive | with_reducible apply kept_takeCaps
    | with_reducible apply kept_ite | with_reducible apply keptO_ite | with_reducible apply KeptO.next | intro _ _ _ _
    | intro _ _ _ | intro _ _ | dsimp only | split

theorem kept_execCreditInit {κ : Nat} {z : State} (port : Nat) (f : Frame) (w : Codeword) (s : State) (h : Kept κ z s) :
    KeptO κ z (execCreditInit port f w s) := by
  unfold execCreditInit
  repeat' first
    | with_reducible assumption | with_reducible apply kept_receive | with_reducible apply kept_setWindows
    | with_reducible apply kept_becomeActive | with_reducible apply kept_ite | with_reducible apply keptO_ite
    | with_reducible apply KeptO.next | intro _ _ _ _ | intro _ _ _ | intro _ _ | dsimp only | split

theorem kept_execVcStatus {κ : Nat} {z : State} (port : Nat) (f : Frame) (w : Codeword) (s : State) (h : Kept κ z s) :
    KeptO κ z (execVcStatus port f w s) := by
  unfold execVcStatus
  conv => zeta
  repeat' first
    | with_reducible assumption | with_reducible apply kept_receive | with_reducible apply kept_takeHeader
    | with_reducible apply kept_setF | with_reducible apply kept_modPort | with_reducible apply kept_ack
    | with_reducible apply kept_foldl | with_reducible apply kept_ite | with_reducible apply keptO_ite
    | with_reducible apply KeptO.next | intro _ _ _ _ | intro _ _ _ | intro _ _ | dsimp only | split
    | with_reducible refine Kept.upd ?_

theorem kept_execReqFrame {κ : Nat} {z : State} (port : Nat) (f : Frame) (w : Codeword) (s : State) (h : Kept κ z s) :
    KeptO κ z (execReqFrame port f w s) := by
  unfold execReqFrame
  conv => zeta
  repeat' first
    | with_reducible assumption | with_reducible apply kept_receive | with_reducible apply kept_takeHeader
    | with_reducible apply kept_setF | with_reducible apply kept_sendControl | with_reducible apply kept_adoptReq
    | with_reducible apply kept_ite | with_reducible apply keptO_ite | with_reducible apply KeptO.next | intro _ _ _ _
    | intro _ _ _ | intro _ _ | dsimp only | split

theorem kept_execReqAckFrame {κ : Nat} {z : State} (port : Nat) (f : Frame) (w : Codeword) (s : State) (h : Kept κ z s) :
    KeptO κ z (execReqAckFrame port f w s) := by
  unfold execReqAckFrame
  repeat' first
    | with_reducible assumption | with_reducible apply kept_receive | with_reducible apply kept_takeHeader
    | with_reducible apply kept_adoptReq | with_reducible apply kept_ite | with_reducible apply keptO_ite
    | with_reducible apply KeptO.next | intro _ _ _ _ | intro _ _ _ | intro _ _ | dsimp only | split

theorem kept_execCtrlBad {κ : Nat} {z : State} (port : Nat) (w : Codeword) (s : State) (h : Kept κ z s) :
    KeptO κ z (execCtrlBad port w s) := by
  unfold execCtrlBad
  repeat' first
    | with_reducible assumption | with_reducible apply kept_receive | with_reducible apply kept_bump
    | with_reducible apply KeptO.next | intro _ _ _ _ | intro _ _ _ | intro _ _ | dsimp only

theorem kept_execTrainingBlock {κ : Nat} {z : State} (port : Nat) (b : TrainBlock) (s : State) (h : Kept κ z s) :
    KeptO κ z (execTrainingBlock port b s) := by
  unfold execTrainingBlock
  repeat' first
    | with_reducible assumption | with_reducible apply kept_setF | with_reducible apply kept_toEqualise
    | with_reducible apply kept_equaliseBlock | with_reducible apply kept_goDown | with_reducible apply kept_ite
    | with_reducible apply keptO_ite | with_reducible apply KeptO.next | intro _ _ _ _ | intro _ _ _ | intro _ _
    | dsimp only | split | with_reducible refine Kept.upd ?_

theorem kept_execAckTimeout {κ : Nat} {z : State} (port : Nat) (s : State) (h : Kept κ z s) :
    KeptO κ z (execAckTimeout port s) := by
  unfold execAckTimeout
  repeat' first
    | with_reducible assumption | with_reducible apply kept_startReplay | with_reducible apply kept_ite
    | with_reducible apply keptO_ite | with_reducible apply KeptO.next | intro _ _ _ _ | intro _ _ _ | intro _ _
    | dsimp only | split | with_reducible refine Kept.upd ?_

theorem kept_execNakRepeat {κ : Nat} {z : State} (port : Nat) (s : State) (h : Kept κ z s) : KeptO κ z (execNakRepeat port s) := by
  unfold execNakRepeat
  repeat' first
    | with_reducible assumption | with_reducible apply kept_modPort | with_reducible apply kept_answer
    | with_reducible apply kept_ite | with_reducible apply keptO_ite | with_reducible apply KeptO.next | intro _ _ _ _
    | intro _ _ _ | intro _ _ | dsimp only | split | with_reducible refine Kept.upd ?_

theorem kept_execReplayBound {κ : Nat} {z : State} (port : Nat) (s : State) (h : Kept κ z s) :
    KeptO κ z (execReplayBound port s) := by
  unfold execReplayBound
  repeat' first
    | with_reducible assumption | with_reducible apply kept_bump | with_reducible apply kept_enterRetrain
    | with_reducible apply kept_ite | with_reducible apply keptO_ite | with_reducible apply KeptO.next | intro _ _ _ _
    | intro _ _ _ | intro _ _ | dsimp only | split

theorem kept_execLeakTimer {κ : Nat} {z : State} (port vc : Nat) (s : State) (h : Kept κ z s) :
    KeptO κ z (execLeakTimer port vc s) := by
  unfold execLeakTimer
  repeat' first
    | with_reducible assumption | with_reducible apply kept_bump | with_reducible apply kept_enterRetrain
    | with_reducible apply kept_ite | with_reducible apply keptO_ite | with_reducible apply KeptO.next | intro _ _ _ _
    | intro _ _ _ | intro _ _ | dsimp only | split

theorem kept_execTrainingLimit {κ : Nat} {z : State} (port : Nat) (s : State) (h : Kept κ z s) :
    KeptO κ z (execTrainingLimit port s) := by
  unfold execTrainingLimit
  repeat' first
    | with_reducible assumption | with_reducible apply kept_toAlign | with_reducible apply kept_failAgreement
    | with_reducible apply KeptO.next | intro _ _ _ _ | intro _ _ _ | intro _ _ | dsimp only | split
    | with_reducible refine Kept.upd ?_

theorem kept_execRetrainLimit {κ : Nat} {z : State} (port : Nat) (s : State) (h : Kept κ z s) :
    KeptO κ z (execRetrainLimit port s) := by
  unfold execRetrainLimit
  repeat' first
    | with_reducible assumption | with_reducible apply kept_goDown | with_reducible apply kept_ite
    | with_reducible apply keptO_ite | with_reducible apply KeptO.next | intro _ _ _ _ | intro _ _ _ | intro _ _
    | dsimp only | split

theorem kept_execReqTimeout {κ : Nat} {z : State} (port : Nat) (s : State) (h : Kept κ z s) :
    KeptO κ z (execReqTimeout port s) := by
  unfold execReqTimeout
  repeat' first
    | with_reducible assumption | with_reducible apply kept_enterRetrain | with_reducible apply kept_ite
    | with_reducible apply keptO_ite | with_reducible apply KeptO.next | intro _ _ _ _ | intro _ _ _ | intro _ _
    | dsimp only | split

theorem kept_execPortEnable {κ : Nat} {z : State} (port : Nat) (s : State) (h : Kept κ z s) :
    KeptO κ z (execPortEnable port s) := by
  unfold execPortEnable
  repeat' first
    | with_reducible assumption | with_reducible apply kept_restPort | with_reducible apply kept_setF
    | with_reducible apply kept_ite | with_reducible apply keptO_ite | with_reducible apply KeptO.next | intro _ _ _ _
    | intro _ _ _ | intro _ _ | dsimp only | split

theorem kept_freshPort {κ : Nat} {z : State} (p : Nat) (s : State) (h : Kept κ z s) : Kept κ z (State.freshPort p s) := by
  unfold State.freshPort
  repeat' first
    | with_reducible assumption | with_reducible apply kept_setF | with_reducible apply kept_modPort | intro _ _ _ _
    | intro _ _ _ | intro _ _ | dsimp only | with_reducible refine Kept.upd ?_

theorem kept_execPortReset {κ : Nat} {z : State} (port : Nat) (s : State) (h : Kept κ z s) : KeptO κ z (execPortReset port s) := by
  unfold execPortReset
  conv => zeta
  repeat' first
    | with_reducible assumption | with_reducible apply kept_freshPort | with_reducible apply kept_excludeNone
    | with_reducible apply kept_goDown | with_reducible apply kept_ite | with_reducible apply keptO_ite
    | with_reducible apply KeptO.next | intro _ _ _ _ | intro _ _ _ | intro _ _ | dsimp only | split

theorem kept_execPortDown {κ : Nat} {z : State} (port : Nat) (s : State) (h : Kept κ z s) : KeptO κ z (execPortDown port s) := by
  unfold execPortDown
  repeat' first
    | with_reducible assumption | with_reducible apply kept_goDown | with_reducible apply kept_ite
    | with_reducible apply keptO_ite | with_reducible apply KeptO.next | intro _ _ _ _ | intro _ _ _ | intro _ _
    | dsimp only | split

theorem kept_execPortRetrain {κ : Nat} {z : State} (port : Nat) (s : State) (h : Kept κ z s) :
    KeptO κ z (execPortRetrain port s) := by
  unfold execPortRetrain
  repeat' first
    | with_reducible assumption | with_reducible apply kept_askReq | with_reducible apply KeptO.next | intro _ _ _ _
    | intro _ _ _ | intro _ _ | dsimp only

/-! ### Sync -/

theorem kept_setStamp {κ : Nat} {z : State} (n : Nat) (s : State) (h : Kept κ z s) (hκ : κ ≤ 0 := by omega) :
    Kept κ z (State.setStamp n s) := by
  unfold State.setStamp
  conv => zeta
  repeat' first
    | with_reducible assumption | omega | with_reducible apply kept_markPulse | with_reducible apply kept_ite | dsimp only
    | split | with_reducible refine Kept.upd ?_ | with_reducible refine Kept.updPower ?_
    | with_reducible refine Kept.updTide ?_

theorem kept_noteExchange {κ : Nat} {z : State} (offset delay : Int) (hops : Nat) (s : State) (h : Kept κ z s) :
    Kept κ z (State.noteExchange offset delay hops s) := by
  unfold State.noteExchange
  conv => zeta
  repeat' first
    | with_reducible assumption | with_reducible apply kept_setF | with_reducible apply kept_bump
    | with_reducible apply kept_useFree | dsimp only

theorem kept_stepOffset {κ : Nat} {z : State} (offset : Int) (parentLocked : Bool) (s : State)
    (h : Kept κ z s) (hκ : κ ≤ 0 := by omega) :
    Kept κ z (State.stepOffset offset parentLocked s) := by
  unfold State.stepOffset
  conv => zeta
  repeat' first
    | with_reducible assumption | omega | with_reducible apply kept_setStamp | with_reducible apply kept_setF
    | with_reducible apply kept_ite | dsimp only | split | with_reducible refine Kept.upd ?_
    | with_reducible refine Kept.updPower ?_ | with_reducible refine Kept.updTide ?_

theorem kept_slewOffset {κ : Nat} {z : State} (offset : Int) (s : State) (h : Kept κ z s) (hκ : κ ≤ 0 := by omega) :
    Kept κ z (State.slewOffset offset s) := by
  unfold State.slewOffset
  conv => zeta
  repeat' first
    | with_reducible assumption | omega | with_reducible apply kept_realign | with_reducible apply kept_ite | dsimp only
    | split | with_reducible refine Kept.upd ?_ | with_reducible refine Kept.updPower ?_
    | with_reducible refine Kept.updTide ?_

theorem kept_takeTime {κ : Nat} {z : State} (l : List Byte) (t1 : Nat) (s : State)
    (h : Kept κ z s) (hκ : κ ≤ 0 := by omega) :
    Kept κ z (State.takeTime l t1 s) := by
  unfold State.takeTime
  conv => zeta
  repeat' first
    | with_reducible assumption | omega | with_reducible apply kept_noteExchange | with_reducible apply kept_slewOffset
    | with_reducible apply kept_stepOffset | with_reducible apply kept_ite | dsimp only | split
    | with_reducible refine Kept.upd ?_ | with_reducible refine Kept.updPower ?_
    | with_reducible refine Kept.updTide ?_

theorem kept_execSyncExchange {κ : Nat} {z : State} (phase : Nat) (s : State) (h : Kept κ z s) (hκ : κ ≤ 0 := by omega) :
    KeptO κ z (execSyncExchange phase s) := by
  unfold execSyncExchange
  conv => zeta
  repeat' first
    | with_reducible assumption | omega | with_reducible apply kept_atPhase | with_reducible apply kept_sendControl
    | with_reducible apply kept_ite | with_reducible apply keptO_ite | with_reducible apply KeptO.next | intro _ _ _ _
    | intro _ _ _ | intro _ _ | dsimp only | split | with_reducible refine Kept.upd ?_
    | with_reducible refine Kept.updPower ?_ | with_reducible refine Kept.updTide ?_

theorem kept_execTimeReq {κ : Nat} {z : State} (port : Nat) (f : Frame) (w : Codeword) (phase turn : Nat) (s : State)
    (h : Kept κ z s) (hκ : κ ≤ 0 := by omega) :
    KeptO κ z (execTimeReq port f w phase turn s) := by
  unfold execTimeReq
  conv => zeta
  repeat' first
    | with_reducible assumption | omega | with_reducible apply kept_atPhase | with_reducible apply kept_receive
    | with_reducible apply kept_takeHeader | with_reducible apply kept_sendControl | with_reducible apply kept_ite
    | with_reducible apply keptO_ite | with_reducible apply KeptO.next | intro _ _ _ _ | intro _ _ _ | intro _ _
    | dsimp only | split

theorem kept_execTimeResp {κ : Nat} {z : State} (port : Nat) (f : Frame) (w : Codeword) (phase : Nat) (s : State)
    (h : Kept κ z s) (hκ : κ ≤ 0 := by omega) :
    KeptO κ z (execTimeResp port f w phase s) := by
  unfold execTimeResp
  conv => zeta
  repeat' first
    | with_reducible assumption | omega | with_reducible apply kept_atPhase | with_reducible apply kept_receive
    | with_reducible apply kept_takeHeader | with_reducible apply kept_takeTime | with_reducible apply kept_ite
    | with_reducible apply keptO_ite | with_reducible apply KeptO.next | intro _ _ _ _ | intro _ _ _ | intro _ _
    | dsimp only | split | with_reducible refine Kept.upd ?_

theorem kept_execSyncMiss {κ : Nat} {z : State} (phase : Nat) (s : State) (h : Kept κ z s) (hκ : κ ≤ 0 := by omega) :
    KeptO κ z (execSyncMiss phase s) := by
  unfold execSyncMiss
  conv => zeta
  repeat' first
    | with_reducible assumption | omega | with_reducible apply kept_atPhase | with_reducible apply kept_bump
    | with_reducible apply kept_setF | with_reducible apply kept_raise | with_reducible apply kept_ite
    | with_reducible apply keptO_ite | with_reducible apply KeptO.next | intro _ _ _ _ | intro _ _ _ | intro _ _
    | dsimp only | split | with_reducible refine Kept.upd ?_ | with_reducible refine Kept.updPower ?_
    | with_reducible refine Kept.updTide ?_

/-! ### Culvert -/

theorem kept_modCulvert {κ : Nat} {z : State} (c : Nat) (f : Culvert → Culvert) (s : State) (h : Kept κ z s) :
    Kept κ z (State.modCulvert c f s) := by
  unfold State.modCulvert
  repeat' first
    | with_reducible assumption | intro _ _ _ _ | intro _ _ _ | intro _ _ | dsimp only | with_reducible refine Kept.upd ?_

theorem kept_setBeat {κ : Nat} {z : State} (c dir n : Nat) (s : State) (h : Kept κ z s) : Kept κ z (State.setBeat c dir n s) := by
  unfold State.setBeat
  repeat' first
    | with_reducible assumption | with_reducible apply kept_modCulvert | with_reducible apply kept_ite | intro _ _ _ _
    | intro _ _ _ | intro _ _ | dsimp only | split | with_reducible refine Kept.upd ?_

theorem kept_askBeats {κ : Nat} {z : State} (c dir : Nat) (s : State) (h : Kept κ z s) : Kept κ z (State.askBeats c dir s) := by
  unfold State.askBeats
  conv => zeta
  repeat' first
    | with_reducible assumption | with_reducible apply kept_bump | with_reducible apply kept_setF
    | with_reducible apply kept_modCulvert | intro _ _ _ _ | intro _ _ _ | intro _ _ | dsimp only
    | with_reducible refine Kept.upd ?_

theorem kept_endBeats {κ : Nat} {z : State} (c dir : Nat) (s : State) (h : Kept κ z s) : Kept κ z (State.endBeats c dir s) := by
  unfold State.endBeats
  conv => zeta
  repeat' first
    | with_reducible assumption | with_reducible apply kept_modCulvert | with_reducible apply kept_setF
    | with_reducible apply kept_ite | intro _ _ _ _ | intro _ _ _ | intro _ _ | dsimp only | split
    | with_reducible refine Kept.upd ?_

theorem kept_takeBeat {κ : Nat} {z : State} (c dir seq : Nat) (intact last : Bool) (s : State) (h : Kept κ z s) :
    Kept κ z (State.takeBeat c dir seq intact last s) := by
  unfold State.takeBeat
  conv => zeta
  repeat' first
    | with_reducible assumption | with_reducible apply kept_bump | with_reducible apply kept_askBeats
    | with_reducible apply kept_setBeat | with_reducible apply kept_endBeats | with_reducible apply kept_ite
    | dsimp only | split

theorem kept_quarantineCore {κ : Nat} {z : State} (c i : Nat) (s : State) (h : Kept κ z s) :
    Kept κ z (State.quarantineCore c i s) := by
  unfold State.quarantineCore
  conv => zeta
  repeat' first
    | with_reducible assumption | with_reducible apply kept_endFlights | with_reducible apply kept_modCtx
    | with_reducible apply kept_foldl | with_reducible apply kept_ite | intro _ _ _ _ | intro _ _ _ | intro _ _
    | dsimp only | split | with_reducible refine Kept.upd ?_

theorem kept_showDegraded {κ : Nat} {z : State} (s : State) (h : Kept κ z s) : Kept κ z (State.showDegraded s) := by
  unfold State.showDegraded
  repeat' first
    | with_reducible assumption | with_reducible apply kept_setF | intro _ _ _ _ | intro _ _ _ | intro _ _ | dsimp only

theorem kept_quarantine {κ : Nat} {z : State} (c : Nat) (s : State) (h : Kept κ z s) : Kept κ z (State.quarantine c s) := by
  unfold State.quarantine
  conv => zeta
  repeat' first
    | with_reducible assumption | with_reducible apply kept_setF | with_reducible apply kept_bump
    | with_reducible apply kept_modCulvert | with_reducible apply kept_forCores
    | with_reducible apply kept_quarantineCore | with_reducible apply kept_raise | with_reducible apply kept_trace
    | with_reducible apply kept_showDegraded | with_reducible apply kept_forCores | with_reducible apply kept_ite
    | intro _ _ _ _ | intro _ _ _ | intro _ _ | dsimp only | split | with_reducible refine Kept.upd ?_

theorem kept_trainCulvert {κ : Nat} {z : State} (c : Nat) (s : State) (h : Kept κ z s) : Kept κ z (State.trainCulvert c s) := by
  unfold State.trainCulvert
  repeat' first
    | with_reducible assumption | with_reducible apply kept_setF | dsimp only

theorem kept_failCulvert {κ : Nat} {z : State} (c : Nat) (s : State) (h : Kept κ z s) : Kept κ z (State.failCulvert c s) := by
  unfold State.failCulvert
  conv => zeta
  repeat' first
    | with_reducible assumption | with_reducible apply kept_setF | with_reducible apply kept_quarantine
    | with_reducible apply kept_raise | with_reducible apply kept_ite | dsimp only | split

theorem kept_freeDie {κ : Nat} {z : State} (d : Nat) (s : State) (h : Kept κ z s) : Kept κ z (State.freeDie d s) := by
  unfold State.freeDie
  repeat' first
    | with_reducible assumption | with_reducible apply kept_setF | with_reducible apply kept_ite | intro _ _ _ _
    | intro _ _ _ | intro _ _ | dsimp only | split

theorem kept_endTraining {κ : Nat} {z : State} (c bad0 bad1 own recorded : Nat) (s : State) (h : Kept κ z s) :
    Kept κ z (State.endTraining c bad0 bad1 own recorded s) := by
  unfold State.endTraining
  conv => zeta
  repeat' first
    | with_reducible assumption | with_reducible apply kept_setF | with_reducible apply kept_modCulvert
    | with_reducible apply kept_failCulvert | with_reducible apply kept_trace | with_reducible apply kept_freeDie
    | with_reducible apply kept_showDegraded | with_reducible apply kept_ite | intro _ _ _ _ | intro _ _ _ | intro _ _
    | dsimp only | split | with_reducible refine Kept.upd ?_

theorem kept_execCulvertBeat {κ : Nat} {z : State} (culv dir seq : Nat) (intact last : Bool) (s : State) (h : Kept κ z s) :
    KeptO κ z (execCulvertBeat culv dir seq intact last s) := by
  unfold execCulvertBeat
  repeat' first
    | with_reducible assumption | with_reducible apply kept_takeBeat | with_reducible apply kept_ite
    | with_reducible apply keptO_ite | with_reducible apply KeptO.next | intro _ _ _ _ | intro _ _ _ | intro _ _
    | dsimp only | split

theorem kept_execCulvertReplayBound {κ : Nat} {z : State} (culv : Nat) (s : State) (h : Kept κ z s) :
    KeptO κ z (execCulvertReplayBound culv s) := by
  unfold execCulvertReplayBound
  conv => zeta
  repeat' first
    | with_reducible assumption | with_reducible apply kept_setF | with_reducible apply kept_bump
    | with_reducible apply kept_modCulvert | with_reducible apply kept_ite | with_reducible apply keptO_ite
    | with_reducible apply KeptO.next | intro _ _ _ _ | intro _ _ _ | intro _ _ | dsimp only | split
    | with_reducible refine Kept.upd ?_

theorem kept_execCulvertRecoveryLimit {κ : Nat} {z : State} (culv : Nat) (s : State) (h : Kept κ z s) :
    KeptO κ z (execCulvertRecoveryLimit culv s) := by
  unfold execCulvertRecoveryLimit
  repeat' first
    | with_reducible assumption | with_reducible apply kept_quiesce | with_reducible apply kept_quarantine
    | with_reducible apply kept_foldl | with_reducible apply kept_ite | with_reducible apply keptO_ite
    | with_reducible apply KeptO.next | intro _ _ _ _ | intro _ _ _ | intro _ _ | dsimp only | split

theorem kept_execRejoin {κ : Nat} {z : State} (culv : Nat) (s : State) (h : Kept κ z s) : KeptO κ z (execRejoin culv s) := by
  unfold execRejoin
  conv => zeta
  repeat' first
    | with_reducible assumption | with_reducible apply kept_trainCulvert | with_reducible apply kept_showDegraded
    | with_reducible apply kept_ite | with_reducible apply keptO_ite | with_reducible apply KeptO.next | intro _ _ _ _
    | intro _ _ _ | intro _ _ | dsimp only | split

/-! ### Export -/

theorem kept_sinkWrite {κ : Nat} {z : State} (p : Nat) (l : List Byte) (s : State) (h : Kept κ z s) :
    Kept κ z (State.sinkWrite p l s) := by
  unfold State.sinkWrite
  conv => zeta
  repeat' first
    | with_reducible assumption | with_reducible apply kept_putPart | with_reducible apply kept_setF
    | with_reducible apply kept_modPort | with_reducible apply kept_foldl | intro _ _ _ _ | intro _ _ _ | intro _ _
    | dsimp only | with_reducible refine Kept.upd ?_

theorem kept_execExportPkt {κ : Nat} {z : State} (port vc : Nat) (s : State) (h : Kept κ z s) :
    KeptO κ z (execExportPkt port vc s) := by
  unfold execExportPkt
  conv => zeta
  repeat' first
    | with_reducible assumption | with_reducible apply kept_laneTake | with_reducible apply kept_bump
    | with_reducible apply kept_dikeFail | with_reducible apply kept_weirHold | with_reducible apply kept_meter
    | with_reducible apply kept_sinkWrite | with_reducible apply kept_ite | with_reducible apply keptO_ite
    | with_reducible apply KeptO.next | intro _ _ _ _ | intro _ _ _ | intro _ _ | dsimp only | split
    | with_reducible refine Kept.upd ?_

theorem kept_setDrain {κ : Nat} {z : State} (p : Nat) (d : Drain) (s : State) (h : Kept κ z s) :
    Kept κ z (State.setDrain p d s) := by
  unfold State.setDrain
  repeat' first
    | with_reducible assumption | intro _ _ _ _ | intro _ _ _ | intro _ _ | dsimp only | with_reducible refine Kept.upd ?_

theorem kept_passRecord {κ : Nat} {z : State} (i p units : Nat) (s : State) (h : Kept κ z s) :
    Kept κ z (State.passRecord i p units s) := by
  unfold State.passRecord
  repeat' first
    | with_reducible assumption | with_reducible apply kept_setF | dsimp only

theorem kept_skipExportPads {κ : Nat} {z : State} (i p n : Nat) (s : State) (h : Kept κ z s) : Kept κ z (State.skipExportPads i p n s) := by
  induction n generalizing s with
  | zero => exact h
  | succ n ih => exact kept_ite h (kept_ite (ih _ (kept_passRecord _ _ _ _ h)) h)

theorem kept_hostWrite {κ : Nat} {z : State} (l : List Byte) (s : State) (h : Kept κ z s) : Kept κ z (State.hostWrite l s) := by
  unfold State.hostWrite
  conv => zeta
  repeat' first
    | with_reducible assumption | with_reducible apply kept_storeIn | with_reducible apply kept_setF
    | with_reducible apply kept_foldl | intro _ _ _ _ | intro _ _ _ | intro _ _ | dsimp only

theorem kept_visitKiln {κ : Nat} {z : State} (p : Nat) (s : State) (h : Kept κ z s) : Kept κ z (State.visitKiln p s) := by
  unfold State.visitKiln
  conv => zeta
  repeat' first
    | with_reducible assumption | with_reducible apply kept_skipExportPads | with_reducible apply kept_setDrain
    | with_reducible apply kept_dikeFail | with_reducible apply kept_weirHold | with_reducible apply kept_meter
    | with_reducible apply kept_hostWrite | with_reducible apply kept_passRecord | with_reducible apply kept_sendLane
    | with_reducible apply kept_ite | dsimp only | split

theorem kept_execExportDrain {κ : Nat} {z : State} (polder : Nat) (s : State) (h : Kept κ z s) :
    KeptO κ z (execExportDrain polder s) := by
  unfold execExportDrain
  conv => zeta
  repeat' first
    | with_reducible assumption | with_reducible apply kept_passRecord | with_reducible apply kept_setDrain
    | with_reducible apply kept_visitKiln | with_reducible apply kept_ite | with_reducible apply keptO_ite
    | with_reducible apply KeptO.next | intro _ _ _ _ | intro _ _ _ | intro _ _ | dsimp only | split
    | with_reducible refine Kept.upd ?_

end Sys2Proof.Laws
end

