-- ==== Sys2Proof/Laws/KeptCollect.lean ====
section
/-! SUPPORT. What is kept (Laws/Kept.lean) by deliveries to kilns, collective operations, DRAM upkeep and the rings: one lemma for each function that answers a state. -/

namespace Sys2Proof.Laws

set_option Elab.async false

open Sys2Proof.Machine

/-! ### Delivery -/

theorem kept_seeTile {κ : Nat} {z : State} (i p layer t : Nat) (l : KLayer) (o : Option (Nat × List Nat)) (s : State)
    (h : Kept κ z s) :
    Kept κ z (State.seeTile i p layer t l o s) := by
  unfold State.seeTile
  conv => zeta
  repeat' first
    | with_reducible assumption | with_reducible apply kept_bump | with_reducible apply kept_setKlayer
    | with_reducible apply kept_modKiln | with_reducible apply kept_ite | intro _ _ _ _ | intro _ _ _ | intro _ _
    | dsimp only | split | with_reducible refine Kept.upd ?_

theorem kept_basinWait {κ : Nat} {z : State} (i : Nat) (s : State) (h : Kept κ z s) : Kept κ z (State.basinWait i s) := by
  unfold State.basinWait
  repeat' first
    | with_reducible assumption | with_reducible apply kept_setF | with_reducible apply kept_bumpFree | dsimp only

theorem kept_setHeld {κ : Nat} {z : State} (i p : Nat) (x : Option (Nat × Nat)) (s : State) (h : Kept κ z s) :
    Kept κ z (State.setHeld i p x s) := by
  unfold State.setHeld
  repeat' first
    | with_reducible assumption | with_reducible apply kept_modKiln | intro _ _ _ _ | intro _ _ _ | intro _ _ | dsimp only
    | with_reducible refine Kept.upd ?_

theorem kept_refuseTile {κ : Nat} {z : State} (i p op layer t idx code : Nat) (again : Bool) (s : State) (h : Kept κ z s) :
    Kept κ z (State.refuseTile i p op layer t idx code again s) := by
  unfold State.refuseTile
  conv => zeta
  repeat' first
    | with_reducible assumption | with_reducible apply kept_bump | with_reducible apply kept_kilnError
    | with_reducible apply kept_modOp | with_reducible apply kept_markFailed | with_reducible apply kept_note
    | with_reducible apply kept_quiesce | with_reducible apply kept_dueRestore | with_reducible apply kept_ite
    | intro _ _ _ _ | intro _ _ _ | intro _ _ | dsimp only | split | with_reducible refine Kept.upd ?_

/-- The same of what an offered tile comes to. -/
def KeptT (κ : Nat) (z : State) : Offer → Prop
  | .taken s _ => Kept κ z s
  | .waits s => Kept κ z s
  | .refused _ s => Kept κ z s
  | .undef _ => True

theorem keptT_ite {κ : Nat} {z : State} {a b : Offer} {c : Prop} [Decidable c] (h : KeptT κ z a) (k : KeptT κ z b) : KeptT κ z (if c then a else b) := by
  split <;> assumption

theorem kept_parkEntry {κ : Nat} {z : State} (i : Nat) (e : Parked) (w : ParkWait) (s s0 : State) (h : Kept κ z s) (h0 : Kept κ z s0) :
    KeptT κ z (State.parkEntry i e w s s0) := by
  unfold State.parkEntry
  refine keptT_ite (kept_basinWait _ _ h0) ?_
  dsimp only
  have h1 := kept_bump _ (Reg.KLN_CNT_PARKED_COUNT i) 1 (kept_modKiln i (fun k => { k with parked := k.parked ++ [{ e with wait := w }] }) _ (kept_notePark i e w s h))
  split
  · exact h0
  · refine kept_ite (kept_kilnWork _ _ _ (kept_openBlock _ _ _ (kept_modOp _ _ _ _ _ ?_))) (kept_modOp _ _ _ _ _ ?_)
    all_goals exact kept_ite (kept_foldl h1 fun s a hs => kept_issueFetch _ _ _ _ _ _ _ hs) h1

theorem kept_takeGradient {κ : Nat} {z : State} (i p op layer t : Nat) (c : ColTile) (s : State) (h : Kept κ z s) :
    KeptT κ z (State.takeGradient i p op layer t c s) := by
  unfold State.takeGradient
  refine keptT_ite trivial ?_
  have hs (l : KLayer) (o : Option (Nat × List Nat)) (n : Nat) : Kept κ z ({ s.seeTile i p layer t l o with serial := n } : State) :=
    Kept.upd (kept_seeTile i p layer t l o s h)
  refine keptT_ite (kept_parkEntry _ _ _ _ _ (hs _ _ _) h) (keptT_ite (kept_parkEntry _ _ _ _ _ (hs _ _ _) h) ?_)
  split
  · next e => have k := kept_attempt_to (hs _ _ _) e; exact kept_endLayer _ _ (kept_reportTile _ _ _ _ _ _ _ _ _ _ _ _ k)
  · next e => have k := kept_attempt_to (hs _ _ _) e; exact kept_parkEntry _ _ _ _ _ k h
  · next e => have k := kept_attempt_to (hs _ _ _) e; exact kept_basinWait _ _ ⟨h.1, k.2, h.3, h.4, h.5, h.6, h.7, h.8⟩
  · next e => have k := kept_attempt_to (hs _ _ _) e; exact k

theorem kept_offerTile {κ : Nat} {z : State} (i p op step layer t : Nat) (c : ColTile) (s : State) (h : Kept κ z s) :
    KeptT κ z (State.offerTile i p op step layer t c s) := by
  unfold State.offerTile
  have h1 := kept_bump _ (Reg.KLN_CNT_STALE_COUNT i) 1 h
  exact keptT_ite (a := .waits _) h (keptT_ite (a := .refused _ _) h (keptT_ite (a := .refused _ _) h (keptT_ite (a := .refused _ _) h
    (keptT_ite (a := .taken _ _) h1 (keptT_ite (keptT_ite (a := .waits _) (b := .refused _ _) (kept_basinWait _ _ h) h)
      (kept_takeGradient _ _ _ _ _ _ _ h))))))


theorem kept_execDelivery {κ : Nat} {z : State} (ce polder op index : Nat) (s : State) (h : Kept κ z s) : KeptO κ z (execDelivery ce polder op index s) := by
  unfold execDelivery
  split
  · exact h
  · split
    · next o _ _ _ c e n _ _ =>
      have ho := kept_offerTile (8 * ce + e.kiln) polder op o.step e.layer (e.ltile + n) c _ (kept_weirSpend (8 * ce + e.kiln) polder 1 8 s h)
      dsimp only
      revert ho
      generalize State.offerTile (8 * ce + e.kiln) polder op o.step e.layer (e.ltile + n) c _ = x
      intro ho
      refine keptO_ite h (keptO_ite (kept_setHeld _ _ _ _ (kept_weirWait _ _ _ h)) ?_)
      cases x with
      | undef c => trivial
      | waits t => exact kept_setHeld _ _ _ { t with weirs := s.weirs } (Kept.upd ho)
      | refused c t => exact kept_refuseTile _ _ _ _ _ _ _ _ _ (kept_setHeld _ _ _ _ ho)
      | taken t b => exact kept_advanceOp _ _ _ _ (kept_bump _ _ _ (kept_modOp _ _ _ _ _ (kept_setHeld _ _ _ _ ho)))
    · exact h

theorem kept_laneReply {κ : Nat} {z : State} (p v : Nat) (q : LanePkt) (ptype dst aux : Nat) (isSealed : Bool) (pl : List Byte) (s : State)
    (h : Kept κ z s) :
    Kept κ z (State.laneReply p v q ptype dst aux isSealed pl s) := by
  unfold State.laneReply
  repeat' first
    | with_reducible assumption | with_reducible apply kept_sendLane | dsimp only

theorem kept_serveFetch {κ : Nat} {z : State} (p v : Nat) (q : LanePkt) (s : State) (h : Kept κ z s) :
    Kept κ z (State.serveFetch p v q s) := by
  unfold State.serveFetch
  conv => zeta
  repeat' first
    | with_reducible assumption | with_reducible apply kept_laneTake | with_reducible apply kept_colRefuse
    | with_reducible apply kept_laneReply | with_reducible apply kept_weirHold | with_reducible apply kept_meter
    | with_reducible apply kept_foldl | with_reducible apply kept_ite | intro _ _ _ _ | intro _ _ _ | intro _ _
    | dsimp only | split

theorem kept_serveWb {κ : Nat} {z : State} (p v : Nat) (q : LanePkt) (s : State) (h : Kept κ z s) :
    Kept κ z (State.serveWb p v q s) := by
  unfold State.serveWb
  conv => zeta
  repeat' first
    | with_reducible assumption | with_reducible apply kept_laneTake | with_reducible apply kept_colRefuse
    | with_reducible apply kept_laneReply | with_reducible apply kept_weirHold | with_reducible apply kept_meter
    | with_reducible apply kept_putTile | with_reducible apply kept_ite | dsimp only | split

theorem kept_fetched {κ : Nat} {z : State} (f : KFetch) (status : Nat) (t : Tile) (s : State) (h : Kept κ z s) :
    Kept κ z (State.fetched f status t s) := by
  unfold State.fetched
  conv => zeta
  repeat' first
    | with_reducible assumption | with_reducible apply kept_fetchFailed | with_reducible apply kept_setParked
    | with_reducible apply kept_kilnWork | with_reducible apply kept_ite | intro _ _ _ _ | intro _ _ _ | intro _ _
    | dsimp only | split | with_reducible refine Kept.upd ?_

theorem kept_wroteBack {κ : Nat} {z : State} (f : KFetch) (status : Nat) (s : State) (h : Kept κ z s) :
    Kept κ z (State.wroteBack f status s) := by
  unfold State.wroteBack
  conv => zeta
  repeat' first
    | with_reducible assumption | with_reducible apply kept_fetchFailed | with_reducible apply kept_unpark
    | with_reducible apply kept_kilnWork | with_reducible apply kept_setParked | with_reducible apply kept_ite
    | intro _ _ _ _ | intro _ _ _ | intro _ _ | dsimp only | split | with_reducible refine Kept.upd ?_

theorem kept_execFetchReq {κ : Nat} {z : State} (port vc : Nat) (s : State) (h : Kept κ z s) :
    KeptO κ z (execFetchReq port vc s) := by
  unfold execFetchReq
  repeat' first
    | with_reducible assumption | with_reducible apply kept_serveFetch | with_reducible apply KeptO.next | intro _ _ _ _
    | intro _ _ _ | intro _ _ | dsimp only | split | with_reducible refine Kept.upd ?_

theorem kept_execFetchData {κ : Nat} {z : State} (src : FetchFrom) (s : State) (h : Kept κ z s) :
    KeptO κ z (execFetchData src s) := by
  unfold execFetchData
  conv => zeta
  repeat' first
    | with_reducible assumption | with_reducible apply kept_laneTake | with_reducible apply kept_fetched
    | with_reducible apply KeptO.next | intro _ _ _ _ | intro _ _ _ | intro _ _ | dsimp only | split
    | with_reducible refine Kept.upd ?_

theorem kept_execFetchTimeout {κ : Nat} {z : State} (id : Nat) (s : State) (h : Kept κ z s) :
    KeptO κ z (execFetchTimeout id s) := by
  unfold execFetchTimeout
  repeat' first
    | with_reducible assumption | with_reducible apply kept_fetchFailed | with_reducible apply KeptO.next | intro _ _ _ _
    | intro _ _ _ | intro _ _ | dsimp only | split | with_reducible refine Kept.upd ?_

theorem kept_execWbData {κ : Nat} {z : State} (port vc : Nat) (s : State) (h : Kept κ z s) : KeptO κ z (execWbData port vc s) := by
  unfold execWbData
  repeat' first
    | with_reducible assumption | with_reducible apply kept_serveWb | with_reducible apply KeptO.next | intro _ _ _ _
    | intro _ _ _ | intro _ _ | dsimp only | split | with_reducible refine Kept.upd ?_

theorem kept_execWbAck {κ : Nat} {z : State} (src : FetchFrom) (s : State) (h : Kept κ z s) : KeptO κ z (execWbAck src s) := by
  unfold execWbAck
  conv => zeta
  repeat' first
    | with_reducible assumption | with_reducible apply kept_laneTake | with_reducible apply kept_wroteBack
    | with_reducible apply kept_putFar | with_reducible apply KeptO.next | intro _ _ _ _ | intro _ _ _ | intro _ _
    | dsimp only | split | with_reducible refine Kept.upd ?_

theorem kept_useWork {κ : Nat} {z : State} (i p : Nat) (s : State) (h : Kept κ z s) : Kept κ z (State.useWork i p s) := by
  unfold State.useWork
  conv => zeta
  repeat' first
    | with_reducible assumption | with_reducible apply kept_kilnPut | with_reducible apply kept_useFree
    | with_reducible apply kept_foldl | intro _ _ _ _ | intro _ _ _ | intro _ _ | dsimp only

theorem kept_execRootComputation {κ : Nat} {z : State} (kiln layer block : Nat) (s : State) (h : Kept κ z s) :
    KeptO κ z (execRootComputation kiln layer block s) := by
  unfold execRootComputation
  conv => zeta
  repeat' first
    | with_reducible assumption | with_reducible apply kept_bump | with_reducible apply kept_useWork
    | with_reducible apply kept_rootFailed | with_reducible apply kept_modKiln | with_reducible apply kept_ite
    | with_reducible apply keptO_ite | with_reducible apply KeptO.next | intro _ _ _ _ | intro _ _ _ | intro _ _
    | dsimp only | split | with_reducible refine Kept.upd ?_

theorem kept_execTblLoad {κ : Nat} {z : State} (s : State) (h : Kept κ z s) : KeptO κ z (execTblLoad s) := by
  have he (e t : Nat) : Kept κ z ((s.setF Reg.KLN_TBL_CTL_ERR e).setF Reg.KLN_TBL_CTL_ERR_TABLE t) := kept_setF _ _ _ (kept_setF _ _ _ h)
  unfold execTblLoad
  dsimp only
  refine keptO_ite (he _ _) ?_
  generalize [Region.unmapped, Region.control].contains (region (s.getF Reg.KLN_TBL_BASE_ADDR)) = b
  generalize (List.range 64).find? _ = x
  refine keptO_ite (he _ _) ?_
  cases x with
  | none => exact Kept.upd (kept_setF _ _ _ (he _ _))
  | some k => exact he _ _

/-! ### Col -/

theorem kept_colCombine {κ : Nat} {z : State} (p : Nat) (post : Option FV) (ts : List ColTile) (s : State) (h : Kept κ z s) :
    Kept κ z (State.colCombine p post ts s).2 := by
  unfold State.colCombine
  conv => zeta
  repeat' first
    | with_reducible assumption | with_reducible apply kept_useFree | with_reducible apply kept_applyTel
    | with_reducible apply kept_ite | dsimp only | split

theorem kept_colCombine_eq {κ : Nat} {z t' : State} {x'} {p : Nat} {post : Option FV} {ts : List ColTile} {s : State}
    (h : Kept κ z s) (e' : State.colCombine p post ts s = (x', t')) :
    Kept κ z t' := by
  have k := kept_colCombine p post ts s h
  rw [e'] at k
  exact k

theorem kept_finishTile {κ : Nat} {z : State} (j p n t : Nat) (c : ColTile) (s : State) (h : Kept κ z s) :
    Kept κ z (State.finishTile j p n t c s) := by
  unfold State.finishTile
  conv => zeta
  repeat' first
    | with_reducible assumption | with_reducible apply kept_setOp | with_reducible apply kept_colSend
    | with_reducible apply kept_foldl | with_reducible apply kept_ite | intro _ _ _ _ | intro _ _ _ | intro _ _
    | dsimp only | split | with_reducible refine Kept.upd ?_

theorem kept_passPart {κ : Nat} {z : State} (j p n t hops : Nat) (c : ColTile) (s : State) (h : Kept κ z s) :
    Kept κ z (State.passPart j p n t hops c s) := by
  unfold State.passPart
  conv => zeta
  repeat' first
    | with_reducible assumption | with_reducible apply kept_setOp | with_reducible apply kept_colSend
    | with_reducible apply kept_advanceOp | with_reducible apply kept_ite | intro _ _ _ _ | intro _ _ _ | intro _ _
    | dsimp only | split | with_reducible refine Kept.upd ?_

theorem kept_addContrib {κ : Nat} {z : State} (j p n t : Nat) (c : ColTile) (s : State) (h : Kept κ z s) :
    Kept κ z (State.addContrib j p n t c s) := by
  unfold State.addContrib
  conv => zeta
  repeat' first
    | with_reducible assumption | with_reducible apply kept_modOp | with_reducible apply kept_colCombine
    | with_reducible apply kept_finishTile | with_reducible apply kept_passPart | with_reducible apply kept_ite
    | with_reducible refine kept_colCombine_eq ?_ ‹_› | intro _ _ _ _ | intro _ _ _ | intro _ _ | dsimp only | split
    | with_reducible refine Kept.upd ?_

theorem kept_pullTile {κ : Nat} {z : State} (j p n k : Nat) (o : ColOp) (e : PullEntry) (s : State) (h : Kept κ z s) :
    Kept κ z (State.pullTile j p n k o e s) := by
  unfold State.pullTile
  conv => zeta
  repeat' first
    | with_reducible assumption | with_reducible apply kept_failOp | with_reducible apply kept_modOp
    | with_reducible apply kept_bump | with_reducible apply kept_addContrib | with_reducible apply kept_ite
    | intro _ _ _ _ | intro _ _ _ | intro _ _ | dsimp only | split | with_reducible refine Kept.upd ?_

theorem kept_colDrop {κ : Nat} {z : State} (p v : Nat) (stale : Bool) (s : State) (h : Kept κ z s) :
    Kept κ z (State.colDrop p v stale s) := by
  unfold State.colDrop
  conv => zeta
  repeat' first
    | with_reducible assumption | with_reducible apply kept_laneTake | with_reducible apply kept_bump
    | with_reducible apply kept_ite | dsimp only | split

theorem kept_takePartial {κ : Nat} {z : State} (port v n t hops : Nat) (o : ColOp) (c x : ColTile) (s : State)
    (h : Kept κ z s) :
    Kept κ z (State.takePartial port v n t hops o c x s) := by
  unfold State.takePartial
  conv => zeta
  repeat' first
    | with_reducible assumption | with_reducible apply kept_laneTake | with_reducible apply kept_failOp
    | with_reducible apply kept_colCombine | with_reducible apply kept_modOp | with_reducible apply kept_finishTile
    | with_reducible apply kept_passPart | with_reducible apply kept_ite
    | with_reducible refine kept_colCombine_eq ?_ ‹_› | intro _ _ _ _ | intro _ _ _ | intro _ _ | dsimp only | split
    | with_reducible refine Kept.upd ?_

theorem kept_decideDigest {κ : Nat} {z : State} (j p n step : Nat) (s : State) (h : Kept κ z s) :
    Kept κ z (State.decideDigest j p n step s) := by
  unfold State.decideDigest
  conv => zeta
  repeat' first
    | with_reducible assumption | with_reducible apply kept_clearSubs | with_reducible apply kept_bump
    | with_reducible apply kept_modOp | with_reducible apply kept_note | with_reducible apply kept_setF
    | with_reducible apply kept_foldl | with_reducible apply kept_ite | intro _ _ _ _ | intro _ _ _ | intro _ _
    | dsimp only | split | with_reducible refine Kept.upd ?_

theorem kept_takeDigest {κ : Nat} {z : State} (j p n : Nat) (r : DigestRec) (s : State) (h : Kept κ z s) :
    Kept κ z (State.takeDigest j p n r s) := by
  unfold State.takeDigest
  conv => zeta
  repeat' first
    | with_reducible assumption | with_reducible apply kept_modOp | with_reducible apply kept_colSend
    | with_reducible apply kept_decideDigest | with_reducible apply kept_ite | intro _ _ _ _ | intro _ _ _ | intro _ _
    | dsimp only | split | with_reducible refine Kept.upd ?_

theorem kept_ownDigest {κ : Nat} {z : State} (j p n : Nat) (s : State) (h : Kept κ z s) : Kept κ z (State.ownDigest j p n s) := by
  unfold State.ownDigest
  conv => zeta
  repeat' first
    | with_reducible assumption | with_reducible apply kept_modOp | with_reducible apply kept_takeDigest
    | with_reducible apply kept_ite | intro _ _ _ _ | intro _ _ _ | intro _ _ | dsimp only | split
    | with_reducible refine Kept.upd ?_

theorem kept_serviceHold {κ : Nat} {z : State} (j p a : Nat) (s : State) (h : Kept κ z s) :
    Kept κ z (State.serviceHold j p a s) := by
  unfold State.serviceHold
  repeat' first
    | with_reducible assumption | with_reducible apply kept_weirHold | with_reducible apply kept_ite | dsimp only | split

theorem kept_colPut {κ : Nat} {z : State} (p a : Nat) (t : Tile) (s : State) (h : Kept κ z s) :
    Kept κ z (State.colPut p a t s) := by
  unfold State.colPut
  repeat' first
    | with_reducible assumption | with_reducible apply kept_meter | with_reducible apply kept_putTile | dsimp only

theorem kept_repaired {κ : Nat} {z : State} (p a : Nat) (s : State) (h : Kept κ z s) : Kept κ z (State.repaired p a s) := by
  unfold State.repaired
  conv => zeta
  repeat' first
    | with_reducible assumption | with_reducible apply kept_mend | with_reducible apply kept_foldl | intro _ _ _ _
    | intro _ _ _ | intro _ _ | dsimp only | with_reducible refine Kept.power ?_ (SameSupplies.of _)
    | with_reducible refine Kept.upd ?_

theorem kept_gatherTile {κ : Nat} {z : State} (j p n t : Nat) (o : ColOp) (c : ColTile) (s : State) (h : Kept κ z s) :
    Kept κ z (State.gatherTile j p n t o c s) := by
  unfold State.gatherTile
  conv => zeta
  repeat' first
    | with_reducible assumption | with_reducible apply kept_failOp | with_reducible apply kept_colRefuse
    | with_reducible apply kept_colPut | with_reducible apply kept_modOp | with_reducible apply kept_colSend
    | with_reducible apply kept_advanceOp | with_reducible apply kept_foldl | with_reducible apply kept_ite
    | intro _ _ _ _ | intro _ _ _ | intro _ _ | dsimp only | split | with_reducible refine Kept.upd ?_

theorem kept_sendPerm {κ : Nat} {z : State} (j p n : Nat) (s : State) (h : Kept κ z s) : Kept κ z (State.sendPerm j p n s) := by
  unfold State.sendPerm
  conv => zeta
  repeat' first
    | with_reducible assumption | with_reducible apply kept_colRefuse | with_reducible apply kept_failOp
    | with_reducible apply kept_serviceHold | with_reducible apply kept_meter | with_reducible apply kept_modOp
    | with_reducible apply kept_colSend | with_reducible apply kept_colOut | with_reducible apply kept_ite
    | intro _ _ _ _ | intro _ _ _ | intro _ _ | dsimp only | split | with_reducible refine Kept.upd ?_

theorem kept_takePerm {κ : Nat} {z : State} (port v : Nat) (q : LanePkt) (o : ColOp) (s : State) (h : Kept κ z s) :
    Kept κ z (State.takePerm port v q o s) := by
  unfold State.takePerm
  conv => zeta
  repeat' first
    | with_reducible assumption | with_reducible apply kept_laneTake | with_reducible apply kept_colSend
    | with_reducible apply kept_colRefuse | with_reducible apply kept_failOp | with_reducible apply kept_serviceHold
    | with_reducible apply kept_colPut | with_reducible apply kept_modOp | with_reducible apply kept_laneReply
    | with_reducible apply kept_bump | with_reducible apply kept_repaired | with_reducible apply kept_ite
    | intro _ _ _ _ | intro _ _ _ | intro _ _ | dsimp only | split | with_reducible refine Kept.upd ?_

theorem kept_execContributionPull {κ : Nat} {z : State} (ce polder op entry : Nat) (s : State) (h : Kept κ z s) :
    KeptO κ z (execContributionPull ce polder op entry s) := by
  unfold execContributionPull
  conv => zeta
  repeat' first
    | with_reducible assumption | with_reducible apply kept_failOp | with_reducible apply kept_bumpFree
    | with_reducible apply kept_pullTile | with_reducible apply kept_ite | with_reducible apply keptO_ite
    | with_reducible apply KeptO.next | intro _ _ _ _ | intro _ _ _ | intro _ _ | dsimp only | split
    | with_reducible refine Kept.upd ?_

theorem kept_execRedPart {κ : Nat} {z : State} (port vc : Nat) (s : State) (h : Kept κ z s) :
    KeptO κ z (execRedPart port vc s) := by
  unfold execRedPart
  conv => zeta
  repeat' first
    | with_reducible assumption | with_reducible apply kept_colDrop | with_reducible apply kept_takePartial
    | with_reducible apply kept_ite | with_reducible apply keptO_ite | with_reducible apply KeptO.next | intro _ _ _ _
    | intro _ _ _ | intro _ _ | dsimp only | split | with_reducible refine Kept.upd ?_

theorem kept_execRedResult {κ : Nat} {z : State} (port vc : Nat) (s : State) (h : Kept κ z s) :
    KeptO κ z (execRedResult port vc s) := by
  unfold execRedResult
  conv => zeta
  repeat' first
    | with_reducible assumption | with_reducible apply kept_colDrop | with_reducible apply kept_laneTake
    | with_reducible apply kept_modOp | with_reducible apply kept_colSend | with_reducible apply kept_foldl
    | with_reducible apply kept_ite | with_reducible apply keptO_ite | with_reducible apply KeptO.next | intro _ _ _ _
    | intro _ _ _ | intro _ _ | dsimp only | split | with_reducible refine Kept.upd ?_

theorem kept_execDigestRec {κ : Nat} {z : State} (src : ColFrom) (s : State) (h : Kept κ z s) :
    KeptO κ z (execDigestRec src s) := by
  unfold execDigestRec
  conv => zeta
  repeat' first
    | with_reducible assumption | with_reducible apply kept_ownDigest | with_reducible apply kept_colDrop
    | with_reducible apply kept_laneTake | with_reducible apply kept_takeDigest | with_reducible apply kept_ite
    | with_reducible apply keptO_ite | with_reducible apply KeptO.next | intro _ _ _ _ | intro _ _ _ | intro _ _
    | dsimp only | split | with_reducible refine Kept.upd ?_

theorem kept_execGatherData {κ : Nat} {z : State} (src : ColFrom) (s : State) (h : Kept κ z s) :
    KeptO κ z (execGatherData src s) := by
  unfold execGatherData
  conv => zeta
  repeat' first
    | with_reducible assumption | with_reducible apply kept_colRefuse | with_reducible apply kept_failOp
    | with_reducible apply kept_serviceHold | with_reducible apply kept_meter | with_reducible apply kept_gatherTile
    | with_reducible apply kept_colDrop | with_reducible apply kept_laneTake | with_reducible apply kept_ite
    | with_reducible apply keptO_ite | with_reducible apply KeptO.next | intro _ _ _ _ | intro _ _ _ | intro _ _
    | dsimp only | split | with_reducible refine Kept.upd ?_

theorem kept_execPermData {κ : Nat} {z : State} (src : ColFrom) (s : State) (h : Kept κ z s) : KeptO κ z (execPermData src s) := by
  unfold execPermData
  repeat' first
    | with_reducible assumption | with_reducible apply kept_sendPerm | with_reducible apply kept_colDrop
    | with_reducible apply kept_takePerm | with_reducible apply kept_ite | with_reducible apply keptO_ite
    | with_reducible apply KeptO.next | intro _ _ _ _ | intro _ _ _ | intro _ _ | dsimp only | split
    | with_reducible refine Kept.upd ?_

theorem kept_execPermAck {κ : Nat} {z : State} (port vc : Nat) (s : State) (h : Kept κ z s) :
    KeptO κ z (execPermAck port vc s) := by
  unfold execPermAck
  repeat' first
    | with_reducible assumption | with_reducible apply kept_laneTake | with_reducible apply kept_modOp
    | with_reducible apply KeptO.next | intro _ _ _ _ | intro _ _ _ | intro _ _ | dsimp only | split
    | with_reducible refine Kept.upd ?_

/-! ### Dram -/

theorem kept_showWiping {κ : Nat} {z : State} (s : State) (h : Kept κ z s) : Kept κ z (State.showWiping s) := by
  unfold State.showWiping
  repeat' first
    | with_reducible assumption | with_reducible apply kept_setF | with_reducible apply kept_foldl | intro _ _ _ _
    | intro _ _ _ | intro _ _ | dsimp only

theorem kept_startWipe {κ : Nat} {z : State} (cs : List Nat) (s : State) (h : Kept κ z s) : Kept κ z (State.startWipe cs s) := by
  unfold State.startWipe
  repeat' first
    | with_reducible assumption | with_reducible apply kept_showWiping | intro _ _ _ _ | intro _ _ _ | intro _ _
    | dsimp only | with_reducible refine Kept.upd ?_

theorem kept_endWipe {κ : Nat} {z : State} (cs : List Nat) (s : State) (h : Kept κ z s) : Kept κ z (State.endWipe cs s) := by
  unfold State.endWipe
  conv => zeta
  repeat' first
    | with_reducible assumption | with_reducible apply kept_wipeChan | with_reducible apply kept_showWiping
    | with_reducible apply kept_foldl | intro _ _ _ _ | intro _ _ _ | intro _ _ | dsimp only
    | with_reducible refine Kept.upd ?_

theorem kept_wipePolder {κ : Nat} {z : State} (p : Nat) (s : State) (h : Kept κ z s) : Kept κ z (State.wipePolder p s) := by
  unfold State.wipePolder
  repeat' first
    | with_reducible assumption | with_reducible apply kept_setF | with_reducible apply kept_startWipe
    | with_reducible apply kept_ite | dsimp only | split

theorem kept_wipeRepair {κ : Nat} {z : State} (st e : Nat) (s : State) (h : Kept κ z s) : Kept κ z (State.wipeRepair st e s) := by
  unfold State.wipeRepair
  conv => zeta
  repeat' first
    | with_reducible assumption | with_reducible apply kept_wipeChan | with_reducible apply kept_wipeDram
    | with_reducible apply kept_ite | dsimp only | split

theorem kept_moveVolt {κ : Nat} {z : State} (st : Nat) (v : Int) (s : State) (h : Kept κ z s) :
    Kept κ z (State.moveVolt st v s) := by
  unfold State.moveVolt
  conv => zeta
  repeat' first
    | with_reducible assumption | with_reducible apply kept_setF | intro _ _ _ _ | intro _ _ _ | intro _ _ | dsimp only
    | with_reducible refine Kept.upd ?_

theorem kept_execWeirRefill {κ : Nat} {z : State} (s : State) (h : Kept κ z s) : KeptO κ z (execWeirRefill s) := by
  unfold execWeirRefill
  repeat' first
    | with_reducible assumption | with_reducible apply kept_weirRefill | with_reducible apply KeptO.next | intro _ _ _ _
    | intro _ _ _ | intro _ _ | dsimp only

theorem kept_execApplyRepair {κ : Nat} {z : State} (stack : Nat) (s : State) (h : Kept κ z s) :
    KeptO κ z (execApplyRepair stack s) := by
  unfold execApplyRepair
  conv => zeta
  repeat' first
    | with_reducible assumption | with_reducible apply kept_setF | with_reducible apply kept_bump
    | with_reducible apply kept_wipeRepair | with_reducible apply kept_ite | with_reducible apply keptO_ite
    | with_reducible apply KeptO.next | intro _ _ _ _ | intro _ _ _ | intro _ _ | dsimp only | split
    | with_reducible refine Kept.upd ?_

theorem kept_execMarginStart {κ : Nat} {z : State} (stack : Nat) (s : State) (h : Kept κ z s) :
    KeptO κ z (execMarginStart stack s) := by
  unfold execMarginStart
  conv => zeta
  repeat' first
    | with_reducible assumption | with_reducible apply kept_setF | with_reducible apply kept_moveVolt
    | with_reducible apply kept_ite | with_reducible apply keptO_ite | with_reducible apply KeptO.next | intro _ _ _ _
    | intro _ _ _ | intro _ _ | dsimp only | split | with_reducible refine Kept.upd ?_

theorem kept_execMarginDone {κ : Nat} {z : State} (stack errors : Nat) (s : State) (h : Kept κ z s) :
    KeptO κ z (execMarginDone stack errors s) := by
  unfold execMarginDone
  conv => zeta
  repeat' first
    | with_reducible assumption | with_reducible apply kept_setF | with_reducible apply kept_moveVolt
    | with_reducible apply kept_startWipe | with_reducible apply kept_ite | with_reducible apply keptO_ite
    | with_reducible apply KeptO.next | intro _ _ _ _ | intro _ _ _ | intro _ _ | dsimp only | split
    | with_reducible refine Kept.upd ?_

theorem kept_execWipe {κ : Nat} {z : State} (polders : Nat) (s : State) (h : Kept κ z s) : KeptO κ z (execWipe polders s) := by
  unfold execWipe
  repeat' first
    | with_reducible assumption | with_reducible apply kept_wipePolder | with_reducible apply kept_foldl
    | with_reducible apply KeptO.next | intro _ _ _ _ | intro _ _ _ | intro _ _ | dsimp only

theorem kept_execWipeDone {κ : Nat} {z : State} (chans : List Nat) (s : State) (h : Kept κ z s) :
    KeptO κ z (execWipeDone chans s) := by
  unfold execWipeDone
  repeat' first
    | with_reducible assumption | with_reducible apply kept_endWipe | with_reducible apply KeptO.next | intro _ _ _ _
    | intro _ _ _ | intro _ _ | dsimp only

/-! ### JobRing -/

theorem kept_storeSpan {κ : Nat} {z : State} (s : State) (a : Nat) (l : List Byte) (h : Kept κ z s) :
    Kept κ z (State.storeSpan s a l) := by
  unfold State.storeSpan
  conv => zeta
  repeat' first
    | with_reducible assumption | with_reducible apply kept_store | with_reducible apply kept_foldl
    | with_reducible apply kept_ite | intro _ _ _ _ | intro _ _ _ | intro _ _ | dsimp only | split

theorem kept_putCq {κ : Nat} {z : State} (s : State) (l : List Byte) (h : Kept κ z s) : Kept κ z (State.putCq s l) := by
  unfold State.putCq
  conv => zeta
  repeat' first
    | with_reducible assumption | with_reducible apply kept_storeIn | with_reducible apply kept_setF | dsimp only

theorem kept_flushCq {κ : Nat} {z : State} (n : Nat) (s : State) (h : Kept κ z s) : Kept κ z (State.flushCq n s) := by
  induction n generalizing s with
  | zero => exact h
  | succ n ih =>
    unfold State.flushCq
    split
    · exact h
    · next l v t _ =>
      refine kept_ite (ih _ ?_) h
      have hp : Kept κ z ({ s with owedCq := t }.putCq l) := kept_putCq _ _ (Kept.upd h)
      cases v with
      | none => exact hp
      | some v => exact kept_send _ _ hp

theorem kept_complete {κ : Nat} {z : State} (s : State) (token kind polder status detail idx len : Nat) (vector : Option Nat)
    (h : Kept κ z s) :
    Kept κ z (State.complete s token kind polder status detail idx len vector) := by
  unfold State.complete
  conv => zeta
  repeat' first
    | with_reducible assumption | with_reducible apply kept_bump | with_reducible apply kept_trace
    | with_reducible apply kept_flushCq | with_reducible apply kept_ite | dsimp only | split
    | with_reducible refine Kept.upd ?_

theorem kept_completeDesc {κ : Nat} {z : State} (s : State) (d : List Byte) (idx status detail len : Nat) (h : Kept κ z s) :
    Kept κ z (State.completeDesc s d idx status detail len) := by
  unfold State.completeDesc
  repeat' first
    | with_reducible assumption | with_reducible apply kept_complete | with_reducible apply kept_ite | dsimp only | split

theorem kept_setTaken {κ : Nat} {z : State} (p : Nat) (t : Option Taken) (s : State) (h : Kept κ z s) :
    Kept κ z (State.setTaken p t s) := by
  unfold State.setTaken
  repeat' first
    | with_reducible assumption | intro _ _ _ _ | intro _ _ _ | intro _ _ | dsimp only | with_reducible refine Kept.upd ?_

theorem kept_finish {κ : Nat} {z : State} (p : Nat) (t : Taken) (status detail len : Nat) (s : State) (h : Kept κ z s) :
    Kept κ z (State.finish p t status detail len s) := by
  unfold State.finish
  conv => zeta
  repeat' first
    | with_reducible assumption | with_reducible apply kept_setTaken | with_reducible apply kept_completeDesc
    | intro _ _ _ _ | intro _ _ _ | intro _ _ | dsimp only | split | with_reducible refine Kept.upd ?_

theorem kept_setHead {κ : Nat} {z : State} (n : Nat) (s : State) (h : Kept κ z s) : Kept κ z (State.setHead n s) := by
  unfold State.setHead
  repeat' first
    | with_reducible assumption | with_reducible apply kept_setF | with_reducible apply kept_store | dsimp only

theorem kept_takeDesc {κ : Nat} {z : State} (s : State) (h : Kept κ z s) : Kept κ z (State.takeDesc s) := by
  unfold State.takeDesc
  conv => zeta
  repeat' first
    | with_reducible assumption | with_reducible apply kept_setHead | with_reducible apply kept_setTaken
    | with_reducible apply kept_completeDesc | with_reducible apply kept_ite | dsimp only | split
    | with_reducible refine Kept.upd ?_

theorem kept_sampleSq {κ : Nat} {z : State} (s : State) (h : Kept κ z s) : Kept κ z (State.sampleSq s) := by
  unfold State.sampleSq
  conv => zeta
  repeat' first
    | with_reducible assumption | with_reducible apply kept_flushCq | with_reducible apply kept_bump
    | with_reducible apply kept_setF | with_reducible apply kept_takeDesc | with_reducible apply kept_foldl
    | intro _ _ _ _ | intro _ _ _ | intro _ _ | dsimp only | with_reducible refine Kept.upd ?_

theorem kept_execSqSample {κ : Nat} {z : State} (s : State) (h : Kept κ z s) : KeptO κ z (execSqSample s) := by
  unfold execSqSample
  repeat' first
    | with_reducible assumption | with_reducible apply kept_sampleSq | with_reducible apply kept_ite
    | with_reducible apply keptO_ite | with_reducible apply KeptO.next | intro _ _ _ _ | intro _ _ _ | intro _ _
    | dsimp only | split

end Sys2Proof.Laws
end

