-- ==== Sys2Proof/Laws/KeptStart.lean ====
section
/-! SUPPORT. What is kept (Laws/Kept.lean) by the registry, the loader, resets and starts: one lemma for each function that answers a state. -/

namespace Sys2Proof.Laws

set_option Elab.async false

open Sys2Proof.Machine

/-! ### Registry -/

theorem kept_wipeSaggar {κ : Nat} {z : State} (n : Nat) (s : State) (h : Kept κ z s) : Kept κ z (State.wipeSaggar n s) := by
  unfold State.wipeSaggar
  repeat' first
    | with_reducible assumption | with_reducible apply kept_wipeDram | with_reducible apply kept_foldl | intro _ _ _ _
    | intro _ _ _ | intro _ _ | dsimp only

theorem kept_addSaggar {κ : Nat} {z : State} (polder source entry stks chans off tiles : Nat) (s : State) (h : Kept κ z s) :
    KeptS κ z (State.addSaggar polder source entry stks chans off tiles s) :=
  KeptS.map fun _ => kept_setF _ _ _ (kept_setF _ _ _ (kept_setF _ _ _ (kept_setF _ _ _ (kept_setF _ _ _ (kept_setF _ _ _ (kept_setF _ _ _
    (kept_setF _ _ _ h)))))))

theorem kept_addSaggar_eq {κ : Nat} {z t' : State} {polder source entry stks chans off tiles : Nat} {s : State}
    (h : Kept κ z s) (e' : State.addSaggar polder source entry stks chans off tiles s = some t') :
    Kept κ z t' := kept_addSaggar polder source entry stks chans off tiles s h t' e'

theorem kept_dropSaggar {κ : Nat} {z : State} (n : Nat) (s : State) (h : Kept κ z s) : Kept κ z (State.dropSaggar n s) := by
  unfold State.dropSaggar
  conv => zeta
  repeat' first
    | with_reducible assumption | with_reducible apply kept_wipeSaggar | with_reducible apply kept_foldl | intro _ _ _ _
    | intro _ _ _ | intro _ _ | dsimp only | with_reducible refine Kept.upd ?_

theorem kept_putEntry {κ : Nat} {z : State} (n off : Nat) (l : List Byte) (s : State) (h : Kept κ z s) :
    Kept κ z (State.putEntry n off l s) := by
  unfold State.putEntry
  repeat' first
    | with_reducible assumption | with_reducible apply kept_store | dsimp only

theorem kept_showUsed {κ : Nat} {z : State} (p : Nat) (s : State) (h : Kept κ z s) : Kept κ z (State.showUsed p s) := by
  unfold State.showUsed
  conv => zeta
  repeat' first
    | with_reducible assumption | with_reducible apply kept_setF | with_reducible apply kept_foldl | intro _ _ _ _
    | intro _ _ _ | intro _ _ | dsimp only

theorem kept_setEntryState {κ : Nat} {z : State} (n st : Nat) (s : State) (h : Kept κ z s) :
    Kept κ z (State.setEntryState n st s) := by
  unfold State.setEntryState
  conv => zeta
  repeat' first
    | with_reducible assumption | with_reducible apply kept_putEntry | with_reducible apply kept_showUsed
    | with_reducible apply kept_trace | dsimp only

theorem kept_setEntryFlag {κ : Nat} {z : State} (n bit : Nat) (v : Bool) (s : State) (h : Kept κ z s) :
    Kept κ z (State.setEntryFlag n bit v s) := by
  unfold State.setEntryFlag
  repeat' first
    | with_reducible assumption | with_reducible apply kept_putEntry | dsimp only

theorem kept_useEntry {κ : Nat} {z : State} (n : Nat) (s : State) (h : Kept κ z s) : Kept κ z (State.useEntry n s) := by
  unfold State.useEntry
  repeat' first
    | with_reducible assumption | with_reducible apply kept_putEntry | dsimp only

theorem kept_addUser {κ : Nat} {z : State} (n : Nat) (s : State) (h : Kept κ z s) : Kept κ z (State.addUser n s) := by
  unfold State.addUser
  repeat' first
    | with_reducible assumption | with_reducible apply kept_putEntry | with_reducible apply kept_useEntry | dsimp only

theorem kept_dropUser {κ : Nat} {z : State} (n : Nat) (s : State) (h : Kept κ z s) : Kept κ z (State.dropUser n s) := by
  unfold State.dropUser
  repeat' first
    | with_reducible assumption | with_reducible apply kept_putEntry | with_reducible apply kept_useEntry | dsimp only

theorem kept_closeRegion {κ : Nat} {z : State} (n : Nat) (s : State) (h : Kept κ z s) : Kept κ z (State.closeRegion n s) := by
  unfold State.closeRegion
  repeat' first
    | with_reducible assumption | with_reducible apply kept_dropSaggar | with_reducible apply kept_foldl | intro _ _ _ _
    | intro _ _ _ | intro _ _ | dsimp only

theorem kept_evictOne {κ : Nat} {z : State} (n : Nat) (s : State) (h : Kept κ z s) : Kept κ z (State.evictOne n s) := by
  unfold State.evictOne
  repeat' first
    | with_reducible assumption | with_reducible apply kept_closeRegion | with_reducible apply kept_setEntryState
    | with_reducible apply kept_bump | dsimp only

theorem kept_freeBudget {κ : Nat} {z : State} (e : List Byte) (l : List Nat) (s : State) (h : Kept κ z s) : KeptS κ z (State.freeBudget e l s) := by
  induction l generalizing s with
  | nil =>
    unfold State.freeBudget
    split
    · exact KeptS.some h
    · exact KeptS.none
  | cons n t ih =>
    unfold State.freeBudget
    split
    · exact KeptS.some h
    · exact ih _ (kept_evictOne _ _ h)

theorem kept_makeRoom {κ : Nat} {z : State} (n : Nat) (s : State) (h : Kept κ z s) : KeptS κ z (State.makeRoom n s) := by
  unfold State.makeRoom
  dsimp only
  split
  · exact KeptS.none
  · exact kept_freeBudget _ _ _ (kept_foldl h fun s a hs => kept_evictOne _ _ hs)

theorem kept_makeRoom_eq {κ : Nat} {z t' : State} {n : Nat} {s : State}
    (h : Kept κ z s) (e' : State.makeRoom n s = some t') :
    Kept κ z t' := kept_makeRoom n s h t' e'

theorem kept_startLoad {κ : Nat} {z : State} (n : Nat) (s : State) (h : Kept κ z s) : KeptS κ z (State.startLoad n s) := by
  intro t ht
  unfold State.startLoad at ht
  obtain ⟨u, hu, hv⟩ := Option.bind_eq_some_iff.mp ht
  have h1 := kept_setEntryState n 2 _ (kept_setEntryFlag n 2 false _ (kept_makeRoom n s h u hu))
  dsimp only at hv
  split at hv
  · exact kept_addSaggar _ _ _ _ _ _ _ _ h1 t hv
  · cases hv; exact h1

theorem kept_startLoad_eq {κ : Nat} {z t' : State} {n : Nat} {s : State}
    (h : Kept κ z s) (e' : State.startLoad n s = some t') :
    Kept κ z t' := kept_startLoad n s h t' e'

theorem kept_showJob {κ : Nat} {z : State} (p : Nat) (s : State) (h : Kept κ z s) : Kept κ z (State.showJob p s) := by
  unfold State.showJob
  repeat' first
    | with_reducible assumption | with_reducible apply kept_setF | dsimp only

theorem kept_dropJob {κ : Nat} {z : State} (p : Nat) (s : State) (h : Kept κ z s) : Kept κ z (State.dropJob p s) := by
  unfold State.dropJob
  conv => zeta
  repeat' first
    | with_reducible assumption | with_reducible apply kept_finish | with_reducible apply kept_dropSaggar
    | with_reducible apply kept_dropUser | with_reducible apply kept_setJob | with_reducible apply kept_showJob
    | with_reducible apply kept_foldl | with_reducible apply kept_ite | intro _ _ _ _ | intro _ _ _ | intro _ _
    | dsimp only | split | with_reducible refine Kept.upd ?_

theorem kept_loadNamed {κ : Nat} {z : State} (p : Nat) (s : State) (h : Kept κ z s) : Kept κ z (State.loadNamed p s) := by
  refine kept_ite (kept_foldl h fun s n hs => kept_ite ?_ hs) h
  cases hl : s.startLoad n with
  | none => exact hs
  | some t => exact kept_startLoad _ _ hs _ hl

theorem kept_tryRun {κ : Nat} {z : State} (p : Nat) (s : State) (h : Kept κ z s) : Kept κ z (State.tryRun p s) := by
  unfold State.tryRun
  conv => zeta
  repeat' first
    | with_reducible assumption | with_reducible apply kept_setJob | with_reducible apply kept_runWheel
    | with_reducible apply kept_ite | intro _ _ _ _ | intro _ _ _ | intro _ _ | dsimp only | split
    | with_reducible refine Kept.upd ?_

theorem kept_failLoad {κ : Nat} {z : State} (n : Nat) (s : State) (h : Kept κ z s) : Kept κ z (State.failLoad n s) := by
  unfold State.failLoad
  conv => zeta
  repeat' first
    | with_reducible assumption | with_reducible apply kept_closeRegion | with_reducible apply kept_setEntryState
    | with_reducible apply kept_setEntryFlag | with_reducible apply kept_bump | with_reducible apply kept_setF
    | with_reducible apply kept_dropJob | with_reducible apply kept_complete | with_reducible apply kept_foldl
    | with_reducible apply kept_ite | intro _ _ _ _ | intro _ _ _ | intro _ _ | dsimp only | split

theorem kept_writeModel {κ : Nat} {z : State} (e : List Byte) (ts : List Tile) (s : State) (h : Kept κ z s) : KeptS κ z (State.writeModel e ts s) := by
  unfold State.writeModel
  dsimp only
  split
  · exact KeptS.none
  · refine KeptS.some (kept_foldl h fun s k hs => ?_)
    split
    · exact kept_putTile _ _ _ hs
    · exact hs

theorem kept_writeModel_eq {κ : Nat} {z t' : State} {e : List Byte} {ts : List Tile} {s : State}
    (h : Kept κ z s) (e' : State.writeModel e ts s = some t') :
    Kept κ z t' := kept_writeModel e ts s h t' e'

theorem kept_goHot {κ : Nat} {z : State} (n : Nat) (s : State) (h : Kept κ z s) : Kept κ z (State.goHot n s) := by
  unfold State.goHot
  conv => zeta
  repeat' first
    | with_reducible assumption | with_reducible apply kept_setEntryState | with_reducible apply kept_bump
    | with_reducible apply kept_tryRun | with_reducible apply kept_foldl | intro _ _ _ _ | intro _ _ _ | intro _ _
    | dsimp only

theorem kept_endLoad {κ : Nat} {z : State} (n : Nat) (e : List Byte) (ts : List Tile) (s : State) (h : Kept κ z s) :
    Kept κ z (State.endLoad n e ts s) := by
  unfold State.endLoad
  conv => zeta
  repeat' first
    | with_reducible assumption | with_reducible apply kept_writeModel | with_reducible apply kept_goHot
    | with_reducible apply kept_dikeFail | with_reducible apply kept_failLoad
    | with_reducible refine kept_writeModel_eq ?_ ‹_› | intro _ _ _ _ | intro _ _ _ | intro _ _ | dsimp only | split
    | with_reducible refine Kept.upd ?_

theorem kept_loadDone {κ : Nat} {z : State} (n : Nat) (r : LoadResult) (s : State) (h : Kept κ z s) :
    Kept κ z (State.loadDone n r s) := by
  unfold State.loadDone
  conv => zeta
  repeat' first
    | with_reducible assumption | with_reducible apply kept_failLoad | with_reducible apply kept_endLoad
    | with_reducible apply kept_bump | with_reducible apply kept_security | with_reducible apply kept_ite
    | intro _ _ _ _ | intro _ _ _ | intro _ _ | dsimp only | split | with_reducible refine Kept.upd ?_
    | with_reducible refine Kept.updRtp ?_ (RtpLe.same rfl rfl rfl rfl)

theorem kept_regStatus {κ : Nat} {z : State} (n err : Nat) (s : State) (h : Kept κ z s) : Kept κ z (State.regStatus n err s) := by
  unfold State.regStatus
  repeat' first
    | with_reducible assumption | with_reducible apply kept_setF | dsimp only

theorem kept_execPinEntry {κ : Nat} {z : State} (index : Nat) (s : State) (h : Kept κ z s) : KeptO κ z (execPinEntry index s) := by
  unfold execPinEntry
  repeat' first
    | with_reducible assumption | with_reducible apply kept_regStatus | with_reducible apply kept_setEntryFlag
    | with_reducible apply kept_useEntry | with_reducible apply kept_ite | with_reducible apply keptO_ite
    | with_reducible apply KeptO.next | intro _ _ _ _ | intro _ _ _ | intro _ _ | dsimp only | split

theorem kept_execUnpinEntry {κ : Nat} {z : State} (index : Nat) (s : State) (h : Kept κ z s) :
    KeptO κ z (execUnpinEntry index s) := by
  unfold execUnpinEntry
  repeat' first
    | with_reducible assumption | with_reducible apply kept_regStatus | with_reducible apply kept_setEntryFlag
    | with_reducible apply kept_ite | with_reducible apply keptO_ite | with_reducible apply KeptO.next | intro _ _ _ _
    | intro _ _ _ | intro _ _ | dsimp only | split

theorem kept_execEvictEntry {κ : Nat} {z : State} (index : Nat) (s : State) (h : Kept κ z s) :
    KeptO κ z (execEvictEntry index s) := by
  unfold execEvictEntry
  conv => zeta
  repeat' first
    | with_reducible assumption | with_reducible apply kept_regStatus | with_reducible apply kept_evictOne
    | with_reducible apply kept_ite | with_reducible apply keptO_ite | with_reducible apply KeptO.next | intro _ _ _ _
    | intro _ _ _ | intro _ _ | dsimp only | split

theorem kept_execRegLoad {κ : Nat} {z : State} (index : Nat) (s : State) (h : Kept κ z s) : KeptO κ z (execRegLoad index s) := by
  unfold execRegLoad
  conv => zeta
  repeat' first
    | with_reducible assumption | with_reducible apply kept_startLoad | with_reducible apply kept_useEntry
    | with_reducible apply kept_regStatus | with_reducible apply kept_ite | with_reducible apply keptO_ite
    | with_reducible apply KeptO.next | with_reducible refine kept_startLoad_eq ?_ ‹_› | intro _ _ _ _ | intro _ _ _
    | intro _ _ | dsimp only | split | with_reducible refine Kept.upd ?_

theorem kept_execRegLoadComplete {κ : Nat} {z : State} (index : Nat) (r : LoadResult) (s : State) (h : Kept κ z s) :
    KeptO κ z (execRegLoadComplete index r s) := by
  unfold execRegLoadComplete
  repeat' first
    | with_reducible assumption | with_reducible apply kept_loadDone | with_reducible apply kept_ite
    | with_reducible apply keptO_ite | with_reducible apply KeptO.next | intro _ _ _ _ | intro _ _ _ | intro _ _
    | dsimp only | split

/-! ### Loader -/

theorem kept_putFlash {κ : Nat} {z : State} (a : Nat) (l : List Byte) (s : State) (h : Kept κ z s) :
    Kept κ z (State.putFlash a l s) := by
  unfold State.putFlash
  repeat' first
    | with_reducible assumption | with_reducible apply kept_foldl | intro _ _ _ _ | intro _ _ _ | intro _ _ | dsimp only
    | with_reducible refine Kept.upd ?_

theorem kept_putOwner {κ : Nat} {z : State} (r : OwnerRec) (s : State) (h : Kept κ z s) : Kept κ z (State.putOwner r s) := by
  unfold State.putOwner
  repeat' first
    | with_reducible assumption | dsimp only | with_reducible refine Kept.upd ?_
    | with_reducible refine Kept.updRtp ?_ (RtpLe.same rfl rfl rfl rfl)

theorem kept_runSlot {κ : Nat} {z : State} (b : Bool) (s : State) (h : Kept κ z s) : Kept κ z (State.runSlot b s) := by
  unfold State.runSlot
  conv => zeta
  repeat' first
    | with_reducible assumption | with_reducible apply kept_putOwner | with_reducible apply kept_setF
    | with_reducible apply kept_ite | intro _ _ _ _ | intro _ _ _ | intro _ _ | dsimp only | split
    | with_reducible refine Kept.upd ?_ | with_reducible refine Kept.updRtp ?_ (RtpLe.same rfl rfl rfl rfl)

theorem kept_trySlot {κ : Nat} {z : State} (b : Bool) (s : State) (h : Kept κ z s) : Kept κ z (State.trySlot b s) := by
  unfold State.trySlot
  conv => zeta
  repeat' first
    | with_reducible assumption | with_reducible apply kept_setF | with_reducible apply kept_runSlot
    | with_reducible apply kept_ite | dsimp only | split

theorem kept_bootFirmware {κ : Nat} {z : State} (s : State) (h : Kept κ z s) : Kept κ z (State.bootFirmware s) := by
  unfold State.bootFirmware
  conv => zeta
  repeat' first
    | with_reducible assumption | with_reducible apply kept_setF | with_reducible apply kept_trySlot
    | with_reducible apply kept_raise | with_reducible apply kept_ite | dsimp only | split
    | with_reducible refine Kept.upd ?_ | with_reducible refine Kept.updRtp ?_ (RtpLe.same rfl rfl rfl rfl)

theorem kept_putWord {κ : Nat} {z : State} (off : Nat) (v : Word) (s : State) (h : Kept κ z s) :
    Kept κ z (State.putWord off v s) := by
  unfold State.putWord
  repeat' first
    | with_reducible assumption | with_reducible apply kept_modCore | with_reducible apply kept_ite | intro _ _ _ _
    | intro _ _ _ | intro _ _ | dsimp only | split | with_reducible refine Kept.upd ?_

theorem kept_putRegs {κ : Nat} {z : State} (off v : Nat) (s : State) (h : Kept κ z s) : Kept κ z (State.putRegs off v s) := by
  unfold State.putRegs
  conv => zeta
  repeat' first
    | with_reducible assumption | with_reducible apply kept_putWord | with_reducible apply kept_foldl
    | with_reducible apply kept_ite | intro _ _ _ _ | intro _ _ _ | intro _ _ | dsimp only | split
    | with_reducible refine Kept.upd ?_

theorem kept_putSystem {κ : Nat} {z : State} (l : List Byte) (s : State) (h : Kept κ z s) : Kept κ z (State.putSystem l s) := by
  unfold State.putSystem
  conv => zeta
  repeat' first
    | with_reducible assumption | with_reducible apply kept_setF | with_reducible apply kept_forCores
    | with_reducible apply kept_modCore | with_reducible apply kept_forCores | intro _ _ _ _ | intro _ _ _ | intro _ _
    | dsimp only

theorem kept_putClusters {κ : Nat} {z : State} (p : Nat) (l : List Byte) (s : State) (h : Kept κ z s) :
    Kept κ z (State.putClusters p l s) := by
  unfold State.putClusters
  repeat' first
    | with_reducible assumption | with_reducible apply kept_forCores | with_reducible apply kept_modCore
    | with_reducible apply kept_setF | with_reducible apply kept_foldl | with_reducible apply kept_forCores
    | with_reducible apply kept_ite | intro _ _ _ _ | intro _ _ _ | intro _ _ | dsimp only | split

theorem kept_applyImage {κ : Nat} {z : State} (img : List Byte) (s : State) (h : Kept κ z s) :
    Kept κ z (State.applyImage img s) := by
  unfold State.applyImage
  conv => zeta
  repeat' first
    | with_reducible assumption | with_reducible apply kept_putRegs | with_reducible apply kept_putClusters
    | with_reducible apply kept_putSystem | with_reducible apply kept_foldl | intro _ _ _ _ | intro _ _ _ | intro _ _
    | dsimp only | with_reducible refine Kept.upd ?_

theorem kept_tryCopy {κ : Nat} {z : State} (b second : Bool) (s : State) (h : Kept κ z s) :
    Kept κ z (State.tryCopy b second s) := by
  unfold State.tryCopy
  conv => zeta
  repeat' first
    | with_reducible assumption | with_reducible apply kept_setF | with_reducible apply kept_note
    | with_reducible apply kept_ite | dsimp only | split | with_reducible refine Kept.upd ?_
    | with_reducible refine Kept.updRtp ?_ (RtpLe.same rfl rfl rfl rfl)

theorem kept_loadConfig {κ : Nat} {z : State} (s : State) (h : Kept κ z s) : Kept κ z (State.loadConfig s) := by
  unfold State.loadConfig
  conv => zeta
  repeat' first
    | with_reducible assumption | with_reducible apply kept_setF | with_reducible apply kept_tryCopy
    | with_reducible apply kept_ite | dsimp only | split

/-! ### Reset -/

theorem kept_clearRegs {κ : Nat} {z : State} (lo hi : Nat) (s : State) (h : Kept κ z s) : Kept κ z (State.clearRegs lo hi s) := by
  unfold State.clearRegs
  repeat' first
    | with_reducible assumption | dsimp only | with_reducible refine Kept.upd ?_

theorem kept_resetWheel {κ : Nat} {z : State} (p : Nat) (s : State) (h : Kept κ z s) : Kept κ z (State.resetWheel p s) := by
  unfold State.resetWheel
  conv => zeta
  repeat' first
    | with_reducible assumption | with_reducible apply kept_stopWheel | with_reducible apply kept_setF
    | with_reducible apply kept_foldl | intro _ _ _ _ | intro _ _ _ | intro _ _ | dsimp only

theorem kept_clearPip {κ : Nat} {z : State} (gs ls : List Nat) (s : State) (h : Kept κ z s) :
    Kept κ z (State.clearPip gs ls s) := by
  unfold State.clearPip
  conv => zeta
  repeat' first
    | with_reducible assumption | with_reducible apply kept_clearRegs | with_reducible apply kept_foldl | intro _ _ _ _
    | intro _ _ _ | intro _ _ | dsimp only | with_reducible refine Kept.upd ?_

theorem kept_resetPip {κ : Nat} {z : State} (p : Nat) (s : State) (h : Kept κ z s) : Kept κ z (State.resetPip p s) := by
  unfold State.resetPip
  conv => zeta
  repeat' first
    | with_reducible assumption | with_reducible apply kept_clearPip | with_reducible apply kept_clearRegs | dsimp only

theorem kept_resetMedia {κ : Nat} {z : State} (m p : Nat) (s : State) (h : Kept κ z s) : Kept κ z (State.resetMedia m p s) := by
  unfold State.resetMedia
  conv => zeta
  repeat' first
    | with_reducible assumption | with_reducible apply kept_rewindRing | with_reducible apply kept_modMfe
    | with_reducible apply kept_clearRegs | with_reducible apply kept_setF | with_reducible apply kept_foldl
    | with_reducible apply kept_ite | intro _ _ _ _ | intro _ _ _ | intro _ _ | dsimp only | split

theorem kept_resetKilnOf {κ : Nat} {z : State} (i p : Nat) (s : State) (h : Kept κ z s) : Kept κ z (State.resetKilnOf i p s) := by
  unfold State.resetKilnOf
  conv => zeta
  repeat' first
    | with_reducible assumption | with_reducible apply kept_modKiln | with_reducible apply kept_setF | intro _ _ _ _
    | intro _ _ _ | intro _ _ | dsimp only | with_reducible refine Kept.upd ?_

theorem kept_dropVcs {κ : Nat} {z : State} (p : Nat) (s : State) (h : Kept κ z s) : Kept κ z (State.dropVcs p s) := by
  unfold State.dropVcs
  conv => zeta
  repeat' first
    | with_reducible assumption | with_reducible apply kept_modPort | with_reducible apply kept_foldl
    | with_reducible apply kept_ite | intro _ _ _ _ | intro _ _ _ | intro _ _ | dsimp only | split
    | with_reducible refine Kept.upd ?_

theorem kept_dropLines {κ : Nat} {z : State} (p : Nat) (s : State) (h : Kept κ z s) : Kept κ z (State.dropLines p s) := by
  unfold State.dropLines
  conv => zeta
  repeat' first
    | with_reducible assumption | with_reducible apply kept_ite | intro _ _ _ _ | intro _ _ _ | intro _ _ | dsimp only
    | split | with_reducible refine Kept.upd ?_

theorem kept_resetPolderShare {κ : Nat} {z : State} (p : Nat) (s : State) (h : Kept κ z s) :
    Kept κ z (State.resetPolderShare p s) := by
  unfold State.resetPolderShare
  conv => zeta
  repeat' first
    | with_reducible assumption | with_reducible apply kept_resetKilnOf | with_reducible apply kept_resetWheel
    | with_reducible apply kept_resetMedia | with_reducible apply kept_clearOps | with_reducible apply kept_resetPip
    | with_reducible apply kept_dropVcs | with_reducible apply kept_dropLines | with_reducible apply kept_setDrain
    | with_reducible apply kept_foldl | intro _ _ _ _ | intro _ _ _ | intro _ _ | dsimp only
    | with_reducible refine Kept.power ?_ (SameSupplies.of _) | with_reducible refine Kept.upd ?_

theorem kept_resetPolderUnits {κ : Nat} {z : State} (p : Nat) (s : State) (h : Kept κ z s) :
    Kept κ z (State.resetPolderUnits p s) := by
  unfold State.resetPolderUnits
  repeat' first
    | with_reducible assumption | with_reducible apply kept_forCores | with_reducible apply kept_resetCore
    | with_reducible apply kept_resetPolderShare | with_reducible apply kept_forCores | intro _ _ _ _ | intro _ _ _
    | intro _ _ | dsimp only

theorem kept_resetPolder {κ : Nat} {z : State} (p : Nat) (s : State) (h : Kept κ z s) : Kept κ z (State.resetPolder p s) := by
  unfold State.resetPolder
  repeat' first
    | with_reducible assumption | with_reducible apply kept_resetPolderUnits | with_reducible apply kept_startWipe
    | dsimp only

theorem kept_restore {κ : Nat} {z : State} (p : Nat) (s : State) (h : Kept κ z s) : Kept κ z (State.restore p s) := by
  unfold State.restore
  conv => zeta
  repeat' first
    | with_reducible assumption | with_reducible apply kept_resetPolder | with_reducible apply kept_dropJob
    | with_reducible apply kept_setF | with_reducible apply kept_note | with_reducible apply kept_trace | dsimp only

theorem kept_carryOut {κ : Nat} {z : State} (p n : Nat) (s : State) (h : Kept κ z s) : Kept κ z (State.carryOut p n s) := by
  unfold State.carryOut
  conv => zeta
  repeat' first
    | with_reducible assumption | with_reducible apply kept_rewindRing | with_reducible apply kept_setF
    | with_reducible apply kept_abandonPip | with_reducible apply kept_abandonCol | with_reducible apply kept_restore
    | with_reducible apply kept_foldl | with_reducible apply kept_ite | intro _ _ _ _ | intro _ _ _ | intro _ _
    | dsimp only | split | with_reducible refine Kept.power ?_ (SameSupplies.of _) | with_reducible refine Kept.upd ?_

theorem kept_ensureQuiet {κ : Nat} {z : State} (p : Nat) (s : State) (h : Kept κ z s) : Kept κ z (State.ensureQuiet p s) := by
  unfold State.ensureQuiet
  repeat' first
    | with_reducible assumption | with_reducible apply kept_forCores | with_reducible apply kept_abandonCore
    | with_reducible apply kept_forCores | with_reducible apply kept_ite | intro _ _ _ _ | intro _ _ _ | intro _ _
    | dsimp only | split

theorem kept_freshCulvert {κ : Nat} {z : State} (c : Nat) (s : State) (h : Kept κ z s) : Kept κ z (State.freshCulvert c s) := by
  unfold State.freshCulvert
  repeat' first
    | with_reducible assumption | with_reducible apply kept_setF | with_reducible apply kept_modCulvert | intro _ _ _ _
    | intro _ _ _ | intro _ _ | dsimp only | with_reducible refine Kept.upd ?_

theorem kept_resetStack {κ : Nat} {z : State} (i : Nat) (s : State) (h : Kept κ z s) : Kept κ z (State.resetStack i s) := by
  unfold State.resetStack
  conv => zeta
  repeat' first
    | with_reducible assumption | with_reducible apply kept_wipeChan | with_reducible apply kept_showWiping
    | with_reducible apply kept_setF | with_reducible apply kept_foldl | intro _ _ _ _ | intro _ _ _ | intro _ _
    | dsimp only | with_reducible refine Kept.upd ?_

theorem kept_resetCompute {κ : Nat} {z : State} (d : Nat) (s : State) (h : Kept κ z s) : Kept κ z (State.resetCompute d s) := by
  unfold State.resetCompute
  conv => zeta
  repeat' first
    | with_reducible assumption | with_reducible apply kept_forCores | with_reducible apply kept_resetCore
    | with_reducible apply kept_wipeRange | with_reducible apply kept_resetStack
    | with_reducible apply kept_resetMedia | with_reducible apply kept_setF | with_reducible apply kept_foldl
    | with_reducible apply kept_forCores | intro _ _ _ _ | intro _ _ _ | intro _ _ | dsimp only
    | with_reducible refine Kept.upd ?_

theorem kept_clearKeys {κ : Nat} {z : State} (s : State) (h : Kept κ z s) : Kept κ z (State.clearKeys s) := by
  unfold State.clearKeys
  repeat' first
    | with_reducible assumption | with_reducible apply kept_setF | with_reducible apply kept_foldl | intro _ _ _ _
    | intro _ _ _ | intro _ _ | dsimp only | with_reducible refine Kept.upd ?_

theorem kept_resetPort {κ : Nat} {z : State} (q : Nat) (s : State) (h : Kept κ z s) : Kept κ z (State.resetPort q s) := by
  unfold State.resetPort
  conv => zeta
  repeat' first
    | with_reducible assumption | with_reducible apply kept_freshPort | with_reducible apply kept_dropTraffic
    | with_reducible apply kept_restPort | with_reducible apply kept_ite | dsimp only | split

theorem kept_resetIo {κ : Nat} {z : State} (j : Nat) (s : State) (h : Kept κ z s) : Kept κ z (State.resetIo j s) := by
  unfold State.resetIo
  conv => zeta
  repeat' first
    | with_reducible assumption | with_reducible apply kept_resetPort | with_reducible apply kept_clearKeys
    | with_reducible apply kept_clearPip | with_reducible apply kept_clearRegs | with_reducible apply kept_foldl
    | with_reducible apply kept_ite | intro _ _ _ _ | intro _ _ _ | intro _ _ | dsimp only | split
    | with_reducible refine Kept.upd ?_

theorem kept_resetDieUnits {κ : Nat} {z : State} (d : Nat) (s : State) (h : Kept κ z s) : Kept κ z (State.resetDieUnits d s) := by
  unfold State.resetDieUnits
  repeat' first
    | with_reducible assumption | with_reducible apply kept_resetCompute | with_reducible apply kept_resetIo
    | with_reducible apply kept_ite | dsimp only | split

theorem kept_resetDie {κ : Nat} {z : State} (d : Nat) (s : State) (h : Kept κ z s) : Kept κ z (State.resetDie d s) := by
  unfold State.resetDie
  repeat' first
    | with_reducible assumption | with_reducible apply kept_freshCulvert | with_reducible apply kept_resetDieUnits
    | with_reducible apply kept_foldl | intro _ _ _ _ | intro _ _ _ | intro _ _ | dsimp only

theorem kept_loseDie {κ : Nat} {z : State} (d : Nat) (s : State) (h : Kept κ z s) : Kept κ z (State.loseDie d s) := by
  unfold State.loseDie
  conv => zeta
  repeat' first
    | with_reducible assumption | with_reducible apply kept_quarantine | with_reducible apply kept_setF
    | with_reducible apply kept_showDegraded | with_reducible apply kept_quiesce | with_reducible apply kept_restore
    | with_reducible apply kept_foldl | with_reducible apply kept_ite | intro _ _ _ _ | intro _ _ _ | intro _ _
    | dsimp only | split

theorem kept_rejoinDie {κ : Nat} {z : State} (d : Nat) (record : List Byte) (s : State) (h : Kept κ z s) :
    Kept κ z (State.rejoinDie d record s) := by
  unfold State.rejoinDie
  conv => zeta
  repeat' first
    | with_reducible assumption | with_reducible apply kept_resetDie | with_reducible apply kept_setF
    | with_reducible apply kept_note | with_reducible apply kept_trainCulvert | with_reducible apply kept_foldl
    | with_reducible apply kept_ite | intro _ _ _ _ | intro _ _ _ | intro _ _ | dsimp only | split

theorem kept_execPolderReset {κ : Nat} {z : State} (polder : Nat) (s : State) (h : Kept κ z s) :
    KeptO κ z (execPolderReset polder s) := by
  unfold execPolderReset
  repeat' first
    | with_reducible assumption | with_reducible apply kept_resetPolder | with_reducible apply KeptO.next | intro _ _ _ _
    | intro _ _ _ | intro _ _ | dsimp only

theorem kept_execDieReset {κ : Nat} {z : State} (die : Nat) (record : List Byte) (s : State) (h : Kept κ z s) :
    KeptO κ z (execDieReset die record s) := by
  unfold execDieReset
  repeat' first
    | with_reducible assumption | with_reducible apply kept_loseDie | with_reducible apply kept_rejoinDie
    | with_reducible apply kept_ite | with_reducible apply keptO_ite | with_reducible apply KeptO.next | intro _ _ _ _
    | intro _ _ _ | intro _ _ | dsimp only | split

theorem kept_execDieClockLoss {κ : Nat} {z : State} (die : Nat) (s : State) (h : Kept κ z s) :
    KeptO κ z (execDieClockLoss die s) := by
  unfold execDieClockLoss
  repeat' first
    | with_reducible assumption | with_reducible apply kept_loseDie | with_reducible apply kept_ite
    | with_reducible apply keptO_ite | with_reducible apply KeptO.next | intro _ _ _ _ | intro _ _ _ | intro _ _
    | dsimp only | split | with_reducible refine Kept.power ?_ (SameSupplies.of _) | with_reducible refine Kept.upd ?_

theorem kept_execDieClockReturn {κ : Nat} {z : State} (die : Nat) (record : List Byte) (s : State) (h : Kept κ z s) :
    KeptO κ z (execDieClockReturn die record s) := by
  unfold execDieClockReturn
  repeat' first
    | with_reducible assumption | with_reducible apply kept_rejoinDie | with_reducible apply kept_ite
    | with_reducible apply keptO_ite | with_reducible apply KeptO.next | intro _ _ _ _ | intro _ _ _ | intro _ _
    | dsimp only | split | with_reducible refine Kept.power ?_ (SameSupplies.of _) | with_reducible refine Kept.upd ?_

theorem kept_execDieClockTimeout {κ : Nat} {z : State} (die : Nat) (s : State) (h : Kept κ z s) :
    KeptO κ z (execDieClockTimeout die s) := by
  unfold execDieClockTimeout
  repeat' first
    | with_reducible assumption | with_reducible apply kept_note | with_reducible apply kept_ite
    | with_reducible apply keptO_ite | with_reducible apply KeptO.next | intro _ _ _ _ | intro _ _ _ | intro _ _
    | dsimp only | split | with_reducible refine Kept.power ?_ (SameSupplies.of _) | with_reducible refine Kept.upd ?_

theorem kept_execRecovAbandon {κ : Nat} {z : State} (polder : Nat) (s : State) (h : Kept κ z s) :
    KeptO κ z (execRecovAbandon polder s) := by
  unfold execRecovAbandon
  repeat' first
    | with_reducible assumption | with_reducible apply kept_ensureQuiet | with_reducible apply kept_carryOut
    | with_reducible apply KeptO.next | intro _ _ _ _ | intro _ _ _ | intro _ _ | dsimp only

theorem kept_execRecovRestore {κ : Nat} {z : State} (polder : Nat) (s : State) (h : Kept κ z s) :
    KeptO κ z (execRecovRestore polder s) := by
  unfold execRecovRestore
  repeat' first
    | with_reducible assumption | with_reducible apply kept_restore | with_reducible apply KeptO.next | intro _ _ _ _
    | intro _ _ _ | intro _ _ | dsimp only

theorem kept_execWatchdogExpiry {κ : Nat} {z : State} (polder : Nat) (s : State) (h : Kept κ z s) :
    KeptO κ z (execWatchdogExpiry polder s) := by
  unfold execWatchdogExpiry
  conv => zeta
  repeat' first
    | with_reducible assumption | with_reducible apply kept_bump | with_reducible apply kept_restore
    | with_reducible apply kept_quiesce | with_reducible apply kept_ite | with_reducible apply keptO_ite
    | with_reducible apply KeptO.next | intro _ _ _ _ | intro _ _ _ | intro _ _ | dsimp only | split
    | with_reducible refine Kept.power ?_ (SameSupplies.of _) | with_reducible refine Kept.upd ?_

/-! ### Start -/

theorem kept_identify {κ : Nat} {z : State} (bs : List (Nat × List Byte)) (s : State) (h : Kept κ z s) :
    Kept κ z (State.identify bs s) := by
  unfold State.identify
  conv => zeta
  repeat' first
    | with_reducible assumption | with_reducible apply kept_setF | with_reducible apply kept_note
    | with_reducible apply kept_foldl | with_reducible apply kept_ite | intro _ _ _ _ | intro _ _ _ | intro _ _
    | dsimp only | split | with_reducible refine Kept.upd ?_

theorem kept_rtpStart {κ : Nat} {z : State} (s : State) (h : Kept κ z s) : Kept κ z (State.rtpStart s) := by
  unfold State.rtpStart
  conv => zeta
  repeat' first
    | with_reducible assumption | with_reducible apply kept_setF | with_reducible apply kept_useFree
    | with_reducible apply kept_foldl | with_reducible apply kept_ite | intro _ _ _ _ | intro _ _ _ | intro _ _
    | dsimp only | split

theorem kept_rampDomains {κ : Nat} {z : State} (s : State) (h : Kept κ z s) : Kept κ z (State.rampDomains s) := by
  unfold State.rampDomains
  conv => zeta
  repeat' first
    | with_reducible assumption | with_reducible apply kept_setF | with_reducible apply kept_setPoint
    | with_reducible apply kept_useFree | with_reducible apply kept_foldl | intro _ _ _ _ | intro _ _ _ | intro _ _
    | dsimp only | with_reducible refine Kept.power ?_ (SameSupplies.of _) | with_reducible refine Kept.upd ?_

theorem wf_hostCells (s : State) (w : Memory.wf s.mem = true) : Memory.wf s.hostCells = true := wf_filter zeroByte _ _ w

theorem kept_finishStart {κ : Nat} {z : State} (s : State) (h : Kept κ z s) (hκ : κ ≤ 1 := by omega) : Kept κ z (State.finishStart s) := by
  have h1 : Kept κ z { s with mem := s.hostCells, tags := [], slices := [], deferred := [], behind := [], wiping := [] } :=
    h.updAll (Nat.le_refl _) (wf_hostCells s) (fun _ => rfl) (RtpLe.refl _) List.prefix_rfl
  unfold State.finishStart
  dsimp only
  refine Kept.updPower (kept_setF _ _ _ (kept_setF _ _ _ (kept_foldl (kept_setF _ _ _ (kept_applyImage _ _ h1)) fun s q hs => ?_)))
  exact kept_restPort _ _ _ hs

theorem kept_startMain {κ : Nat} {z : State} (bs : List (Nat × List Byte)) (s : State) (h : Kept κ z s) :
    Kept κ z (State.startMain bs s) := by
  unfold State.startMain
  conv => zeta
  repeat' first
    | with_reducible assumption | with_reducible apply kept_setF | with_reducible apply kept_identify
    | with_reducible apply kept_bootFirmware | with_reducible apply kept_loadConfig
    | with_reducible apply kept_trainCulvert | with_reducible apply kept_rampDomains | with_reducible apply kept_foldl
    | with_reducible apply kept_ite | intro _ _ _ _ | intro _ _ _ | intro _ _ | dsimp only | split
    | with_reducible refine Kept.power ?_ (SameSupplies.of _) | with_reducible refine Kept.upd ?_

theorem kept_wipeMain {κ : Nat} {z : State} (s : State) (h : Kept κ z s) : Kept κ z (State.wipeMain s) := by
  unfold State.wipeMain
  have h1 : Kept κ z ((List.range 8).foldl (fun s p => s.resetPolderShare p) s) := kept_foldl h fun s p hs => kept_resetPolderShare _ _ hs
  have h2 : Kept κ z ((List.range 8).foldl (fun s c => s.freshCulvert c) ((List.range 8).foldl (fun s p => s.resetPolderShare p) s)) :=
    kept_foldl h1 fun s p hs => kept_freshCulvert _ _ hs
  have h3 := kept_foldl (l := List.range 6) (f := fun s d => State.resetDieUnits d s) h2 fun s p hs => kept_resetDieUnits _ _ hs
  dsimp only
  refine Kept.power (kept_foldl (kept_showWiping _ (kept_clearRegs _ _ _ ?_)) fun s f hs => kept_setF _ _ _ hs) (SameSupplies.of _)
  exact Kept.updAll h3 (Nat.le_refl _) (wf_hostCells _) (fun _ => rfl) (RtpLe.refl _) List.prefix_rfl

theorem kept_stopMain {κ : Nat} {z : State} (s : State) (h : Kept κ z s) (hκ : κ ≤ 1 := by omega) :
    Kept κ z (State.stopMain s) := by
  unfold State.stopMain
  conv => zeta
  repeat' first
    | with_reducible assumption | omega | with_reducible apply kept_setF | with_reducible apply kept_wipeMain
    | with_reducible apply kept_foldl | intro _ _ _ _ | intro _ _ _ | intro _ _ | dsimp only
    | with_reducible refine Kept.upd ?_ | with_reducible refine Kept.updPower ?_

theorem kept_dropVmain {κ : Nat} {z : State} (s : State) (h : Kept κ z s) (hκ : κ ≤ 1 := by omega) :
    Kept κ z (State.dropVmain s) := by
  unfold State.dropVmain
  repeat' first
    | with_reducible assumption | omega | with_reducible apply kept_setF | with_reducible apply kept_stopMain
    | with_reducible apply kept_foldl | intro _ _ _ _ | intro _ _ _ | intro _ _ | dsimp only

theorem kept_coldState {κ : Nat} {z : State} (s : State) (h : Kept κ z s) (hκ : κ ≤ 0 := by omega) : Kept κ z (State.coldState s) :=
  h.updAll (Nat.le_refl _) (wf_hostCells s) (fun _ => rfl) (RtpLe.same rfl rfl rfl rfl) List.prefix_rfl (fun i => absurd i (by omega))
    fun i => absurd i (by omega)

theorem kept_setPower {κ : Nat} {z : State} (f : Power → Power) (s : State) (h : Kept κ z s) (hκ : κ ≤ 1 := by omega) :
    Kept κ z (State.setPower f s) := by
  unfold State.setPower
  repeat' first
    | with_reducible assumption | omega | dsimp only | with_reducible refine Kept.upd ?_
    | with_reducible refine Kept.updPower ?_

theorem kept_execVauxGood {κ : Nat} {z : State} (sel : Bool) (addr : Nat) (s : State)
    (h : Kept κ z s) (hκ : κ ≤ 0 := by omega) :
    KeptO κ z (execVauxGood sel addr s) := by
  unfold execVauxGood
  conv => zeta
  repeat' first
    | with_reducible assumption | omega | with_reducible apply kept_setPower | with_reducible apply kept_coldState
    | with_reducible apply kept_rtpStart | with_reducible apply kept_ite | with_reducible apply keptO_ite
    | with_reducible apply KeptO.next | intro _ _ _ _ | intro _ _ _ | intro _ _ | dsimp only | split
    | with_reducible refine Kept.upd ?_ | with_reducible refine Kept.updPower ?_

theorem kept_execVauxLoss {κ : Nat} {z : State} (s : State) (h : Kept κ z s) (hκ : κ ≤ 0 := by omega) :
    KeptO κ z (execVauxLoss s) := by
  unfold execVauxLoss
  repeat' first
    | with_reducible assumption | omega | with_reducible apply kept_coldState | with_reducible apply KeptO.next
    | intro _ _ _ _ | intro _ _ _ | intro _ _ | dsimp only | with_reducible refine Kept.upd ?_
    | with_reducible refine Kept.updPower ?_

theorem kept_execPwrgoodRise {κ : Nat} {z : State} (blocks : List (Nat × List Byte)) (s : State)
    (h : Kept κ z s) (hκ : κ ≤ 1 := by omega) :
    KeptO κ z (execPwrgoodRise blocks s) := by
  unfold execPwrgoodRise
  repeat' first
    | with_reducible assumption | omega | with_reducible apply kept_setPower | with_reducible apply kept_startMain
    | with_reducible apply kept_ite | with_reducible apply keptO_ite | with_reducible apply KeptO.next | intro _ _ _ _
    | intro _ _ _ | intro _ _ | dsimp only | split | with_reducible refine Kept.upd ?_
    | with_reducible refine Kept.updPower ?_

theorem kept_execPwrgoodFall {κ : Nat} {z : State} (s : State) (h : Kept κ z s) (hκ : κ ≤ 1 := by omega) :
    KeptO κ z (execPwrgoodFall s) := by
  unfold execPwrgoodFall
  repeat' first
    | with_reducible assumption | omega | with_reducible apply kept_setPower | with_reducible apply kept_dropVmain
    | with_reducible apply kept_ite | with_reducible apply keptO_ite | with_reducible apply KeptO.next | intro _ _ _ _
    | intro _ _ _ | intro _ _ | dsimp only | split | with_reducible refine Kept.upd ?_
    | with_reducible refine Kept.updPower ?_

theorem kept_execResetAssert {κ : Nat} {z : State} (s : State) (h : Kept κ z s) (hκ : κ ≤ 1 := by omega) :
    KeptO κ z (execResetAssert s) := by
  unfold execResetAssert
  repeat' first
    | with_reducible assumption | omega | with_reducible apply kept_setPower | with_reducible apply kept_stopMain
    | with_reducible apply kept_ite | with_reducible apply keptO_ite | with_reducible apply KeptO.next | intro _ _ _ _
    | intro _ _ _ | intro _ _ | dsimp only | split | with_reducible refine Kept.upd ?_
    | with_reducible refine Kept.updPower ?_

theorem kept_execResetRelease {κ : Nat} {z : State} (blocks : List (Nat × List Byte)) (s : State)
    (h : Kept κ z s) (hκ : κ ≤ 1 := by omega) :
    KeptO κ z (execResetRelease blocks s) := by
  unfold execResetRelease
  repeat' first
    | with_reducible assumption | omega | with_reducible apply kept_setPower | with_reducible apply kept_startMain
    | with_reducible apply kept_ite | with_reducible apply keptO_ite | with_reducible apply KeptO.next | intro _ _ _ _
    | intro _ _ _ | intro _ _ | dsimp only | split | with_reducible refine Kept.upd ?_
    | with_reducible refine Kept.updPower ?_

theorem kept_execColdReset {κ : Nat} {z : State} (blocks : List (Nat × List Byte)) (s : State)
    (h : Kept κ z s) (hκ : κ ≤ 0 := by omega) :
    KeptO κ z (execColdReset blocks s) := by
  unfold execColdReset
  repeat' first
    | with_reducible assumption | omega | with_reducible apply kept_coldState | with_reducible apply kept_rtpStart
    | with_reducible apply kept_startMain | with_reducible apply kept_ite | with_reducible apply keptO_ite
    | with_reducible apply KeptO.next | intro _ _ _ _ | intro _ _ _ | intro _ _ | dsimp only | split

theorem kept_execWarmReset {κ : Nat} {z : State} (blocks : List (Nat × List Byte)) (s : State)
    (h : Kept κ z s) (hκ : κ ≤ 1 := by omega) :
    KeptO κ z (execWarmReset blocks s) := by
  unfold execWarmReset
  repeat' first
    | with_reducible assumption | omega | with_reducible apply kept_stopMain | with_reducible apply kept_startMain
    | with_reducible apply kept_ite | with_reducible apply keptO_ite | with_reducible apply KeptO.next | intro _ _ _ _
    | intro _ _ _ | intro _ _ | dsimp only | split

theorem kept_execCulvertTrainingEnd {κ : Nat} {z : State} (culv bad0 bad1 own recorded : Nat) (s : State)
    (h : Kept κ z s) (hκ : κ ≤ 1 := by omega) :
    KeptO κ z (execCulvertTrainingEnd culv bad0 bad1 own recorded s) := by
  unfold execCulvertTrainingEnd
  conv => zeta
  repeat' first
    | with_reducible assumption | omega | with_reducible apply kept_endTraining | with_reducible apply kept_setF
    | with_reducible apply kept_setPower | with_reducible apply kept_note | with_reducible apply kept_finishStart
    | with_reducible apply kept_ite | with_reducible apply keptO_ite | with_reducible apply KeptO.next | intro _ _ _ _
    | intro _ _ _ | intro _ _ | dsimp only | split | with_reducible refine Kept.upd ?_

end Sys2Proof.Laws
end

