-- ==== Sys2Proof/Laws/KeptHost.lean ====
section
/-! SUPPORT. What is kept (Laws/Kept.lean) by register writes, the aperture, job images, management, the lands and the tick: one lemma for each function that answers a state. -/

namespace Sys2Proof.Laws

set_option Elab.async false

open Sys2Proof.Machine

/-! ### RegWrite -/

theorem kept_chain {κ : Nat} {z : State} {o : Host.Outcome State Fault Refusal} {f : State → Host.Outcome State Fault Refusal} (h : KeptO κ z o)
    (hf : ∀ s, Kept κ z s → KeptO κ z (f s)) : KeptO κ z (chain o f) := by
  cases o with
  | next s => exact hf s h
  | fault r => trivial
  | refused r => trivial

theorem kept_onBit {κ : Nat} {z : State} (v : Word) (k : Nat) (f : State → Host.Outcome State Fault Refusal) (s : State) (h : Kept κ z s)
    (hf : ∀ s, Kept κ z s → KeptO κ z (f s)) : KeptO κ z (onBit v k f s) := keptO_ite (hf s h) h

theorem kept_plainWrite {κ : Nat} {z : State} (off : Nat) (v : Word) (s : State) (h : Kept κ z s) :
    Kept κ z (State.plainWrite off v s) := by
  unfold State.plainWrite
  repeat' first
    | with_reducible assumption | with_reducible apply kept_putWord | with_reducible apply kept_foldl | intro _ _ _ _
    | intro _ _ _ | intro _ _ | dsimp only | split | with_reducible refine Kept.upd ?_

theorem kept_clearPage {κ : Nat} {z : State} (i lo hi : Nat) (s : State) (h : Kept κ z s) :
    Kept κ z (State.clearPage i lo hi s) := by
  unfold State.clearPage
  repeat' first
    | with_reducible assumption | with_reducible apply kept_modCore | intro _ _ _ _ | intro _ _ _ | intro _ _ | dsimp only
    | with_reducible refine Kept.upd ?_

theorem kept_clearCounters {κ : Nat} {z : State} (off : Nat) (s : State) (h : Kept κ z s) :
    Kept κ z (State.clearCounters off s) := by
  unfold State.clearCounters
  conv => zeta
  repeat' first
    | with_reducible assumption | with_reducible apply kept_clearPage | with_reducible apply kept_clearRegs
    | with_reducible apply kept_foldl | with_reducible apply kept_ite | intro _ _ _ _ | intro _ _ _ | intro _ _
    | dsimp only | split | with_reducible refine Kept.upd ?_

theorem kept_snapshot {κ : Nat} {z : State} (s : State) (h : Kept κ z s) : Kept κ z (State.snapshot s) := by
  unfold State.snapshot
  conv => zeta
  repeat' first
    | with_reducible assumption | with_reducible apply kept_setF | with_reducible apply kept_foldl | intro _ _ _ _
    | intro _ _ _ | intro _ _ | dsimp only

theorem kept_emptyRing {κ : Nat} {z : State} (k : Nat) (s : State) (h : Kept κ z s) : Kept κ z (State.emptyRing k s) := by
  unfold State.emptyRing
  repeat' first
    | with_reducible assumption | with_reducible apply kept_setF | dsimp only | split | with_reducible refine Kept.upd ?_

theorem kept_commitSvn {κ : Nat} {z : State} (s : State) (h : Kept κ z s) : Kept κ z (State.commitSvn s) :=
  kept_ite h (kept_setF _ _ _ (Kept.updRtp h ⟨Nat.le_max_left _ _, Nat.le_refl _, Nat.le_refl _, id⟩))

theorem kept_execRingEnable {κ : Nat} {z : State} (ring : Nat) (s : State) (h : Kept κ z s) :
    KeptO κ z (execRingEnable ring s) := by
  unfold execRingEnable
  repeat' first
    | with_reducible assumption | with_reducible apply kept_setF | with_reducible apply kept_emptyRing
    | with_reducible apply kept_ite | with_reducible apply keptO_ite | with_reducible apply KeptO.next | intro _ _ _ _
    | intro _ _ _ | intro _ _ | dsimp only | split

theorem kept_execCommitSvn {κ : Nat} {z : State} (s : State) (h : Kept κ z s) : KeptO κ z (execCommitSvn s) := by
  unfold execCommitSvn
  repeat' first
    | with_reducible assumption | with_reducible apply kept_commitSvn | with_reducible apply KeptO.next | intro _ _ _ _
    | intro _ _ _ | intro _ _ | dsimp only

theorem kept_execSnap {κ : Nat} {z : State} (s : State) (h : Kept κ z s) : KeptO κ z (execSnap s) := by
  unfold execSnap
  repeat' first
    | with_reducible assumption | with_reducible apply kept_snapshot | with_reducible apply KeptO.next | intro _ _ _ _
    | intro _ _ _ | intro _ _ | dsimp only

theorem kept_execCounterClear {κ : Nat} {z : State} (off : Nat) (s : State) (h : Kept κ z s) :
    KeptO κ z (execCounterClear off s) := by
  unfold execCounterClear
  repeat' first
    | with_reducible assumption | with_reducible apply kept_clearCounters | with_reducible apply KeptO.next | intro _ _ _ _
    | intro _ _ _ | intro _ _ | dsimp only

theorem kept_writeCoreCtl {κ : Nat} {z : State} (i : Nat) (v : Word) (s : State) (h : Kept κ z s) :
    KeptO κ z (writeCoreCtl i v s) := by
  unfold writeCoreCtl
  conv => zeta
  repeat' first
    | with_reducible assumption | with_reducible apply kept_modCore | with_reducible apply kept_setF
    | with_reducible apply kept_chain | with_reducible apply kept_onBit | with_reducible apply kept_execCoreReset
    | with_reducible apply kept_execCoreAbandon | with_reducible apply kept_execHaltRequest
    | with_reducible apply kept_execResumeCore | with_reducible apply kept_execCoreRun
    | with_reducible apply kept_execSstep | with_reducible apply kept_ite | with_reducible apply keptO_ite
    | with_reducible apply KeptO.next | intro _ _ _ _ | intro _ _ _ | intro _ _ | dsimp only | split

theorem kept_writePage {κ : Nat} {z : State} (i o : Nat) (v : Word) (s : State) (h : Kept κ z s) :
    KeptO κ z (writePage i o v s) := by
  unfold writePage
  repeat' first
    | with_reducible assumption | with_reducible apply kept_writeCoreCtl | with_reducible apply kept_modCore
    | with_reducible apply kept_execDbgAccSel | with_reducible apply kept_execCoreDbgXregWrite
    | with_reducible apply kept_onBit | with_reducible apply kept_execCounterClear | with_reducible apply kept_modCtx
    | with_reducible apply kept_chain | with_reducible apply kept_execCtxClose | with_reducible apply kept_execCtxOpen
    | with_reducible apply kept_plainWrite | with_reducible apply kept_ite | with_reducible apply keptO_ite
    | with_reducible apply KeptO.next | intro _ _ _ _ | intro _ _ _ | intro _ _ | dsimp only | split
    | with_reducible refine Kept.upd ?_

theorem kept_writeResetCtl {κ : Nat} {z : State} (v : Word) (blocks : List (Nat × List Byte)) (s : State)
    (h : Kept κ z s) (hκ : κ ≤ 0 := by omega) :
    KeptO κ z (writeResetCtl v blocks s) := by
  unfold writeResetCtl
  conv => zeta
  repeat' first
    | with_reducible assumption | omega | with_reducible apply kept_execColdReset | with_reducible apply kept_execWarmReset
    | with_reducible apply kept_execDieReset | with_reducible apply kept_execPolderReset
    | with_reducible apply KeptO.next | intro _ _ _ _ | intro _ _ _ | intro _ _ | dsimp only | split
    | with_reducible refine Kept.upd ?_

theorem kept_writeRegCmd {κ : Nat} {z : State} (v : Word) (s : State) (h : Kept κ z s) : KeptO κ z (writeRegCmd v s) := by
  unfold writeRegCmd
  conv => zeta
  repeat' first
    | with_reducible assumption | with_reducible apply kept_execPinEntry | with_reducible apply kept_execUnpinEntry
    | with_reducible apply kept_execEvictEntry | with_reducible apply kept_execRegLoad
    | with_reducible apply KeptO.next | intro _ _ _ _ | intro _ _ _ | intro _ _ | dsimp only | split
    | with_reducible refine Kept.upd ?_

theorem kept_writePortCtl {κ : Nat} {z : State} (q : Nat) (v : Word) (s : State) (h : Kept κ z s) :
    KeptO κ z (writePortCtl q v s) := by
  unfold writePortCtl
  repeat' first
    | with_reducible assumption | with_reducible apply kept_chain | with_reducible apply kept_onBit
    | with_reducible apply kept_execCounterClear | with_reducible apply kept_execPortReset
    | with_reducible apply kept_execPortDown | with_reducible apply kept_execPortRetrain
    | with_reducible apply kept_execPortEnable | with_reducible apply KeptO.next | intro _ _ _ _ | intro _ _ _
    | intro _ _ | dsimp only

theorem kept_writeCommand {κ : Nat} {z : State} (off : Nat) (v : Word) (blocks : List (Nat × List Byte)) (s : State)
    (h : Kept κ z s) (hκ : κ ≤ 0 := by omega) :
    KeptO κ z (writeCommand off v blocks s) := by
  unfold writeCommand
  conv => zeta
  repeat' first
    | with_reducible assumption | omega | with_reducible apply kept_onBit | with_reducible apply kept_execRingEnable
    | with_reducible apply kept_execLoadArm | with_reducible apply kept_execCommitSvn
    | with_reducible apply kept_chain | with_reducible apply kept_execSnap
    | with_reducible apply kept_execCounterClear | with_reducible apply kept_writeResetCtl
    | with_reducible apply kept_execRecovAbandon | with_reducible apply kept_execRecovRestore
    | with_reducible apply kept_writePortCtl | with_reducible apply kept_execRejoin
    | with_reducible apply kept_execTblLoad | with_reducible apply kept_setF | with_reducible apply kept_modKiln
    | with_reducible apply kept_execApplyRepair | with_reducible apply kept_execMarginStart
    | with_reducible apply kept_execWipe | with_reducible apply kept_writeRegCmd
    | with_reducible apply kept_execGroupInit | with_reducible apply kept_execLinkClose
    | with_reducible apply kept_execLinkOpen | with_reducible apply kept_execPipAbandon
    | with_reducible apply kept_execTokLoad | with_reducible apply kept_ite | with_reducible apply keptO_ite
    | with_reducible apply KeptO.next | intro _ _ _ _ | intro _ _ _ | intro _ _ | dsimp only | split
    | with_reducible refine Kept.upd ?_

theorem kept_writePctl {κ : Nat} {z : State} (m p : Nat) (v : Word) (s : State) (h : Kept κ z s) :
    KeptO κ z (writePctl m p v s) := by
  unfold writePctl
  repeat' first
    | with_reducible assumption | with_reducible apply kept_chain | with_reducible apply kept_onBit
    | with_reducible apply kept_execMark | with_reducible apply kept_execRewind | with_reducible apply kept_execMfeRun
    | with_reducible apply kept_setF | with_reducible apply kept_ite | with_reducible apply keptO_ite
    | with_reducible apply KeptO.next | intro _ _ _ _ | intro _ _ _ | intro _ _ | dsimp only | split

theorem kept_writePolderCtl {κ : Nat} {z : State} (p : Nat) (v : Word) (s : State) (h : Kept κ z s) :
    KeptO κ z (writePolderCtl p v s) := by
  unfold writePolderCtl
  conv => zeta
  repeat' first
    | with_reducible assumption | with_reducible apply kept_setF | with_reducible apply kept_execWheelRun
    | with_reducible apply kept_execWheelStop | with_reducible apply kept_ite | with_reducible apply keptO_ite
    | with_reducible apply KeptO.next | intro _ _ _ _ | intro _ _ _ | intro _ _ | dsimp only | split

theorem kept_writeReg {κ : Nat} {z : State} (off : Nat) (v : Word) (blocks : List (Nat × List Byte)) (s : State)
    (h : Kept κ z s) (hκ : κ ≤ 0 := by omega) :
    KeptO κ z (writeReg off v blocks s) := by
  unfold writeReg
  repeat' first
    | with_reducible assumption | omega | with_reducible apply kept_writePage | with_reducible apply kept_writePolderCtl
    | with_reducible apply kept_execWhlTblDataWrite | with_reducible apply kept_writePctl
    | with_reducible apply kept_writeCommand | with_reducible apply kept_plainWrite | with_reducible apply kept_ite
    | with_reducible apply keptO_ite | with_reducible apply KeptO.next | with_reducible apply KeptO.refused
    | intro _ _ _ _ | intro _ _ _ | intro _ _ | dsimp only | split | with_reducible refine Kept.upd ?_

theorem kept_execRegisterWrite {κ : Nat} {z : State} (off : Nat) (value : Word) (blocks : List (Nat × List Byte)) (s : State)
    (h : Kept κ z s) (hκ : κ ≤ 0 := by omega) :
    KeptO κ z (execRegisterWrite off value blocks s) := by
  unfold execRegisterWrite
  repeat' first
    | with_reducible assumption | omega | with_reducible apply kept_writeReg | with_reducible apply kept_ite
    | with_reducible apply keptO_ite | with_reducible apply KeptO.next | intro _ _ _ _ | intro _ _ _ | intro _ _
    | dsimp only | split

/-! ### Access -/

theorem kept_readReg {κ : Nat} {z : State} (off : Nat) (s : State) (h : Kept κ z s) : Kept κ z (State.readReg off s).1 := by
  unfold State.readReg
  repeat' first
    | with_reducible assumption | with_reducible apply kept_readTable | with_reducible apply kept_ite | dsimp only | split

theorem kept_readReg_eq {κ : Nat} {z t' : State} {x'} {off : Nat} {s : State}
    (h : Kept κ z s) (e' : State.readReg off s = (t', x')) :
    Kept κ z t' := by
  have k := kept_readReg off s h
  rw [e'] at k
  exact k

theorem kept_readRegs {κ : Nat} {z : State} (off n : Nat) (s : State) (h : Kept κ z s) : Kept κ z (State.readRegs off n s).1 := by
  induction n generalizing off s with
  | zero => exact h
  | succ n ih => exact ih _ _ (kept_readReg _ _ h)

theorem kept_scratchRead {κ : Nat} {z : State} (s : State) (core a n : Nat) (h : Kept κ z s) :
    Kept κ z (State.scratchRead s core a n).1 := by
  unfold State.scratchRead
  conv => zeta
  repeat' first
    | with_reducible assumption | with_reducible apply kept_useFree | with_reducible apply kept_ite | intro _ _ _ _
    | intro _ _ _ | intro _ _ | dsimp only | split | with_reducible refine Kept.upd ?_

theorem kept_scratchRead_eq {κ : Nat} {z t' : State} {x'} {s : State} {core a n : Nat}
    (h : Kept κ z s) (e' : State.scratchRead s core a n = (t', x')) :
    Kept κ z t' := by
  have k := kept_scratchRead s core a n h
  rw [e'] at k
  exact k

theorem kept_scratchWrite {κ : Nat} {z : State} (core a : Nat) (d : List Byte) (s : State) (h : Kept κ z s) :
    Kept κ z (State.scratchWrite core a d s) := by
  unfold State.scratchWrite
  conv => zeta
  repeat' first
    | with_reducible assumption | with_reducible apply kept_putPart | with_reducible apply kept_modCore
    | with_reducible apply kept_bump | with_reducible apply kept_ite | intro _ _ _ _ | intro _ _ _ | intro _ _
    | dsimp only | split

theorem kept_serveDram {κ : Nat} {z : State} (st ch : Nat) (r : HostReq) (s : State) (h : Kept κ z s) :
    Kept κ z (State.serveDram st ch r s).1 := by
  unfold State.serveDram
  conv => zeta
  repeat' first
    | with_reducible assumption | with_reducible apply kept_weirHold | with_reducible apply kept_meter
    | with_reducible apply kept_perform | with_reducible apply kept_defer | with_reducible apply kept_ite | dsimp only
    | split

theorem kept_serveDram_eq {κ : Nat} {z t' : State} {x'} {st ch : Nat} {r : HostReq} {s : State}
    (h : Kept κ z s) (e' : State.serveDram st ch r s = (t', x')) :
    Kept κ z t' := by
  have k := kept_serveDram st ch r s h
  rw [e'] at k
  exact k

theorem kept_serveReq {κ : Nat} {z : State} (r : HostReq) (s : State) (h : Kept κ z s) : Kept κ z (State.serveReq r s).1 := by
  unfold State.serveReq
  repeat' first
    | with_reducible assumption | with_reducible apply kept_send | with_reducible apply kept_serveDram
    | with_reducible apply kept_scratchRead | with_reducible apply kept_scratchWrite | with_reducible apply kept_ite
    | with_reducible refine kept_serveDram_eq ?_ ‹_› | with_reducible refine kept_scratchRead_eq ?_ ‹_› | dsimp only
    | split | with_reducible refine Kept.upd ?_

theorem kept_serveReq_eq {κ : Nat} {z t' : State} {x'} {r : HostReq} {s : State}
    (h : Kept κ z s) (e' : State.serveReq r s = (t', x')) :
    Kept κ z t' := by
  have k := kept_serveReq r s h
  rw [e'] at k
  exact k

theorem kept_hostReq {κ : Nat} {z : State} (r : HostReq) (s : State) (h : Kept κ z s) : Kept κ z (State.hostReq r s) := by
  unfold State.hostReq
  repeat' first
    | with_reducible assumption | with_reducible apply kept_serveReq | with_reducible apply kept_ite
    | with_reducible refine kept_serveReq_eq ?_ ‹_› | dsimp only | split | with_reducible refine Kept.upd ?_

theorem kept_retryReqs {κ : Nat} {z : State} (n : Nat) (s : State) (h : Kept κ z s) : Kept κ z (State.retryReqs n s) := by
  induction n generalizing s with
  | zero => exact h
  | succ n ih =>
    unfold State.retryReqs
    split
    · exact h
    · exact kept_ite (ih _ (Kept.upd (kept_serveReq _ _ h))) (kept_serveReq _ _ h)

theorem kept_execApertureRead {κ : Nat} {z : State} (off n id : Nat) (s : State) (h : Kept κ z s) : KeptO κ z (execApertureRead off n id s) := by
  unfold execApertureRead
  dsimp only
  refine keptO_ite h ?_
  generalize region (s.apertureAddr off) = r
  have hf : KeptO κ z (.next ((State.tileParts (s.apertureAddr off) n).foldl (fun s p => s.hostReq (.read p.1 p.2.2 id)) s)) :=
    KeptO.next (kept_foldl h fun s p hs => kept_hostReq _ _ hs)
  cases r with
  | control => exact keptO_ite (KeptO.next (kept_send _ _ (kept_readRegs _ _ _ h))) (KeptO.next (kept_send _ _ h))
  | _ => exact hf

theorem kept_execApertureWrite {κ : Nat} {z : State} (off : Nat) (data : List Byte) (blocks : List (Nat × List Byte)) (s : State) (h : Kept κ z s) (hκ : κ ≤ 0 := by omega) :
    KeptO κ z (execApertureWrite off data blocks s) := by
  unfold execApertureWrite
  dsimp only
  refine keptO_ite h ?_
  generalize region (s.apertureAddr off) = r
  have hf : KeptO κ z (.next ((State.tileParts (s.apertureAddr off) data.length).foldl
      (fun s p => s.hostReq (.write p.1 ((data.drop p.2.1).take p.2.2))) s)) :=
    KeptO.next (kept_foldl h fun s p hs => kept_hostReq _ _ hs)
  cases r with
  | control => exact kept_execRegisterWrite _ _ _ _ h
  | _ => exact hf

/-! ### Install -/

theorem kept_storeWords {κ : Nat} {z : State} (t u dest : Nat) (l : List Byte) (s : State) (h : Kept κ z s) :
    Kept κ z (State.storeWords t u dest l s) := by
  unfold State.storeWords
  conv => zeta
  repeat' first
    | with_reducible assumption | with_reducible apply kept_modCore | with_reducible apply kept_putTableWord
    | with_reducible apply kept_foldl | with_reducible apply kept_ite | intro _ _ _ _ | intro _ _ _ | intro _ _
    | dsimp only | split | with_reducible refine Kept.upd ?_

theorem kept_storeSec {κ : Nat} {z : State} (x : JobSec) (l : List Byte) (s : State) (h : Kept κ z s) :
    Kept κ z (State.storeSec x l s) := by
  unfold State.storeSec
  repeat' first
    | with_reducible assumption | with_reducible apply kept_modCore | with_reducible apply kept_storeWords
    | with_reducible apply kept_ite | intro _ _ _ _ | intro _ _ _ | intro _ _ | dsimp only | split

theorem kept_writeRec {κ : Nat} {z : State} (off v : Nat) (s : State) (h : Kept κ z s) (hκ : κ ≤ 0 := by omega) :
    KeptO κ z (State.writeRec off v s) := by
  unfold State.writeRec
  repeat' first
    | with_reducible assumption | omega | with_reducible apply kept_chain | with_reducible apply kept_writeReg
    | with_reducible apply kept_ite | with_reducible apply keptO_ite | with_reducible apply KeptO.next | intro _ _ _ _
    | intro _ _ _ | intro _ _ | dsimp only | split

theorem kept_writeRecs {κ : Nat} {z : State} (l : List (List Byte)) (s : State) (h : Kept κ z s) (hκ : κ ≤ 0 := by omega) : KeptO κ z (State.writeRecs l s) := by
  induction l generalizing s with
  | nil => exact h
  | cons r t ih => exact kept_chain (kept_writeRec _ _ _ h) fun s hs => ih s hs

theorem KeptS.getD {κ : Nat} {z s : State} {o : Option State} (h : KeptS κ z o) (hs : Kept κ z s) : Kept κ z (o.getD s) := by
  cases o with
  | none => exact hs
  | some t => exact h t rfl

theorem kept_declare {κ : Nat} {z : State} (p : Nat) (r : Nat × Nat × Nat × Nat) (s : State) (h : Kept κ z s) : Kept κ z (State.declare p r s) :=
  kept_ite h (kept_foldl (KeptS.getD (kept_addSaggar _ _ _ _ _ _ _ _ h) h) fun s a hs => kept_wipeDram _ _ _ hs)

theorem kept_writeSec {κ : Nat} {z : State} (p : Nat) (i : List Byte) (x : JobSec) (s : State)
    (h : Kept κ z s) (hκ : κ ≤ 0 := by omega) :
    KeptO κ z (State.writeSec p i x s) := by
  unfold State.writeSec
  repeat' first
    | with_reducible assumption | omega | with_reducible apply kept_storeSec | with_reducible apply kept_writeRecs
    | with_reducible apply kept_declare | with_reducible apply kept_foldl | with_reducible apply KeptO.next
    | with_reducible refine kept_writeRecs_eq ?_ ‹_› | intro _ _ _ _ | intro _ _ _ | intro _ _ | dsimp only | split
    | with_reducible refine Kept.upd ?_

theorem kept_writeSecs {κ : Nat} {z : State} (p : Nat) (i : List Byte) (l : List (Nat × JobSec)) (s : State) (h : Kept κ z s) (hκ : κ ≤ 0 := by omega) :
    KeptO κ z (State.writeSecs p i l s) := by
  induction l generalizing s with
  | nil => exact h
  | cons r t ih => exact kept_chain (kept_writeSec _ _ _ _ h) fun s hs => ih s hs

theorem kept_after {κ : Nat} {z : State} (p : Nat) (i : List Byte) (s : State) (h : Kept κ z s) (hκ : κ ≤ 0 := by omega) : Kept κ z (State.after p i s) := by
  have k := kept_writeSecs p i (jiSecs i) s h
  unfold State.after
  split
  · next e => exact k.kept e
  · exact h

theorem kept_nameEntries {κ : Nat} {z : State} (p : Nat) (l : List Nat) (s : State) (h : Kept κ z s) : Kept κ z (State.nameEntries p l s).1 := by
  induction l generalizing s with
  | nil => exact h
  | cons n t ih =>
    unfold State.nameEntries
    dsimp only
    split
    · exact h
    · split
      · split
        · next hl => exact ih _ (kept_startLoad _ _ h _ hl)
        · exact h
      · exact ih _ h

theorem kept_raiseUsers {κ : Nat} {z : State} (m : Nat) (s : State) (h : Kept κ z s) : Kept κ z (State.raiseUsers m s) := by
  unfold State.raiseUsers
  repeat' first
    | with_reducible assumption | with_reducible apply kept_addUser | with_reducible apply kept_foldl | intro _ _ _ _
    | intro _ _ _ | intro _ _ | dsimp only

theorem kept_install {κ : Nat} {z : State} (p : Nat) (x : Taken) (s : State) (h : Kept κ z s) (hκ : κ ≤ 0 := by omega) :
    Kept κ z (State.install p x s) := by
  unfold State.install
  conv => zeta
  repeat' first
    | with_reducible assumption | omega | with_reducible apply kept_after | with_reducible apply kept_raiseUsers
    | with_reducible apply kept_nameEntries | with_reducible apply kept_finish | with_reducible apply kept_setJob
    | with_reducible apply kept_showJob | with_reducible apply kept_setF
    | with_reducible refine kept_nameEntries_eq ?_ ‹_› | dsimp only | split | with_reducible refine Kept.upd ?_

theorem kept_startPermutes {κ : Nat} {z : State} (p : Nat) (s : State) (h : Kept κ z s) : Kept κ z (State.startPermutes p s) := by
  unfold State.startPermutes
  repeat' first
    | with_reducible assumption | with_reducible apply kept_modOp | with_reducible apply kept_foldl
    | with_reducible apply kept_ite | intro _ _ _ _ | intro _ _ _ | intro _ _ | dsimp only | split
    | with_reducible refine Kept.upd ?_

theorem kept_haltWheel {κ : Nat} {z : State} (p : Nat) (s : State) (h : Kept κ z s) : Kept κ z (State.haltWheel p s) := by
  have k := kept_execWheelStop p s h
  unfold State.haltWheel
  split
  · next e => exact k.kept e
  · exact h

theorem kept_goReshard {κ : Nat} {z : State} (p : Nat) (x : Taken) (s : State) (h : Kept κ z s) (hκ : κ ≤ 0 := by omega) :
    Kept κ z (State.goReshard p x s) := by
  unfold State.goReshard
  conv => zeta
  repeat' first
    | with_reducible assumption | omega | with_reducible apply kept_setJob | with_reducible apply kept_haltWheel
    | with_reducible apply kept_startPermutes | with_reducible apply kept_after | with_reducible apply kept_loadOps
    | with_reducible apply kept_runWheel | with_reducible apply kept_finish | with_reducible apply kept_ite
    | with_reducible refine kept_haltWheel_eq ?_ ‹_› | dsimp only | split | with_reducible refine Kept.upd ?_

theorem kept_reshard {κ : Nat} {z : State} (p : Nat) (x : Taken) (s : State) (h : Kept κ z s) (hκ : κ ≤ 0 := by omega) :
    Kept κ z (State.reshard p x s) := by
  unfold State.reshard
  conv => zeta
  repeat' first
    | with_reducible assumption | omega | with_reducible apply kept_finish | with_reducible apply kept_goReshard
    | with_reducible apply kept_setJob | with_reducible apply kept_ite | dsimp only | split
    | with_reducible refine Kept.upd ?_

theorem kept_execInstallJob {κ : Nat} {z : State} (polder : Nat) (s : State) (h : Kept κ z s) (hκ : κ ≤ 0 := by omega) :
    KeptO κ z (execInstallJob polder s) := by
  unfold execInstallJob
  repeat' first
    | with_reducible assumption | omega | with_reducible apply kept_install | with_reducible apply kept_ite
    | with_reducible apply keptO_ite | with_reducible apply KeptO.next | intro _ _ _ _ | intro _ _ _ | intro _ _
    | dsimp only | split | with_reducible refine Kept.upd ?_

theorem kept_freshLayers {κ : Nat} {z : State} (p : Nat) (s : State) (h : Kept κ z s) : Kept κ z (State.freshLayers p s) := by
  unfold State.freshLayers
  conv => zeta
  repeat' first
    | with_reducible assumption | with_reducible apply kept_wipeRange | with_reducible apply kept_foldl
    | with_reducible apply kept_ite | intro _ _ _ _ | intro _ _ _ | intro _ _ | dsimp only | split
    | with_reducible refine Kept.upd ?_

theorem kept_execInstallSectionsDone {κ : Nat} {z : State} (polder : Nat) (s : State)
    (h : Kept κ z s) (hκ : κ ≤ 0 := by omega) :
    KeptO κ z (execInstallSectionsDone polder s) := by
  unfold execInstallSectionsDone
  conv => zeta
  repeat' first
    | with_reducible assumption | omega | with_reducible apply kept_chain | with_reducible apply kept_writeSecs
    | with_reducible apply kept_freshLayers | with_reducible apply kept_setJob | with_reducible apply kept_loadOps
    | with_reducible apply kept_finish | with_reducible apply kept_tryRun | with_reducible apply kept_ite
    | with_reducible apply keptO_ite | with_reducible apply KeptO.next
    | with_reducible refine kept_writeSecs_eq ?_ ‹_› | intro _ _ _ _ | intro _ _ _ | intro _ _ | dsimp only | split
    | with_reducible refine Kept.upd ?_

theorem kept_retireCtxs {κ : Nat} {z : State} (p : Nat) (s : State) (h : Kept κ z s) : Kept κ z (State.retireCtxs p s) := by
  unfold State.retireCtxs
  repeat' first
    | with_reducible assumption | with_reducible apply kept_forCores | with_reducible apply kept_closeRecv
    | with_reducible apply kept_foldl | with_reducible apply kept_forCores | intro _ _ _ _ | intro _ _ _ | intro _ _
    | dsimp only

theorem kept_execRetire {κ : Nat} {z : State} (polder : Nat) (s : State) (h : Kept κ z s) : KeptO κ z (execRetire polder s) := by
  unfold execRetire
  conv => zeta
  repeat' first
    | with_reducible assumption | with_reducible apply kept_finish | with_reducible apply kept_haltWheel
    | with_reducible apply kept_retireCtxs | with_reducible apply kept_dropJob | with_reducible apply kept_ite
    | with_reducible apply keptO_ite | with_reducible apply KeptO.next
    | with_reducible refine kept_haltWheel_eq ?_ ‹_› | intro _ _ _ _ | intro _ _ _ | intro _ _ | dsimp only | split
    | with_reducible refine Kept.upd ?_

theorem kept_execReshard {κ : Nat} {z : State} (polder : Nat) (s : State) (h : Kept κ z s) (hκ : κ ≤ 0 := by omega) :
    KeptO κ z (execReshard polder s) := by
  unfold execReshard
  repeat' first
    | with_reducible assumption | omega | with_reducible apply kept_reshard | with_reducible apply kept_ite
    | with_reducible apply keptO_ite | with_reducible apply KeptO.next | intro _ _ _ _ | intro _ _ _ | intro _ _
    | dsimp only | split | with_reducible refine Kept.upd ?_

/-! ### Manage -/

theorem kept_showKeys {κ : Nat} {z : State} (p : Nat) (s : State) (h : Kept κ z s) : Kept κ z (State.showKeys p s) := by
  unfold State.showKeys
  conv => zeta
  repeat' first
    | with_reducible assumption | with_reducible apply kept_setF | intro _ _ _ _ | intro _ _ _ | intro _ _ | dsimp only

theorem kept_setPair {κ : Nat} {z : State} (p : Nat) (k : Option Nat) (s : State) (h : Kept κ z s) :
    Kept κ z (State.setPair p k s) := by
  unfold State.setPair
  repeat' first
    | with_reducible assumption | with_reducible apply kept_showKeys | intro _ _ _ _ | intro _ _ _ | intro _ _ | dsimp only
    | with_reducible refine Kept.upd ?_ | with_reducible refine Kept.updRtp ?_ (RtpLe.same rfl rfl rfl rfl)

theorem kept_attest {κ : Nat} {z : State} (p : Nat) (x : Taken) (s : State) (h : Kept κ z s) : Kept κ z (State.attest p x s) := by
  unfold State.attest
  conv => zeta
  repeat' first
    | with_reducible assumption | with_reducible apply kept_finish | with_reducible apply kept_useFree
    | with_reducible apply kept_setPair | with_reducible apply kept_storeSpan | with_reducible apply kept_ite
    | intro _ _ _ _ | intro _ _ _ | intro _ _ | dsimp only | split | with_reducible refine Kept.upd ?_
    | with_reducible refine Kept.updRtp ?_ (RtpLe.same rfl rfl rfl rfl)

theorem kept_putKeys {κ : Nat} {z : State} (p : Nat) (l : List (Nat × Nat × List Byte × Bool)) (s : State) (h : Kept κ z s) :
    KeptS κ z (State.putKeys p l s) := by
  induction l generalizing s with
  | nil => exact KeptS.some h
  | cons e t ih =>
    unfold State.putKeys
    split
    · exact ih _ (Kept.upd h)
    · split
      · exact ih _ (Kept.upd h)
      · exact KeptS.none

theorem kept_putKeys_eq {κ : Nat} {z t' : State} {p : Nat} {l : List (Nat × Nat × List Byte × Bool)} {s : State} (h : Kept κ z s)
    (e : State.putKeys p l s = some t') : Kept κ z t' := kept_putKeys p l s h t' e

theorem kept_failImport {κ : Nat} {z : State} (p : Nat) (x : Taken) (code : Nat) (s : State) (h : Kept κ z s) :
    Kept κ z (State.failImport p x code s) := by
  unfold State.failImport
  repeat' first
    | with_reducible assumption | with_reducible apply kept_setPair | with_reducible apply kept_finish
    | with_reducible apply kept_security | dsimp only

theorem kept_keyImport {κ : Nat} {z : State} (p : Nat) (x : Taken) (s : State) (h : Kept κ z s) :
    Kept κ z (State.keyImport p x s) := by
  unfold State.keyImport
  conv => zeta
  repeat' first
    | with_reducible assumption | with_reducible apply kept_finish | with_reducible apply kept_security
    | with_reducible apply kept_failImport | with_reducible apply kept_bump | with_reducible apply kept_putKeys
    | with_reducible apply kept_setPair | with_reducible apply kept_loadNamed | with_reducible apply kept_tryRun
    | with_reducible apply kept_ite | with_reducible refine kept_putKeys_eq ?_ ‹_› | intro _ _ _ _ | intro _ _ _
    | intro _ _ | dsimp only | split | with_reducible refine Kept.upd ?_

theorem kept_keyClear {κ : Nat} {z : State} (p : Nat) (x : Taken) (s : State) (h : Kept κ z s) :
    Kept κ z (State.keyClear p x s) := by
  unfold State.keyClear
  repeat' first
    | with_reducible assumption | with_reducible apply kept_showKeys | with_reducible apply kept_finish | intro _ _ _ _
    | intro _ _ _ | intro _ _ | dsimp only | with_reducible refine Kept.upd ?_

theorem kept_newNonce {κ : Nat} {z : State} (s : State) (h : Kept κ z s) : Kept κ z (State.newNonce s) := by
  unfold State.newNonce
  repeat' first
    | with_reducible assumption | with_reducible apply kept_setF | with_reducible apply kept_useFree
    | with_reducible apply kept_foldl | intro _ _ _ _ | intro _ _ _ | intro _ _ | dsimp only

theorem kept_setPresence {κ : Nat} {z : State} (n : Option Nat) (s : State) (h : Kept κ z s) :
    Kept κ z (State.setPresence n s) := by
  unfold State.setPresence
  repeat' first
    | with_reducible assumption | with_reducible apply kept_setF | dsimp only | with_reducible refine Kept.upd ?_
    | with_reducible refine Kept.updRtp ?_ (RtpLe.same rfl rfl rfl rfl)

theorem RtpLe.raised (a : Rtp) (r : OwnerRec) : RtpLe a { a with ownerGen := max a.ownerGen r.gen, rma := a.rma || r.lc == 3 } :=
  ⟨Nat.le_refl _, Nat.le_refl _, Nat.le_max_left _ _, fun h => by simp only [h, Bool.true_or]⟩

theorem kept_transition {κ : Nat} {z : State} (r : OwnerRec) (blocks : List (Nat × List Byte)) (s : State) (h : Kept κ z s) (hκ : κ ≤ 1 := by omega) :
    Kept κ z (State.transition r blocks s) := by
  unfold State.transition
  dsimp only
  refine kept_startMain _ _ (kept_stopMain _ (kept_setF _ _ _ (kept_setF _ _ _ (kept_setF _ _ _ (kept_putOwner _ _ (Kept.updRtp
    (kept_foldl (kept_clearKeys _ (kept_foldl h fun s p hs => kept_resetPolderUnits _ _ hs)) fun s p hs => kept_setPair _ _ _ hs) ?_))))))
  exact RtpLe.raised _ r

theorem kept_answerSec {κ : Nat} {z : State} (src : SecFrom) (x : Option Taken) (code : Nat) (s : State) (h : Kept κ z s) :
    Kept κ z (State.answerSec src x code s) := by
  unfold State.answerSec
  repeat' first
    | with_reducible assumption | with_reducible apply kept_finish | with_reducible apply kept_send | dsimp only | split
    | with_reducible refine Kept.upd ?_

theorem kept_secRequest {κ : Nat} {z : State} (cmd : Nat) (src : SecFrom) (x : Option Taken) (l : List Byte) (blocks : List (Nat × List Byte)) (s : State)
    (h : Kept κ z s) (hκ : κ ≤ 1 := by omega) :
    Kept κ z (State.secRequest cmd src x l blocks s) := by
  unfold State.secRequest
  conv => zeta
  repeat' first
    | with_reducible assumption | omega | with_reducible apply kept_setPresence | with_reducible apply kept_newNonce
    | with_reducible apply kept_answerSec | with_reducible apply kept_security | with_reducible apply kept_putOwner
    | with_reducible apply kept_transition | with_reducible apply kept_ite | dsimp only | split
    | with_reducible refine Kept.upd ?_

theorem kept_takeRequest {κ : Nat} {z : State} (cmd : Nat) (src : SecFrom) (blocks : List (Nat × List Byte)) (s : State)
    (h : Kept κ z s) (hκ : κ ≤ 1 := by omega) :
    Kept κ z (State.takeRequest cmd src blocks s) := by
  unfold State.takeRequest
  conv => zeta
  repeat' first
    | with_reducible assumption | omega | with_reducible apply kept_secRequest | with_reducible apply kept_ite | dsimp only
    | split | with_reducible refine Kept.upd ?_

theorem kept_execAttest {κ : Nat} {z : State} (polder : Nat) (s : State) (h : Kept κ z s) : KeptO κ z (execAttest polder s) := by
  unfold execAttest
  repeat' first
    | with_reducible assumption | with_reducible apply kept_attest | with_reducible apply kept_ite
    | with_reducible apply keptO_ite | with_reducible apply KeptO.next | intro _ _ _ _ | intro _ _ _ | intro _ _
    | dsimp only | split | with_reducible refine Kept.upd ?_

theorem kept_execKeyImport {κ : Nat} {z : State} (polder : Nat) (s : State) (h : Kept κ z s) :
    KeptO κ z (execKeyImport polder s) := by
  unfold execKeyImport
  repeat' first
    | with_reducible assumption | with_reducible apply kept_keyImport | with_reducible apply kept_ite
    | with_reducible apply keptO_ite | with_reducible apply KeptO.next | intro _ _ _ _ | intro _ _ _ | intro _ _
    | dsimp only | split | with_reducible refine Kept.upd ?_

theorem kept_execKeyClear {κ : Nat} {z : State} (polder : Nat) (s : State) (h : Kept κ z s) :
    KeptO κ z (execKeyClear polder s) := by
  unfold execKeyClear
  repeat' first
    | with_reducible assumption | with_reducible apply kept_keyClear | with_reducible apply kept_ite
    | with_reducible apply keptO_ite | with_reducible apply KeptO.next | intro _ _ _ _ | intro _ _ _ | intro _ _
    | dsimp only | split | with_reducible refine Kept.upd ?_

theorem kept_execTakeOwnership {κ : Nat} {z : State} (src : SecFrom) (blocks : List (Nat × List Byte)) (s : State)
    (h : Kept κ z s) (hκ : κ ≤ 1 := by omega) :
    KeptO κ z (execTakeOwnership src blocks s) := by
  unfold execTakeOwnership
  repeat' first
    | with_reducible assumption | omega | with_reducible apply kept_takeRequest | with_reducible apply KeptO.next
    | intro _ _ _ _ | intro _ _ _ | intro _ _ | dsimp only

theorem kept_execReplaceKeys {κ : Nat} {z : State} (src : SecFrom) (blocks : List (Nat × List Byte)) (s : State)
    (h : Kept κ z s) (hκ : κ ≤ 1 := by omega) :
    KeptO κ z (execReplaceKeys src blocks s) := by
  unfold execReplaceKeys
  repeat' first
    | with_reducible assumption | omega | with_reducible apply kept_takeRequest | with_reducible apply KeptO.next
    | intro _ _ _ _ | intro _ _ _ | intro _ _ | dsimp only

theorem kept_execLcRelease {κ : Nat} {z : State} (src : SecFrom) (blocks : List (Nat × List Byte)) (s : State)
    (h : Kept κ z s) (hκ : κ ≤ 1 := by omega) :
    KeptO κ z (execLcRelease src blocks s) := by
  unfold execLcRelease
  repeat' first
    | with_reducible assumption | omega | with_reducible apply kept_takeRequest | with_reducible apply KeptO.next
    | intro _ _ _ _ | intro _ _ _ | intro _ _ | dsimp only

theorem kept_execEnterRma {κ : Nat} {z : State} (src : SecFrom) (blocks : List (Nat × List Byte)) (s : State)
    (h : Kept κ z s) (hκ : κ ≤ 1 := by omega) :
    KeptO κ z (execEnterRma src blocks s) := by
  unfold execEnterRma
  repeat' first
    | with_reducible assumption | omega | with_reducible apply kept_takeRequest | with_reducible apply KeptO.next
    | intro _ _ _ _ | intro _ _ _ | intro _ _ | dsimp only

theorem kept_execAllowRollback {κ : Nat} {z : State} (src : SecFrom) (s : State) (h : Kept κ z s) (hκ : κ ≤ 1 := by omega) :
    KeptO κ z (execAllowRollback src s) := by
  unfold execAllowRollback
  repeat' first
    | with_reducible assumption | omega | with_reducible apply kept_takeRequest | with_reducible apply KeptO.next
    | intro _ _ _ _ | intro _ _ _ | intro _ _ | dsimp only

theorem kept_update {κ : Nat} {z : State} (bundle : List Byte) (s : State) (h : Kept κ z s) :
    Kept κ z (State.update bundle s) := by
  unfold State.update
  conv => zeta
  repeat' first
    | with_reducible assumption | with_reducible apply kept_send | with_reducible apply kept_note
    | with_reducible apply kept_security | with_reducible apply kept_putFlash | with_reducible apply kept_putOwner
    | with_reducible apply kept_ite | dsimp only | split | with_reducible refine Kept.upd ?_

theorem kept_spdm {κ : Nat} {z : State} (request value : List Byte) (s : State) (h : Kept κ z s) :
    Kept κ z (State.spdm request value s) := by
  unfold State.spdm
  conv => zeta
  repeat' first
    | with_reducible assumption | with_reducible apply kept_send | with_reducible apply kept_ite | dsimp only | split
    | with_reducible refine Kept.upd ?_

theorem kept_execFirmwareUpdate {κ : Nat} {z : State} (bundle : List Byte) (s : State) (h : Kept κ z s) :
    KeptO κ z (execFirmwareUpdate bundle s) := by
  unfold execFirmwareUpdate
  repeat' first
    | with_reducible assumption | with_reducible apply kept_update | with_reducible apply kept_ite
    | with_reducible apply keptO_ite | with_reducible apply KeptO.next | intro _ _ _ _ | intro _ _ _ | intro _ _
    | dsimp only | split

theorem kept_execPldmMonitoring {κ : Nat} {z : State} (request : List Byte) (events : Bool) (s : State) (h : Kept κ z s) :
    KeptO κ z (execPldmMonitoring request events s) := by
  unfold execPldmMonitoring
  conv => zeta
  repeat' first
    | with_reducible assumption | with_reducible apply kept_send | with_reducible apply kept_useFree
    | with_reducible apply kept_foldl | with_reducible apply kept_ite | with_reducible apply keptO_ite
    | with_reducible apply KeptO.next | intro _ _ _ _ | intro _ _ _ | intro _ _ | dsimp only | split
    | with_reducible refine Kept.upd ?_

theorem kept_execGetVersion {κ : Nat} {z : State} (request : List Byte) (s : State) (h : Kept κ z s) :
    KeptO κ z (execGetVersion request s) := by
  unfold execGetVersion
  repeat' first
    | with_reducible assumption | with_reducible apply kept_spdm | with_reducible apply KeptO.next | intro _ _ _ _
    | intro _ _ _ | intro _ _ | dsimp only | with_reducible refine Kept.upd ?_

theorem kept_execGetCapabilities {κ : Nat} {z : State} (request : List Byte) (s : State) (h : Kept κ z s) :
    KeptO κ z (execGetCapabilities request s) := by
  unfold execGetCapabilities
  repeat' first
    | with_reducible assumption | with_reducible apply kept_spdm | with_reducible apply KeptO.next | intro _ _ _ _
    | intro _ _ _ | intro _ _ | dsimp only

theorem kept_execNegotiateAlgorithms {κ : Nat} {z : State} (request : List Byte) (s : State) (h : Kept κ z s) :
    KeptO κ z (execNegotiateAlgorithms request s) := by
  unfold execNegotiateAlgorithms
  repeat' first
    | with_reducible assumption | with_reducible apply kept_spdm | with_reducible apply KeptO.next | intro _ _ _ _
    | intro _ _ _ | intro _ _ | dsimp only

theorem kept_execGetDigests {κ : Nat} {z : State} (request : List Byte) (s : State) (h : Kept κ z s) :
    KeptO κ z (execGetDigests request s) := by
  unfold execGetDigests
  repeat' first
    | with_reducible assumption | with_reducible apply kept_spdm | with_reducible apply KeptO.next | intro _ _ _ _
    | intro _ _ _ | intro _ _ | dsimp only

theorem kept_execGetCertificate {κ : Nat} {z : State} (request : List Byte) (s : State) (h : Kept κ z s) :
    KeptO κ z (execGetCertificate request s) := by
  unfold execGetCertificate
  repeat' first
    | with_reducible assumption | with_reducible apply kept_spdm | with_reducible apply KeptO.next | intro _ _ _ _
    | intro _ _ _ | intro _ _ | dsimp only

theorem kept_execChallenge {κ : Nat} {z : State} (request : List Byte) (s : State) (h : Kept κ z s) :
    KeptO κ z (execChallenge request s) := by
  unfold execChallenge
  repeat' first
    | with_reducible assumption | with_reducible apply kept_spdm | with_reducible apply KeptO.next | intro _ _ _ _
    | intro _ _ _ | intro _ _ | dsimp only

theorem kept_execGetMeasurements {κ : Nat} {z : State} (request : List Byte) (index : Nat) (nonce : List Byte) (s : State)
    (h : Kept κ z s) :
    KeptO κ z (execGetMeasurements request index nonce s) := by
  unfold execGetMeasurements
  conv => zeta
  repeat' first
    | with_reducible assumption | with_reducible apply kept_spdm | with_reducible apply kept_ite
    | with_reducible apply keptO_ite | with_reducible apply KeptO.next | intro _ _ _ _ | intro _ _ _ | intro _ _
    | dsimp only | split | with_reducible refine Kept.upd ?_

theorem kept_execChunkGet {κ : Nat} {z : State} (request : List Byte) (s : State) (h : Kept κ z s) :
    KeptO κ z (execChunkGet request s) := by
  unfold execChunkGet
  repeat' first
    | with_reducible assumption | with_reducible apply kept_spdm | with_reducible apply KeptO.next | intro _ _ _ _
    | intro _ _ _ | intro _ _ | dsimp only

theorem kept_execPresenceLatch {κ : Nat} {z : State} (s : State) (h : Kept κ z s) : KeptO κ z (execPresenceLatch s) := by
  unfold execPresenceLatch
  repeat' first
    | with_reducible assumption | with_reducible apply kept_setPresence | with_reducible apply kept_bump
    | with_reducible apply kept_note | with_reducible apply kept_send | with_reducible apply kept_ite
    | with_reducible apply keptO_ite | with_reducible apply KeptO.next | intro _ _ _ _ | intro _ _ _ | intro _ _
    | dsimp only | split

theorem kept_execPresenceExpiry {κ : Nat} {z : State} (s : State) (h : Kept κ z s) : KeptO κ z (execPresenceExpiry s) := by
  unfold execPresenceExpiry
  repeat' first
    | with_reducible assumption | with_reducible apply kept_setPresence | with_reducible apply kept_ite
    | with_reducible apply keptO_ite | with_reducible apply KeptO.next | intro _ _ _ _ | intro _ _ _ | intro _ _
    | dsimp only | split | with_reducible refine Kept.upd ?_

theorem RtpLe.mgcOff (a : Rtp) : RtpLe a { a with mgc := false } := RtpLe.same rfl rfl rfl rfl

theorem kept_execRecoveryBoot {κ : Nat} {z : State} (s : State) (h : Kept κ z s) (hκ : κ ≤ 1 := by omega) : KeptO κ z (execRecoveryBoot s) := by
  have h1 := kept_setF _ Reg.SEC_STATUS_RECOVERY 1 (kept_stopMain _ h)
  exact keptO_ite (KeptO.next (Kept.updRtp h1 (RtpLe.mgcOff _))) h

/-! ### Lands -/

theorem kept_modLands {κ : Nat} {z : State} (f : Lands → Lands) (s : State) (h : Kept κ z s) : Kept κ z (State.modLands f s) := by
  unfold State.modLands
  repeat' first
    | with_reducible assumption | dsimp only | with_reducible refine Kept.upd ?_

theorem kept_dropRequests {κ : Nat} {z : State} (s : State) (h : Kept κ z s) : Kept κ z (State.dropRequests s) := by
  unfold State.dropRequests
  conv => zeta
  repeat' first
    | with_reducible assumption | with_reducible apply kept_ite | intro _ _ _ _ | intro _ _ _ | intro _ _ | dsimp only
    | split | with_reducible refine Kept.upd ?_

theorem kept_jtag {κ : Nat} {z : State} (op : JtagOp) (shifted : List Byte) (s : State) (h : Kept κ z s) :
    Kept κ z (State.jtag op shifted s) := by
  unfold State.jtag
  repeat' first
    | with_reducible assumption | with_reducible apply kept_modLands | with_reducible apply kept_send
    | with_reducible apply kept_ite | intro _ _ _ _ | intro _ _ _ | intro _ _ | dsimp only | split
    | with_reducible refine Kept.upd ?_

theorem kept_execBarResize {κ : Nat} {z : State} (log2 : Nat) (s : State) (h : Kept κ z s) : KeptO κ z (execBarResize log2 s) := by
  unfold execBarResize
  repeat' first
    | with_reducible assumption | with_reducible apply kept_modLands | with_reducible apply kept_ite
    | with_reducible apply keptO_ite | with_reducible apply KeptO.next | intro _ _ _ _ | intro _ _ _ | intro _ _
    | dsimp only | split | with_reducible refine Kept.upd ?_

theorem kept_execPcieConfigRequest {κ : Nat} {z : State} (off n : Nat) (data : List Byte) (id : Nat) (s : State)
    (h : Kept κ z s) :
    KeptO κ z (execPcieConfigRequest off n data id s) := by
  unfold execPcieConfigRequest
  repeat' first
    | with_reducible assumption | with_reducible apply kept_send | with_reducible apply kept_retry
    | with_reducible apply kept_modLands | with_reducible apply kept_ite | with_reducible apply keptO_ite
    | with_reducible apply KeptO.next | intro _ _ _ _ | intro _ _ _ | intro _ _ | dsimp only | split
    | with_reducible refine Kept.upd ?_

theorem kept_execPerst {κ : Nat} {z : State} (s : State) (h : Kept κ z s) (hκ : κ ≤ 1 := by omega) : KeptO κ z (execPerst s) := by
  unfold execPerst
  conv => zeta
  repeat' first
    | with_reducible assumption | omega | with_reducible apply kept_dropRequests | with_reducible apply kept_clearRegs
    | with_reducible apply kept_modLands | with_reducible apply kept_ite | with_reducible apply keptO_ite
    | with_reducible apply KeptO.next | intro _ _ _ _ | intro _ _ _ | intro _ _ | dsimp only | split
    | with_reducible refine Kept.upd ?_ | with_reducible refine Kept.updPower ?_

theorem kept_execPerstRelease {κ : Nat} {z : State} (s : State) (h : Kept κ z s) (hκ : κ ≤ 1 := by omega) :
    KeptO κ z (execPerstRelease s) := by
  unfold execPerstRelease
  repeat' first
    | with_reducible assumption | omega | with_reducible apply KeptO.next | intro _ _ _ _ | intro _ _ _ | intro _ _
    | dsimp only | with_reducible refine Kept.upd ?_ | with_reducible refine Kept.updPower ?_

theorem kept_execJtagBypass {κ : Nat} {z : State} (s : State) (h : Kept κ z s) : KeptO κ z (execJtagBypass s) := by
  unfold execJtagBypass
  repeat' first
    | with_reducible assumption | with_reducible apply kept_jtag | with_reducible apply KeptO.next | intro _ _ _ _
    | intro _ _ _ | intro _ _ | dsimp only

theorem kept_execJtagIdcode {κ : Nat} {z : State} (s : State) (h : Kept κ z s) : KeptO κ z (execJtagIdcode s) := by
  unfold execJtagIdcode
  repeat' first
    | with_reducible assumption | with_reducible apply kept_jtag | with_reducible apply KeptO.next | intro _ _ _ _
    | intro _ _ _ | intro _ _ | dsimp only

theorem kept_execJtagSamplePreload {κ : Nat} {z : State} (levels values : List Bool) (s : State) (h : Kept κ z s) :
    KeptO κ z (execJtagSamplePreload levels values s) := by
  unfold execJtagSamplePreload
  repeat' first
    | with_reducible assumption | with_reducible apply kept_jtag | with_reducible apply kept_modLands
    | with_reducible apply kept_ite | with_reducible apply keptO_ite | with_reducible apply KeptO.next | intro _ _ _ _
    | intro _ _ _ | intro _ _ | dsimp only | split | with_reducible refine Kept.upd ?_

theorem kept_execJtagExtest {κ : Nat} {z : State} (levels values : List Bool) (s : State) (h : Kept κ z s) :
    KeptO κ z (execJtagExtest levels values s) := by
  unfold execJtagExtest
  repeat' first
    | with_reducible assumption | with_reducible apply kept_jtag | with_reducible apply kept_modLands
    | with_reducible apply kept_ite | with_reducible apply keptO_ite | with_reducible apply KeptO.next | intro _ _ _ _
    | intro _ _ _ | intro _ _ | dsimp only | split | with_reducible refine Kept.upd ?_

theorem kept_execJtagClamp {κ : Nat} {z : State} (s : State) (h : Kept κ z s) : KeptO κ z (execJtagClamp s) := by
  unfold execJtagClamp
  repeat' first
    | with_reducible assumption | with_reducible apply kept_jtag | with_reducible apply KeptO.next | intro _ _ _ _
    | intro _ _ _ | intro _ _ | dsimp only

theorem kept_execJtagHighz {κ : Nat} {z : State} (s : State) (h : Kept κ z s) : KeptO κ z (execJtagHighz s) := by
  unfold execJtagHighz
  repeat' first
    | with_reducible assumption | with_reducible apply kept_jtag | with_reducible apply KeptO.next | intro _ _ _ _
    | intro _ _ _ | intro _ _ | dsimp only

theorem kept_execJtagCwacc {κ : Nat} {z : State} (off : Nat) (value : Option Word) (blocks : List (Nat × List Byte)) (s : State)
    (h : Kept κ z s) (hκ : κ ≤ 0 := by omega) :
    KeptO κ z (execJtagCwacc off value blocks s) := by
  unfold execJtagCwacc
  conv => zeta
  repeat' first
    | with_reducible assumption | omega | with_reducible apply kept_modLands | with_reducible apply kept_writeReg
    | with_reducible apply kept_readReg | with_reducible apply kept_send | with_reducible apply kept_jtag
    | with_reducible apply kept_ite | with_reducible apply keptO_ite | with_reducible apply KeptO.next
    | with_reducible refine kept_readReg_eq ?_ ‹_› | intro _ _ _ _ | intro _ _ _ | intro _ _ | dsimp only | split
    | with_reducible refine Kept.upd ?_

theorem kept_execEntdaa {κ : Nat} {z : State} (addr : Nat) (s : State) (h : Kept κ z s) : KeptO κ z (execEntdaa addr s) := by
  unfold execEntdaa
  repeat' first
    | with_reducible assumption | with_reducible apply kept_modLands | with_reducible apply kept_ite
    | with_reducible apply keptO_ite | with_reducible apply KeptO.next | intro _ _ _ _ | intro _ _ _ | intro _ _
    | dsimp only | split | with_reducible refine Kept.upd ?_

theorem kept_execSetdasa {κ : Nat} {z : State} (static addr : Nat) (s : State) (h : Kept κ z s) :
    KeptO κ z (execSetdasa static addr s) := by
  unfold execSetdasa
  repeat' first
    | with_reducible assumption | with_reducible apply kept_modLands | with_reducible apply kept_ite
    | with_reducible apply keptO_ite | with_reducible apply KeptO.next | intro _ _ _ _ | intro _ _ _ | intro _ _
    | dsimp only | split | with_reducible refine Kept.upd ?_

/-! ### Tick -/

theorem kept_countTick {κ : Nat} {z : State} (s : State) (h : Kept κ z s) (hκ : κ ≤ 0 := by omega) :
    Kept κ z (State.countTick s) := by
  unfold State.countTick
  repeat' first
    | with_reducible assumption | omega | dsimp only | with_reducible refine Kept.upd ?_
    | with_reducible refine Kept.updPower ?_ | with_reducible refine Kept.updTide ?_

theorem kept_masterLoad {κ : Nat} {z : State} (s : State) (h : Kept κ z s) (hκ : κ ≤ 0 := by omega) :
    Kept κ z (State.masterLoad s) := by
  unfold State.masterLoad
  repeat' first
    | with_reducible assumption | omega | with_reducible apply kept_jumpCount | with_reducible apply kept_loaded
    | with_reducible apply kept_ite | dsimp only | split

theorem kept_slewTick {κ : Nat} {z : State} (s : State) (h : Kept κ z s) (hκ : κ ≤ 0 := by omega) :
    Kept κ z (State.slewTick s) := by
  unfold State.slewTick
  conv => zeta
  repeat' first
    | with_reducible assumption | omega | with_reducible apply kept_ite | dsimp only | split
    | with_reducible refine Kept.upd ?_ | with_reducible refine Kept.updPower ?_
    | with_reducible refine Kept.updTide ?_

theorem kept_deadlineTick {κ : Nat} {z : State} (i : Nat) (s : State) (h : Kept κ z s) : Kept κ z (State.deadlineTick i s) := by
  unfold State.deadlineTick
  conv => zeta
  repeat' first
    | with_reducible assumption | with_reducible apply kept_modCore | with_reducible apply kept_ite | intro _ _ _ _
    | intro _ _ _ | intro _ _ | dsimp only | split | with_reducible refine Kept.upd ?_

theorem kept_fetchTick {κ : Nat} {z : State} (s : State) (h : Kept κ z s) : Kept κ z (State.fetchTick s) := by
  unfold State.fetchTick
  repeat' first
    | with_reducible assumption | with_reducible apply kept_ite | intro _ _ _ _ | intro _ _ _ | intro _ _ | dsimp only
    | split | with_reducible refine Kept.upd ?_

theorem kept_watchTick {κ : Nat} {z : State} (s : State) (h : Kept κ z s) : Kept κ z (State.watchTick s) := by
  unfold State.watchTick
  repeat' first
    | with_reducible assumption | with_reducible apply kept_foldl | with_reducible apply kept_ite | intro _ _ _ _
    | intro _ _ _ | intro _ _ | dsimp only | split | with_reducible refine Kept.power ?_ (SameSupplies.of _)
    | with_reducible refine Kept.upd ?_

theorem kept_slowTick {κ : Nat} {z : State} (s : State) (h : Kept κ z s) : Kept κ z (State.slowTick s) := by
  unfold State.slowTick
  repeat' first
    | with_reducible assumption | with_reducible apply kept_ite | intro _ _ _ _ | intro _ _ _ | intro _ _ | dsimp only
    | split | with_reducible refine Kept.power ?_ (SameSupplies.of _) | with_reducible refine Kept.upd ?_
    | with_reducible refine Kept.updRtp ?_ (RtpLe.same rfl rfl rfl rfl)

theorem kept_restoreDue {κ : Nat} {z : State} (s : State) (h : Kept κ z s) : Kept κ z (State.restoreDue s) := by
  unfold State.restoreDue
  conv => zeta
  repeat' first
    | with_reducible assumption | with_reducible apply kept_askRepair | with_reducible apply kept_restore
    | with_reducible apply kept_foldl | intro _ _ _ _ | intro _ _ _ | intro _ _ | dsimp only
    | with_reducible refine Kept.power ?_ (SameSupplies.of _) | with_reducible refine Kept.upd ?_

theorem kept_autoTick {κ : Nat} {z : State} (p : Nat) (s : State) (h : Kept κ z s) : Kept κ z (State.autoTick p s) := by
  unfold State.autoTick
  repeat' first
    | with_reducible assumption | with_reducible apply kept_carryOut | with_reducible apply kept_ite | dsimp only | split

theorem kept_jobTick {κ : Nat} {z : State} (p : Nat) (s : State) (h : Kept κ z s) (hκ : κ ≤ 0 := by omega) :
    Kept κ z (State.jobTick p s) := by
  unfold State.jobTick
  conv => zeta
  repeat' first
    | with_reducible assumption | omega | with_reducible apply kept_loadNamed | with_reducible apply kept_tryRun
    | with_reducible apply kept_reshard | with_reducible apply kept_goReshard | with_reducible apply kept_ite
    | dsimp only | split | with_reducible refine Kept.upd ?_

theorem kept_tripTick {κ : Nat} {z : State} (s : State) (h : Kept κ z s) (hκ : κ ≤ 1 := by omega) :
    Kept κ z (State.tripTick s) := by
  unfold State.tripTick
  repeat' first
    | with_reducible assumption | omega | with_reducible apply kept_raise | with_reducible apply kept_dropVmain
    | with_reducible apply kept_ite | dsimp only | split | with_reducible refine Kept.upd ?_
    | with_reducible refine Kept.updPower ?_

theorem kept_mainTick {κ : Nat} {z : State} (env : TickEnv) (s : State) (h : Kept κ z s) (hκ : κ ≤ 0 := by omega) :
    Kept κ z (State.mainTick env s) := by
  unfold State.mainTick
  conv => zeta
  repeat' first
    | with_reducible assumption | omega | with_reducible apply kept_forCores | with_reducible apply kept_deadlineTick
    | with_reducible apply kept_fetchTick | with_reducible apply kept_watchTick
    | with_reducible apply kept_refreshTick | with_reducible apply kept_heatTick | with_reducible apply kept_setF
    | with_reducible apply kept_powerTick | with_reducible apply kept_trimTick | with_reducible apply kept_autoTick
    | with_reducible apply kept_restoreDue | with_reducible apply kept_jobTick | with_reducible apply kept_flushCq
    | with_reducible apply kept_controlPosition | with_reducible apply kept_retryReqs
    | with_reducible apply kept_retryHeads | with_reducible apply kept_tripTick | with_reducible apply kept_foldl
    | with_reducible apply kept_forCores | intro _ _ _ _ | intro _ _ _ | intro _ _ | dsimp only
    | with_reducible refine Kept.upd ?_

theorem kept_execTideTick {κ : Nat} {z : State} (env : TickEnv) (s : State) (h : Kept κ z s) (hκ : κ ≤ 0 := by omega) :
    KeptO κ z (execTideTick env s) := by
  unfold execTideTick
  conv => zeta
  repeat' first
    | with_reducible assumption | omega | with_reducible apply kept_countTick | with_reducible apply kept_masterLoad
    | with_reducible apply kept_markPulse | with_reducible apply kept_slewTick | with_reducible apply kept_slowTick
    | with_reducible apply kept_readSensors | with_reducible apply kept_mainTick | with_reducible apply kept_ite
    | with_reducible apply keptO_ite | with_reducible apply KeptO.next | intro _ _ _ _ | intro _ _ _ | intro _ _
    | dsimp only | split

end Sys2Proof.Laws
end

