-- ==== Sys2Proof/WellFormed.lean ====
section
/-! DEFINITION. Which commands are well formed: every number that names a unit of the package, a ring, a table entry or a field of
a frame is in the range the spec gives it. A command with a number out of range comes from no sender the spec describes. -/

namespace Sys2Proof

/-- What a number of a command names. -/
inductive Operand where
  /-- A core of the 8,192 of R5; a polder (R369); a scalar register (R87); a command's sequence number (R101); a context of a core
  (R159). -/
  | core | polder | xreg | seq | ctx
  /-- A point of a tick, in thousandths (R189). -/
  | phase
  /-- A lane port and its virtual channel (R404, R411); a lane of a port (R405); a culvert (R18), its direction, a beat's number, its wires
  (R441). -/
  | port | vc | lane | culv | dir | beat | wires
  /-- A media front-end (R259); a link and a group (R287). -/
  | mf | link | group
  /-- A collective engine, an operation of a polder on it, a bucket tile of it (R451, R453). -/
  | ce | op | bucket
  /-- A kiln, a layer, a stack, a die, a power domain (R329, R334, R364, R5, R516). -/
  | kiln | layer | stack | die | dom
  /-- A fetch's number (R349); an entry of the registry (R391); a ring of the MGC (R510); a set of polders (R400). -/
  | fetch | entry | ring | mask
  /-- A control-window offset (R8); log2 of BAR2's size (R509); the strap SB_ADDR and an I3C address (R548). -/
  | window | bar | strap | i3c
  /-- FTYPE, a 12-bit SEQ, FIRST and CRED of a frame (R408). -/
  | ftype | frameSeq | first | cred
  /-- A byte, a 32-bit word. -/
  | byte | word
  deriving DecidableEq, Repr

/-- How many values a number may take. -/
def Operand.limit : Operand → Nat
  | .core => 8192
  | .polder => 8
  | .xreg => 32
  | .seq => 65536
  | .ctx => 128
  | .phase => 1000
  | .port => 16
  | .vc => 16
  | .lane => 8
  | .culv => 8
  | .dir => 2
  | .beat => 1024
  | .wires => 5377
  | .mf => 4
  | .link => 512
  | .group => 256
  | .ce => 2
  | .op => 1024
  | .bucket => 2 ^ 32
  | .kiln => 16
  | .layer => 65536
  | .stack => 16
  | .die => 6
  | .dom => 288
  | .fetch => 65536
  | .entry => 256
  | .ring => 3
  | .mask => 256
  | .window => 0x4000000
  | .bar => 64
  | .strap => 8
  | .i3c => 128
  | .ftype => 4
  | .frameSeq => 4096
  | .first => 1024
  | .cred => 2048
  | .byte => 256
  | .word => 2 ^ 32

/-- Ports and numbers that a source names. -/
def From.operands : From → List (Operand × Nat)
  | .mesh _ => []
  | .lane port vc => [(.port, port), (.vc, vc)]

def FetchFrom.operands : FetchFrom → List (Operand × Nat)
  | .lane port vc => [(.port, port), (.vc, vc)]
  | .host id => [(.fetch, id)]

def ColFrom.operands : ColFrom → List (Operand × Nat)
  | .lane port vc => [(.port, port), (.vc, vc)]
  | .own ce polder op tile => [(.ce, ce), (.polder, polder), (.op, op), (.bucket, tile)]

def SecFrom.operands : SecFrom → List (Operand × Nat)
  | .host polder => [(.polder, polder)]
  | .sideBand _ => []

/-- The header's numbers of a frame (R408). -/
def Frame.operands (f : Frame) : List (Operand × Nat) :=
  [(.ftype, f.ftype), (.vc, f.vc), (.first, f.first), (.frameSeq, f.seq), (.frameSeq, f.ack), (.vc, f.cvc), (.cred, f.cred)]

/-- The numbers of a training block (R426). -/
def TrainBlock.operands (b : TrainBlock) : List (Operand × Nat) := [(.lane, b.lane)]

/-- The numbers of a command, each with what it names. -/
def Instr.operands : Instr → List (Operand × Nat)
  | .tideTick _ => []
  | .loadArm => []
  | .tideLoad seconds => [(.word, seconds)]
  | .tmarkEdge phase => [(.phase, phase)]
  | .tmarkMissing => []
  | .trefLost => []
  | .trefReturn => []
  | .syncExchange phase => [(.phase, phase)]
  | .timeReq port f _ phase turn => [(.port, port), (.phase, phase), (.word, turn)] ++ f.operands
  | .timeResp port f _ phase => [(.port, port), (.phase, phase)] ++ f.operands
  | .syncMiss phase => [(.phase, phase)]
  | .tmarkPulseEnd => []
  | .wheelRun polder => [(.polder, polder)]
  | .wheelStop polder => [(.polder, polder)]
  | .whlTblDataRead => []
  | .whlTblDataWrite _ => []
  | .turnStart polder => [(.polder, polder)]
  | .slotStart core phase => [(.core, core), (.phase, phase)]
  | .slotEnd core phase => [(.core, core), (.phase, phase)]
  | .guardExpiry polder => [(.polder, polder)]
  | .sqSample => []
  | .nop core => [(.core, core)]
  | .add core => [(.core, core)]
  | .sub core => [(.core, core)]
  | .mul core => [(.core, core)]
  | .andOp core => [(.core, core)]
  | .orOp core => [(.core, core)]
  | .xorOp core => [(.core, core)]
  | .shl core => [(.core, core)]
  | .shr core => [(.core, core)]
  | .sra core => [(.core, core)]
  | .slt core => [(.core, core)]
  | .sltu core => [(.core, core)]
  | .addi core => [(.core, core)]
  | .andi core => [(.core, core)]
  | .ori core => [(.core, core)]
  | .xori core => [(.core, core)]
  | .shli core => [(.core, core)]
  | .shri core => [(.core, core)]
  | .lui core => [(.core, core)]
  | .ld core => [(.core, core)]
  | .ldw core => [(.core, core)]
  | .st core => [(.core, core)]
  | .stw core => [(.core, core)]
  | .beq core => [(.core, core)]
  | .bne core => [(.core, core)]
  | .blt core => [(.core, core)]
  | .bge core => [(.core, core)]
  | .jal core => [(.core, core)]
  | .jr core => [(.core, core)]
  | .cmdw core => [(.core, core)]
  | .issue core => [(.core, core)]
  | .listCmd core => [(.core, core)]
  | .waitc core => [(.core, core)]
  | .pollc core => [(.core, core)]
  | .fence core => [(.core, core)]
  | .waits core => [(.core, core)]
  | .rdt core => [(.core, core)]
  | .haltOp core => [(.core, core)]
  | .scoreboardAccept core => [(.core, core)]
  | .matmul core seq => [(.core, core), (.seq, seq)]
  | .matw core seq => [(.core, core), (.seq, seq)]
  | .mdump core seq => [(.core, core), (.seq, seq)]
  | .vstream core seq => [(.core, core), (.seq, seq)]
  | .vext core seq => [(.core, core), (.seq, seq)]
  | .vroll core seq => [(.core, core), (.seq, seq)]
  | .xmove core seq _ => [(.core, core), (.seq, seq)]
  | .xatom core seq => [(.core, core), (.seq, seq)]
  | .xfill core seq => [(.core, core), (.seq, seq)]
  | .msend core seq => [(.core, core), (.seq, seq)]
  | .mrecv core seq => [(.core, core), (.seq, seq)]
  | .mflush core seq => [(.core, core), (.seq, seq)]
  | .qpush core seq => [(.core, core), (.seq, seq)]
  | .take core seq => [(.core, core), (.seq, seq)]
  | .inject core seq => [(.core, core), (.seq, seq)]
  | .release core seq => [(.core, core), (.seq, seq)]
  | .reservedOpcode core seq => [(.core, core), (.seq, seq)]
  | .commandCompletion core seq => [(.core, core), (.seq, seq)]
  | .coreAbandon core => [(.core, core)]
  | .stepEntryRestart core => [(.core, core)]
  | .coreReset core => [(.core, core)]
  | .sstep core => [(.core, core)]
  | .haltRequest core => [(.core, core)]
  | .resumeCore core => [(.core, core)]
  | .coreRun core => [(.core, core)]
  | .dbgAccSel core _ => [(.core, core)]
  | .accSnapshotReady core => [(.core, core)]
  | .coreDbgXregWrite core n _ _ => [(.core, core), (.xreg, n)]
  | .apertureRead _ _ _ => []
  | .apertureWrite _ _ _ => []
  | .chnData src => src.operands
  | .chnAck src => src.operands
  | .chnCredit src => src.operands
  | .openNotice src => src.operands
  | .closedNotice src => src.operands
  | .ctxOpen core => [(.core, core)]
  | .ctxClose core => [(.core, core)]
  | .replyTimeout core ctx => [(.core, core), (.ctx, ctx)]
  | .ringPoll mf polder => [(.mf, mf), (.polder, polder)]
  | .mfeSliceEnd mf => [(.mf, mf)]
  | .positionFilled mf polder idx => [(.mf, mf), (.polder, polder), (.word, idx)]
  | .landingWrite mf polder idx _ _ => [(.mf, mf), (.polder, polder), (.word, idx)]
  | .tokLoad mf => [(.mf, mf)]
  | .mfeRun mf polder => [(.mf, mf), (.polder, polder)]
  | .mark mf polder => [(.mf, mf), (.polder, polder)]
  | .rewind mf polder => [(.mf, mf), (.polder, polder)]
  | .linkOpen link => [(.link, link)]
  | .linkClose link => [(.link, link)]
  | .pipOpen port vc => [(.port, port), (.vc, vc)]
  | .pipOpenRetry link => [(.link, link)]
  | .pipPart src _ => src.operands
  | .pipAck src => src.operands
  | .pipHead src => src.operands
  | .groupInit group _ => [(.group, group)]
  | .pipAbandon polder => [(.polder, polder)]
  | .delivery ce polder op index => [(.ce, ce), (.polder, polder), (.op, op), (.bucket, index)]
  | .fetchReq port vc => [(.port, port), (.vc, vc)]
  | .fetchData src => src.operands
  | .fetchTimeout id => [(.fetch, id)]
  | .wbData port vc => [(.port, port), (.vc, vc)]
  | .wbAck src => src.operands
  | .rootComputation kiln layer block => [(.kiln, kiln), (.layer, layer), (.word, block)]
  | .tblLoad => []
  | .weirRefill => []
  | .throttleRise dom => [(.dom, dom)]
  | .currentLimit => []
  | .applyRepair stack => [(.stack, stack)]
  | .marginStart stack => [(.stack, stack)]
  | .marginDone stack _ => [(.stack, stack)]
  | .wipe polders => [(.mask, polders)]
  | .wipeDone _ => []
  | .pinEntry index => [(.entry, index)]
  | .unpinEntry index => [(.entry, index)]
  | .evictEntry index => [(.entry, index)]
  | .regLoad index => [(.entry, index)]
  | .regLoadComplete index _ => [(.entry, index)]
  | .dataFrame port f _ => [(.port, port)] ++ f.operands
  | .idleFrame port f _ => [(.port, port)] ++ f.operands
  | .capsFrame port f _ => [(.port, port)] ++ f.operands
  | .creditInit port f _ => [(.port, port)] ++ f.operands
  | .vcStatus port f _ => [(.port, port)] ++ f.operands
  | .reqFrame port f _ => [(.port, port)] ++ f.operands
  | .reqAckFrame port f _ => [(.port, port)] ++ f.operands
  | .ctrlBad port _ => [(.port, port)]
  | .trainingBlock port b => [(.port, port)] ++ b.operands
  | .ackTimeout port => [(.port, port)]
  | .nakRepeat port => [(.port, port)]
  | .replayBound port => [(.port, port)]
  | .leakTimer port vc => [(.port, port), (.vc, vc)]
  | .trainingLimit port => [(.port, port)]
  | .retrainLimit port => [(.port, port)]
  | .reqTimeout port => [(.port, port)]
  | .portEnable port => [(.port, port)]
  | .portReset port => [(.port, port)]
  | .portDown port => [(.port, port)]
  | .portRetrain port => [(.port, port)]
  | .exportPkt port vc => [(.port, port), (.vc, vc)]
  | .exportDrain polder => [(.polder, polder)]
  | .culvertBeat culv dir seq _ _ => [(.culv, culv), (.dir, dir), (.beat, seq)]
  | .culvertReplayBound culv => [(.culv, culv)]
  | .culvertRecoveryLimit culv => [(.culv, culv)]
  | .rejoin culv => [(.culv, culv)]
  | .contributionPull ce polder op entry => [(.ce, ce), (.polder, polder), (.op, op), (.word, entry)]
  | .redPart port vc => [(.port, port), (.vc, vc)]
  | .redResult port vc => [(.port, port), (.vc, vc)]
  | .digestRec src => src.operands
  | .gatherData src => src.operands
  | .permData src => src.operands
  | .permAck port vc => [(.port, port), (.vc, vc)]
  | .installJob polder => [(.polder, polder)]
  | .installSectionsDone polder => [(.polder, polder)]
  | .retire polder => [(.polder, polder)]
  | .reshard polder => [(.polder, polder)]
  | .attest polder => [(.polder, polder)]
  | .keyImport polder => [(.polder, polder)]
  | .keyClear polder => [(.polder, polder)]
  | .takeOwnership src _ => src.operands
  | .replaceKeys src _ => src.operands
  | .lcRelease src _ => src.operands
  | .enterRma src _ => src.operands
  | .allowRollback src => src.operands
  | .commitSvn => []
  | .firmwareUpdate _ => []
  | .pldmMonitoring _ _ => []
  | .getVersion _ => []
  | .getCapabilities _ => []
  | .negotiateAlgorithms _ => []
  | .getDigests _ => []
  | .getCertificate _ => []
  | .challenge _ => []
  | .getMeasurements _ _ _ => []
  | .chunkGet _ => []
  | .presenceLatch => []
  | .presenceExpiry => []
  | .recoveryBoot => []
  | .ringEnable ring => [(.ring, ring)]
  | .barResize log2 => [(.bar, log2)]
  | .pcieConfigRequest _ _ _ _ => []
  | .perst => []
  | .jtagBypass => []
  | .jtagIdcode => []
  | .jtagSamplePreload _ _ => []
  | .jtagExtest _ _ => []
  | .jtagClamp => []
  | .jtagHighz => []
  | .jtagCwacc off _ _ => [(.window, off)]
  | .entdaa addr => [(.i3c, addr)]
  | .setdasa static addr => [(.i3c, static), (.i3c, addr)]
  | .vauxGood _ addr => [(.strap, addr)]
  | .pwrgoodRise _ => []
  | .pwrgoodFall => []
  | .resetAssert => []
  | .resetRelease _ => []
  | .coldReset _ => []
  | .warmReset _ => []
  | .dieReset die _ => [(.die, die)]
  | .polderReset polder => [(.polder, polder)]
  | .dieClockLoss die => [(.die, die)]
  | .dieClockReturn die _ => [(.die, die)]
  | .dieClockTimeout die => [(.die, die)]
  | .watchdogExpiry polder => [(.polder, polder)]
  | .recovAbandon polder => [(.polder, polder)]
  | .recovRestore polder => [(.polder, polder)]
  | .snap => []
  | .counterClear off => [(.window, off)]
  | .registerWrite off _ _ => [(.window, off)]
  | .vauxLoss => []
  | .reservedSequencerOpcode core => [(.core, core)]
  | .culvertTrainingEnd culv bad0 bad1 own recorded => [(.culv, culv), (.wires, bad0), (.wires, bad1), (.byte, own), (.byte, recorded)]
  | .timingMonitorWarning dom => [(.dom, dom)]
  | .perstRelease => []

/-- Every number of a command is in its range. -/
def Instr.wf (c : Instr) : Bool := c.operands.all fun x => decide (x.2 < x.1.limit)

end Sys2Proof
end

