-- ==== Sys2Proof/Laws/PerInstr.lean ====
section
/-! SUPPORT. What holds of every command as syntax, one lemma for each constructor. -/

namespace Sys2Proof.Laws.Ranges

/-- Every number of a well-formed command is in its range. -/
def Statement (c : Instr) : Prop := c.wf = true → ∀ x ∈ c.operands, x.2 < x.1.limit

/-- The check of WellFormed says this of every command. -/
theorem of_wf (c : Instr) : Statement c := by
  intro h x hx
  simpa using List.all_eq_true.1 h x hx

theorem tideTick a0 : Statement (.tideTick a0) := of_wf _
theorem loadArm : Statement (.loadArm) := of_wf _
theorem tideLoad a0 : Statement (.tideLoad a0) := of_wf _
theorem tmarkEdge a0 : Statement (.tmarkEdge a0) := of_wf _
theorem tmarkMissing : Statement (.tmarkMissing) := of_wf _
theorem trefLost : Statement (.trefLost) := of_wf _
theorem trefReturn : Statement (.trefReturn) := of_wf _
theorem syncExchange a0 : Statement (.syncExchange a0) := of_wf _
theorem timeReq a0 a1 a2 a3 a4 : Statement (.timeReq a0 a1 a2 a3 a4) := of_wf _
theorem timeResp a0 a1 a2 a3 : Statement (.timeResp a0 a1 a2 a3) := of_wf _
theorem syncMiss a0 : Statement (.syncMiss a0) := of_wf _
theorem tmarkPulseEnd : Statement (.tmarkPulseEnd) := of_wf _
theorem wheelRun a0 : Statement (.wheelRun a0) := of_wf _
theorem wheelStop a0 : Statement (.wheelStop a0) := of_wf _
theorem whlTblDataRead : Statement (.whlTblDataRead) := of_wf _
theorem whlTblDataWrite a0 : Statement (.whlTblDataWrite a0) := of_wf _
theorem turnStart a0 : Statement (.turnStart a0) := of_wf _
theorem slotStart a0 a1 : Statement (.slotStart a0 a1) := of_wf _
theorem slotEnd a0 a1 : Statement (.slotEnd a0 a1) := of_wf _
theorem guardExpiry a0 : Statement (.guardExpiry a0) := of_wf _
theorem sqSample : Statement (.sqSample) := of_wf _
theorem nop a0 : Statement (.nop a0) := of_wf _
theorem add a0 : Statement (.add a0) := of_wf _
theorem sub a0 : Statement (.sub a0) := of_wf _
theorem mul a0 : Statement (.mul a0) := of_wf _
theorem andOp a0 : Statement (.andOp a0) := of_wf _
theorem orOp a0 : Statement (.orOp a0) := of_wf _
theorem xorOp a0 : Statement (.xorOp a0) := of_wf _
theorem shl a0 : Statement (.shl a0) := of_wf _
theorem shr a0 : Statement (.shr a0) := of_wf _
theorem sra a0 : Statement (.sra a0) := of_wf _
theorem slt a0 : Statement (.slt a0) := of_wf _
theorem sltu a0 : Statement (.sltu a0) := of_wf _
theorem addi a0 : Statement (.addi a0) := of_wf _
theorem andi a0 : Statement (.andi a0) := of_wf _
theorem ori a0 : Statement (.ori a0) := of_wf _
theorem xori a0 : Statement (.xori a0) := of_wf _
theorem shli a0 : Statement (.shli a0) := of_wf _
theorem shri a0 : Statement (.shri a0) := of_wf _
theorem lui a0 : Statement (.lui a0) := of_wf _
theorem ld a0 : Statement (.ld a0) := of_wf _
theorem ldw a0 : Statement (.ldw a0) := of_wf _
theorem st a0 : Statement (.st a0) := of_wf _
theorem stw a0 : Statement (.stw a0) := of_wf _
theorem beq a0 : Statement (.beq a0) := of_wf _
theorem bne a0 : Statement (.bne a0) := of_wf _
theorem blt a0 : Statement (.blt a0) := of_wf _
theorem bge a0 : Statement (.bge a0) := of_wf _
theorem jal a0 : Statement (.jal a0) := of_wf _
theorem jr a0 : Statement (.jr a0) := of_wf _
theorem cmdw a0 : Statement (.cmdw a0) := of_wf _
theorem issue a0 : Statement (.issue a0) := of_wf _
theorem listCmd a0 : Statement (.listCmd a0) := of_wf _
theorem waitc a0 : Statement (.waitc a0) := of_wf _
theorem pollc a0 : Statement (.pollc a0) := of_wf _
theorem fence a0 : Statement (.fence a0) := of_wf _
theorem waits a0 : Statement (.waits a0) := of_wf _
theorem rdt a0 : Statement (.rdt a0) := of_wf _
theorem haltOp a0 : Statement (.haltOp a0) := of_wf _
theorem scoreboardAccept a0 : Statement (.scoreboardAccept a0) := of_wf _
theorem matmul a0 a1 : Statement (.matmul a0 a1) := of_wf _
theorem matw a0 a1 : Statement (.matw a0 a1) := of_wf _
theorem mdump a0 a1 : Statement (.mdump a0 a1) := of_wf _
theorem vstream a0 a1 : Statement (.vstream a0 a1) := of_wf _
theorem vext a0 a1 : Statement (.vext a0 a1) := of_wf _
theorem vroll a0 a1 : Statement (.vroll a0 a1) := of_wf _
theorem xmove a0 a1 a2 : Statement (.xmove a0 a1 a2) := of_wf _
theorem xatom a0 a1 : Statement (.xatom a0 a1) := of_wf _
theorem xfill a0 a1 : Statement (.xfill a0 a1) := of_wf _
theorem msend a0 a1 : Statement (.msend a0 a1) := of_wf _
theorem mrecv a0 a1 : Statement (.mrecv a0 a1) := of_wf _
theorem mflush a0 a1 : Statement (.mflush a0 a1) := of_wf _
theorem qpush a0 a1 : Statement (.qpush a0 a1) := of_wf _
theorem take a0 a1 : Statement (.take a0 a1) := of_wf _
theorem inject a0 a1 : Statement (.inject a0 a1) := of_wf _
theorem release a0 a1 : Statement (.release a0 a1) := of_wf _
theorem reservedOpcode a0 a1 : Statement (.reservedOpcode a0 a1) := of_wf _
theorem commandCompletion a0 a1 : Statement (.commandCompletion a0 a1) := of_wf _
theorem coreAbandon a0 : Statement (.coreAbandon a0) := of_wf _
theorem stepEntryRestart a0 : Statement (.stepEntryRestart a0) := of_wf _
theorem coreReset a0 : Statement (.coreReset a0) := of_wf _
theorem sstep a0 : Statement (.sstep a0) := of_wf _
theorem haltRequest a0 : Statement (.haltRequest a0) := of_wf _
theorem resumeCore a0 : Statement (.resumeCore a0) := of_wf _
theorem coreRun a0 : Statement (.coreRun a0) := of_wf _
theorem dbgAccSel a0 a1 : Statement (.dbgAccSel a0 a1) := of_wf _
theorem accSnapshotReady a0 : Statement (.accSnapshotReady a0) := of_wf _
theorem coreDbgXregWrite a0 a1 a2 a3 : Statement (.coreDbgXregWrite a0 a1 a2 a3) := of_wf _
theorem apertureRead a0 a1 a2 : Statement (.apertureRead a0 a1 a2) := of_wf _
theorem apertureWrite a0 a1 a2 : Statement (.apertureWrite a0 a1 a2) := of_wf _
theorem chnData a0 : Statement (.chnData a0) := of_wf _
theorem chnAck a0 : Statement (.chnAck a0) := of_wf _
theorem chnCredit a0 : Statement (.chnCredit a0) := of_wf _
theorem openNotice a0 : Statement (.openNotice a0) := of_wf _
theorem closedNotice a0 : Statement (.closedNotice a0) := of_wf _
theorem ctxOpen a0 : Statement (.ctxOpen a0) := of_wf _
theorem ctxClose a0 : Statement (.ctxClose a0) := of_wf _
theorem replyTimeout a0 a1 : Statement (.replyTimeout a0 a1) := of_wf _
theorem ringPoll a0 a1 : Statement (.ringPoll a0 a1) := of_wf _
theorem mfeSliceEnd a0 : Statement (.mfeSliceEnd a0) := of_wf _
theorem positionFilled a0 a1 a2 : Statement (.positionFilled a0 a1 a2) := of_wf _
theorem landingWrite a0 a1 a2 a3 a4 : Statement (.landingWrite a0 a1 a2 a3 a4) := of_wf _
theorem tokLoad a0 : Statement (.tokLoad a0) := of_wf _
theorem mfeRun a0 a1 : Statement (.mfeRun a0 a1) := of_wf _
theorem mark a0 a1 : Statement (.mark a0 a1) := of_wf _
theorem rewind a0 a1 : Statement (.rewind a0 a1) := of_wf _
theorem linkOpen a0 : Statement (.linkOpen a0) := of_wf _
theorem linkClose a0 : Statement (.linkClose a0) := of_wf _
theorem pipOpen a0 a1 : Statement (.pipOpen a0 a1) := of_wf _
theorem pipOpenRetry a0 : Statement (.pipOpenRetry a0) := of_wf _
theorem pipPart a0 a1 : Statement (.pipPart a0 a1) := of_wf _
theorem pipAck a0 : Statement (.pipAck a0) := of_wf _
theorem pipHead a0 : Statement (.pipHead a0) := of_wf _
theorem groupInit a0 a1 : Statement (.groupInit a0 a1) := of_wf _
theorem pipAbandon a0 : Statement (.pipAbandon a0) := of_wf _
theorem delivery a0 a1 a2 a3 : Statement (.delivery a0 a1 a2 a3) := of_wf _
theorem fetchReq a0 a1 : Statement (.fetchReq a0 a1) := of_wf _
theorem fetchData a0 : Statement (.fetchData a0) := of_wf _
theorem fetchTimeout a0 : Statement (.fetchTimeout a0) := of_wf _
theorem wbData a0 a1 : Statement (.wbData a0 a1) := of_wf _
theorem wbAck a0 : Statement (.wbAck a0) := of_wf _
theorem rootComputation a0 a1 a2 : Statement (.rootComputation a0 a1 a2) := of_wf _
theorem tblLoad : Statement (.tblLoad) := of_wf _
theorem weirRefill : Statement (.weirRefill) := of_wf _
theorem throttleRise a0 : Statement (.throttleRise a0) := of_wf _
theorem currentLimit : Statement (.currentLimit) := of_wf _
theorem applyRepair a0 : Statement (.applyRepair a0) := of_wf _
theorem marginStart a0 : Statement (.marginStart a0) := of_wf _
theorem marginDone a0 a1 : Statement (.marginDone a0 a1) := of_wf _
theorem wipe a0 : Statement (.wipe a0) := of_wf _
theorem wipeDone a0 : Statement (.wipeDone a0) := of_wf _
theorem pinEntry a0 : Statement (.pinEntry a0) := of_wf _
theorem unpinEntry a0 : Statement (.unpinEntry a0) := of_wf _
theorem evictEntry a0 : Statement (.evictEntry a0) := of_wf _
theorem regLoad a0 : Statement (.regLoad a0) := of_wf _
theorem regLoadComplete a0 a1 : Statement (.regLoadComplete a0 a1) := of_wf _
theorem dataFrame a0 a1 a2 : Statement (.dataFrame a0 a1 a2) := of_wf _
theorem idleFrame a0 a1 a2 : Statement (.idleFrame a0 a1 a2) := of_wf _
theorem capsFrame a0 a1 a2 : Statement (.capsFrame a0 a1 a2) := of_wf _
theorem creditInit a0 a1 a2 : Statement (.creditInit a0 a1 a2) := of_wf _
theorem vcStatus a0 a1 a2 : Statement (.vcStatus a0 a1 a2) := of_wf _
theorem reqFrame a0 a1 a2 : Statement (.reqFrame a0 a1 a2) := of_wf _
theorem reqAckFrame a0 a1 a2 : Statement (.reqAckFrame a0 a1 a2) := of_wf _
theorem ctrlBad a0 a1 : Statement (.ctrlBad a0 a1) := of_wf _
theorem trainingBlock a0 a1 : Statement (.trainingBlock a0 a1) := of_wf _
theorem ackTimeout a0 : Statement (.ackTimeout a0) := of_wf _
theorem nakRepeat a0 : Statement (.nakRepeat a0) := of_wf _
theorem replayBound a0 : Statement (.replayBound a0) := of_wf _
theorem leakTimer a0 a1 : Statement (.leakTimer a0 a1) := of_wf _
theorem trainingLimit a0 : Statement (.trainingLimit a0) := of_wf _
theorem retrainLimit a0 : Statement (.retrainLimit a0) := of_wf _
theorem reqTimeout a0 : Statement (.reqTimeout a0) := of_wf _
theorem portEnable a0 : Statement (.portEnable a0) := of_wf _
theorem portReset a0 : Statement (.portReset a0) := of_wf _
theorem portDown a0 : Statement (.portDown a0) := of_wf _
theorem portRetrain a0 : Statement (.portRetrain a0) := of_wf _
theorem exportPkt a0 a1 : Statement (.exportPkt a0 a1) := of_wf _
theorem exportDrain a0 : Statement (.exportDrain a0) := of_wf _
theorem culvertBeat a0 a1 a2 a3 a4 : Statement (.culvertBeat a0 a1 a2 a3 a4) := of_wf _
theorem culvertReplayBound a0 : Statement (.culvertReplayBound a0) := of_wf _
theorem culvertRecoveryLimit a0 : Statement (.culvertRecoveryLimit a0) := of_wf _
theorem rejoin a0 : Statement (.rejoin a0) := of_wf _
theorem contributionPull a0 a1 a2 a3 : Statement (.contributionPull a0 a1 a2 a3) := of_wf _
theorem redPart a0 a1 : Statement (.redPart a0 a1) := of_wf _
theorem redResult a0 a1 : Statement (.redResult a0 a1) := of_wf _
theorem digestRec a0 : Statement (.digestRec a0) := of_wf _
theorem gatherData a0 : Statement (.gatherData a0) := of_wf _
theorem permData a0 : Statement (.permData a0) := of_wf _
theorem permAck a0 a1 : Statement (.permAck a0 a1) := of_wf _
theorem installJob a0 : Statement (.installJob a0) := of_wf _
theorem installSectionsDone a0 : Statement (.installSectionsDone a0) := of_wf _
theorem retire a0 : Statement (.retire a0) := of_wf _
theorem reshard a0 : Statement (.reshard a0) := of_wf _
theorem attest a0 : Statement (.attest a0) := of_wf _
theorem keyImport a0 : Statement (.keyImport a0) := of_wf _
theorem keyClear a0 : Statement (.keyClear a0) := of_wf _
theorem takeOwnership a0 a1 : Statement (.takeOwnership a0 a1) := of_wf _
theorem replaceKeys a0 a1 : Statement (.replaceKeys a0 a1) := of_wf _
theorem lcRelease a0 a1 : Statement (.lcRelease a0 a1) := of_wf _
theorem enterRma a0 a1 : Statement (.enterRma a0 a1) := of_wf _
theorem allowRollback a0 : Statement (.allowRollback a0) := of_wf _
theorem commitSvn : Statement (.commitSvn) := of_wf _
theorem firmwareUpdate a0 : Statement (.firmwareUpdate a0) := of_wf _
theorem pldmMonitoring a0 a1 : Statement (.pldmMonitoring a0 a1) := of_wf _
theorem getVersion a0 : Statement (.getVersion a0) := of_wf _
theorem getCapabilities a0 : Statement (.getCapabilities a0) := of_wf _
theorem negotiateAlgorithms a0 : Statement (.negotiateAlgorithms a0) := of_wf _
theorem getDigests a0 : Statement (.getDigests a0) := of_wf _
theorem getCertificate a0 : Statement (.getCertificate a0) := of_wf _
theorem challenge a0 : Statement (.challenge a0) := of_wf _
theorem getMeasurements a0 a1 a2 : Statement (.getMeasurements a0 a1 a2) := of_wf _
theorem chunkGet a0 : Statement (.chunkGet a0) := of_wf _
theorem presenceLatch : Statement (.presenceLatch) := of_wf _
theorem presenceExpiry : Statement (.presenceExpiry) := of_wf _
theorem recoveryBoot : Statement (.recoveryBoot) := of_wf _
theorem ringEnable a0 : Statement (.ringEnable a0) := of_wf _
theorem barResize a0 : Statement (.barResize a0) := of_wf _
theorem pcieConfigRequest a0 a1 a2 a3 : Statement (.pcieConfigRequest a0 a1 a2 a3) := of_wf _
theorem perst : Statement (.perst) := of_wf _
theorem jtagBypass : Statement (.jtagBypass) := of_wf _
theorem jtagIdcode : Statement (.jtagIdcode) := of_wf _
theorem jtagSamplePreload a0 a1 : Statement (.jtagSamplePreload a0 a1) := of_wf _
theorem jtagExtest a0 a1 : Statement (.jtagExtest a0 a1) := of_wf _
theorem jtagClamp : Statement (.jtagClamp) := of_wf _
theorem jtagHighz : Statement (.jtagHighz) := of_wf _
theorem jtagCwacc a0 a1 a2 : Statement (.jtagCwacc a0 a1 a2) := of_wf _
theorem entdaa a0 : Statement (.entdaa a0) := of_wf _
theorem setdasa a0 a1 : Statement (.setdasa a0 a1) := of_wf _
theorem vauxGood a0 a1 : Statement (.vauxGood a0 a1) := of_wf _
theorem pwrgoodRise a0 : Statement (.pwrgoodRise a0) := of_wf _
theorem pwrgoodFall : Statement (.pwrgoodFall) := of_wf _
theorem resetAssert : Statement (.resetAssert) := of_wf _
theorem resetRelease a0 : Statement (.resetRelease a0) := of_wf _
theorem coldReset a0 : Statement (.coldReset a0) := of_wf _
theorem warmReset a0 : Statement (.warmReset a0) := of_wf _
theorem dieReset a0 a1 : Statement (.dieReset a0 a1) := of_wf _
theorem polderReset a0 : Statement (.polderReset a0) := of_wf _
theorem dieClockLoss a0 : Statement (.dieClockLoss a0) := of_wf _
theorem dieClockReturn a0 a1 : Statement (.dieClockReturn a0 a1) := of_wf _
theorem dieClockTimeout a0 : Statement (.dieClockTimeout a0) := of_wf _
theorem watchdogExpiry a0 : Statement (.watchdogExpiry a0) := of_wf _
theorem recovAbandon a0 : Statement (.recovAbandon a0) := of_wf _
theorem recovRestore a0 : Statement (.recovRestore a0) := of_wf _
theorem snap : Statement (.snap) := of_wf _
theorem counterClear a0 : Statement (.counterClear a0) := of_wf _
theorem registerWrite a0 a1 a2 : Statement (.registerWrite a0 a1 a2) := of_wf _
theorem vauxLoss : Statement (.vauxLoss) := of_wf _
theorem reservedSequencerOpcode a0 : Statement (.reservedSequencerOpcode a0) := of_wf _
theorem culvertTrainingEnd a0 a1 a2 a3 a4 : Statement (.culvertTrainingEnd a0 a1 a2 a3 a4) := of_wf _
theorem timingMonitorWarning a0 : Statement (.timingMonitorWarning a0) := of_wf _
theorem perstRelease : Statement (.perstRelease) := of_wf _

end Sys2Proof.Laws.Ranges
end

