-- ==== Sys2Proof/Laws/Regs.lean ====
section
/-! SUPPORT. Laws of register fields: a field read after it is set, after another field is set, and which fields lie apart. -/

namespace Sys2Proof.Laws

open Sys2Proof.Machine

/-! ### Bit fields -/

theorem bitsOf_le (v hi lo : Nat) : bitsOf v hi lo * 2 ^ lo ≤ v := by
  unfold bitsOf
  calc v / 2 ^ lo % 2 ^ (hi + 1 - lo) * 2 ^ lo ≤ v / 2 ^ lo * 2 ^ lo := Nat.mul_le_mul_right _ (Nat.mod_le _ _)
    _ ≤ v := Nat.div_mul_le_self v _

/-- A number cut at a field: what lies below it, the field, what lies above. -/
theorem split_at (v hi lo : Nat) (h : lo ≤ hi) :
    v = v % 2 ^ lo + bitsOf v hi lo * 2 ^ lo + v / 2 ^ (hi + 1) * 2 ^ (hi + 1) := by
  have e : 2 ^ (hi + 1) = 2 ^ lo * 2 ^ (hi + 1 - lo) := by rw [← Nat.pow_add]; congr 1; omega
  have h1 := Nat.mod_add_div v (2 ^ lo)
  have h2 := Nat.mod_add_div (v / 2 ^ lo) (2 ^ (hi + 1 - lo))
  have h3 : v / 2 ^ (hi + 1) = v / 2 ^ lo / 2 ^ (hi + 1 - lo) := by rw [e, Nat.div_div_eq_div_mul]
  unfold bitsOf
  rw [h3, e]
  generalize v / 2 ^ lo = q at *
  generalize q / 2 ^ (hi + 1 - lo) = r at *
  generalize q % 2 ^ (hi + 1 - lo) = w at *
  generalize v % 2 ^ lo = u at *
  generalize 2 ^ lo = A at *
  generalize 2 ^ (hi + 1 - lo) = B at *
  subst h2
  rw [← h1]
  ring

/-- A number with a field replaced, cut at the field. -/
theorem setBits_eq (v hi lo x : Nat) (h : lo ≤ hi) :
    setBits v hi lo x = v % 2 ^ lo + x % 2 ^ (hi + 1 - lo) * 2 ^ lo + v / 2 ^ (hi + 1) * 2 ^ (hi + 1) := by
  have := split_at v hi lo h
  unfold setBits
  rw [Nat.mul_comm (2 ^ lo) (bitsOf v hi lo), Nat.mul_comm (2 ^ lo) (x % _)]
  omega

theorem setBits_low (v hi lo x : Nat) (h : lo ≤ hi) : setBits v hi lo x % 2 ^ lo = v % 2 ^ lo := by
  have e : 2 ^ (hi + 1) = 2 ^ lo * 2 ^ (hi + 1 - lo) := by rw [← Nat.pow_add]; congr 1; omega
  rw [setBits_eq v hi lo x h, e, show v % 2 ^ lo + x % 2 ^ (hi + 1 - lo) * 2 ^ lo + v / (2 ^ lo * 2 ^ (hi + 1 - lo)) * (2 ^ lo * 2 ^ (hi + 1 - lo)) =
    v % 2 ^ lo + 2 ^ lo * (x % 2 ^ (hi + 1 - lo) + v / (2 ^ lo * 2 ^ (hi + 1 - lo)) * 2 ^ (hi + 1 - lo)) by ring, Nat.add_mul_mod_self_left,
    Nat.mod_mod]

theorem setBits_div (v hi lo x : Nat) (h : lo ≤ hi) :
    setBits v hi lo x / 2 ^ lo = x % 2 ^ (hi + 1 - lo) + v / 2 ^ (hi + 1) * 2 ^ (hi + 1 - lo) := by
  have e : 2 ^ (hi + 1) = 2 ^ lo * 2 ^ (hi + 1 - lo) := by rw [← Nat.pow_add]; congr 1; omega
  rw [setBits_eq v hi lo x h, show v % 2 ^ lo + x % 2 ^ (hi + 1 - lo) * 2 ^ lo + v / 2 ^ (hi + 1) * 2 ^ (hi + 1) =
    v % 2 ^ lo + 2 ^ lo * (x % 2 ^ (hi + 1 - lo) + v / 2 ^ (hi + 1) * 2 ^ (hi + 1 - lo)) by rw [e]; ring,
    Nat.add_mul_div_left _ _ (Nat.two_pow_pos lo), Nat.div_eq_of_lt (Nat.mod_lt _ (Nat.two_pow_pos lo)), Nat.zero_add]

theorem setBits_high (v hi lo x : Nat) (h : lo ≤ hi) : setBits v hi lo x / 2 ^ (hi + 1) = v / 2 ^ (hi + 1) := by
  have e : 2 ^ (hi + 1) = 2 ^ lo * 2 ^ (hi + 1 - lo) := by rw [← Nat.pow_add]; congr 1; omega
  conv_lhs => rw [e, ← Nat.div_div_eq_div_mul, setBits_div v hi lo x h]
  rw [Nat.add_mul_div_right _ _ (Nat.two_pow_pos _), Nat.div_eq_of_lt (Nat.mod_lt _ (Nat.two_pow_pos _)), Nat.zero_add]

/-- A field read after it is replaced. -/
theorem bitsOf_setBits (v hi lo x : Nat) (h : lo ≤ hi) : bitsOf (setBits v hi lo x) hi lo = x % 2 ^ (hi + 1 - lo) := by
  unfold bitsOf
  rw [setBits_div v hi lo x h, Nat.add_mul_mod_self_right, Nat.mod_mod]

/-- A field below or above one that is replaced. -/
theorem bitsOf_setBits_apart (v hi lo x hi' lo' : Nat) (h : lo ≤ hi) (h' : lo' ≤ hi') (a : hi' < lo ∨ hi < lo') :
    bitsOf (setBits v hi lo x) hi' lo' = bitsOf v hi' lo' := by
  rcases a with a | a
  · have key (w : Nat) : bitsOf w hi' lo' = w % 2 ^ lo / 2 ^ lo' % 2 ^ (hi' + 1 - lo') := by
      unfold bitsOf
      have e : 2 ^ lo = 2 ^ lo' * 2 ^ (lo - lo') := by rw [← Nat.pow_add]; congr 1; omega
      rw [e, Nat.mod_mul_right_div_self, Nat.mod_mod_of_dvd _ (Nat.pow_dvd_pow 2 (by omega))]
    rw [key, key v, setBits_low v hi lo x h]
  · have key (w : Nat) : bitsOf w hi' lo' = w / 2 ^ (hi + 1) / 2 ^ (lo' - (hi + 1)) % 2 ^ (hi' + 1 - lo') := by
      unfold bitsOf
      rw [Nat.div_div_eq_div_mul, ← Nat.pow_add]
      congr 3
      omega
    rw [key, key v, setBits_high v hi lo x h]

/-! ### Words of registers -/

variable (d : Nat → Word)

theorem get_wordsSet (m : SMap Word) (o v n k : Nat) (h : ∀ i < n, k ≠ o + 4 * i) :
    SMap.get d (wordsSet d m o v n) k = SMap.get d m k := by
  unfold wordsSet
  induction n with
  | zero => rfl
  | succ n ih =>
    rw [foldUpto, get_set, if_neg (h n (by omega))]
    exact ih fun i hi => h i (by omega)

theorem get_wordsSet_in (m : SMap Word) (o v n i : Nat) (h : i < n) :
    SMap.get d (wordsSet d m o v n) (o + 4 * i) = BitVec.ofNat 32 (v / 2 ^ (32 * i)) := by
  unfold wordsSet
  induction n with
  | zero => omega
  | succ n ih =>
    rw [foldUpto, get_set]
    by_cases hi : i = n
    · rw [if_pos (by omega), hi]
    · rw [if_neg (by omega)]
      exact ih (by omega)

/-- A register's words read where they were just set. -/
theorem wordsGet_wordsSet (m : SMap Word) (o v n : Nat) : wordsGet d (wordsSet d m o v n) o n = v % 2 ^ (32 * n) := by
  suffices h : ∀ k ≤ n, wordsGet d (wordsSet d m o v n) o k = v % 2 ^ (32 * k) from h n le_rfl
  intro k
  induction k with
  | zero => intro _; simp [wordsGet, Nat.mod_one]
  | succ k ih =>
    intro hk
    rw [wordsGet, ih (by omega), get_wordsSet_in d m o v n k (by omega), BitVec.toNat_ofNat, show 32 * (k + 1) = 32 * k + 32 by ring, Nat.pow_add,
      Nat.mod_mul]

/-- A register's words read after words elsewhere are set. -/
theorem wordsGet_wordsSet_apart (m : SMap Word) (o v n o' n' : Nat) (h : o' + 4 * n' ≤ o ∨ o + 4 * n ≤ o') :
    wordsGet d (wordsSet d m o v n) o' n' = wordsGet d m o' n' := by
  induction n' with
  | zero => rfl
  | succ k ih =>
    rw [wordsGet, wordsGet, ih (by omega), get_wordsSet d m o v n _ fun i hi => by omega]

/-! ### Fields -/

theorem setBits_lt (v hi lo x n : Nat) (h : lo ≤ hi) (hn : hi < n) (hv : v < 2 ^ n) : setBits v hi lo x < 2 ^ n := by
  have e : 2 ^ n = 2 ^ (hi + 1) * 2 ^ (n - (hi + 1)) := by rw [← Nat.pow_add]; congr 1; omega
  have h1 : setBits v hi lo x / 2 ^ (hi + 1) < 2 ^ (n - (hi + 1)) := by
    rw [setBits_high _ hi lo x h]
    refine Nat.div_lt_of_lt_mul ?_
    rwa [← e]
  rw [e]
  exact (Nat.div_lt_iff_lt_mul (Nat.two_pow_pos _)).mp h1 |>.trans_eq (Nat.mul_comm _ _)

theorem wordsGet_lt (m : SMap Word) (o n : Nat) : wordsGet d m o n < 2 ^ (32 * n) := by
  induction n with
  | zero => simp [wordsGet]
  | succ n ih =>
    have h := (SMap.get d m (o + 4 * n)).isLt
    rw [wordsGet, show 32 * (n + 1) = 32 + 32 * n by ring, Nat.pow_add]
    rw [Nat.mul_comm]
    calc wordsGet d m o n + (SMap.get d m (o + 4 * n)).toNat * 2 ^ (32 * n)
        < 2 ^ (32 * n) + (SMap.get d m (o + 4 * n)).toNat * 2 ^ (32 * n) := by omega
      _ = ((SMap.get d m (o + 4 * n)).toNat + 1) * 2 ^ (32 * n) := by ring
      _ ≤ 2 ^ 32 * 2 ^ (32 * n) := Nat.mul_le_mul_right _ (by omega)

/-- A field read after it is set: the value, cut to the field. -/
theorem fieldGet_fieldSet (m : SMap Word) (f : FieldRef) (x : Nat) (h : Placed f) :
    fieldGet d (fieldSet d m f x) f = x % 2 ^ (f.hi + 1 - f.lo) := by
  unfold fieldGet fieldSet
  rw [wordsGet_wordsSet, Nat.mod_eq_of_lt (setBits_lt _ _ _ _ _ h.1 h.2 (wordsGet_lt d m _ _)), bitsOf_setBits _ _ _ _ h.1]

/-- A field read after another is set. -/
theorem fieldGet_fieldSet_apart (m : SMap Word) (f g : FieldRef) (x : Nat) (h : Apart f g) :
    fieldGet d (fieldSet d m g x) f = fieldGet d m f := by
  unfold fieldGet fieldSet
  rcases h with h | h | ⟨ho, hw, hf, hg, hn, hb⟩
  · rw [wordsGet_wordsSet_apart d m _ _ _ _ _ (Or.inl h)]
  · rw [wordsGet_wordsSet_apart d m _ _ _ _ _ (Or.inr h)]
  · rw [ho, hw, wordsGet_wordsSet, Nat.mod_eq_of_lt (setBits_lt _ _ _ _ _ hg hn (wordsGet_lt d m _ _)),
      bitsOf_setBits_apart _ _ _ _ _ _ hg hf hb]

/-- A field of the control window read after it is set. -/
theorem getF_setF (s : State) (f : FieldRef) (x : Nat) (h : Placed f) : (s.setF f x).getF f = x % 2 ^ (f.hi + 1 - f.lo) :=
  fieldGet_fieldSet winReset s.regs f x h

/-- A field of the control window read after another is set. -/
theorem getF_setF_apart (s : State) (f g : FieldRef) (x : Nat) (h : Apart f g) : (s.setF g x).getF f = s.getF f :=
  fieldGet_fieldSet_apart winReset s.regs f g x h

/-- A field read after a counter elsewhere goes up. -/
theorem getF_bump_apart (s : State) (f g : FieldRef) (n : Nat) (h : Apart f g) : (s.bump g n).getF f = s.getF f :=
  getF_setF_apart s f g _ h

/-- A counter after it goes up: it wraps to zero. -/
theorem getF_bump (s : State) (f : FieldRef) (n : Nat) (h : Placed f) : (s.bump f n).getF f = (s.getF f + n) % 2 ^ (f.hi + 1 - f.lo) :=
  getF_setF s f _ h

/-- A field of a core page read after it is set. -/
theorem core_getF_setF (c : Core) (f : FieldRef) (x : Nat) (h : Placed f) : (c.setF f x).getF f = x % 2 ^ (f.hi + 1 - f.lo) :=
  fieldGet_fieldSet pageReset c.page f x h

/-- A field of a core page read after another is set. -/
theorem core_getF_setF_apart (c : Core) (f g : FieldRef) (x : Nat) (h : Apart f g) : (c.setF g x).getF f = c.getF f :=
  fieldGet_fieldSet_apart pageReset c.page f g x h

/-- A field set, every other field of the control window left alone. -/
theorem onlyRegs_setF (s : State) (g : FieldRef) (x : Nat) : OnlyRegs [g] s (s.setF g x) :=
  ⟨rfl, fun f h => getF_setF_apart s f g x (h g (List.mem_singleton_self g))⟩

theorem onlyRegs_bump (s : State) (g : FieldRef) (n : Nat) : OnlyRegs [g] s (s.bump g n) := onlyRegs_setF s g _

/-- Two updates of register words in a row. -/
theorem onlyRegs_trans {gs hs : List FieldRef} {a b c : State} (h : OnlyRegs gs a b) (k : OnlyRegs hs b c) : OnlyRegs (gs ++ hs) a c := by
  refine ⟨by rw [k.1, h.1], fun f hf => ?_⟩
  rw [k.2 f fun g hg => hf g (List.mem_append_right _ hg), h.2 f fun g hg => hf g (List.mem_append_left _ hg)]

theorem regsBut_refl (gs : List FieldRef) (s : State) : RegsBut gs s s := fun _ _ => rfl

end Sys2Proof.Laws
end

