-- ==== Sys2Proof/Laws/State.lean ====
section
/-! SUPPORT. What the basic updates leave unchanged, field by field, and what the views read after them. -/

namespace Sys2Proof.Laws

open Sys2Proof.Machine

/-! ### putBytes -/
@[simp] theorem putBytes_pending (s : State) (a : Nat) (l : List Byte) : (s.putBytes a l).pending = s.pending := rfl
@[simp] theorem putBytes_free (s : State) (a : Nat) (l : List Byte) : (s.putBytes a l).free = s.free := rfl
@[simp] theorem putBytes_pkgId (s : State) (a : Nat) (l : List Byte) : (s.putBytes a l).pkgId = s.pkgId := rfl
@[simp] theorem putBytes_tags (s : State) (a : Nat) (l : List Byte) : (s.putBytes a l).tags = s.tags := rfl
@[simp] theorem putBytes_regs (s : State) (a : Nat) (l : List Byte) : (s.putBytes a l).regs = s.regs := rfl
@[simp] theorem putBytes_power (s : State) (a : Nat) (l : List Byte) : (s.putBytes a l).power = s.power := rfl
@[simp] theorem putBytes_idents (s : State) (a : Nat) (l : List Byte) : (s.putBytes a l).idents = s.idents := rfl
@[simp] theorem putBytes_tide (s : State) (a : Nat) (l : List Byte) : (s.putBytes a l).tide = s.tide := rfl
@[simp] theorem putBytes_wheels (s : State) (a : Nat) (l : List Byte) : (s.putBytes a l).wheels = s.wheels := rfl
@[simp] theorem putBytes_routes (s : State) (a : Nat) (l : List Byte) : (s.putBytes a l).routes = s.routes := rfl
@[simp] theorem putBytes_sets (s : State) (a : Nat) (l : List Byte) : (s.putBytes a l).sets = s.sets := rfl
@[simp] theorem putBytes_cores (s : State) (a : Nat) (l : List Byte) : (s.putBytes a l).cores = s.cores := rfl
@[simp] theorem putBytes_tel (s : State) (a : Nat) (l : List Byte) : (s.putBytes a l).tel = s.tel := rfl
@[simp] theorem putBytes_reserved (s : State) (a : Nat) (l : List Byte) : (s.putBytes a l).reserved = s.reserved := rfl
@[simp] theorem putBytes_ports (s : State) (a : Nat) (l : List Byte) : (s.putBytes a l).ports = s.ports := rfl
@[simp] theorem putBytes_drains (s : State) (a : Nat) (l : List Byte) : (s.putBytes a l).drains = s.drains := rfl
@[simp] theorem putBytes_culverts (s : State) (a : Nat) (l : List Byte) : (s.putBytes a l).culverts = s.culverts := rfl
@[simp] theorem putBytes_slices (s : State) (a : Nat) (l : List Byte) : (s.putBytes a l).slices = s.slices := rfl
@[simp] theorem putBytes_deferred (s : State) (a : Nat) (l : List Byte) : (s.putBytes a l).deferred = s.deferred := rfl
@[simp] theorem putBytes_behind (s : State) (a : Nat) (l : List Byte) : (s.putBytes a l).behind = s.behind := rfl
@[simp] theorem putBytes_weirs (s : State) (a : Nat) (l : List Byte) : (s.putBytes a l).weirs = s.weirs := rfl
@[simp] theorem putBytes_links (s : State) (a : Nat) (l : List Byte) : (s.putBytes a l).links = s.links := rfl
@[simp] theorem putBytes_stash (s : State) (a : Nat) (l : List Byte) : (s.putBytes a l).stash = s.stash := rfl
@[simp] theorem putBytes_firings (s : State) (a : Nat) (l : List Byte) : (s.putBytes a l).firings = s.firings := rfl
@[simp] theorem putBytes_ops (s : State) (a : Nat) (l : List Byte) : (s.putBytes a l).ops = s.ops := rfl
@[simp] theorem putBytes_subs (s : State) (a : Nat) (l : List Byte) : (s.putBytes a l).subs = s.subs := rfl
@[simp] theorem putBytes_kilns (s : State) (a : Nat) (l : List Byte) : (s.putBytes a l).kilns = s.kilns := rfl
@[simp] theorem putBytes_ktables (s : State) (a : Nat) (l : List Byte) : (s.putBytes a l).ktables = s.ktables := rfl
@[simp] theorem putBytes_sigmas (s : State) (a : Nat) (l : List Byte) : (s.putBytes a l).sigmas = s.sigmas := rfl
@[simp] theorem putBytes_fetches (s : State) (a : Nat) (l : List Byte) : (s.putBytes a l).fetches = s.fetches := rfl
@[simp] theorem putBytes_serial (s : State) (a : Nat) (l : List Byte) : (s.putBytes a l).serial = s.serial := rfl
@[simp] theorem putBytes_mfes (s : State) (a : Nat) (l : List Byte) : (s.putBytes a l).mfes = s.mfes := rfl
@[simp] theorem putBytes_mfSlice (s : State) (a : Nat) (l : List Byte) : (s.putBytes a l).mfSlice = s.mfSlice := rfl
@[simp] theorem putBytes_toks (s : State) (a : Nat) (l : List Byte) : (s.putBytes a l).toks = s.toks := rfl
@[simp] theorem putBytes_keys (s : State) (a : Nat) (l : List Byte) : (s.putBytes a l).keys = s.keys := rfl
@[simp] theorem putBytes_wiping (s : State) (a : Nat) (l : List Byte) : (s.putBytes a l).wiping = s.wiping := rfl
@[simp] theorem putBytes_testing (s : State) (a : Nat) (l : List Byte) : (s.putBytes a l).testing = s.testing := rfl
@[simp] theorem putBytes_moved (s : State) (a : Nat) (l : List Byte) : (s.putBytes a l).moved = s.moved := rfl
@[simp] theorem putBytes_soft (s : State) (a : Nat) (l : List Byte) : (s.putBytes a l).soft = s.soft := rfl
@[simp] theorem putBytes_flash (s : State) (a : Nat) (l : List Byte) : (s.putBytes a l).flash = s.flash := rfl
@[simp] theorem putBytes_rtp (s : State) (a : Nat) (l : List Byte) : (s.putBytes a l).rtp = s.rtp := rfl
@[simp] theorem putBytes_lands (s : State) (a : Nat) (l : List Byte) : (s.putBytes a l).lands = s.lands := rfl
@[simp] theorem putBytes_windows (s : State) (a : Nat) (l : List Byte) : (s.putBytes a l).windows = s.windows := rfl
@[simp] theorem putBytes_jobs (s : State) (a : Nat) (l : List Byte) : (s.putBytes a l).jobs = s.jobs := rfl
@[simp] theorem putBytes_taken (s : State) (a : Nat) (l : List Byte) : (s.putBytes a l).taken = s.taken := rfl
@[simp] theorem putBytes_lined (s : State) (a : Nat) (l : List Byte) : (s.putBytes a l).lined = s.lined := rfl
@[simp] theorem putBytes_owedCq (s : State) (a : Nat) (l : List Byte) : (s.putBytes a l).owedCq = s.owedCq := rfl
@[simp] theorem putBytes_sq (s : State) (a : Nat) (l : List Byte) : (s.putBytes a l).sq = s.sq := rfl
@[simp] theorem putBytes_events (s : State) (a : Nat) (l : List Byte) : (s.putBytes a l).events = s.events := rfl
@[simp] theorem putBytes_alert (s : State) (a : Nat) (l : List Byte) : (s.putBytes a l).alert = s.alert := rfl
@[simp] theorem putBytes_net (s : State) (a : Nat) (l : List Byte) : (s.putBytes a l).net = s.net := rfl
@[simp] theorem putBytes_out (s : State) (a : Nat) (l : List Byte) : (s.putBytes a l).out = s.out := rfl

/-! ### putMeta -/
@[simp] theorem putMeta_pending (s : State) (a : Nat) (m : DWord × DWord) : (s.putMeta a m).pending = s.pending := rfl
@[simp] theorem putMeta_free (s : State) (a : Nat) (m : DWord × DWord) : (s.putMeta a m).free = s.free := rfl
@[simp] theorem putMeta_pkgId (s : State) (a : Nat) (m : DWord × DWord) : (s.putMeta a m).pkgId = s.pkgId := rfl
@[simp] theorem putMeta_mem (s : State) (a : Nat) (m : DWord × DWord) : (s.putMeta a m).mem = s.mem := rfl
@[simp] theorem putMeta_regs (s : State) (a : Nat) (m : DWord × DWord) : (s.putMeta a m).regs = s.regs := rfl
@[simp] theorem putMeta_power (s : State) (a : Nat) (m : DWord × DWord) : (s.putMeta a m).power = s.power := rfl
@[simp] theorem putMeta_idents (s : State) (a : Nat) (m : DWord × DWord) : (s.putMeta a m).idents = s.idents := rfl
@[simp] theorem putMeta_tide (s : State) (a : Nat) (m : DWord × DWord) : (s.putMeta a m).tide = s.tide := rfl
@[simp] theorem putMeta_wheels (s : State) (a : Nat) (m : DWord × DWord) : (s.putMeta a m).wheels = s.wheels := rfl
@[simp] theorem putMeta_routes (s : State) (a : Nat) (m : DWord × DWord) : (s.putMeta a m).routes = s.routes := rfl
@[simp] theorem putMeta_sets (s : State) (a : Nat) (m : DWord × DWord) : (s.putMeta a m).sets = s.sets := rfl
@[simp] theorem putMeta_cores (s : State) (a : Nat) (m : DWord × DWord) : (s.putMeta a m).cores = s.cores := rfl
@[simp] theorem putMeta_tel (s : State) (a : Nat) (m : DWord × DWord) : (s.putMeta a m).tel = s.tel := rfl
@[simp] theorem putMeta_reserved (s : State) (a : Nat) (m : DWord × DWord) : (s.putMeta a m).reserved = s.reserved := rfl
@[simp] theorem putMeta_ports (s : State) (a : Nat) (m : DWord × DWord) : (s.putMeta a m).ports = s.ports := rfl
@[simp] theorem putMeta_drains (s : State) (a : Nat) (m : DWord × DWord) : (s.putMeta a m).drains = s.drains := rfl
@[simp] theorem putMeta_culverts (s : State) (a : Nat) (m : DWord × DWord) : (s.putMeta a m).culverts = s.culverts := rfl
@[simp] theorem putMeta_slices (s : State) (a : Nat) (m : DWord × DWord) : (s.putMeta a m).slices = s.slices := rfl
@[simp] theorem putMeta_deferred (s : State) (a : Nat) (m : DWord × DWord) : (s.putMeta a m).deferred = s.deferred := rfl
@[simp] theorem putMeta_behind (s : State) (a : Nat) (m : DWord × DWord) : (s.putMeta a m).behind = s.behind := rfl
@[simp] theorem putMeta_weirs (s : State) (a : Nat) (m : DWord × DWord) : (s.putMeta a m).weirs = s.weirs := rfl
@[simp] theorem putMeta_links (s : State) (a : Nat) (m : DWord × DWord) : (s.putMeta a m).links = s.links := rfl
@[simp] theorem putMeta_stash (s : State) (a : Nat) (m : DWord × DWord) : (s.putMeta a m).stash = s.stash := rfl
@[simp] theorem putMeta_firings (s : State) (a : Nat) (m : DWord × DWord) : (s.putMeta a m).firings = s.firings := rfl
@[simp] theorem putMeta_ops (s : State) (a : Nat) (m : DWord × DWord) : (s.putMeta a m).ops = s.ops := rfl
@[simp] theorem putMeta_subs (s : State) (a : Nat) (m : DWord × DWord) : (s.putMeta a m).subs = s.subs := rfl
@[simp] theorem putMeta_kilns (s : State) (a : Nat) (m : DWord × DWord) : (s.putMeta a m).kilns = s.kilns := rfl
@[simp] theorem putMeta_ktables (s : State) (a : Nat) (m : DWord × DWord) : (s.putMeta a m).ktables = s.ktables := rfl
@[simp] theorem putMeta_sigmas (s : State) (a : Nat) (m : DWord × DWord) : (s.putMeta a m).sigmas = s.sigmas := rfl
@[simp] theorem putMeta_fetches (s : State) (a : Nat) (m : DWord × DWord) : (s.putMeta a m).fetches = s.fetches := rfl
@[simp] theorem putMeta_serial (s : State) (a : Nat) (m : DWord × DWord) : (s.putMeta a m).serial = s.serial := rfl
@[simp] theorem putMeta_mfes (s : State) (a : Nat) (m : DWord × DWord) : (s.putMeta a m).mfes = s.mfes := rfl
@[simp] theorem putMeta_mfSlice (s : State) (a : Nat) (m : DWord × DWord) : (s.putMeta a m).mfSlice = s.mfSlice := rfl
@[simp] theorem putMeta_toks (s : State) (a : Nat) (m : DWord × DWord) : (s.putMeta a m).toks = s.toks := rfl
@[simp] theorem putMeta_keys (s : State) (a : Nat) (m : DWord × DWord) : (s.putMeta a m).keys = s.keys := rfl
@[simp] theorem putMeta_wiping (s : State) (a : Nat) (m : DWord × DWord) : (s.putMeta a m).wiping = s.wiping := rfl
@[simp] theorem putMeta_testing (s : State) (a : Nat) (m : DWord × DWord) : (s.putMeta a m).testing = s.testing := rfl
@[simp] theorem putMeta_moved (s : State) (a : Nat) (m : DWord × DWord) : (s.putMeta a m).moved = s.moved := rfl
@[simp] theorem putMeta_soft (s : State) (a : Nat) (m : DWord × DWord) : (s.putMeta a m).soft = s.soft := rfl
@[simp] theorem putMeta_flash (s : State) (a : Nat) (m : DWord × DWord) : (s.putMeta a m).flash = s.flash := rfl
@[simp] theorem putMeta_rtp (s : State) (a : Nat) (m : DWord × DWord) : (s.putMeta a m).rtp = s.rtp := rfl
@[simp] theorem putMeta_lands (s : State) (a : Nat) (m : DWord × DWord) : (s.putMeta a m).lands = s.lands := rfl
@[simp] theorem putMeta_windows (s : State) (a : Nat) (m : DWord × DWord) : (s.putMeta a m).windows = s.windows := rfl
@[simp] theorem putMeta_jobs (s : State) (a : Nat) (m : DWord × DWord) : (s.putMeta a m).jobs = s.jobs := rfl
@[simp] theorem putMeta_taken (s : State) (a : Nat) (m : DWord × DWord) : (s.putMeta a m).taken = s.taken := rfl
@[simp] theorem putMeta_lined (s : State) (a : Nat) (m : DWord × DWord) : (s.putMeta a m).lined = s.lined := rfl
@[simp] theorem putMeta_owedCq (s : State) (a : Nat) (m : DWord × DWord) : (s.putMeta a m).owedCq = s.owedCq := rfl
@[simp] theorem putMeta_sq (s : State) (a : Nat) (m : DWord × DWord) : (s.putMeta a m).sq = s.sq := rfl
@[simp] theorem putMeta_events (s : State) (a : Nat) (m : DWord × DWord) : (s.putMeta a m).events = s.events := rfl
@[simp] theorem putMeta_alert (s : State) (a : Nat) (m : DWord × DWord) : (s.putMeta a m).alert = s.alert := rfl
@[simp] theorem putMeta_net (s : State) (a : Nat) (m : DWord × DWord) : (s.putMeta a m).net = s.net := rfl
@[simp] theorem putMeta_out (s : State) (a : Nat) (m : DWord × DWord) : (s.putMeta a m).out = s.out := rfl

/-! ### putTile -/
@[simp] theorem putTile_pending (s : State) (a : Nat) (t : Tile) : (s.putTile a t).pending = s.pending := rfl
@[simp] theorem putTile_free (s : State) (a : Nat) (t : Tile) : (s.putTile a t).free = s.free := rfl
@[simp] theorem putTile_pkgId (s : State) (a : Nat) (t : Tile) : (s.putTile a t).pkgId = s.pkgId := rfl
@[simp] theorem putTile_regs (s : State) (a : Nat) (t : Tile) : (s.putTile a t).regs = s.regs := rfl
@[simp] theorem putTile_power (s : State) (a : Nat) (t : Tile) : (s.putTile a t).power = s.power := rfl
@[simp] theorem putTile_idents (s : State) (a : Nat) (t : Tile) : (s.putTile a t).idents = s.idents := rfl
@[simp] theorem putTile_tide (s : State) (a : Nat) (t : Tile) : (s.putTile a t).tide = s.tide := rfl
@[simp] theorem putTile_wheels (s : State) (a : Nat) (t : Tile) : (s.putTile a t).wheels = s.wheels := rfl
@[simp] theorem putTile_routes (s : State) (a : Nat) (t : Tile) : (s.putTile a t).routes = s.routes := rfl
@[simp] theorem putTile_sets (s : State) (a : Nat) (t : Tile) : (s.putTile a t).sets = s.sets := rfl
@[simp] theorem putTile_cores (s : State) (a : Nat) (t : Tile) : (s.putTile a t).cores = s.cores := rfl
@[simp] theorem putTile_tel (s : State) (a : Nat) (t : Tile) : (s.putTile a t).tel = s.tel := rfl
@[simp] theorem putTile_reserved (s : State) (a : Nat) (t : Tile) : (s.putTile a t).reserved = s.reserved := rfl
@[simp] theorem putTile_ports (s : State) (a : Nat) (t : Tile) : (s.putTile a t).ports = s.ports := rfl
@[simp] theorem putTile_drains (s : State) (a : Nat) (t : Tile) : (s.putTile a t).drains = s.drains := rfl
@[simp] theorem putTile_culverts (s : State) (a : Nat) (t : Tile) : (s.putTile a t).culverts = s.culverts := rfl
@[simp] theorem putTile_slices (s : State) (a : Nat) (t : Tile) : (s.putTile a t).slices = s.slices := rfl
@[simp] theorem putTile_deferred (s : State) (a : Nat) (t : Tile) : (s.putTile a t).deferred = s.deferred := rfl
@[simp] theorem putTile_behind (s : State) (a : Nat) (t : Tile) : (s.putTile a t).behind = s.behind := rfl
@[simp] theorem putTile_weirs (s : State) (a : Nat) (t : Tile) : (s.putTile a t).weirs = s.weirs := rfl
@[simp] theorem putTile_links (s : State) (a : Nat) (t : Tile) : (s.putTile a t).links = s.links := rfl
@[simp] theorem putTile_stash (s : State) (a : Nat) (t : Tile) : (s.putTile a t).stash = s.stash := rfl
@[simp] theorem putTile_firings (s : State) (a : Nat) (t : Tile) : (s.putTile a t).firings = s.firings := rfl
@[simp] theorem putTile_ops (s : State) (a : Nat) (t : Tile) : (s.putTile a t).ops = s.ops := rfl
@[simp] theorem putTile_subs (s : State) (a : Nat) (t : Tile) : (s.putTile a t).subs = s.subs := rfl
@[simp] theorem putTile_kilns (s : State) (a : Nat) (t : Tile) : (s.putTile a t).kilns = s.kilns := rfl
@[simp] theorem putTile_ktables (s : State) (a : Nat) (t : Tile) : (s.putTile a t).ktables = s.ktables := rfl
@[simp] theorem putTile_sigmas (s : State) (a : Nat) (t : Tile) : (s.putTile a t).sigmas = s.sigmas := rfl
@[simp] theorem putTile_fetches (s : State) (a : Nat) (t : Tile) : (s.putTile a t).fetches = s.fetches := rfl
@[simp] theorem putTile_serial (s : State) (a : Nat) (t : Tile) : (s.putTile a t).serial = s.serial := rfl
@[simp] theorem putTile_mfes (s : State) (a : Nat) (t : Tile) : (s.putTile a t).mfes = s.mfes := rfl
@[simp] theorem putTile_mfSlice (s : State) (a : Nat) (t : Tile) : (s.putTile a t).mfSlice = s.mfSlice := rfl
@[simp] theorem putTile_toks (s : State) (a : Nat) (t : Tile) : (s.putTile a t).toks = s.toks := rfl
@[simp] theorem putTile_keys (s : State) (a : Nat) (t : Tile) : (s.putTile a t).keys = s.keys := rfl
@[simp] theorem putTile_wiping (s : State) (a : Nat) (t : Tile) : (s.putTile a t).wiping = s.wiping := rfl
@[simp] theorem putTile_testing (s : State) (a : Nat) (t : Tile) : (s.putTile a t).testing = s.testing := rfl
@[simp] theorem putTile_moved (s : State) (a : Nat) (t : Tile) : (s.putTile a t).moved = s.moved := rfl
@[simp] theorem putTile_soft (s : State) (a : Nat) (t : Tile) : (s.putTile a t).soft = s.soft := rfl
@[simp] theorem putTile_flash (s : State) (a : Nat) (t : Tile) : (s.putTile a t).flash = s.flash := rfl
@[simp] theorem putTile_rtp (s : State) (a : Nat) (t : Tile) : (s.putTile a t).rtp = s.rtp := rfl
@[simp] theorem putTile_lands (s : State) (a : Nat) (t : Tile) : (s.putTile a t).lands = s.lands := rfl
@[simp] theorem putTile_windows (s : State) (a : Nat) (t : Tile) : (s.putTile a t).windows = s.windows := rfl
@[simp] theorem putTile_jobs (s : State) (a : Nat) (t : Tile) : (s.putTile a t).jobs = s.jobs := rfl
@[simp] theorem putTile_taken (s : State) (a : Nat) (t : Tile) : (s.putTile a t).taken = s.taken := rfl
@[simp] theorem putTile_lined (s : State) (a : Nat) (t : Tile) : (s.putTile a t).lined = s.lined := rfl
@[simp] theorem putTile_owedCq (s : State) (a : Nat) (t : Tile) : (s.putTile a t).owedCq = s.owedCq := rfl
@[simp] theorem putTile_sq (s : State) (a : Nat) (t : Tile) : (s.putTile a t).sq = s.sq := rfl
@[simp] theorem putTile_events (s : State) (a : Nat) (t : Tile) : (s.putTile a t).events = s.events := rfl
@[simp] theorem putTile_alert (s : State) (a : Nat) (t : Tile) : (s.putTile a t).alert = s.alert := rfl
@[simp] theorem putTile_net (s : State) (a : Nat) (t : Tile) : (s.putTile a t).net = s.net := rfl
@[simp] theorem putTile_out (s : State) (a : Nat) (t : Tile) : (s.putTile a t).out = s.out := rfl

/-! ### wipeRange -/
@[simp] theorem wipeRange_pending (s : State) (lo hi : Nat) : (s.wipeRange lo hi).pending = s.pending := rfl
@[simp] theorem wipeRange_free (s : State) (lo hi : Nat) : (s.wipeRange lo hi).free = s.free := rfl
@[simp] theorem wipeRange_pkgId (s : State) (lo hi : Nat) : (s.wipeRange lo hi).pkgId = s.pkgId := rfl
@[simp] theorem wipeRange_regs (s : State) (lo hi : Nat) : (s.wipeRange lo hi).regs = s.regs := rfl
@[simp] theorem wipeRange_power (s : State) (lo hi : Nat) : (s.wipeRange lo hi).power = s.power := rfl
@[simp] theorem wipeRange_idents (s : State) (lo hi : Nat) : (s.wipeRange lo hi).idents = s.idents := rfl
@[simp] theorem wipeRange_tide (s : State) (lo hi : Nat) : (s.wipeRange lo hi).tide = s.tide := rfl
@[simp] theorem wipeRange_wheels (s : State) (lo hi : Nat) : (s.wipeRange lo hi).wheels = s.wheels := rfl
@[simp] theorem wipeRange_routes (s : State) (lo hi : Nat) : (s.wipeRange lo hi).routes = s.routes := rfl
@[simp] theorem wipeRange_sets (s : State) (lo hi : Nat) : (s.wipeRange lo hi).sets = s.sets := rfl
@[simp] theorem wipeRange_cores (s : State) (lo hi : Nat) : (s.wipeRange lo hi).cores = s.cores := rfl
@[simp] theorem wipeRange_tel (s : State) (lo hi : Nat) : (s.wipeRange lo hi).tel = s.tel := rfl
@[simp] theorem wipeRange_reserved (s : State) (lo hi : Nat) : (s.wipeRange lo hi).reserved = s.reserved := rfl
@[simp] theorem wipeRange_ports (s : State) (lo hi : Nat) : (s.wipeRange lo hi).ports = s.ports := rfl
@[simp] theorem wipeRange_drains (s : State) (lo hi : Nat) : (s.wipeRange lo hi).drains = s.drains := rfl
@[simp] theorem wipeRange_culverts (s : State) (lo hi : Nat) : (s.wipeRange lo hi).culverts = s.culverts := rfl
@[simp] theorem wipeRange_slices (s : State) (lo hi : Nat) : (s.wipeRange lo hi).slices = s.slices := rfl
@[simp] theorem wipeRange_deferred (s : State) (lo hi : Nat) : (s.wipeRange lo hi).deferred = s.deferred := rfl
@[simp] theorem wipeRange_behind (s : State) (lo hi : Nat) : (s.wipeRange lo hi).behind = s.behind := rfl
@[simp] theorem wipeRange_weirs (s : State) (lo hi : Nat) : (s.wipeRange lo hi).weirs = s.weirs := rfl
@[simp] theorem wipeRange_links (s : State) (lo hi : Nat) : (s.wipeRange lo hi).links = s.links := rfl
@[simp] theorem wipeRange_stash (s : State) (lo hi : Nat) : (s.wipeRange lo hi).stash = s.stash := rfl
@[simp] theorem wipeRange_firings (s : State) (lo hi : Nat) : (s.wipeRange lo hi).firings = s.firings := rfl
@[simp] theorem wipeRange_ops (s : State) (lo hi : Nat) : (s.wipeRange lo hi).ops = s.ops := rfl
@[simp] theorem wipeRange_subs (s : State) (lo hi : Nat) : (s.wipeRange lo hi).subs = s.subs := rfl
@[simp] theorem wipeRange_kilns (s : State) (lo hi : Nat) : (s.wipeRange lo hi).kilns = s.kilns := rfl
@[simp] theorem wipeRange_ktables (s : State) (lo hi : Nat) : (s.wipeRange lo hi).ktables = s.ktables := rfl
@[simp] theorem wipeRange_sigmas (s : State) (lo hi : Nat) : (s.wipeRange lo hi).sigmas = s.sigmas := rfl
@[simp] theorem wipeRange_fetches (s : State) (lo hi : Nat) : (s.wipeRange lo hi).fetches = s.fetches := rfl
@[simp] theorem wipeRange_serial (s : State) (lo hi : Nat) : (s.wipeRange lo hi).serial = s.serial := rfl
@[simp] theorem wipeRange_mfes (s : State) (lo hi : Nat) : (s.wipeRange lo hi).mfes = s.mfes := rfl
@[simp] theorem wipeRange_mfSlice (s : State) (lo hi : Nat) : (s.wipeRange lo hi).mfSlice = s.mfSlice := rfl
@[simp] theorem wipeRange_toks (s : State) (lo hi : Nat) : (s.wipeRange lo hi).toks = s.toks := rfl
@[simp] theorem wipeRange_keys (s : State) (lo hi : Nat) : (s.wipeRange lo hi).keys = s.keys := rfl
@[simp] theorem wipeRange_wiping (s : State) (lo hi : Nat) : (s.wipeRange lo hi).wiping = s.wiping := rfl
@[simp] theorem wipeRange_testing (s : State) (lo hi : Nat) : (s.wipeRange lo hi).testing = s.testing := rfl
@[simp] theorem wipeRange_moved (s : State) (lo hi : Nat) : (s.wipeRange lo hi).moved = s.moved := rfl
@[simp] theorem wipeRange_soft (s : State) (lo hi : Nat) : (s.wipeRange lo hi).soft = s.soft := rfl
@[simp] theorem wipeRange_flash (s : State) (lo hi : Nat) : (s.wipeRange lo hi).flash = s.flash := rfl
@[simp] theorem wipeRange_rtp (s : State) (lo hi : Nat) : (s.wipeRange lo hi).rtp = s.rtp := rfl
@[simp] theorem wipeRange_lands (s : State) (lo hi : Nat) : (s.wipeRange lo hi).lands = s.lands := rfl
@[simp] theorem wipeRange_windows (s : State) (lo hi : Nat) : (s.wipeRange lo hi).windows = s.windows := rfl
@[simp] theorem wipeRange_jobs (s : State) (lo hi : Nat) : (s.wipeRange lo hi).jobs = s.jobs := rfl
@[simp] theorem wipeRange_taken (s : State) (lo hi : Nat) : (s.wipeRange lo hi).taken = s.taken := rfl
@[simp] theorem wipeRange_lined (s : State) (lo hi : Nat) : (s.wipeRange lo hi).lined = s.lined := rfl
@[simp] theorem wipeRange_owedCq (s : State) (lo hi : Nat) : (s.wipeRange lo hi).owedCq = s.owedCq := rfl
@[simp] theorem wipeRange_sq (s : State) (lo hi : Nat) : (s.wipeRange lo hi).sq = s.sq := rfl
@[simp] theorem wipeRange_events (s : State) (lo hi : Nat) : (s.wipeRange lo hi).events = s.events := rfl
@[simp] theorem wipeRange_alert (s : State) (lo hi : Nat) : (s.wipeRange lo hi).alert = s.alert := rfl
@[simp] theorem wipeRange_net (s : State) (lo hi : Nat) : (s.wipeRange lo hi).net = s.net := rfl
@[simp] theorem wipeRange_out (s : State) (lo hi : Nat) : (s.wipeRange lo hi).out = s.out := rfl

/-! ### setF -/
@[simp] theorem setF_pending (s : State) (f : FieldRef) (x : Nat) : (s.setF f x).pending = s.pending := rfl
@[simp] theorem setF_free (s : State) (f : FieldRef) (x : Nat) : (s.setF f x).free = s.free := rfl
@[simp] theorem setF_pkgId (s : State) (f : FieldRef) (x : Nat) : (s.setF f x).pkgId = s.pkgId := rfl
@[simp] theorem setF_mem (s : State) (f : FieldRef) (x : Nat) : (s.setF f x).mem = s.mem := rfl
@[simp] theorem setF_tags (s : State) (f : FieldRef) (x : Nat) : (s.setF f x).tags = s.tags := rfl
@[simp] theorem setF_power (s : State) (f : FieldRef) (x : Nat) : (s.setF f x).power = s.power := rfl
@[simp] theorem setF_idents (s : State) (f : FieldRef) (x : Nat) : (s.setF f x).idents = s.idents := rfl
@[simp] theorem setF_tide (s : State) (f : FieldRef) (x : Nat) : (s.setF f x).tide = s.tide := rfl
@[simp] theorem setF_wheels (s : State) (f : FieldRef) (x : Nat) : (s.setF f x).wheels = s.wheels := rfl
@[simp] theorem setF_routes (s : State) (f : FieldRef) (x : Nat) : (s.setF f x).routes = s.routes := rfl
@[simp] theorem setF_sets (s : State) (f : FieldRef) (x : Nat) : (s.setF f x).sets = s.sets := rfl
@[simp] theorem setF_cores (s : State) (f : FieldRef) (x : Nat) : (s.setF f x).cores = s.cores := rfl
@[simp] theorem setF_tel (s : State) (f : FieldRef) (x : Nat) : (s.setF f x).tel = s.tel := rfl
@[simp] theorem setF_reserved (s : State) (f : FieldRef) (x : Nat) : (s.setF f x).reserved = s.reserved := rfl
@[simp] theorem setF_ports (s : State) (f : FieldRef) (x : Nat) : (s.setF f x).ports = s.ports := rfl
@[simp] theorem setF_drains (s : State) (f : FieldRef) (x : Nat) : (s.setF f x).drains = s.drains := rfl
@[simp] theorem setF_culverts (s : State) (f : FieldRef) (x : Nat) : (s.setF f x).culverts = s.culverts := rfl
@[simp] theorem setF_slices (s : State) (f : FieldRef) (x : Nat) : (s.setF f x).slices = s.slices := rfl
@[simp] theorem setF_deferred (s : State) (f : FieldRef) (x : Nat) : (s.setF f x).deferred = s.deferred := rfl
@[simp] theorem setF_behind (s : State) (f : FieldRef) (x : Nat) : (s.setF f x).behind = s.behind := rfl
@[simp] theorem setF_weirs (s : State) (f : FieldRef) (x : Nat) : (s.setF f x).weirs = s.weirs := rfl
@[simp] theorem setF_links (s : State) (f : FieldRef) (x : Nat) : (s.setF f x).links = s.links := rfl
@[simp] theorem setF_stash (s : State) (f : FieldRef) (x : Nat) : (s.setF f x).stash = s.stash := rfl
@[simp] theorem setF_firings (s : State) (f : FieldRef) (x : Nat) : (s.setF f x).firings = s.firings := rfl
@[simp] theorem setF_ops (s : State) (f : FieldRef) (x : Nat) : (s.setF f x).ops = s.ops := rfl
@[simp] theorem setF_subs (s : State) (f : FieldRef) (x : Nat) : (s.setF f x).subs = s.subs := rfl
@[simp] theorem setF_kilns (s : State) (f : FieldRef) (x : Nat) : (s.setF f x).kilns = s.kilns := rfl
@[simp] theorem setF_ktables (s : State) (f : FieldRef) (x : Nat) : (s.setF f x).ktables = s.ktables := rfl
@[simp] theorem setF_sigmas (s : State) (f : FieldRef) (x : Nat) : (s.setF f x).sigmas = s.sigmas := rfl
@[simp] theorem setF_fetches (s : State) (f : FieldRef) (x : Nat) : (s.setF f x).fetches = s.fetches := rfl
@[simp] theorem setF_serial (s : State) (f : FieldRef) (x : Nat) : (s.setF f x).serial = s.serial := rfl
@[simp] theorem setF_mfes (s : State) (f : FieldRef) (x : Nat) : (s.setF f x).mfes = s.mfes := rfl
@[simp] theorem setF_mfSlice (s : State) (f : FieldRef) (x : Nat) : (s.setF f x).mfSlice = s.mfSlice := rfl
@[simp] theorem setF_toks (s : State) (f : FieldRef) (x : Nat) : (s.setF f x).toks = s.toks := rfl
@[simp] theorem setF_keys (s : State) (f : FieldRef) (x : Nat) : (s.setF f x).keys = s.keys := rfl
@[simp] theorem setF_wiping (s : State) (f : FieldRef) (x : Nat) : (s.setF f x).wiping = s.wiping := rfl
@[simp] theorem setF_testing (s : State) (f : FieldRef) (x : Nat) : (s.setF f x).testing = s.testing := rfl
@[simp] theorem setF_moved (s : State) (f : FieldRef) (x : Nat) : (s.setF f x).moved = s.moved := rfl
@[simp] theorem setF_soft (s : State) (f : FieldRef) (x : Nat) : (s.setF f x).soft = s.soft := rfl
@[simp] theorem setF_flash (s : State) (f : FieldRef) (x : Nat) : (s.setF f x).flash = s.flash := rfl
@[simp] theorem setF_rtp (s : State) (f : FieldRef) (x : Nat) : (s.setF f x).rtp = s.rtp := rfl
@[simp] theorem setF_lands (s : State) (f : FieldRef) (x : Nat) : (s.setF f x).lands = s.lands := rfl
@[simp] theorem setF_windows (s : State) (f : FieldRef) (x : Nat) : (s.setF f x).windows = s.windows := rfl
@[simp] theorem setF_jobs (s : State) (f : FieldRef) (x : Nat) : (s.setF f x).jobs = s.jobs := rfl
@[simp] theorem setF_taken (s : State) (f : FieldRef) (x : Nat) : (s.setF f x).taken = s.taken := rfl
@[simp] theorem setF_lined (s : State) (f : FieldRef) (x : Nat) : (s.setF f x).lined = s.lined := rfl
@[simp] theorem setF_owedCq (s : State) (f : FieldRef) (x : Nat) : (s.setF f x).owedCq = s.owedCq := rfl
@[simp] theorem setF_sq (s : State) (f : FieldRef) (x : Nat) : (s.setF f x).sq = s.sq := rfl
@[simp] theorem setF_events (s : State) (f : FieldRef) (x : Nat) : (s.setF f x).events = s.events := rfl
@[simp] theorem setF_alert (s : State) (f : FieldRef) (x : Nat) : (s.setF f x).alert = s.alert := rfl
@[simp] theorem setF_net (s : State) (f : FieldRef) (x : Nat) : (s.setF f x).net = s.net := rfl
@[simp] theorem setF_out (s : State) (f : FieldRef) (x : Nat) : (s.setF f x).out = s.out := rfl

/-! ### bump -/
@[simp] theorem bump_pending (s : State) (f : FieldRef) (n : Nat) : (s.bump f n).pending = s.pending := rfl
@[simp] theorem bump_free (s : State) (f : FieldRef) (n : Nat) : (s.bump f n).free = s.free := rfl
@[simp] theorem bump_pkgId (s : State) (f : FieldRef) (n : Nat) : (s.bump f n).pkgId = s.pkgId := rfl
@[simp] theorem bump_mem (s : State) (f : FieldRef) (n : Nat) : (s.bump f n).mem = s.mem := rfl
@[simp] theorem bump_tags (s : State) (f : FieldRef) (n : Nat) : (s.bump f n).tags = s.tags := rfl
@[simp] theorem bump_power (s : State) (f : FieldRef) (n : Nat) : (s.bump f n).power = s.power := rfl
@[simp] theorem bump_idents (s : State) (f : FieldRef) (n : Nat) : (s.bump f n).idents = s.idents := rfl
@[simp] theorem bump_tide (s : State) (f : FieldRef) (n : Nat) : (s.bump f n).tide = s.tide := rfl
@[simp] theorem bump_wheels (s : State) (f : FieldRef) (n : Nat) : (s.bump f n).wheels = s.wheels := rfl
@[simp] theorem bump_routes (s : State) (f : FieldRef) (n : Nat) : (s.bump f n).routes = s.routes := rfl
@[simp] theorem bump_sets (s : State) (f : FieldRef) (n : Nat) : (s.bump f n).sets = s.sets := rfl
@[simp] theorem bump_cores (s : State) (f : FieldRef) (n : Nat) : (s.bump f n).cores = s.cores := rfl
@[simp] theorem bump_tel (s : State) (f : FieldRef) (n : Nat) : (s.bump f n).tel = s.tel := rfl
@[simp] theorem bump_reserved (s : State) (f : FieldRef) (n : Nat) : (s.bump f n).reserved = s.reserved := rfl
@[simp] theorem bump_ports (s : State) (f : FieldRef) (n : Nat) : (s.bump f n).ports = s.ports := rfl
@[simp] theorem bump_drains (s : State) (f : FieldRef) (n : Nat) : (s.bump f n).drains = s.drains := rfl
@[simp] theorem bump_culverts (s : State) (f : FieldRef) (n : Nat) : (s.bump f n).culverts = s.culverts := rfl
@[simp] theorem bump_slices (s : State) (f : FieldRef) (n : Nat) : (s.bump f n).slices = s.slices := rfl
@[simp] theorem bump_deferred (s : State) (f : FieldRef) (n : Nat) : (s.bump f n).deferred = s.deferred := rfl
@[simp] theorem bump_behind (s : State) (f : FieldRef) (n : Nat) : (s.bump f n).behind = s.behind := rfl
@[simp] theorem bump_weirs (s : State) (f : FieldRef) (n : Nat) : (s.bump f n).weirs = s.weirs := rfl
@[simp] theorem bump_links (s : State) (f : FieldRef) (n : Nat) : (s.bump f n).links = s.links := rfl
@[simp] theorem bump_stash (s : State) (f : FieldRef) (n : Nat) : (s.bump f n).stash = s.stash := rfl
@[simp] theorem bump_firings (s : State) (f : FieldRef) (n : Nat) : (s.bump f n).firings = s.firings := rfl
@[simp] theorem bump_ops (s : State) (f : FieldRef) (n : Nat) : (s.bump f n).ops = s.ops := rfl
@[simp] theorem bump_subs (s : State) (f : FieldRef) (n : Nat) : (s.bump f n).subs = s.subs := rfl
@[simp] theorem bump_kilns (s : State) (f : FieldRef) (n : Nat) : (s.bump f n).kilns = s.kilns := rfl
@[simp] theorem bump_ktables (s : State) (f : FieldRef) (n : Nat) : (s.bump f n).ktables = s.ktables := rfl
@[simp] theorem bump_sigmas (s : State) (f : FieldRef) (n : Nat) : (s.bump f n).sigmas = s.sigmas := rfl
@[simp] theorem bump_fetches (s : State) (f : FieldRef) (n : Nat) : (s.bump f n).fetches = s.fetches := rfl
@[simp] theorem bump_serial (s : State) (f : FieldRef) (n : Nat) : (s.bump f n).serial = s.serial := rfl
@[simp] theorem bump_mfes (s : State) (f : FieldRef) (n : Nat) : (s.bump f n).mfes = s.mfes := rfl
@[simp] theorem bump_mfSlice (s : State) (f : FieldRef) (n : Nat) : (s.bump f n).mfSlice = s.mfSlice := rfl
@[simp] theorem bump_toks (s : State) (f : FieldRef) (n : Nat) : (s.bump f n).toks = s.toks := rfl
@[simp] theorem bump_keys (s : State) (f : FieldRef) (n : Nat) : (s.bump f n).keys = s.keys := rfl
@[simp] theorem bump_wiping (s : State) (f : FieldRef) (n : Nat) : (s.bump f n).wiping = s.wiping := rfl
@[simp] theorem bump_testing (s : State) (f : FieldRef) (n : Nat) : (s.bump f n).testing = s.testing := rfl
@[simp] theorem bump_moved (s : State) (f : FieldRef) (n : Nat) : (s.bump f n).moved = s.moved := rfl
@[simp] theorem bump_soft (s : State) (f : FieldRef) (n : Nat) : (s.bump f n).soft = s.soft := rfl
@[simp] theorem bump_flash (s : State) (f : FieldRef) (n : Nat) : (s.bump f n).flash = s.flash := rfl
@[simp] theorem bump_rtp (s : State) (f : FieldRef) (n : Nat) : (s.bump f n).rtp = s.rtp := rfl
@[simp] theorem bump_lands (s : State) (f : FieldRef) (n : Nat) : (s.bump f n).lands = s.lands := rfl
@[simp] theorem bump_windows (s : State) (f : FieldRef) (n : Nat) : (s.bump f n).windows = s.windows := rfl
@[simp] theorem bump_jobs (s : State) (f : FieldRef) (n : Nat) : (s.bump f n).jobs = s.jobs := rfl
@[simp] theorem bump_taken (s : State) (f : FieldRef) (n : Nat) : (s.bump f n).taken = s.taken := rfl
@[simp] theorem bump_lined (s : State) (f : FieldRef) (n : Nat) : (s.bump f n).lined = s.lined := rfl
@[simp] theorem bump_owedCq (s : State) (f : FieldRef) (n : Nat) : (s.bump f n).owedCq = s.owedCq := rfl
@[simp] theorem bump_sq (s : State) (f : FieldRef) (n : Nat) : (s.bump f n).sq = s.sq := rfl
@[simp] theorem bump_events (s : State) (f : FieldRef) (n : Nat) : (s.bump f n).events = s.events := rfl
@[simp] theorem bump_alert (s : State) (f : FieldRef) (n : Nat) : (s.bump f n).alert = s.alert := rfl
@[simp] theorem bump_net (s : State) (f : FieldRef) (n : Nat) : (s.bump f n).net = s.net := rfl
@[simp] theorem bump_out (s : State) (f : FieldRef) (n : Nat) : (s.bump f n).out = s.out := rfl

/-! ### useFree -/
@[simp] theorem useFree_pending (s : State) (n : Nat) : (s.useFree n).pending = s.pending := rfl
@[simp] theorem useFree_pkgId (s : State) (n : Nat) : (s.useFree n).pkgId = s.pkgId := rfl
@[simp] theorem useFree_mem (s : State) (n : Nat) : (s.useFree n).mem = s.mem := rfl
@[simp] theorem useFree_tags (s : State) (n : Nat) : (s.useFree n).tags = s.tags := rfl
@[simp] theorem useFree_regs (s : State) (n : Nat) : (s.useFree n).regs = s.regs := rfl
@[simp] theorem useFree_power (s : State) (n : Nat) : (s.useFree n).power = s.power := rfl
@[simp] theorem useFree_idents (s : State) (n : Nat) : (s.useFree n).idents = s.idents := rfl
@[simp] theorem useFree_tide (s : State) (n : Nat) : (s.useFree n).tide = s.tide := rfl
@[simp] theorem useFree_wheels (s : State) (n : Nat) : (s.useFree n).wheels = s.wheels := rfl
@[simp] theorem useFree_routes (s : State) (n : Nat) : (s.useFree n).routes = s.routes := rfl
@[simp] theorem useFree_sets (s : State) (n : Nat) : (s.useFree n).sets = s.sets := rfl
@[simp] theorem useFree_cores (s : State) (n : Nat) : (s.useFree n).cores = s.cores := rfl
@[simp] theorem useFree_tel (s : State) (n : Nat) : (s.useFree n).tel = s.tel := rfl
@[simp] theorem useFree_reserved (s : State) (n : Nat) : (s.useFree n).reserved = s.reserved := rfl
@[simp] theorem useFree_ports (s : State) (n : Nat) : (s.useFree n).ports = s.ports := rfl
@[simp] theorem useFree_drains (s : State) (n : Nat) : (s.useFree n).drains = s.drains := rfl
@[simp] theorem useFree_culverts (s : State) (n : Nat) : (s.useFree n).culverts = s.culverts := rfl
@[simp] theorem useFree_slices (s : State) (n : Nat) : (s.useFree n).slices = s.slices := rfl
@[simp] theorem useFree_deferred (s : State) (n : Nat) : (s.useFree n).deferred = s.deferred := rfl
@[simp] theorem useFree_behind (s : State) (n : Nat) : (s.useFree n).behind = s.behind := rfl
@[simp] theorem useFree_weirs (s : State) (n : Nat) : (s.useFree n).weirs = s.weirs := rfl
@[simp] theorem useFree_links (s : State) (n : Nat) : (s.useFree n).links = s.links := rfl
@[simp] theorem useFree_stash (s : State) (n : Nat) : (s.useFree n).stash = s.stash := rfl
@[simp] theorem useFree_firings (s : State) (n : Nat) : (s.useFree n).firings = s.firings := rfl
@[simp] theorem useFree_ops (s : State) (n : Nat) : (s.useFree n).ops = s.ops := rfl
@[simp] theorem useFree_subs (s : State) (n : Nat) : (s.useFree n).subs = s.subs := rfl
@[simp] theorem useFree_kilns (s : State) (n : Nat) : (s.useFree n).kilns = s.kilns := rfl
@[simp] theorem useFree_ktables (s : State) (n : Nat) : (s.useFree n).ktables = s.ktables := rfl
@[simp] theorem useFree_sigmas (s : State) (n : Nat) : (s.useFree n).sigmas = s.sigmas := rfl
@[simp] theorem useFree_fetches (s : State) (n : Nat) : (s.useFree n).fetches = s.fetches := rfl
@[simp] theorem useFree_serial (s : State) (n : Nat) : (s.useFree n).serial = s.serial := rfl
@[simp] theorem useFree_mfes (s : State) (n : Nat) : (s.useFree n).mfes = s.mfes := rfl
@[simp] theorem useFree_mfSlice (s : State) (n : Nat) : (s.useFree n).mfSlice = s.mfSlice := rfl
@[simp] theorem useFree_toks (s : State) (n : Nat) : (s.useFree n).toks = s.toks := rfl
@[simp] theorem useFree_keys (s : State) (n : Nat) : (s.useFree n).keys = s.keys := rfl
@[simp] theorem useFree_wiping (s : State) (n : Nat) : (s.useFree n).wiping = s.wiping := rfl
@[simp] theorem useFree_testing (s : State) (n : Nat) : (s.useFree n).testing = s.testing := rfl
@[simp] theorem useFree_moved (s : State) (n : Nat) : (s.useFree n).moved = s.moved := rfl
@[simp] theorem useFree_soft (s : State) (n : Nat) : (s.useFree n).soft = s.soft := rfl
@[simp] theorem useFree_flash (s : State) (n : Nat) : (s.useFree n).flash = s.flash := rfl
@[simp] theorem useFree_rtp (s : State) (n : Nat) : (s.useFree n).rtp = s.rtp := rfl
@[simp] theorem useFree_lands (s : State) (n : Nat) : (s.useFree n).lands = s.lands := rfl
@[simp] theorem useFree_windows (s : State) (n : Nat) : (s.useFree n).windows = s.windows := rfl
@[simp] theorem useFree_jobs (s : State) (n : Nat) : (s.useFree n).jobs = s.jobs := rfl
@[simp] theorem useFree_taken (s : State) (n : Nat) : (s.useFree n).taken = s.taken := rfl
@[simp] theorem useFree_lined (s : State) (n : Nat) : (s.useFree n).lined = s.lined := rfl
@[simp] theorem useFree_owedCq (s : State) (n : Nat) : (s.useFree n).owedCq = s.owedCq := rfl
@[simp] theorem useFree_sq (s : State) (n : Nat) : (s.useFree n).sq = s.sq := rfl
@[simp] theorem useFree_events (s : State) (n : Nat) : (s.useFree n).events = s.events := rfl
@[simp] theorem useFree_alert (s : State) (n : Nat) : (s.useFree n).alert = s.alert := rfl
@[simp] theorem useFree_net (s : State) (n : Nat) : (s.useFree n).net = s.net := rfl
@[simp] theorem useFree_out (s : State) (n : Nat) : (s.useFree n).out = s.out := rfl

/-! ### setCore -/
@[simp] theorem setCore_pending (s : State) (i : Nat) (c : Core) : (s.setCore i c).pending = s.pending := rfl
@[simp] theorem setCore_free (s : State) (i : Nat) (c : Core) : (s.setCore i c).free = s.free := rfl
@[simp] theorem setCore_pkgId (s : State) (i : Nat) (c : Core) : (s.setCore i c).pkgId = s.pkgId := rfl
@[simp] theorem setCore_mem (s : State) (i : Nat) (c : Core) : (s.setCore i c).mem = s.mem := rfl
@[simp] theorem setCore_tags (s : State) (i : Nat) (c : Core) : (s.setCore i c).tags = s.tags := rfl
@[simp] theorem setCore_regs (s : State) (i : Nat) (c : Core) : (s.setCore i c).regs = s.regs := rfl
@[simp] theorem setCore_power (s : State) (i : Nat) (c : Core) : (s.setCore i c).power = s.power := rfl
@[simp] theorem setCore_idents (s : State) (i : Nat) (c : Core) : (s.setCore i c).idents = s.idents := rfl
@[simp] theorem setCore_tide (s : State) (i : Nat) (c : Core) : (s.setCore i c).tide = s.tide := rfl
@[simp] theorem setCore_wheels (s : State) (i : Nat) (c : Core) : (s.setCore i c).wheels = s.wheels := rfl
@[simp] theorem setCore_routes (s : State) (i : Nat) (c : Core) : (s.setCore i c).routes = s.routes := rfl
@[simp] theorem setCore_sets (s : State) (i : Nat) (c : Core) : (s.setCore i c).sets = s.sets := rfl
@[simp] theorem setCore_tel (s : State) (i : Nat) (c : Core) : (s.setCore i c).tel = s.tel := rfl
@[simp] theorem setCore_reserved (s : State) (i : Nat) (c : Core) : (s.setCore i c).reserved = s.reserved := rfl
@[simp] theorem setCore_ports (s : State) (i : Nat) (c : Core) : (s.setCore i c).ports = s.ports := rfl
@[simp] theorem setCore_drains (s : State) (i : Nat) (c : Core) : (s.setCore i c).drains = s.drains := rfl
@[simp] theorem setCore_culverts (s : State) (i : Nat) (c : Core) : (s.setCore i c).culverts = s.culverts := rfl
@[simp] theorem setCore_slices (s : State) (i : Nat) (c : Core) : (s.setCore i c).slices = s.slices := rfl
@[simp] theorem setCore_deferred (s : State) (i : Nat) (c : Core) : (s.setCore i c).deferred = s.deferred := rfl
@[simp] theorem setCore_behind (s : State) (i : Nat) (c : Core) : (s.setCore i c).behind = s.behind := rfl
@[simp] theorem setCore_weirs (s : State) (i : Nat) (c : Core) : (s.setCore i c).weirs = s.weirs := rfl
@[simp] theorem setCore_links (s : State) (i : Nat) (c : Core) : (s.setCore i c).links = s.links := rfl
@[simp] theorem setCore_stash (s : State) (i : Nat) (c : Core) : (s.setCore i c).stash = s.stash := rfl
@[simp] theorem setCore_firings (s : State) (i : Nat) (c : Core) : (s.setCore i c).firings = s.firings := rfl
@[simp] theorem setCore_ops (s : State) (i : Nat) (c : Core) : (s.setCore i c).ops = s.ops := rfl
@[simp] theorem setCore_subs (s : State) (i : Nat) (c : Core) : (s.setCore i c).subs = s.subs := rfl
@[simp] theorem setCore_kilns (s : State) (i : Nat) (c : Core) : (s.setCore i c).kilns = s.kilns := rfl
@[simp] theorem setCore_ktables (s : State) (i : Nat) (c : Core) : (s.setCore i c).ktables = s.ktables := rfl
@[simp] theorem setCore_sigmas (s : State) (i : Nat) (c : Core) : (s.setCore i c).sigmas = s.sigmas := rfl
@[simp] theorem setCore_fetches (s : State) (i : Nat) (c : Core) : (s.setCore i c).fetches = s.fetches := rfl
@[simp] theorem setCore_serial (s : State) (i : Nat) (c : Core) : (s.setCore i c).serial = s.serial := rfl
@[simp] theorem setCore_mfes (s : State) (i : Nat) (c : Core) : (s.setCore i c).mfes = s.mfes := rfl
@[simp] theorem setCore_mfSlice (s : State) (i : Nat) (c : Core) : (s.setCore i c).mfSlice = s.mfSlice := rfl
@[simp] theorem setCore_toks (s : State) (i : Nat) (c : Core) : (s.setCore i c).toks = s.toks := rfl
@[simp] theorem setCore_keys (s : State) (i : Nat) (c : Core) : (s.setCore i c).keys = s.keys := rfl
@[simp] theorem setCore_wiping (s : State) (i : Nat) (c : Core) : (s.setCore i c).wiping = s.wiping := rfl
@[simp] theorem setCore_testing (s : State) (i : Nat) (c : Core) : (s.setCore i c).testing = s.testing := rfl
@[simp] theorem setCore_moved (s : State) (i : Nat) (c : Core) : (s.setCore i c).moved = s.moved := rfl
@[simp] theorem setCore_soft (s : State) (i : Nat) (c : Core) : (s.setCore i c).soft = s.soft := rfl
@[simp] theorem setCore_flash (s : State) (i : Nat) (c : Core) : (s.setCore i c).flash = s.flash := rfl
@[simp] theorem setCore_rtp (s : State) (i : Nat) (c : Core) : (s.setCore i c).rtp = s.rtp := rfl
@[simp] theorem setCore_lands (s : State) (i : Nat) (c : Core) : (s.setCore i c).lands = s.lands := rfl
@[simp] theorem setCore_windows (s : State) (i : Nat) (c : Core) : (s.setCore i c).windows = s.windows := rfl
@[simp] theorem setCore_jobs (s : State) (i : Nat) (c : Core) : (s.setCore i c).jobs = s.jobs := rfl
@[simp] theorem setCore_taken (s : State) (i : Nat) (c : Core) : (s.setCore i c).taken = s.taken := rfl
@[simp] theorem setCore_lined (s : State) (i : Nat) (c : Core) : (s.setCore i c).lined = s.lined := rfl
@[simp] theorem setCore_owedCq (s : State) (i : Nat) (c : Core) : (s.setCore i c).owedCq = s.owedCq := rfl
@[simp] theorem setCore_sq (s : State) (i : Nat) (c : Core) : (s.setCore i c).sq = s.sq := rfl
@[simp] theorem setCore_events (s : State) (i : Nat) (c : Core) : (s.setCore i c).events = s.events := rfl
@[simp] theorem setCore_alert (s : State) (i : Nat) (c : Core) : (s.setCore i c).alert = s.alert := rfl
@[simp] theorem setCore_net (s : State) (i : Nat) (c : Core) : (s.setCore i c).net = s.net := rfl
@[simp] theorem setCore_out (s : State) (i : Nat) (c : Core) : (s.setCore i c).out = s.out := rfl

/-! ### setWheel -/
@[simp] theorem setWheel_pending (s : State) (p : Nat) (w : Wheel) : (s.setWheel p w).pending = s.pending := rfl
@[simp] theorem setWheel_free (s : State) (p : Nat) (w : Wheel) : (s.setWheel p w).free = s.free := rfl
@[simp] theorem setWheel_pkgId (s : State) (p : Nat) (w : Wheel) : (s.setWheel p w).pkgId = s.pkgId := rfl
@[simp] theorem setWheel_mem (s : State) (p : Nat) (w : Wheel) : (s.setWheel p w).mem = s.mem := rfl
@[simp] theorem setWheel_tags (s : State) (p : Nat) (w : Wheel) : (s.setWheel p w).tags = s.tags := rfl
@[simp] theorem setWheel_regs (s : State) (p : Nat) (w : Wheel) : (s.setWheel p w).regs = s.regs := rfl
@[simp] theorem setWheel_power (s : State) (p : Nat) (w : Wheel) : (s.setWheel p w).power = s.power := rfl
@[simp] theorem setWheel_idents (s : State) (p : Nat) (w : Wheel) : (s.setWheel p w).idents = s.idents := rfl
@[simp] theorem setWheel_tide (s : State) (p : Nat) (w : Wheel) : (s.setWheel p w).tide = s.tide := rfl
@[simp] theorem setWheel_routes (s : State) (p : Nat) (w : Wheel) : (s.setWheel p w).routes = s.routes := rfl
@[simp] theorem setWheel_sets (s : State) (p : Nat) (w : Wheel) : (s.setWheel p w).sets = s.sets := rfl
@[simp] theorem setWheel_cores (s : State) (p : Nat) (w : Wheel) : (s.setWheel p w).cores = s.cores := rfl
@[simp] theorem setWheel_tel (s : State) (p : Nat) (w : Wheel) : (s.setWheel p w).tel = s.tel := rfl
@[simp] theorem setWheel_reserved (s : State) (p : Nat) (w : Wheel) : (s.setWheel p w).reserved = s.reserved := rfl
@[simp] theorem setWheel_ports (s : State) (p : Nat) (w : Wheel) : (s.setWheel p w).ports = s.ports := rfl
@[simp] theorem setWheel_drains (s : State) (p : Nat) (w : Wheel) : (s.setWheel p w).drains = s.drains := rfl
@[simp] theorem setWheel_culverts (s : State) (p : Nat) (w : Wheel) : (s.setWheel p w).culverts = s.culverts := rfl
@[simp] theorem setWheel_slices (s : State) (p : Nat) (w : Wheel) : (s.setWheel p w).slices = s.slices := rfl
@[simp] theorem setWheel_deferred (s : State) (p : Nat) (w : Wheel) : (s.setWheel p w).deferred = s.deferred := rfl
@[simp] theorem setWheel_behind (s : State) (p : Nat) (w : Wheel) : (s.setWheel p w).behind = s.behind := rfl
@[simp] theorem setWheel_weirs (s : State) (p : Nat) (w : Wheel) : (s.setWheel p w).weirs = s.weirs := rfl
@[simp] theorem setWheel_links (s : State) (p : Nat) (w : Wheel) : (s.setWheel p w).links = s.links := rfl
@[simp] theorem setWheel_stash (s : State) (p : Nat) (w : Wheel) : (s.setWheel p w).stash = s.stash := rfl
@[simp] theorem setWheel_firings (s : State) (p : Nat) (w : Wheel) : (s.setWheel p w).firings = s.firings := rfl
@[simp] theorem setWheel_ops (s : State) (p : Nat) (w : Wheel) : (s.setWheel p w).ops = s.ops := rfl
@[simp] theorem setWheel_subs (s : State) (p : Nat) (w : Wheel) : (s.setWheel p w).subs = s.subs := rfl
@[simp] theorem setWheel_kilns (s : State) (p : Nat) (w : Wheel) : (s.setWheel p w).kilns = s.kilns := rfl
@[simp] theorem setWheel_ktables (s : State) (p : Nat) (w : Wheel) : (s.setWheel p w).ktables = s.ktables := rfl
@[simp] theorem setWheel_sigmas (s : State) (p : Nat) (w : Wheel) : (s.setWheel p w).sigmas = s.sigmas := rfl
@[simp] theorem setWheel_fetches (s : State) (p : Nat) (w : Wheel) : (s.setWheel p w).fetches = s.fetches := rfl
@[simp] theorem setWheel_serial (s : State) (p : Nat) (w : Wheel) : (s.setWheel p w).serial = s.serial := rfl
@[simp] theorem setWheel_mfes (s : State) (p : Nat) (w : Wheel) : (s.setWheel p w).mfes = s.mfes := rfl
@[simp] theorem setWheel_mfSlice (s : State) (p : Nat) (w : Wheel) : (s.setWheel p w).mfSlice = s.mfSlice := rfl
@[simp] theorem setWheel_toks (s : State) (p : Nat) (w : Wheel) : (s.setWheel p w).toks = s.toks := rfl
@[simp] theorem setWheel_keys (s : State) (p : Nat) (w : Wheel) : (s.setWheel p w).keys = s.keys := rfl
@[simp] theorem setWheel_wiping (s : State) (p : Nat) (w : Wheel) : (s.setWheel p w).wiping = s.wiping := rfl
@[simp] theorem setWheel_testing (s : State) (p : Nat) (w : Wheel) : (s.setWheel p w).testing = s.testing := rfl
@[simp] theorem setWheel_moved (s : State) (p : Nat) (w : Wheel) : (s.setWheel p w).moved = s.moved := rfl
@[simp] theorem setWheel_soft (s : State) (p : Nat) (w : Wheel) : (s.setWheel p w).soft = s.soft := rfl
@[simp] theorem setWheel_flash (s : State) (p : Nat) (w : Wheel) : (s.setWheel p w).flash = s.flash := rfl
@[simp] theorem setWheel_rtp (s : State) (p : Nat) (w : Wheel) : (s.setWheel p w).rtp = s.rtp := rfl
@[simp] theorem setWheel_lands (s : State) (p : Nat) (w : Wheel) : (s.setWheel p w).lands = s.lands := rfl
@[simp] theorem setWheel_windows (s : State) (p : Nat) (w : Wheel) : (s.setWheel p w).windows = s.windows := rfl
@[simp] theorem setWheel_jobs (s : State) (p : Nat) (w : Wheel) : (s.setWheel p w).jobs = s.jobs := rfl
@[simp] theorem setWheel_taken (s : State) (p : Nat) (w : Wheel) : (s.setWheel p w).taken = s.taken := rfl
@[simp] theorem setWheel_lined (s : State) (p : Nat) (w : Wheel) : (s.setWheel p w).lined = s.lined := rfl
@[simp] theorem setWheel_owedCq (s : State) (p : Nat) (w : Wheel) : (s.setWheel p w).owedCq = s.owedCq := rfl
@[simp] theorem setWheel_sq (s : State) (p : Nat) (w : Wheel) : (s.setWheel p w).sq = s.sq := rfl
@[simp] theorem setWheel_events (s : State) (p : Nat) (w : Wheel) : (s.setWheel p w).events = s.events := rfl
@[simp] theorem setWheel_alert (s : State) (p : Nat) (w : Wheel) : (s.setWheel p w).alert = s.alert := rfl
@[simp] theorem setWheel_net (s : State) (p : Nat) (w : Wheel) : (s.setWheel p w).net = s.net := rfl
@[simp] theorem setWheel_out (s : State) (p : Nat) (w : Wheel) : (s.setWheel p w).out = s.out := rfl

/-! ### send -/
@[simp] theorem send_pending (s : State) (o : Out) : (s.send o).pending = s.pending := rfl
@[simp] theorem send_free (s : State) (o : Out) : (s.send o).free = s.free := rfl
@[simp] theorem send_pkgId (s : State) (o : Out) : (s.send o).pkgId = s.pkgId := rfl
@[simp] theorem send_mem (s : State) (o : Out) : (s.send o).mem = s.mem := rfl
@[simp] theorem send_tags (s : State) (o : Out) : (s.send o).tags = s.tags := rfl
@[simp] theorem send_regs (s : State) (o : Out) : (s.send o).regs = s.regs := rfl
@[simp] theorem send_power (s : State) (o : Out) : (s.send o).power = s.power := rfl
@[simp] theorem send_idents (s : State) (o : Out) : (s.send o).idents = s.idents := rfl
@[simp] theorem send_tide (s : State) (o : Out) : (s.send o).tide = s.tide := rfl
@[simp] theorem send_wheels (s : State) (o : Out) : (s.send o).wheels = s.wheels := rfl
@[simp] theorem send_routes (s : State) (o : Out) : (s.send o).routes = s.routes := rfl
@[simp] theorem send_sets (s : State) (o : Out) : (s.send o).sets = s.sets := rfl
@[simp] theorem send_cores (s : State) (o : Out) : (s.send o).cores = s.cores := rfl
@[simp] theorem send_tel (s : State) (o : Out) : (s.send o).tel = s.tel := rfl
@[simp] theorem send_reserved (s : State) (o : Out) : (s.send o).reserved = s.reserved := rfl
@[simp] theorem send_ports (s : State) (o : Out) : (s.send o).ports = s.ports := rfl
@[simp] theorem send_drains (s : State) (o : Out) : (s.send o).drains = s.drains := rfl
@[simp] theorem send_culverts (s : State) (o : Out) : (s.send o).culverts = s.culverts := rfl
@[simp] theorem send_slices (s : State) (o : Out) : (s.send o).slices = s.slices := rfl
@[simp] theorem send_deferred (s : State) (o : Out) : (s.send o).deferred = s.deferred := rfl
@[simp] theorem send_behind (s : State) (o : Out) : (s.send o).behind = s.behind := rfl
@[simp] theorem send_weirs (s : State) (o : Out) : (s.send o).weirs = s.weirs := rfl
@[simp] theorem send_links (s : State) (o : Out) : (s.send o).links = s.links := rfl
@[simp] theorem send_stash (s : State) (o : Out) : (s.send o).stash = s.stash := rfl
@[simp] theorem send_firings (s : State) (o : Out) : (s.send o).firings = s.firings := rfl
@[simp] theorem send_ops (s : State) (o : Out) : (s.send o).ops = s.ops := rfl
@[simp] theorem send_subs (s : State) (o : Out) : (s.send o).subs = s.subs := rfl
@[simp] theorem send_kilns (s : State) (o : Out) : (s.send o).kilns = s.kilns := rfl
@[simp] theorem send_ktables (s : State) (o : Out) : (s.send o).ktables = s.ktables := rfl
@[simp] theorem send_sigmas (s : State) (o : Out) : (s.send o).sigmas = s.sigmas := rfl
@[simp] theorem send_fetches (s : State) (o : Out) : (s.send o).fetches = s.fetches := rfl
@[simp] theorem send_serial (s : State) (o : Out) : (s.send o).serial = s.serial := rfl
@[simp] theorem send_mfes (s : State) (o : Out) : (s.send o).mfes = s.mfes := rfl
@[simp] theorem send_mfSlice (s : State) (o : Out) : (s.send o).mfSlice = s.mfSlice := rfl
@[simp] theorem send_toks (s : State) (o : Out) : (s.send o).toks = s.toks := rfl
@[simp] theorem send_keys (s : State) (o : Out) : (s.send o).keys = s.keys := rfl
@[simp] theorem send_wiping (s : State) (o : Out) : (s.send o).wiping = s.wiping := rfl
@[simp] theorem send_testing (s : State) (o : Out) : (s.send o).testing = s.testing := rfl
@[simp] theorem send_moved (s : State) (o : Out) : (s.send o).moved = s.moved := rfl
@[simp] theorem send_soft (s : State) (o : Out) : (s.send o).soft = s.soft := rfl
@[simp] theorem send_flash (s : State) (o : Out) : (s.send o).flash = s.flash := rfl
@[simp] theorem send_rtp (s : State) (o : Out) : (s.send o).rtp = s.rtp := rfl
@[simp] theorem send_lands (s : State) (o : Out) : (s.send o).lands = s.lands := rfl
@[simp] theorem send_windows (s : State) (o : Out) : (s.send o).windows = s.windows := rfl
@[simp] theorem send_jobs (s : State) (o : Out) : (s.send o).jobs = s.jobs := rfl
@[simp] theorem send_taken (s : State) (o : Out) : (s.send o).taken = s.taken := rfl
@[simp] theorem send_lined (s : State) (o : Out) : (s.send o).lined = s.lined := rfl
@[simp] theorem send_owedCq (s : State) (o : Out) : (s.send o).owedCq = s.owedCq := rfl
@[simp] theorem send_sq (s : State) (o : Out) : (s.send o).sq = s.sq := rfl
@[simp] theorem send_events (s : State) (o : Out) : (s.send o).events = s.events := rfl
@[simp] theorem send_alert (s : State) (o : Out) : (s.send o).alert = s.alert := rfl
@[simp] theorem send_net (s : State) (o : Out) : (s.send o).net = s.net := rfl

/-! ### note -/
@[simp] theorem note_pending (s : State) (e : Ev) : (s.note e).pending = s.pending := rfl
@[simp] theorem note_free (s : State) (e : Ev) : (s.note e).free = s.free := rfl
@[simp] theorem note_pkgId (s : State) (e : Ev) : (s.note e).pkgId = s.pkgId := rfl
@[simp] theorem note_mem (s : State) (e : Ev) : (s.note e).mem = s.mem := rfl
@[simp] theorem note_tags (s : State) (e : Ev) : (s.note e).tags = s.tags := rfl
@[simp] theorem note_regs (s : State) (e : Ev) : (s.note e).regs = s.regs := rfl
@[simp] theorem note_power (s : State) (e : Ev) : (s.note e).power = s.power := rfl
@[simp] theorem note_idents (s : State) (e : Ev) : (s.note e).idents = s.idents := rfl
@[simp] theorem note_tide (s : State) (e : Ev) : (s.note e).tide = s.tide := rfl
@[simp] theorem note_wheels (s : State) (e : Ev) : (s.note e).wheels = s.wheels := rfl
@[simp] theorem note_routes (s : State) (e : Ev) : (s.note e).routes = s.routes := rfl
@[simp] theorem note_sets (s : State) (e : Ev) : (s.note e).sets = s.sets := rfl
@[simp] theorem note_cores (s : State) (e : Ev) : (s.note e).cores = s.cores := rfl
@[simp] theorem note_tel (s : State) (e : Ev) : (s.note e).tel = s.tel := rfl
@[simp] theorem note_reserved (s : State) (e : Ev) : (s.note e).reserved = s.reserved := rfl
@[simp] theorem note_ports (s : State) (e : Ev) : (s.note e).ports = s.ports := rfl
@[simp] theorem note_drains (s : State) (e : Ev) : (s.note e).drains = s.drains := rfl
@[simp] theorem note_culverts (s : State) (e : Ev) : (s.note e).culverts = s.culverts := rfl
@[simp] theorem note_slices (s : State) (e : Ev) : (s.note e).slices = s.slices := rfl
@[simp] theorem note_deferred (s : State) (e : Ev) : (s.note e).deferred = s.deferred := rfl
@[simp] theorem note_behind (s : State) (e : Ev) : (s.note e).behind = s.behind := rfl
@[simp] theorem note_weirs (s : State) (e : Ev) : (s.note e).weirs = s.weirs := rfl
@[simp] theorem note_links (s : State) (e : Ev) : (s.note e).links = s.links := rfl
@[simp] theorem note_stash (s : State) (e : Ev) : (s.note e).stash = s.stash := rfl
@[simp] theorem note_firings (s : State) (e : Ev) : (s.note e).firings = s.firings := rfl
@[simp] theorem note_ops (s : State) (e : Ev) : (s.note e).ops = s.ops := rfl
@[simp] theorem note_subs (s : State) (e : Ev) : (s.note e).subs = s.subs := rfl
@[simp] theorem note_kilns (s : State) (e : Ev) : (s.note e).kilns = s.kilns := rfl
@[simp] theorem note_ktables (s : State) (e : Ev) : (s.note e).ktables = s.ktables := rfl
@[simp] theorem note_sigmas (s : State) (e : Ev) : (s.note e).sigmas = s.sigmas := rfl
@[simp] theorem note_fetches (s : State) (e : Ev) : (s.note e).fetches = s.fetches := rfl
@[simp] theorem note_serial (s : State) (e : Ev) : (s.note e).serial = s.serial := rfl
@[simp] theorem note_mfes (s : State) (e : Ev) : (s.note e).mfes = s.mfes := rfl
@[simp] theorem note_mfSlice (s : State) (e : Ev) : (s.note e).mfSlice = s.mfSlice := rfl
@[simp] theorem note_toks (s : State) (e : Ev) : (s.note e).toks = s.toks := rfl
@[simp] theorem note_keys (s : State) (e : Ev) : (s.note e).keys = s.keys := rfl
@[simp] theorem note_wiping (s : State) (e : Ev) : (s.note e).wiping = s.wiping := rfl
@[simp] theorem note_testing (s : State) (e : Ev) : (s.note e).testing = s.testing := rfl
@[simp] theorem note_moved (s : State) (e : Ev) : (s.note e).moved = s.moved := rfl
@[simp] theorem note_soft (s : State) (e : Ev) : (s.note e).soft = s.soft := rfl
@[simp] theorem note_flash (s : State) (e : Ev) : (s.note e).flash = s.flash := rfl
@[simp] theorem note_rtp (s : State) (e : Ev) : (s.note e).rtp = s.rtp := rfl
@[simp] theorem note_lands (s : State) (e : Ev) : (s.note e).lands = s.lands := rfl
@[simp] theorem note_windows (s : State) (e : Ev) : (s.note e).windows = s.windows := rfl
@[simp] theorem note_jobs (s : State) (e : Ev) : (s.note e).jobs = s.jobs := rfl
@[simp] theorem note_taken (s : State) (e : Ev) : (s.note e).taken = s.taken := rfl
@[simp] theorem note_lined (s : State) (e : Ev) : (s.note e).lined = s.lined := rfl
@[simp] theorem note_owedCq (s : State) (e : Ev) : (s.note e).owedCq = s.owedCq := rfl
@[simp] theorem note_sq (s : State) (e : Ev) : (s.note e).sq = s.sq := rfl
@[simp] theorem note_alert (s : State) (e : Ev) : (s.note e).alert = s.alert := rfl
@[simp] theorem note_net (s : State) (e : Ev) : (s.note e).net = s.net := rfl
@[simp] theorem note_out (s : State) (e : Ev) : (s.note e).out = s.out := rfl

/-! ### setJob -/
@[simp] theorem setJob_pending (s : State) (p : Nat) (j : Job) : (s.setJob p j).pending = s.pending := rfl
@[simp] theorem setJob_free (s : State) (p : Nat) (j : Job) : (s.setJob p j).free = s.free := rfl
@[simp] theorem setJob_pkgId (s : State) (p : Nat) (j : Job) : (s.setJob p j).pkgId = s.pkgId := rfl
@[simp] theorem setJob_mem (s : State) (p : Nat) (j : Job) : (s.setJob p j).mem = s.mem := rfl
@[simp] theorem setJob_tags (s : State) (p : Nat) (j : Job) : (s.setJob p j).tags = s.tags := rfl
@[simp] theorem setJob_regs (s : State) (p : Nat) (j : Job) : (s.setJob p j).regs = s.regs := rfl
@[simp] theorem setJob_power (s : State) (p : Nat) (j : Job) : (s.setJob p j).power = s.power := rfl
@[simp] theorem setJob_idents (s : State) (p : Nat) (j : Job) : (s.setJob p j).idents = s.idents := rfl
@[simp] theorem setJob_tide (s : State) (p : Nat) (j : Job) : (s.setJob p j).tide = s.tide := rfl
@[simp] theorem setJob_wheels (s : State) (p : Nat) (j : Job) : (s.setJob p j).wheels = s.wheels := rfl
@[simp] theorem setJob_routes (s : State) (p : Nat) (j : Job) : (s.setJob p j).routes = s.routes := rfl
@[simp] theorem setJob_sets (s : State) (p : Nat) (j : Job) : (s.setJob p j).sets = s.sets := rfl
@[simp] theorem setJob_cores (s : State) (p : Nat) (j : Job) : (s.setJob p j).cores = s.cores := rfl
@[simp] theorem setJob_tel (s : State) (p : Nat) (j : Job) : (s.setJob p j).tel = s.tel := rfl
@[simp] theorem setJob_reserved (s : State) (p : Nat) (j : Job) : (s.setJob p j).reserved = s.reserved := rfl
@[simp] theorem setJob_ports (s : State) (p : Nat) (j : Job) : (s.setJob p j).ports = s.ports := rfl
@[simp] theorem setJob_drains (s : State) (p : Nat) (j : Job) : (s.setJob p j).drains = s.drains := rfl
@[simp] theorem setJob_culverts (s : State) (p : Nat) (j : Job) : (s.setJob p j).culverts = s.culverts := rfl
@[simp] theorem setJob_slices (s : State) (p : Nat) (j : Job) : (s.setJob p j).slices = s.slices := rfl
@[simp] theorem setJob_deferred (s : State) (p : Nat) (j : Job) : (s.setJob p j).deferred = s.deferred := rfl
@[simp] theorem setJob_behind (s : State) (p : Nat) (j : Job) : (s.setJob p j).behind = s.behind := rfl
@[simp] theorem setJob_weirs (s : State) (p : Nat) (j : Job) : (s.setJob p j).weirs = s.weirs := rfl
@[simp] theorem setJob_links (s : State) (p : Nat) (j : Job) : (s.setJob p j).links = s.links := rfl
@[simp] theorem setJob_stash (s : State) (p : Nat) (j : Job) : (s.setJob p j).stash = s.stash := rfl
@[simp] theorem setJob_firings (s : State) (p : Nat) (j : Job) : (s.setJob p j).firings = s.firings := rfl
@[simp] theorem setJob_ops (s : State) (p : Nat) (j : Job) : (s.setJob p j).ops = s.ops := rfl
@[simp] theorem setJob_subs (s : State) (p : Nat) (j : Job) : (s.setJob p j).subs = s.subs := rfl
@[simp] theorem setJob_kilns (s : State) (p : Nat) (j : Job) : (s.setJob p j).kilns = s.kilns := rfl
@[simp] theorem setJob_ktables (s : State) (p : Nat) (j : Job) : (s.setJob p j).ktables = s.ktables := rfl
@[simp] theorem setJob_sigmas (s : State) (p : Nat) (j : Job) : (s.setJob p j).sigmas = s.sigmas := rfl
@[simp] theorem setJob_fetches (s : State) (p : Nat) (j : Job) : (s.setJob p j).fetches = s.fetches := rfl
@[simp] theorem setJob_serial (s : State) (p : Nat) (j : Job) : (s.setJob p j).serial = s.serial := rfl
@[simp] theorem setJob_mfes (s : State) (p : Nat) (j : Job) : (s.setJob p j).mfes = s.mfes := rfl
@[simp] theorem setJob_mfSlice (s : State) (p : Nat) (j : Job) : (s.setJob p j).mfSlice = s.mfSlice := rfl
@[simp] theorem setJob_toks (s : State) (p : Nat) (j : Job) : (s.setJob p j).toks = s.toks := rfl
@[simp] theorem setJob_keys (s : State) (p : Nat) (j : Job) : (s.setJob p j).keys = s.keys := rfl
@[simp] theorem setJob_wiping (s : State) (p : Nat) (j : Job) : (s.setJob p j).wiping = s.wiping := rfl
@[simp] theorem setJob_testing (s : State) (p : Nat) (j : Job) : (s.setJob p j).testing = s.testing := rfl
@[simp] theorem setJob_moved (s : State) (p : Nat) (j : Job) : (s.setJob p j).moved = s.moved := rfl
@[simp] theorem setJob_soft (s : State) (p : Nat) (j : Job) : (s.setJob p j).soft = s.soft := rfl
@[simp] theorem setJob_flash (s : State) (p : Nat) (j : Job) : (s.setJob p j).flash = s.flash := rfl
@[simp] theorem setJob_rtp (s : State) (p : Nat) (j : Job) : (s.setJob p j).rtp = s.rtp := rfl
@[simp] theorem setJob_lands (s : State) (p : Nat) (j : Job) : (s.setJob p j).lands = s.lands := rfl
@[simp] theorem setJob_windows (s : State) (p : Nat) (j : Job) : (s.setJob p j).windows = s.windows := rfl
@[simp] theorem setJob_taken (s : State) (p : Nat) (j : Job) : (s.setJob p j).taken = s.taken := rfl
@[simp] theorem setJob_lined (s : State) (p : Nat) (j : Job) : (s.setJob p j).lined = s.lined := rfl
@[simp] theorem setJob_owedCq (s : State) (p : Nat) (j : Job) : (s.setJob p j).owedCq = s.owedCq := rfl
@[simp] theorem setJob_sq (s : State) (p : Nat) (j : Job) : (s.setJob p j).sq = s.sq := rfl
@[simp] theorem setJob_events (s : State) (p : Nat) (j : Job) : (s.setJob p j).events = s.events := rfl
@[simp] theorem setJob_alert (s : State) (p : Nat) (j : Job) : (s.setJob p j).alert = s.alert := rfl
@[simp] theorem setJob_net (s : State) (p : Nat) (j : Job) : (s.setJob p j).net = s.net := rfl
@[simp] theorem setJob_out (s : State) (p : Nat) (j : Job) : (s.setJob p j).out = s.out := rfl

/-! ### setPort -/
@[simp] theorem setPort_pending (s : State) (p : Nat) (x : Port) : (s.setPort p x).pending = s.pending := rfl
@[simp] theorem setPort_free (s : State) (p : Nat) (x : Port) : (s.setPort p x).free = s.free := rfl
@[simp] theorem setPort_pkgId (s : State) (p : Nat) (x : Port) : (s.setPort p x).pkgId = s.pkgId := rfl
@[simp] theorem setPort_mem (s : State) (p : Nat) (x : Port) : (s.setPort p x).mem = s.mem := rfl
@[simp] theorem setPort_tags (s : State) (p : Nat) (x : Port) : (s.setPort p x).tags = s.tags := rfl
@[simp] theorem setPort_regs (s : State) (p : Nat) (x : Port) : (s.setPort p x).regs = s.regs := rfl
@[simp] theorem setPort_power (s : State) (p : Nat) (x : Port) : (s.setPort p x).power = s.power := rfl
@[simp] theorem setPort_idents (s : State) (p : Nat) (x : Port) : (s.setPort p x).idents = s.idents := rfl
@[simp] theorem setPort_tide (s : State) (p : Nat) (x : Port) : (s.setPort p x).tide = s.tide := rfl
@[simp] theorem setPort_wheels (s : State) (p : Nat) (x : Port) : (s.setPort p x).wheels = s.wheels := rfl
@[simp] theorem setPort_routes (s : State) (p : Nat) (x : Port) : (s.setPort p x).routes = s.routes := rfl
@[simp] theorem setPort_sets (s : State) (p : Nat) (x : Port) : (s.setPort p x).sets = s.sets := rfl
@[simp] theorem setPort_cores (s : State) (p : Nat) (x : Port) : (s.setPort p x).cores = s.cores := rfl
@[simp] theorem setPort_tel (s : State) (p : Nat) (x : Port) : (s.setPort p x).tel = s.tel := rfl
@[simp] theorem setPort_reserved (s : State) (p : Nat) (x : Port) : (s.setPort p x).reserved = s.reserved := rfl
@[simp] theorem setPort_drains (s : State) (p : Nat) (x : Port) : (s.setPort p x).drains = s.drains := rfl
@[simp] theorem setPort_culverts (s : State) (p : Nat) (x : Port) : (s.setPort p x).culverts = s.culverts := rfl
@[simp] theorem setPort_slices (s : State) (p : Nat) (x : Port) : (s.setPort p x).slices = s.slices := rfl
@[simp] theorem setPort_deferred (s : State) (p : Nat) (x : Port) : (s.setPort p x).deferred = s.deferred := rfl
@[simp] theorem setPort_behind (s : State) (p : Nat) (x : Port) : (s.setPort p x).behind = s.behind := rfl
@[simp] theorem setPort_weirs (s : State) (p : Nat) (x : Port) : (s.setPort p x).weirs = s.weirs := rfl
@[simp] theorem setPort_links (s : State) (p : Nat) (x : Port) : (s.setPort p x).links = s.links := rfl
@[simp] theorem setPort_stash (s : State) (p : Nat) (x : Port) : (s.setPort p x).stash = s.stash := rfl
@[simp] theorem setPort_firings (s : State) (p : Nat) (x : Port) : (s.setPort p x).firings = s.firings := rfl
@[simp] theorem setPort_ops (s : State) (p : Nat) (x : Port) : (s.setPort p x).ops = s.ops := rfl
@[simp] theorem setPort_subs (s : State) (p : Nat) (x : Port) : (s.setPort p x).subs = s.subs := rfl
@[simp] theorem setPort_kilns (s : State) (p : Nat) (x : Port) : (s.setPort p x).kilns = s.kilns := rfl
@[simp] theorem setPort_ktables (s : State) (p : Nat) (x : Port) : (s.setPort p x).ktables = s.ktables := rfl
@[simp] theorem setPort_sigmas (s : State) (p : Nat) (x : Port) : (s.setPort p x).sigmas = s.sigmas := rfl
@[simp] theorem setPort_fetches (s : State) (p : Nat) (x : Port) : (s.setPort p x).fetches = s.fetches := rfl
@[simp] theorem setPort_serial (s : State) (p : Nat) (x : Port) : (s.setPort p x).serial = s.serial := rfl
@[simp] theorem setPort_mfes (s : State) (p : Nat) (x : Port) : (s.setPort p x).mfes = s.mfes := rfl
@[simp] theorem setPort_mfSlice (s : State) (p : Nat) (x : Port) : (s.setPort p x).mfSlice = s.mfSlice := rfl
@[simp] theorem setPort_toks (s : State) (p : Nat) (x : Port) : (s.setPort p x).toks = s.toks := rfl
@[simp] theorem setPort_keys (s : State) (p : Nat) (x : Port) : (s.setPort p x).keys = s.keys := rfl
@[simp] theorem setPort_wiping (s : State) (p : Nat) (x : Port) : (s.setPort p x).wiping = s.wiping := rfl
@[simp] theorem setPort_testing (s : State) (p : Nat) (x : Port) : (s.setPort p x).testing = s.testing := rfl
@[simp] theorem setPort_moved (s : State) (p : Nat) (x : Port) : (s.setPort p x).moved = s.moved := rfl
@[simp] theorem setPort_soft (s : State) (p : Nat) (x : Port) : (s.setPort p x).soft = s.soft := rfl
@[simp] theorem setPort_flash (s : State) (p : Nat) (x : Port) : (s.setPort p x).flash = s.flash := rfl
@[simp] theorem setPort_rtp (s : State) (p : Nat) (x : Port) : (s.setPort p x).rtp = s.rtp := rfl
@[simp] theorem setPort_lands (s : State) (p : Nat) (x : Port) : (s.setPort p x).lands = s.lands := rfl
@[simp] theorem setPort_windows (s : State) (p : Nat) (x : Port) : (s.setPort p x).windows = s.windows := rfl
@[simp] theorem setPort_jobs (s : State) (p : Nat) (x : Port) : (s.setPort p x).jobs = s.jobs := rfl
@[simp] theorem setPort_taken (s : State) (p : Nat) (x : Port) : (s.setPort p x).taken = s.taken := rfl
@[simp] theorem setPort_lined (s : State) (p : Nat) (x : Port) : (s.setPort p x).lined = s.lined := rfl
@[simp] theorem setPort_owedCq (s : State) (p : Nat) (x : Port) : (s.setPort p x).owedCq = s.owedCq := rfl
@[simp] theorem setPort_sq (s : State) (p : Nat) (x : Port) : (s.setPort p x).sq = s.sq := rfl
@[simp] theorem setPort_events (s : State) (p : Nat) (x : Port) : (s.setPort p x).events = s.events := rfl
@[simp] theorem setPort_alert (s : State) (p : Nat) (x : Port) : (s.setPort p x).alert = s.alert := rfl
@[simp] theorem setPort_net (s : State) (p : Nat) (x : Port) : (s.setPort p x).net = s.net := rfl
@[simp] theorem setPort_out (s : State) (p : Nat) (x : Port) : (s.setPort p x).out = s.out := rfl

/-! ### setOp -/
@[simp] theorem setOp_pending (s : State) (j p n : Nat) (o : Option ColOp) : (s.setOp j p n o).pending = s.pending := rfl
@[simp] theorem setOp_free (s : State) (j p n : Nat) (o : Option ColOp) : (s.setOp j p n o).free = s.free := rfl
@[simp] theorem setOp_pkgId (s : State) (j p n : Nat) (o : Option ColOp) : (s.setOp j p n o).pkgId = s.pkgId := rfl
@[simp] theorem setOp_mem (s : State) (j p n : Nat) (o : Option ColOp) : (s.setOp j p n o).mem = s.mem := rfl
@[simp] theorem setOp_tags (s : State) (j p n : Nat) (o : Option ColOp) : (s.setOp j p n o).tags = s.tags := rfl
@[simp] theorem setOp_regs (s : State) (j p n : Nat) (o : Option ColOp) : (s.setOp j p n o).regs = s.regs := rfl
@[simp] theorem setOp_power (s : State) (j p n : Nat) (o : Option ColOp) : (s.setOp j p n o).power = s.power := rfl
@[simp] theorem setOp_idents (s : State) (j p n : Nat) (o : Option ColOp) : (s.setOp j p n o).idents = s.idents := rfl
@[simp] theorem setOp_tide (s : State) (j p n : Nat) (o : Option ColOp) : (s.setOp j p n o).tide = s.tide := rfl
@[simp] theorem setOp_wheels (s : State) (j p n : Nat) (o : Option ColOp) : (s.setOp j p n o).wheels = s.wheels := rfl
@[simp] theorem setOp_routes (s : State) (j p n : Nat) (o : Option ColOp) : (s.setOp j p n o).routes = s.routes := rfl
@[simp] theorem setOp_sets (s : State) (j p n : Nat) (o : Option ColOp) : (s.setOp j p n o).sets = s.sets := rfl
@[simp] theorem setOp_cores (s : State) (j p n : Nat) (o : Option ColOp) : (s.setOp j p n o).cores = s.cores := rfl
@[simp] theorem setOp_tel (s : State) (j p n : Nat) (o : Option ColOp) : (s.setOp j p n o).tel = s.tel := rfl
@[simp] theorem setOp_reserved (s : State) (j p n : Nat) (o : Option ColOp) : (s.setOp j p n o).reserved = s.reserved := rfl
@[simp] theorem setOp_ports (s : State) (j p n : Nat) (o : Option ColOp) : (s.setOp j p n o).ports = s.ports := rfl
@[simp] theorem setOp_drains (s : State) (j p n : Nat) (o : Option ColOp) : (s.setOp j p n o).drains = s.drains := rfl
@[simp] theorem setOp_culverts (s : State) (j p n : Nat) (o : Option ColOp) : (s.setOp j p n o).culverts = s.culverts := rfl
@[simp] theorem setOp_slices (s : State) (j p n : Nat) (o : Option ColOp) : (s.setOp j p n o).slices = s.slices := rfl
@[simp] theorem setOp_deferred (s : State) (j p n : Nat) (o : Option ColOp) : (s.setOp j p n o).deferred = s.deferred := rfl
@[simp] theorem setOp_behind (s : State) (j p n : Nat) (o : Option ColOp) : (s.setOp j p n o).behind = s.behind := rfl
@[simp] theorem setOp_weirs (s : State) (j p n : Nat) (o : Option ColOp) : (s.setOp j p n o).weirs = s.weirs := rfl
@[simp] theorem setOp_links (s : State) (j p n : Nat) (o : Option ColOp) : (s.setOp j p n o).links = s.links := rfl
@[simp] theorem setOp_stash (s : State) (j p n : Nat) (o : Option ColOp) : (s.setOp j p n o).stash = s.stash := rfl
@[simp] theorem setOp_firings (s : State) (j p n : Nat) (o : Option ColOp) : (s.setOp j p n o).firings = s.firings := rfl
@[simp] theorem setOp_subs (s : State) (j p n : Nat) (o : Option ColOp) : (s.setOp j p n o).subs = s.subs := rfl
@[simp] theorem setOp_kilns (s : State) (j p n : Nat) (o : Option ColOp) : (s.setOp j p n o).kilns = s.kilns := rfl
@[simp] theorem setOp_ktables (s : State) (j p n : Nat) (o : Option ColOp) : (s.setOp j p n o).ktables = s.ktables := rfl
@[simp] theorem setOp_sigmas (s : State) (j p n : Nat) (o : Option ColOp) : (s.setOp j p n o).sigmas = s.sigmas := rfl
@[simp] theorem setOp_fetches (s : State) (j p n : Nat) (o : Option ColOp) : (s.setOp j p n o).fetches = s.fetches := rfl
@[simp] theorem setOp_serial (s : State) (j p n : Nat) (o : Option ColOp) : (s.setOp j p n o).serial = s.serial := rfl
@[simp] theorem setOp_mfes (s : State) (j p n : Nat) (o : Option ColOp) : (s.setOp j p n o).mfes = s.mfes := rfl
@[simp] theorem setOp_mfSlice (s : State) (j p n : Nat) (o : Option ColOp) : (s.setOp j p n o).mfSlice = s.mfSlice := rfl
@[simp] theorem setOp_toks (s : State) (j p n : Nat) (o : Option ColOp) : (s.setOp j p n o).toks = s.toks := rfl
@[simp] theorem setOp_keys (s : State) (j p n : Nat) (o : Option ColOp) : (s.setOp j p n o).keys = s.keys := rfl
@[simp] theorem setOp_wiping (s : State) (j p n : Nat) (o : Option ColOp) : (s.setOp j p n o).wiping = s.wiping := rfl
@[simp] theorem setOp_testing (s : State) (j p n : Nat) (o : Option ColOp) : (s.setOp j p n o).testing = s.testing := rfl
@[simp] theorem setOp_moved (s : State) (j p n : Nat) (o : Option ColOp) : (s.setOp j p n o).moved = s.moved := rfl
@[simp] theorem setOp_soft (s : State) (j p n : Nat) (o : Option ColOp) : (s.setOp j p n o).soft = s.soft := rfl
@[simp] theorem setOp_flash (s : State) (j p n : Nat) (o : Option ColOp) : (s.setOp j p n o).flash = s.flash := rfl
@[simp] theorem setOp_rtp (s : State) (j p n : Nat) (o : Option ColOp) : (s.setOp j p n o).rtp = s.rtp := rfl
@[simp] theorem setOp_lands (s : State) (j p n : Nat) (o : Option ColOp) : (s.setOp j p n o).lands = s.lands := rfl
@[simp] theorem setOp_windows (s : State) (j p n : Nat) (o : Option ColOp) : (s.setOp j p n o).windows = s.windows := rfl
@[simp] theorem setOp_jobs (s : State) (j p n : Nat) (o : Option ColOp) : (s.setOp j p n o).jobs = s.jobs := rfl
@[simp] theorem setOp_taken (s : State) (j p n : Nat) (o : Option ColOp) : (s.setOp j p n o).taken = s.taken := rfl
@[simp] theorem setOp_lined (s : State) (j p n : Nat) (o : Option ColOp) : (s.setOp j p n o).lined = s.lined := rfl
@[simp] theorem setOp_owedCq (s : State) (j p n : Nat) (o : Option ColOp) : (s.setOp j p n o).owedCq = s.owedCq := rfl
@[simp] theorem setOp_sq (s : State) (j p n : Nat) (o : Option ColOp) : (s.setOp j p n o).sq = s.sq := rfl
@[simp] theorem setOp_events (s : State) (j p n : Nat) (o : Option ColOp) : (s.setOp j p n o).events = s.events := rfl
@[simp] theorem setOp_alert (s : State) (j p n : Nat) (o : Option ColOp) : (s.setOp j p n o).alert = s.alert := rfl
@[simp] theorem setOp_net (s : State) (j p n : Nat) (o : Option ColOp) : (s.setOp j p n o).net = s.net := rfl
@[simp] theorem setOp_out (s : State) (j p n : Nat) (o : Option ColOp) : (s.setOp j p n o).out = s.out := rfl

/-! ### Views -/

@[simp] theorem setCore_core (s : State) (i : Nat) (c : Core) (j : Nat) : (s.setCore i c).core j = if j = i then c else s.core j :=
  get_set _ _ _ _ _

@[simp] theorem modCore_core (s : State) (i : Nat) (f : Core → Core) (j : Nat) :
    (s.modCore i f).core j = if j = i then f (s.core i) else s.core j := get_set _ _ _ _ _

@[simp] theorem setWheel_wheel (s : State) (p : Nat) (w : Wheel) (q : Nat) : (s.setWheel p w).wheel q = if q = p then w else s.wheel q :=
  get_set _ _ _ _ _

@[simp] theorem setPort_port (s : State) (p : Nat) (x : Port) (q : Nat) : (s.setPort p x).port q = if q = p then x else s.port q :=
  get_set _ _ _ _ _

@[simp] theorem setJob_job (s : State) (p : Nat) (j : Job) (q : Nat) : (s.setJob p j).job q = if q = p then j else s.job q :=
  get_set _ _ _ _ _

@[simp] theorem putMeta_metaAt (s : State) (a : Nat) (m : DWord × DWord) (b : Nat) :
    (s.putMeta a m).metaAt b = if b / 2048 = a / 2048 then m else s.metaAt b := get_set _ _ _ _ _

@[simp] theorem putBytes_metaAt (s : State) (a : Nat) (l : List Byte) (b : Nat) : (s.putBytes a l).metaAt b = s.metaAt b := rfl

@[simp] theorem setF_core (s : State) (f : FieldRef) (x i : Nat) : (s.setF f x).core i = s.core i := rfl

@[simp] theorem setF_wheel (s : State) (f : FieldRef) (x p : Nat) : (s.setF f x).wheel p = s.wheel p := rfl

@[simp] theorem setF_now (s : State) (f : FieldRef) (x : Nat) : (s.setF f x).now = s.now := rfl

@[simp] theorem setCore_getF (s : State) (i : Nat) (c : Core) (f : FieldRef) : (s.setCore i c).getF f = s.getF f := rfl

@[simp] theorem modCore_getF (s : State) (i : Nat) (g : Core → Core) (f : FieldRef) : (s.modCore i g).getF f = s.getF f := rfl

@[simp] theorem setWheel_getF (s : State) (p : Nat) (w : Wheel) (f : FieldRef) : (s.setWheel p w).getF f = s.getF f := rfl

@[simp] theorem putBytes_getF (s : State) (a : Nat) (l : List Byte) (f : FieldRef) : (s.putBytes a l).getF f = s.getF f := rfl

@[simp] theorem putTile_getF (s : State) (a : Nat) (t : Tile) (f : FieldRef) : (s.putTile a t).getF f = s.getF f := rfl

@[simp] theorem useFree_getF (s : State) (n : Nat) (f : FieldRef) : (s.useFree n).getF f = s.getF f := rfl

@[simp] theorem send_getF (s : State) (o : Out) (f : FieldRef) : (s.send o).getF f = s.getF f := rfl

@[simp] theorem note_getF (s : State) (e : Ev) (f : FieldRef) : (s.note e).getF f = s.getF f := rfl

end Sys2Proof.Laws
end

