-- ==== Sys2Proof/Laws/Quiesce.lean ====
section
/-! SUPPORT. What quiescing a polder's step changes: cores, scratchpads, telemetry, packets on their way inside the package or waiting at a
lane, the report, and of the register words only those of the report and of the polder's recovery status. -/

namespace Sys2Proof.Laws

open Sys2Proof.Machine

/-- Two states that differ only in what quiescing changes; register fields outside a list read the same. -/
structure Quiet (gs : List FieldRef) (s t : State) : Prop where
  only : t = { s with mem := t.mem, tags := t.tags, regs := t.regs, cores := t.cores, tel := t.tel, ports := t.ports, events := t.events, alert := t.alert, net := t.net, out := t.out }
  regs : RegsBut gs s t

theorem Quiet.refl (gs : List FieldRef) (s : State) : Quiet gs s s := ⟨rfl, regsBut_refl gs s⟩

theorem Quiet.trans {gs : List FieldRef} {a b c : State} (h : Quiet gs a b) (k : Quiet gs b c) : Quiet gs a c :=
  ⟨by rw [k.1, h.1], fun f hf => (k.2 f hf).trans (h.2 f hf)⟩

/-- An update that leaves the register words alone. -/
theorem Quiet.upd {gs : List FieldRef} (s : State) (mem' tags' cores' tel' events' alert' net' out') :
    Quiet gs s { s with mem := mem', tags := tags', cores := cores', tel := tel', events := events', alert := alert', net := net', out := out' } :=
  ⟨rfl, fun _ _ => rfl⟩

theorem Quiet.setF {gs : List FieldRef} (s : State) (g : FieldRef) (x : Nat) (h : g ∈ gs) : Quiet gs s (s.setF g x) :=
  ⟨rfl, fun f hf => getF_setF_apart s f g x (hf g h)⟩

theorem quiet_applyWrites {gs : List FieldRef} (i : Nat) (l : List TileWrite) (s : State) : Quiet gs s (s.applyWrites i l) := by
  induction l generalizing s with
  | nil => exact .refl gs s
  | cons w t ih =>
    unfold State.applyWrites
    refine Quiet.trans ?_ (ih _)
    exact ⟨rfl, fun _ _ => rfl⟩

theorem quiet_applyTel {gs : List FieldRef} (p : Nat) (l : List (Nat × Nat)) (s : State) : Quiet gs s (s.applyTel p l) := by
  induction l generalizing s with
  | nil => exact .refl gs s
  | cons w t ih =>
    unfold State.applyTel
    refine Quiet.trans ?_ (ih _)
    exact ⟨rfl, fun _ _ => rfl⟩

theorem quiet_finishCmd {gs : List FieldRef} (i : Nat) (cmd : CmdWord) (seq : BitVec 16) (f : Flight) (s : State) :
    Quiet gs s (s.finishCmd i cmd seq f) := by
  unfold State.finishCmd
  refine Quiet.trans (quiet_applyWrites i f.writes s) ?_
  dsimp only
  split
  · exact Quiet.trans (quiet_applyTel _ _ _) ⟨rfl, fun _ _ => rfl⟩
  · exact ⟨rfl, fun _ _ => rfl⟩

theorem quiet_flushOne {gs : List FieldRef} (i : Nat) (silent : Bool) (q : QEntry) (f : Flight) (s : State) :
    Quiet gs s (s.flushOne i silent q f) := by
  unfold State.flushOne
  split
  · exact ⟨rfl, fun _ _ => rfl⟩
  · split
    · exact ⟨rfl, fun _ _ => rfl⟩
    · exact quiet_finishCmd _ _ _ _ _

theorem quiet_flushSb {gs : List FieldRef} (i : Nat) (silent : Bool) (l : List SbEntry) (s : State) : Quiet gs s (State.flushSb i silent l s) := by
  induction l generalizing s with
  | nil => exact .refl gs s
  | cons w t ih => exact (quiet_flushOne _ _ _ _ _).trans (ih _)

theorem quiet_flushQueued {gs : List FieldRef} (i : Nat) (silent : Bool) (l : List QEntry) (s : State) :
    Quiet gs s (State.flushQueued i silent l s) := by
  induction l generalizing s with
  | nil => exact .refl gs s
  | cons w t ih =>
    refine Quiet.trans ?_ (ih _)
    split
    · exact .refl gs s
    · exact quiet_flushOne _ _ _ _ _

theorem quiet_modCore {gs : List FieldRef} (s : State) (i : Nat) (f : Core → Core) : Quiet gs s (s.modCore i f) := ⟨rfl, fun _ _ => rfl⟩

theorem quiet_foldl {gs : List FieldRef} {α : Type} (f : State → α → State) (hf : ∀ s a, Quiet gs s (f s a)) (l : List α) (s : State) :
    Quiet gs s (l.foldl f s) := by
  induction l generalizing s with
  | nil => exact .refl gs s
  | cons w t ih => exact (hf s w).trans (ih _)

theorem quiet_cutSends {gs : List FieldRef} (i n : Nat) (s : State) : Quiet gs s (s.cutSends i n) := by
  unfold State.cutSends
  refine Quiet.trans (b := { s with net := s.net.map (cutMesh ⟨s.pkgId, i, n⟩) }) ⟨rfl, fun _ _ => rfl⟩ ?_
  dsimp only
  refine quiet_foldl _ (fun s pv => ?_) _ _
  exact ⟨rfl, fun _ _ => rfl⟩

theorem quiet_raise {gs : List FieldRef} (s : State) (e : Ev) : Quiet gs s (s.raise e) := ⟨rfl, fun _ _ => rfl⟩

theorem quiet_abandonCore {gs : List FieldRef} (i : Nat) (silent : Bool) (s : State) : Quiet gs s (s.abandonCore i silent) := by
  unfold State.abandonCore
  refine Quiet.trans ?_ (quiet_modCore _ _ _)
  refine Quiet.trans ?_ (quiet_flushQueued _ _ _ _)
  refine Quiet.trans ?_ (quiet_modCore _ _ _)
  refine Quiet.trans ?_ (quiet_flushSb _ _ _ _)
  exact Quiet.trans (quiet_modCore _ _ _) (quiet_foldl _ (fun s n => quiet_cutSends i n s) _ _)

theorem quiet_forCores {gs : List FieldRef} (f : Nat → State → State) (hf : ∀ i s, Quiet gs s (f i s)) (l : List Nat) (s : State) :
    Quiet gs s (State.forCores f l s) := by
  induction l generalizing s with
  | nil => exact .refl gs s
  | cons w t ih => exact (hf w s).trans (ih _)

/-- The register fields that a report writes. -/
def reportFields : List FieldRef := [Reg.MGT_TRACE_IDX_TAIL, Reg.MGT_CNT_TRACE_DROP_COUNT, Reg.CFG_CNT_WINDOW_DROP_COUNT]

theorem quiet_storeIn {gs : List FieldRef} (feature a : Nat) (l : List Byte) (s : State) (h : Reg.CFG_CNT_WINDOW_DROP_COUNT ∈ gs) :
    Quiet gs s (s.storeIn feature a l) := by
  unfold State.storeIn
  generalize region a = r
  cases r with
  | host =>
    dsimp only
    split
    · exact ⟨rfl, fun _ _ => rfl⟩
    · split
      · exact .refl gs s
      · exact .setF _ _ _ h
  | _ => exact ⟨rfl, fun _ _ => rfl⟩

theorem quiet_trace {gs : List FieldRef} (cls polder code unit arg0 arg1 : Nat) (s : State) (h : ∀ g ∈ reportFields, g ∈ gs) :
    Quiet gs s (s.trace cls polder code unit arg0 arg1) := by
  unfold State.trace
  split
  · exact .refl gs s
  · dsimp only
    split
    · exact .setF _ _ _ (h _ (by simp [reportFields]))
    · exact (quiet_storeIn _ _ _ _ (h _ (by simp [reportFields]))).trans (.setF _ _ _ (h _ (by simp [reportFields])))

/-- The register fields that quiescing a polder's step writes. -/
def quiesceFields (p : Nat) : List FieldRef := [Reg.PWR_RECOV_STATUS_PENDING p, Reg.PWR_RECOV_STATUS_CAUSE p] ++ reportFields

/-- Everything that quiescing a polder's step leaves unchanged. -/
theorem quiet_quiesce (p : Nat) (cause : Cause) (s : State) : Quiet (quiesceFields p) s (s.quiesce p cause) := by
  unfold State.quiesce State.pend
  split
  · exact .refl _ s
  · refine Quiet.trans ?_ (quiet_trace _ _ _ _ _ _ _ fun g h => List.mem_append_right _ h)
    refine Quiet.trans ?_ (quiet_raise _ _)
    refine Quiet.trans ?_ (.setF _ _ _ (by simp [quiesceFields]))
    refine Quiet.trans ?_ (.setF _ _ _ (by simp [quiesceFields]))
    exact quiet_forCores _ (fun i s => quiet_abandonCore i false s) _ _

end Sys2Proof.Laws
end

