-- ==== Sys2Proof/Tests/Slice0.lean ====
section
/-! SUPPORT. Tests: the checks of WellFormed, and for every statement a state and operands that meet its hypotheses, clause by clause, with what the command answers
there. -/

namespace Sys2Proof.Tests

set_option Elab.async false

open Sys2Proof.Machine

/-! ### The checks of WellFormed -/

/-- One command out of range for every number that a command may carry. -/
def illFormed : List Instr :=
  [.nop 8192, .turnStart 8, .coreDbgXregWrite 0 32 false 0, .matmul 0 65536, .replyTimeout 0 128, .tmarkEdge 1000, .ackTimeout 16, .leakTimer 0 16,
   .trainingBlock 0 ⟨8, 0, 0, false, false, false⟩, .rejoin 8, .culvertBeat 0 2 0 true false, .culvertBeat 0 0 1024 true false,
   .culvertTrainingEnd 0 5377 0 0 0, .mark 4 0, .linkOpen 512, .groupInit 256 0, .delivery 2 0 0 0, .delivery 0 0 1024 0, .delivery 0 0 0 (2 ^ 32),
   .rootComputation 16 0 0, .rootComputation 0 65536 0, .applyRepair 16, .dieClockLoss 6, .throttleRise 288, .fetchTimeout 65536, .pinEntry 256, .ringEnable 3,
   .wipe 256, .counterClear 0x4000000, .barResize 64, .setdasa 128 0, .tideLoad (2 ^ 32)] ++
  [⟨4, false, false, 0, 0, 0, 0, 0, 0, []⟩, ⟨0, false, false, 16, 0, 0, 0, 0, 0, []⟩, ⟨0, false, false, 0, 1024, 0, 0, 0, 0, []⟩,
   ⟨0, false, false, 0, 0, 4096, 0, 0, 0, []⟩, ⟨0, false, false, 0, 0, 0, 4096, 0, 0, []⟩, ⟨0, false, false, 0, 0, 0, 0, 16, 0, []⟩,
   ⟨0, false, false, 0, 0, 0, 0, 0, 2048, []⟩].map (fun f => .idleFrame 0 f ⟨true, []⟩) ++
  [.vauxGood true 8, .culvertTrainingEnd 0 0 0 256 0]

theorem test_ill_formed_refused : ∀ c ∈ illFormed, c.wf = false := by decide +kernel

theorem test_last_values_accepted : ∀ c ∈ [Instr.nop 8191, .turnStart 7, .coreDbgXregWrite 8191 31 true 0, .matmul 0 65535, .replyTimeout 0 127, .tmarkEdge 999,
    .leakTimer 15 15, .culvertBeat 7 1 1023 true false, .mark 3 7, .delivery 1 7 1023 (2 ^ 32 - 1), .rootComputation 15 65535 0, .dieClockLoss 5,
    .throttleRise 287, .counterClear 0x3FFFFFF], c.wf = true := by decide +kernel

/-! ### Words of the tests -/

/-- The answer is a next state. -/
def goes (o : Host.Outcome State Fault Refusal) : Bool := match o with
  | .next _ => true
  | _ => false

/-- The answer is a next state of which something holds. -/
def goesTo (o : Host.Outcome State Fault Refusal) (p : State → Bool) : Bool := match o with
  | .next t => p t
  | _ => false

/-- A package with its supplies up, the MGC running and its main side up. -/
def up : State :=
  { State.reset with power := { Power.off with vaux := true, pwrgood := true, main := true }, rtp := { Rtp.blank with mgc := true } }.setF Reg.MGT_STATUS_MAIN_UP 1

/-- `up` with the tide at a count, some edge of TMARK past. -/
def upAt (n : Nat) : State := { up with tide := { up.tide with count := BitVec.ofNat 48 n, firstEdge := false } }

/-- One of the wheels runs. -/
def polderRuns (p : Nat) (s : State) : State := s.setWheel p { s.wheel p with runs := true }

def asForerunner (s : State) : State := s.setF Reg.WHL_TIME_CTL_MODE 1

/-- Every channel of a stack belongs to a polder. -/
def ownStack (st p : Nat) (s : State) : State := (List.range 4).foldl (fun s k => s.setF (Reg.MEM_CHAN_OWNER_OWNER st k) (p * 0x11111111)) s

/-- Tokens in the buckets of polders 2 and 7 at a stack. -/
def tokens (st : Nat) (s : State) : State :=
  [6, 7, 8, 21, 22, 23].foldl (fun s k => (s.setF (Reg.MEM_WEIR_RATE st (k / 3) (k % 3)) 1).setF (Reg.MEM_WEIR_BURST st (k / 3) (k % 3)) 100) s

/-- A port in a state, of a role. -/
def portIn (p st role : Nat) (s : State) : State := (s.setPortState p st).setF (Reg.LNK_PORT_CFG_ROLE p) role

/-- A packet at the head of a virtual channel that a polder owns. -/
def withHead (p v pol : Nat) (q : LanePkt) (s : State) : State :=
  (s.modPort p fun x => { x with rx := SMap.set (fun _ => []) x.rx v [q] }).setF (Reg.LNK_VC_CFG_POLDER p v) pol

def cw : Codeword := ⟨true, []⟩

/-- A frame of a type with a payload. -/
def fr (ft : Nat) (pl : List Byte) : Frame := ⟨ft, false, false, 3, 0, 0, 0xFFF, 2, 7, pl⟩

/-! ### The queue and what every step keeps -/

theorem witness_StepsRunTheFrontCommandOrIdle :
    { State.reset with pending := [.trefLost] }.pending = .trefLost :: [] ∧ State.reset.pending = [] := by decide +kernel

/-- Memory that lists something, and a step that stores to it. -/
def storing : State := { (upAt 5).putBytes 0x80000000000 [1, 2, 3] with pending := [.ringEnable 0] }

theorem witness_EveryStepKeepsMemoryCanonical :
    Memory.wf storing.mem = true ∧ storing.mem ≠ [] ∧ SMap.wf wipedMeta storing.tags = true ∧ goes (step storing) = true := by decide +kernel

theorem witness_CounterCellsOnlyEverIncrease :
    goesTo (step { (upAt 5).setF Reg.SEC_SVN_IMAGE_SVN 3 with pending := [.commitSvn] }) (fun t => t.rtp.fwSvn == 3) = true := by decide +kernel

theorem witness_CommandsLeaveTheQueueAndOnlySendMore :
    goesTo (exec .trefLost { upAt 5 with pending := [.snap] }) (fun t => t.pending == [.snap] && t.out == [.msix 0]) = true := by decide +kernel

/-! ### The tide -/

def env : TickEnv := ⟨[], [], [], 0, 0⟩

def pending (sec : Nat) (s : State) : State := (s.setF Reg.WHL_TIME_STATUS_LOAD_PENDING 1).setF Reg.WHL_TIDE_LOAD_SECONDS sec

/-- A time master one tick before a multiple of 100,000, a load pending, its main side down. -/
def dueMaster : State :=
  let s := pending 12345 ((asForerunner (upAt 99999)).setF Reg.WHL_TIME_CTL_MASTER 1)
  { s with power := { s.power with main := false } }

theorem witness_TideTickCounts :
    State.reset.power.vaux = false ∧ (upAt 5).power.vaux = true ∧ ¬ MasterLoadDue (upAt 5) ∧ dueMaster.power.vaux = true ∧ MasterLoadDue dueMaster := by
  unfold MasterLoadDue; decide +kernel

theorem test_tick_counts : goesTo (exec (.tideTick env) { upAt 5 with power := { (upAt 5).power with main := false } }) (fun t => t.tide.count == 6 && t.tide.phase == 0) = true := by decide +kernel

theorem test_tick_loads : goesTo (exec (.tideTick env) dueMaster) (fun t => t.tide.count == 1234500000) = true := by decide +kernel

theorem witness_LoadIsPendingOrRefused :
    LoadRefused (polderRuns 7 (upAt 5)) 0 ∧ LoadRefused (upAt 5) 2814749768 ∧ ¬ LoadRefused (upAt 5) 2814749767 ∧ ¬ LoadRefused (upAt 5) 0 ∧
      LoadRefused (asForerunner (upAt 5)) 0 ∧ (upAt 5).getF Reg.WHL_TIDE_LOAD_SECONDS = 0 := by
  unfold LoadRefused; decide +kernel

theorem test_load_refused_and_pending :
    goesTo (exec .loadArm (polderRuns 7 (upAt 5))) (fun t => t.getF Reg.WHL_TIME_STATUS_LOAD_REFUSED == 1) = true ∧
      goesTo (exec (.tideLoad 2814749767) (upAt 5)) (fun t => t.getF Reg.WHL_TIME_STATUS_LOAD_PENDING == 1) = true := by decide +kernel

/-- Two edges ignored that agree. -/
def twoIgnored : State := { upAt 100300 with tide := { (upAt 100300).tide with ignored := [300000, 300001], markOut := true } }

theorem witness_TmarkEdgesAndConditionsAreJudged :
    ((upAt 200000).power.vaux = true ∧ (upAt 200000).forerunner = false ∧ (upAt 200000).tide.firstEdge = false) ∧
    (Deviation (upAt 200000) 2).natAbs = 2 ∧ (Deviation (upAt 200000) 3).natAbs = 3 ∧ (Deviation (upAt 199999) 0).natAbs = 1000 ∧
    (Deviation (upAt 200001) 1).natAbs = 1001 ∧ (pending 9 (upAt 200000)).flag Reg.WHL_TIME_STATUS_LOAD_PENDING = true ∧
    (up.power.vaux = true ∧ up.tide.firstEdge = true ∧ ∀ p < 8, (up.wheel p).runs = false) ∧
    (1000 < (Deviation twoIgnored 0).natAbs ∧ (∀ p < 8, (twoIgnored.wheel p).runs = false) ∧ twoIgnored.flag Reg.WHL_TIME_STATUS_TREF_LOST = false ∧
      twoIgnored.tide.ignored = [300000, 300001] ∧ (Deviation twoIgnored 0 - 300000).natAbs ≤ 2) ∧
    { upAt 5 with tide := { (upAt 5).tide with quiet := 100500, missAt := 100500 } }.tide.missAt ≤ 100500 ∧
    (upAt 5).flag Reg.WHL_TIME_STATUS_TREF_LOST = false ∧ (twoIgnored.tide.markOut = true ∧ twoIgnored.tide.markLeft = 0) := by
  decide +kernel

theorem test_edge_adjusts_and_realigns :
    goesTo (exec (.tmarkEdge 3) (upAt 200000)) (fun t => t.tide.count == 200000 && t.tide.phase == 0) = true ∧
      goesTo (exec (.tmarkEdge 0) twoIgnored) (fun t => t.tide.count == 100000 && t.alert) = true := by decide +kernel

theorem witness_TideAndSuppliesChangeByTheirOwnCommandsOnly :
    (MovesTide .snap = false ∧ goesTo (exec .snap (upAt 5)) (fun t => t.tide == (upAt 5).tide) = true) ∧
      MovesTide .weirRefill = false ∧ ChangesSupplies .weirRefill = false ∧ goes (exec .weirRefill (upAt 5)) = true ∧
      MovesTide (.wheelRun 0) = false ∧ ChangesSupplies .perst = true := by decide +kernel

/-- The answer is a refusal with a case of undefined behaviour. -/
def refuses (o : Host.Outcome State Fault Refusal) (r : String) : Bool := match o with
  | .refused (.undefinedBehaviour x) => x == r
  | _ => false

/-- A link descriptor written with a reserved ROLE. -/
theorem witness_CommandsAnswerANextState :
    MeetsR540 .snap = false ∧ MeetsR540 (.issue 0) = true ∧
      refuses (exec (.registerWrite 0x610000 3 []) (upAt 5)) "R10" = true := by decide +kernel

theorem witness_DeviceAddressesDecodeAsTheTableSays :
    region (15 * 0x1000000000 + 31 * 0x80000000 + 0x5FFFFFFF) = .dram 15 31 ∧ region (15 * 0x1000000000 + 31 * 0x80000000 + 0x60000000) = .unmapped ∧
      region (0x10000000000 + 8191 * 0x80000 + 0x5FFFF) = .scratch 8191 ∧ region (0x10000000000 + 8191 * 0x80000 + 0x60000) = .unmapped ∧
      region 0x20003FFFFFF = .control ∧ region 0x20004000000 = .unmapped ∧ region 0xFFFFFFFFFFF = .host ∧ region 0x7FFFFFFFFFF = .unmapped := by
  decide +kernel

/-! ### Forerunner mode -/

/-- A child whose exchange is due. -/
def child (misses : Nat) : State :=
  let s := asForerunner (upAt 8)
  { s with tide := { s.tide with sinceSync := 100000, t1 := some 5000, misses := misses } }

/-- A child on whose parent port an answer comes. -/
def asked (locked : Nat) : State := ((child 0).setPortState 0 6).setF Reg.WHL_TIME_STATUS_LOCKED locked

def answer : Frame := fr 2 [7, 0, 3, 1, 0, 0, 0, 0, 0x88, 0x13, 0, 0, 0, 0, 0, 0, 0x99, 0x13]

theorem witness_SyncExchangesStartAndAreMissed :
    ((child 0).power.main = true ∧ (child 0).forerunner = true ∧ (child 0).flag Reg.WHL_TIME_CTL_MASTER = false ∧
      256 * 2 ^ (child 0).getF Reg.WHL_TIME_CTL_INTERVAL ≤ (child 0).tide.sinceSync ∧ (child 0).portState ((child 0).getF Reg.WHL_TIME_CTL_PARENT) ≠ 6 ∧
      (asked 0).portState ((asked 0).getF Reg.WHL_TIME_CTL_PARENT) = 6) ∧
    ((child 15).tide.t1 = some 5000 ∧ 5000 + 1000 < (child 15).now * 1000 + max (child 15).tide.phase 1 ∧ (child 15).tide.misses = 15 ∧
      (child 14).tide.misses ≠ 15) := by decide +kernel

theorem test_sync : goesTo (exec (.syncExchange 5) (asked 0)) (fun t => t.tide.t1 == some 8005) = true ∧
    goesTo (exec (.syncMiss 5) (child 15)) (fun t => t.alert) = true := by decide +kernel

/-- The child of the first exchange, six ticks in: the answer is in time. -/
def inTime (locked : Nat) : State := let s := asked locked; { s with tide := { s.tide with count := 6 } }

theorem witness_TimeRequestsAreAnsweredAndAnswersTaken :
    cw.intact = true ∧ (AfterCodeword 0 cw ((inTime 0).atPhase 0)).portState 0 = 6 ∧ (AfterCodeword 0 cw ((inTime 0).atPhase 0)).forerunner = true ∧
      (AfterCodeword 0 cw ((inTime 0).atPhase 0)).tide.t1 = some 5000 ∧ (AfterCodeword 0 cw ((inTime 0).atPhase 0)).isChild = true ∧
      0 = (AfterCodeword 0 cw ((inTime 0).atPhase 0)).getF Reg.WHL_TIME_CTL_PARENT ∧
      numAt answer.payload 1 1 = (AfterCodeword 0 cw ((inTime 0).atPhase 0)).tide.syncId ∧
      (AfterCodeword 0 cw ((inTime 0).atPhase 0)).stamp = 5000 + 1000 ∧
      (AfterCodeword 0 cw ((inTime 0).atPhase 0)).flag Reg.WHL_TIME_STATUS_LOCKED = false ∧
      (AfterCodeword 0 cw ((inTime 1).atPhase 0)).flag Reg.WHL_TIME_STATUS_LOCKED = true := by decide +kernel

theorem test_time_req : goesTo (exec (.timeReq 0 answer cw 0 5) (inTime 0)) (fun t => t.out.length == 1) = true := by decide +kernel

/-! ### Ports -/

def port (p n : Nat) : State := portIn p n 1 (upAt 5)

/-- A DATA frame with one whole packet, of a SEQ. -/
def data (seq : Nat) : Frame := { fr 1 (packetBytes ⟨0x10, false, false, 0, 0, 0, 0, 0, [1, 2, 3, 4]⟩) with seq := seq }

/-- A port on which frames have come. -/
def busy (p : Nat) : State := (port p 6).modPort p fun x => { x with accepted := true, rxSeq := 5, replay := [data 7, data 8], awaited := true, replayTo := some 8, req := some (1, 3), retrain := true }

theorem witness_DataFramesAreAcceptedInOrder :
    (AfterCodeword 15 cw (port 15 6)).portState 15 = 6 ∧ (data 0).seq = ((AfterCodeword 15 cw (port 15 6)).port 15).rxSeq ∧
      (padTo 628 (data 0).payload).head? ≠ some 0 ∧ SMap.get (fun _ => []) ((AfterCodeword 15 cw (port 15 6)).port 15).chunk 3 = [] ∧
      ((packetAt (padTo 628 (data 0).payload)).map fun x => (x.1.ptype, x.1.dstPkg, x.1.lepoch, x.1.isSealed, x.2.head?)) = some (0x10, 0, 0, false, some 0) ∧
      roleAllows ((AfterCodeword 15 cw (port 15 6)).portRole 15) 0x10 = true ∧ (AfterCodeword 15 cw (port 15 6)).isCl2 15 = false ∧
      (AfterCodeword 15 cw (port 15 6)).pkgId = 0 ∧ (AfterCodeword 15 cw (port 15 6)).getF (Reg.LNK_PORT_EPOCH_LINK_EPOCH 15) = 0 ∧
    (2048 ≤ ((data 2053).seq + 4096 - ((AfterCodeword 0 cw (busy 0)).port 0).rxSeq) % 4096) ∧
    ((data 6).seq ≠ ((AfterCodeword 0 cw (busy 0)).port 0).rxSeq ∧ ((data 2052).seq + 4096 - ((AfterCodeword 0 cw (busy 0)).port 0).rxSeq) % 4096 < 2048 ∧
      ((AfterCodeword 0 cw (busy 0)).port 0).accepted = true) := by decide +kernel

theorem test_data_frame : goesTo (exec (.dataFrame 15 (data 0) cw) (port 15 6)) (fun t => (SMap.get (fun _ => []) (t.port 15).rx 3).length == 1) = true := by
  decide +kernel

/-- A header that acknowledges frame 7 and asks for the next again. -/
def nakFor : Frame := { fr 0 [] with ack := 7, nak := true }

theorem witness_HeadersAcknowledgeAndGiveCredit :
    (AfterCodeword 15 cw (port 15 6)).portState 15 = 6 ∧ (fr 0 []).nak = false ∧ (fr 0 []).cvc < 16 ∧ (AfterCodeword 15 cw (port 15 6)).isCl2 15 = false ∧
      (∀ v, SMap.get (fun _ => []) ((AfterCodeword 15 cw (port 15 6)).port 15).streams v = [] ∧
        SMap.get (fun _ => []) ((AfterCodeword 15 cw (port 15 6)).port 15).going v = []) ∧
      (nakFor.nak = true ∧ ¬ (nakFor.ack = 0xFFF ∧ ¬ ((AfterCodeword 0 cw (busy 0)).port 0).replay.any (fun g => g.seq == 0xFFF)) ∧
        State.dropBefore ((nakFor.ack + 1) % 4096) ((AfterCodeword 0 cw (busy 0)).port 0).replay ≠ []) :=
  ⟨by decide +kernel, by decide, by decide, by decide +kernel, fun v => by
    have h : ((AfterCodeword 15 cw (port 15 6)).port 15).streams = [] ∧ ((AfterCodeword 15 cw (port 15 6)).port 15).going = [] := by decide +kernel
    rw [h.1, h.2]; exact ⟨rfl, rfl⟩, by decide +kernel⟩

theorem test_headers : goesTo (exec (.idleFrame 0 { fr 0 [] with ack := 7 } cw) (busy 0)) (fun t => (t.port 0).replay.length == 1) = true ∧
    goesTo (exec (.vcStatus 0 (fr 2 [3, 0, 8]) cw) (port 0 6)) (fun t => t.getF (Reg.LNK_VC_STATE_PEER_EMPTY 0 3) == 1) = true ∧
    goes (exec (.ctrlBad 0 cw) (port 0 6)) = true := by decide +kernel

def caps (b : Nat) : Frame := fr 2 ([1, 1, BitVec.ofNat 8 b] ++ List.replicate 13 0 ++ [15, 0, 0, 0, 0, 0, 0, 0, 1])

theorem witness_NegotiationAndWidthRequestsAreAnswered :
    ((AfterCodeword 15 cw (port 15 4)).portState 15 = 4 ∧ bitOf (numAt (caps 0).payload 2 1) 0 = false ∧ bitOf (numAt (caps 0).payload 2 1) 2 = false ∧
      ((AfterCodeword 15 cw (port 15 4)).port 15).seenGot = false) ∧
    (bitOf (numAt (caps 4).payload 2 1) 0 = false ∧ bitOf (numAt (caps 4).payload 2 1) 2 = true ∧ numAt (caps 4).payload 0x18 8 ≠ 0 ∧
      ((AfterCodeword 15 cw (port 15 4)).port 15).retrain = false ∧
      numAt (caps 4).payload 8 8 = (AfterCodeword 15 cw (port 15 4)).getF Reg.MGT_PKG_SERIAL_SERIAL ∧ numAt (caps 4).payload 0x10 1 = 15) ∧
    (AfterCodeword 15 cw (port 15 5)).portState 15 = 5 ∧
    (AfterCodeword 0 cw ((busy 0).setF (Reg.LNK_PEER_SERIAL_SERIAL 0) 7)).portState 0 = 6 ∧
    ((AfterCodeword 0 cw ((busy 0).setF (Reg.LNK_PEER_SERIAL_SERIAL 0) 7)).port 0).req.isSome = true ∧
    (AfterCodeword 0 cw ((busy 0).setF (Reg.LNK_PEER_SERIAL_SERIAL 0) 7)).leads 0 = true ∧
    ((AfterCodeword 0 cw (port 0 6)).portState 0 = 6 ∧ ((AfterCodeword 0 cw (port 0 6)).port 0).req = none) := by decide +kernel

theorem test_negotiation : goesTo (exec (.capsFrame 15 (caps 4) cw) (port 15 4)) (fun t => t.portState 15 == 0) = true ∧
    goesTo (exec (.creditInit 15 (fr 2 []) cw) (port 15 5)) (fun t => t.portState 15 == 6) = true ∧
    goesTo (exec (.reqFrame 0 (fr 2 [4, 0, 0]) cw) (port 0 6)) (fun t => t.portState 0 == 7) = true ∧
    goesTo (exec (.reqAckFrame 0 (fr 2 [5, 1, 0x21]) cw) (busy 0)) (fun t => t.getF (Reg.LNK_LANE_STATUS_EXCLUDED 5) == 1) = true := by decide +kernel

def block : TrainBlock := ⟨7, 1, 0, true, false, false⟩

/-- A port of eight lanes in a state. -/
def wide (st : Nat) : State := (port 15 st).setF (Reg.LNK_PORT_CFG_MAXW 15) 3

theorem witness_TrainingBlocksTrainOrTakeDown :
    (port 15 1).portState 15 = 1 ∧ (port 15 2).portState 15 = 2 ∧ block.own = false ∧ block.lane < 2 ^ ((port 15 1).setF (Reg.LNK_PORT_CFG_MAXW 15) 3).getF (Reg.LNK_PORT_CFG_MAXW 15) ∧
      (port 15 6).portState 15 = 6 ∧
      ((∀ st ∈ [1, 2, 7], (wide st).portState 15 = st) ∧ 6 < 2 ^ (wide 7).getF (Reg.LNK_PORT_CFG_MAXW 15) ∧ 6 ≠ block.lane ∧ 6 ∉ (wide 7).goodLanes 15) := by
  decide +kernel

theorem test_training : goesTo (exec (.trainingBlock 15 block) ((port 15 1).setF (Reg.LNK_PORT_CFG_MAXW 15) 3)) (fun t => t.portState 15 == 2) = true ∧
    goesTo (exec (.trainingBlock 15 block) (port 15 6)) (fun t => t.portState 15 == 1) = true := by decide +kernel

/-- A port some of whose VC's credit has leaked. -/
def leak : State :=
  ((port 15 6).setF (Reg.LNK_VC_STATE_INIT 15 3) 100).setF (Reg.LNK_VC_STATE_PEER_EMPTY 15 3) 1

def goodLane : State := (port 15 2).setF (Reg.LNK_LANE_STATUS_QUALIFIED 121) 1 |>.modPort 15 fun x => { x with peerQual := 255 }

/-- A port in a state of training after failures. -/
def failing (st n : Nat) : State := (port 15 st).setF (Reg.LNK_PORT_STATUS_FAILS 15) n

theorem witness_PortTimersAndCommandsActOnTheirPort :
    (((busy 15).port 15).replay = data 7 :: [data 8] ∧ (busy 15).portState 15 = 6) ∧ ((busy 15).port 15).awaited = true ∧ ((busy 15).port 15).replayTo.isSome = true ∧
      leak.leaking 15 3 = true ∧ ((busy 15).port 15).req.isSome = true ∧ (goodLane.portState 15 = 2 ∧ goodLane.goodLanes 15 ≠ []) ∧
      (∀ st ∈ [2, 3, 4, 5], ∀ n < 3, (failing st n).portState 15 = st ∧ (failing st n).goodLanes 15 = [] ∧
        (failing st n).getF (Reg.LNK_PORT_STATUS_FAILS 15) = n) ∧ ((busy 15).port 15).retrain = true ∧
      ((port 15 0).portState 15 = 0 ∧ (port 15 0).portRole 15 ≠ 0) := by decide +kernel

theorem test_port_timers : (∀ c ∈ [Instr.ackTimeout 15, .nakRepeat 15, .replayBound 15, .reqTimeout 15, .retrainLimit 15, .portReset 15, .portDown 15, .portRetrain 15],
    goes (exec c (busy 15)) = true) ∧ goesTo (exec (.leakTimer 15 3) leak) (fun t => t.portState 15 == 7) = true ∧
    goesTo (exec (.trainingLimit 15) goodLane) (fun t => t.portState 15 == 3) = true ∧
    goesTo (exec (.trainingLimit 15) (failing 5 2)) (fun t => t.portState 15 == 0) = true ∧
    goesTo (exec (.portEnable 15) (port 15 0)) (fun t => t.portState 15 == 1) = true := by decide +kernel

/-! ### The difference stream and the culverts -/

/-- An export packet of `n` bytes. -/
def expPkt (n : Nat) : LanePkt := ⟨0x30, false, false, 0, 0, 0, 0, 0, (List.range n).map fun k => BitVec.ofNat 8 k⟩

/-- A sink ring of eight units with room for six, its TAIL about to wrap, in a channel of polder 2. -/
def sink (n : Nat) (seen : List ((Nat × Nat × Nat) × Nat)) : State :=
  let s := ((upAt 5).modPort 15 fun x => { x with sink := seen }).setF (Reg.LNK_SINK_BASE_LOG2_UNITS 15) 3
  let s := ((s.setF (Reg.LNK_SINK_BASE_ADDR 15) 0x1000).setF (Reg.LNK_SINK_IDX_TAIL 15) 0xFFFFFFFE).setF (Reg.LNK_SINK_IDX_HEAD 15) 0xFFFFFFFC
  withHead 15 3 2 (expPkt n) (tokens 0 (ownStack 0 2 s))

/-- The drain of polder 7 at kiln 15, with a record at the HEAD of its export ring. -/
def draining (target : Nat) (l : Option (Nat × Nat)) : State :=
  let s := ((upAt 5).setF (Reg.LNK_EXPORT_CFG_TARGET 7) target).setDrain 7 ⟨15, 3, l⟩
  let s := ((s.setF (Reg.KLN_EXPORT_BASE_ADDR 15 7) 0x2000).setF (Reg.KLN_EXPORT_IDX_HEAD 15 7) 30).setF (Reg.KLN_EXPORT_IDX_TAIL 15 7) 3
  ((tokens 0 (ownStack 0 7 s)).setF Reg.LNK_EXPORT_HOST_LOG2_UNITS 10).putBytes (0x2000 + 30 * 64) (List.replicate 22 1 ++ [2, 0])

/-- The same with a lane as its target, whose port is ACTIVE in a role that sends export records. -/
def onLane (p : Nat) : State := portIn p 6 4 ((draining 1 none).setF (Reg.LNK_EXPORT_CFG_PORT 7) p)

theorem witness_ExportRecordsAreWrittenAndDrained :
    ((sink 64 [(State.exportKey (expPkt 64).payload, 0xFFFFFFFFFFFFFFFF)]).laneHead 15 3 = some (expPkt 64) ∧ (expPkt 64).ptype = 0x30 ∧
      (sink 64 [(State.exportKey (expPkt 64).payload, 0xFFFFFFFFFFFFFFFF)]).exportSeen 15 (expPkt 64).payload = true) ∧
    ((sink 384 []).exportSeen 15 (expPkt 384).payload = false ∧ ceilDiv (expPkt 384).payload.length 64 = 6 ∧
      State.ringUsed ((sink 384 []).getF (Reg.LNK_SINK_IDX_TAIL 15)) ((sink 384 []).getF (Reg.LNK_SINK_IDX_HEAD 15)) + 6 = (sink 384 []).sinkUnits 15 ∧
      (sink 384 []).ownsAddr ((sink 384 []).vcPolder 15 3) ((sink 384 []).sinkAddr 15 0xFFFFFFFE) = true ∧
      (sink 384 []).weirPass ((sink 384 []).vcPolder 15 3) writeShort ((sink 384 []).sinkAddr 15 0xFFFFFFFE) = true) ∧
    (((draining 1 (some (3, 4))).drainOf 7).lane = some (3, 4) ∧ (draining 1 (some (3, 4))).getF (Reg.LNK_EXPORT_CFG_TARGET 7) = 1 ∧
      (draining 1 (some (3, 4))).vcQuiet 3 4 = true) ∧
    (((draining 2 none).drainOf 7).lane = none ∧ (draining 2 none).getF (Reg.LNK_EXPORT_CFG_TARGET 7) = 2 ∧
      (draining 2 none).exportHead 15 7 ≠ (draining 2 none).exportTail 15 7 ∧ numAt ((draining 2 none).exportRecord 15 7) 0 1 ≠ 0x0F ∧
      (draining 2 none).ownsAddr 7 ((draining 2 none).exportAddr 15 7 ((draining 2 none).exportHead 15 7)) = true ∧
      (draining 2 none).weirPass 7 readShort ((draining 2 none).exportAddr 15 7 ((draining 2 none).exportHead 15 7)) = true ∧
      (draining 2 none).hostRoom (((draining 2 none).exportRecord 15 7).length / 64) = true) ∧
    (((onLane 2).drainOf 7).lane = none ∧ (onLane 2).getF (Reg.LNK_EXPORT_CFG_TARGET 7) = 1 ∧
      (onLane 2).exportHead 15 7 ≠ (onLane 2).exportTail 15 7 ∧ numAt ((onLane 2).exportRecord 15 7) 0 1 ≠ 0x0F ∧
      (onLane 2).ownsAddr 7 ((onLane 2).exportAddr 15 7 ((onLane 2).exportHead 15 7)) = true ∧
      (onLane 2).weirPass 7 readShort ((onLane 2).exportAddr 15 7 ((onLane 2).exportHead 15 7)) = true ∧
      (onLane 2).getF (Reg.LNK_EXPORT_CFG_PORT 7) = 2 ∧ (onLane 2).laneStatus 2 0x30 = 0) := by decide +kernel

theorem test_export : goesTo (exec (.exportPkt 15 3) (sink 64 [])) (fun t => t.bytes (0x1000 + 6 * 64) 64 == (expPkt 64).payload) = true ∧
    goesTo (exec (.exportDrain 7) (draining 2 none)) (fun t => t.getF Reg.LNK_EXPORT_HOST_IDX_TAIL == 2) = true := by decide +kernel

/-- A culvert in a state. -/
def culv (st : Nat) (f : Culvert) : State :=
  let s := (upAt 5).setF (Reg.LNK_CULV_STATUS_STATE 7) st
  { s with culverts := SMap.set (fun _ => Culvert.empty) s.culverts 7 f }

theorem witness_CulvertBeatsAreTakenInOrder :
    (culv 2 ⟨1023, 0, [], false⟩).culvState 7 = 2 ∧ 1023 = (culv 2 ⟨1023, 0, [], false⟩).nextBeat 7 0 ∧
      ((culv 2 ⟨1023, 0, [], false⟩).culvert 7).replays.contains 0 = false ∧ ((culv 2 ⟨1023, 0, [0], false⟩).culvert 7).replays = [0] ∧
      1022 ≠ (culv 2 ⟨1023, 0, [], false⟩).nextBeat 7 0 ∧ ((culv 2 ⟨1023, 0, [0], false⟩).culvert 7).replays.contains 0 = true ∧
      1022 ≠ (culv 2 ⟨1023, 0, [0], false⟩).nextBeat 7 0 ∧ (culv 2 ⟨1023, 0, [0], false⟩).culvState 7 = 2 := by decide +kernel

theorem test_culvert_beats : goesTo (exec (.culvertBeat 7 0 1023 true true) (culv 2 ⟨1023, 0, [], false⟩)) (fun t => t.nextBeat 7 0 == 0) = true ∧
    goesTo (exec (.culvertReplayBound 7) (culv 2 ⟨1023, 0, [0], false⟩)) (fun t => t.culvState 7 == 3) = true := by decide +kernel

/-- The last culvert of a start still trains. -/
def lastTrains : State :=
  let s := ((List.range 8).foldl (fun s c => s.setF (Reg.LNK_CULV_STATUS_STATE c) 2) (upAt 5)).setF (Reg.LNK_CULV_STATUS_STATE 7) 1
  { s with power := { s.power with main := false, starting := true } }

theorem witness_CulvertsAreQuarantinedAndRejoin :
    (culv 3 Culvert.empty).culvState 7 = 3 ∧
    ((culv 4 Culvert.empty).culvState 7 = 4 ∧ (culv 4 Culvert.empty).flag (Reg.LNK_CULV_STATUS_DISABLED 7) = false ∧ (culv 4 Culvert.empty).power.noClock = [] ∧
      (culv 4 Culvert.empty).getF (Reg.MGT_DIE_STATUS_ERR (State.culvEnds 7).1) = 0 ∧ (culv 4 Culvert.empty).getF (Reg.MGT_DIE_STATUS_ERR (State.culvEnds 7).2) = 0) ∧
    ((culv 1 Culvert.empty).culvState 7 ≠ 4 ∧ ((culv 4 Culvert.empty).setF (Reg.LNK_CULV_STATUS_DISABLED 7) 1).flag (Reg.LNK_CULV_STATUS_DISABLED 7) = true) ∧
    ((culv 1 Culvert.empty).culvState 7 = 1 ∧ (culv 1 Culvert.empty).power.starting = false ∧ (culv 1 Culvert.empty).wireDiffer 7 255 0 = false ∧
      (culv 1 Culvert.empty).getF (Reg.LNK_CULV_STATUS_FAILS 7) < 2 ∧ State.culvSpares 7 < 5376) ∧
    (lastTrains.culvState 7 = 1 ∧ lastTrains.power.starting = true ∧ lastTrains.wireDiffer 7 0 0 = false ∧ ∀ d < 8, d ≠ 7 → lastTrains.culvState d = 2) := by decide +kernel

theorem test_culvert_training :
    goesTo (exec (.culvertTrainingEnd 7 (State.culvSpares 7) 0 5 0) (culv 1 Culvert.empty)) (fun t => t.getF (Reg.LNK_CULV_STATUS_SPARES_USED 7) == State.culvSpares 7) = true ∧
      goesTo (exec (.culvertTrainingEnd 7 (State.culvSpares 7 + 1) 0 0 0) (culv 1 Culvert.empty)) (fun t => t.getF (Reg.LNK_CULV_STATUS_FAILS 7) == 1) = true := by decide +kernel

theorem test_culvert_quarantine : goesTo (exec (.culvertRecoveryLimit 7) (culv 3 Culvert.empty)) (fun t => t.alert && t.culvState 7 == 4) = true ∧
    goesTo (exec (.rejoin 7) (culv 4 Culvert.empty)) (fun t => t.culvState 7 == 1) = true := by decide +kernel

/-! ### Supplies and resets -/

/-- Supplies, RESET# and lost clocks as they are given. -/
def powered (vaux good low : Bool) (lost : List (Nat × Nat)) : State :=
  { upAt 5 with power := { (upAt 5).power with vaux := vaux, pwrgood := good, resetLow := low, noClock := lost } }

theorem witness_SuppliesComeAndGo :
    State.reset.power.vaux = false ∧ (upAt 5).power.pwrgood = true ∧ ((upAt 5).power.vaux = true ∧ (upAt 5).power.resetLow = false) := by decide +kernel

theorem test_vaux : goesTo (exec (.vauxGood true 7) State.reset) (fun t => t.power.vaux && t.lands.addr == 7) = true ∧
    goesTo (exec .vauxLoss storing) (fun t => t.regs == [] && t.power.vaux == false) = true := by decide +kernel

theorem witness_StartsAndWideResets :
    ((powered true false false []).power.vaux = true ∧ (powered true false false []).power.therm = false ∧
      (powered true false false []).flag Reg.SEC_STATUS_RECOVERY = false ∧ (powered true false false []).power.pwrgood = false ∧
      (powered true false false []).power.resetLow = false) ∧ (powered true false true []).power.resetLow = true ∧
    ((powered true true true []).power.pwrgood = true ∧ (powered true true true []).power.resetLow = true) ∧
    ((powered true true false []).power.pwrgood = true ∧ (powered true true false []).power.resetLow = false) := by decide +kernel

theorem test_starts_noted : goesTo (exec (.pwrgoodRise []) (powered true false true [])) (fun t => t.power.pwrgood && t.power.resetLow) = true := by
  decide +kernel

theorem witness_PolderAndDieResets :
    ((powered true true false []).power.main = true ∧ (powered true true false []).power.noClock = []) ∧
    ((powered true true false []).clockLost 5 = false ∧ ∀ p < 8, (powered true true false []).usesDie p 5 = false) ∧
    (powered true true false [(5, 99999)]).power.noClock = [(5, 99999)] ∧ (powered true true false [(5, 100000)]).power.noClock = [(5, 100000)] ∧
    [(1 : Byte)].take 128 ≠ (SMap.get (fun _ => []) (powered true true false []).idents 5).take 128 ∧
    ([] : List Byte).take 128 = (SMap.get (fun _ => []) (powered true true false []).idents 5).take 128 ∧
    goesTo (exec (.dieReset 5 []) (powered true true false [])) (fun t => (List.range 6).all fun e => t.getF (Reg.MGT_DIE_STATUS_ERR e) == 0) = true := by
  decide +kernel

theorem test_die_clocks : goesTo (exec (.dieClockTimeout 5) (powered true true false [(5, 100000)])) (fun t => t.events == [.dieMissing 5]) = true ∧
    goesTo (exec (.dieClockReturn 5 [1]) (powered true true false [(5, 99999)])) (fun t => t.getF (Reg.MGT_DIE_STATUS_ERR 5) == 6) = true := by decide +kernel

/-- Polder 7 has a stage group with sherds. -/
def grouped (s : State) : State :=
  ((s.setF (Reg.PIP_GROUP_CFG_VALID 4) 1).setF (Reg.PIP_GROUP_CFG_POLDER 4) 7).setF (Reg.PIP_GROUP_SHERDS_SHERD_MASK 4) 1

/-- A watchdog at its limit. -/
def barking : State :=
  let s := (grouped (upAt 5)).setF (Reg.PWR_STEP_WDOG_LIMIT 7) 1
  { s with power := { s.power with watch := [(7, s.watchTicks 7)] } }

theorem witness_RecoveryAbandonsAndRestores :
    barking.watchTicks 7 ≠ 0 ∧ barking.watchTicks 7 ≤ SMap.get (fun _ => 0) barking.power.watch 7 ∧ barking.flag (Reg.PWR_RECOV_STATUS_PENDING 7) = false ∧
    (barking.setF (Reg.PWR_RECOV_STATUS_PENDING 7) 1).flag (Reg.PWR_RECOV_STATUS_PENDING 7) = true ∧
    (barking.setF (Reg.PWR_RECOV_STATUS_PENDING 7) 1).watchTicks 7 ≤ SMap.get (fun _ => 0) barking.power.watch 7 := by decide +kernel

/-! ### The wheel -/

/-- A core of a polder whose wheel runs, in a slot of its turn that owns routes 0, 1 and 3. -/
def inSlot (i p : Nat) (s : State) : State :=
  let s := s.modCore i fun c => (({ c with wheel := { c.wheel with cur := some 0, count := 2, next := 1, ended := false, store := [(1, 1)] } } : Core).setF Reg.CORE_IDENT_POLDER p)
  { s with sets := [(8, 3), (9, 1 + 3 * 65536)], routes := [(0, 1), (4, 4 * 256), (12, 4 * 256 + 65536), (15, 2 * 16 + 3)] }

/-- Polder 7 with one entry in its plan. -/
def planned (anchor : Nat) (w : Wheel) : State :=
  let s := ((upAt 500).setF (Reg.WHL_POLDER_CTL_ANCHOR 7) anchor).setF Reg.WHL_TIME_STATUS_LOCKED 1
  let s := ((s.setF (Reg.WHL_PLAN_REPEAT 7 0) 2).setF (Reg.WHL_PLAN_TURN_LEN 7 0) (if anchor = 0 then 999 else 49999)).setF (Reg.WHL_PLAN_RT_GUARD 7 0) 10
  s.setWheel 7 w

def stopped : Wheel := ⟨false, false, 0, 0, 0, none⟩

theorem witness_WheelsRunAndStop :
    (((upAt 500).wheel 7).runs = false ∧ ((upAt 500).wheelErr 7).isSome = true) ∧ (asForerunner (upAt 500)).locked = false ∧
    (((planned 0 stopped).wheel 7).runs = false ∧ (planned 0 stopped).wheelErr 7 = none ∧ (planned 0 stopped).flag (Reg.WHL_POLDER_CTL_ANCHOR 7) = false) ∧
    ((planned 1 stopped).wheelErr 7 = none ∧ (planned 1 stopped).flag (Reg.WHL_POLDER_CTL_ANCHOR 7) = true) ∧
    (((planned 0 ⟨true, false, 0, 0, 501, none⟩).wheel 7).runs = true ∧ ((planned 0 ⟨true, false, 0, 0, 501, none⟩).wheel 7).turnOpen = false) ∧
    (((inSlot 5 7 (planned 0 ⟨true, true, 0, 0, 501, none⟩)).wheel 7).runs = true ∧
      ((inSlot 5 7 (planned 0 ⟨true, true, 0, 0, 501, none⟩)).wheel 7).turnOpen = true ∧
      (inSlot 5 7 (planned 0 ⟨true, true, 0, 0, 501, none⟩)).turnOver 7 = false) ∧
    (((planned 0 ⟨true, true, 0, 0, 501, none⟩).wheel 7).turnOpen = true ∧ (planned 0 ⟨true, true, 0, 0, 501, none⟩).turnOver 7 = true) := by
  decide +kernel

theorem test_wheel_refused : goesTo (exec (.wheelRun 7) (asForerunner (upAt 500))) (fun t => t.getF (Reg.WHL_POLDER_STATUS_ERR 7) == 4) = true := by decide +kernel

/-- The table port at the last word of a table. -/
def tablePort (k u : Nat) : State := ((upAt 5).setF Reg.WHL_TBL_ADDR_TARGET k).setF Reg.WHL_TBL_ADDR_UNIT u |>.setF Reg.WHL_TBL_ADDR_OFFSET (State.tableSize k - 4)

theorem witness_TableWordsAreReadAndWrittenThroughThePort :
    ((tablePort 0 5).getF Reg.WHL_TBL_ADDR_OFFSET < State.tableSize ((tablePort 0 5).getF Reg.WHL_TBL_ADDR_TARGET) ∧ (tablePort 0 5).tableOpen 0 5 = true) ∧
      (inSlot 5 7 (polderRuns 7 (tablePort 0 5))).tableOpen 0 5 = false ∧
      State.tableSize 0 ≤ ((tablePort 0 5).setF Reg.WHL_TBL_ADDR_OFFSET (State.tableSize 0)).getF Reg.WHL_TBL_ADDR_OFFSET := by decide +kernel

theorem test_tables : goesTo (exec (.whlTblDataWrite 9) (tablePort 0 5)) (fun t => t.tableWord 0 5 (State.tableSize 0 / 4 - 1) == 9) = true ∧
    goesTo (exec .whlTblDataRead (tablePort 3 1)) (fun t => t.getF Reg.WHL_TBL_ADDR_OFFSET == State.tableSize 3) = true := by decide +kernel

/-- Polder 7 between two turns, at a repetition of its one plan entry, that core 5 enters. -/
def between (rep anchor : Nat) : State :=
  ((planned anchor ⟨true, false, 0, rep, 500, none⟩).modCore 5 fun c => c.setF Reg.CORE_IDENT_POLDER 7)

theorem witness_TurnsStart :
    (∀ rep < 2, ∀ anchor < 2, ((between rep anchor).settleTurn 7).mayTurn 7 = true ∧ ((between rep anchor).wheel 7).turnOpen = false ∧
      ((between rep anchor).wheel 7).guarded = none ∧ ((between rep anchor).settleTurn 7).flag (Reg.WHL_POLDER_CTL_ANCHOR 7) = (anchor == 1)) ∧
    0 + 1 < (((between 0 0).settleTurn 7).plan 7 0).rep ∧ (((between 1 0).settleTurn 7).plan 7 0).rep ≤ 1 + 1 ∧
    (((between 1 0).settleTurn 7).planEntries 7).length ≤ 0 + 1 ∧
    0 + 1 < (((between 1 0).setF (Reg.WHL_PLAN_REPEAT 7 1) 1).settleTurn 7 |>.planEntries 7).length ∧
    ((planned 0 ⟨true, false, 0, 0, 501, none⟩).settleTurn 7).mayTurn 7 = false ∧
    5 ∈ ((between 0 0).settleTurn 7).coresOf 7 ∧ (((between 0 0).settleTurn 7).core 5).wheel.outside = false := by decide +kernel

/-- A turn of polder 7 in which core 5's first slot is due, or its last is in progress; another core may be in a slot of the same set. -/
def turning (cur : Option Nat) (other : Bool) : State :=
  let s := ((planned 0 ⟨true, true, 0, 1, 1500, none⟩).setF (Reg.WHL_TURN_NOMINAL_VALUE 7) 500).setF (Reg.WHL_TURN_START_VALUE 7) 500
  let at' (i : Nat) (cur : Option Nat) (s : State) : State := (inSlot i 7 s).modCore i fun c =>
    { c with wait := .slotStart, wheel := { c.wheel with cur := cur, next := if cur.isSome then 1 else 0, count := 1, ended := false, store := [(1, 1)] } }
  let s := at' 5 cur (if other then at' 6 (some 0) s else s)
  if cur.isSome then { s with tide := { s.tide with count := 1500 } } else s

/-- The channel that the slot's first route reads is reserved to a media front-end. -/
def fetched (s : State) : State := (List.range 4).foldl (fun s m => (List.range 4).foldl (fun s k => s.setF (Reg.MFE_FETCH_CHANS_CHANS m 7 k) 0xFFFFFFFF) s) s

/-- The slot in progress at a tick; 1,500 is its nominal end. -/
def onTime (n : Nat) : State := { turning (some 0) false with tide := { (turning (some 0) false).tide with count := BitVec.ofNat 48 n } }

theorem witness_SlotsStartAndEnd :
    (((turning none false).atPhase 999).slotDue 5 = true ∧
      ((turning none false).atPhase 999).slotClash (((turning none false).atPhase 999).core 5).polder 5 (((turning none false).atPhase 999).core 5).wheel.next = false ∧
      ((turning none false).atPhase 999).slotFetch (((turning none false).atPhase 999).core 5).polder 5 (((turning none false).atPhase 999).core 5).wheel.next = false ∧
      (((turning none false).atPhase 999).core 5).wait = .slotStart ∧ (((turning none false).atPhase 999).core 5).pc.toNat + 1 < 8192) ∧
    (((turning none true).atPhase 999).slotDue 5 = true ∧
      ((turning none true).atPhase 999).slotClash (((turning none true).atPhase 999).core 5).polder 5 (((turning none true).atPhase 999).core 5).wheel.next = true) ∧
    ((((turning (some 0) false).atPhase 999).core 5).wheel.cur = some 0 ∧ ((turning (some 0) false).atPhase 999).slotDone 5 0 = true ∧
      (((turning (some 0) false).atPhase 999).core 5).polder < 8) ∧
    ((turning none false).modCore 5 (fun c => { c with pc := 8191 }) |>.core 5).pc.toNat = 8191 ∧
    (((fetched (turning none false)).atPhase 999).slotDue 5 = true ∧ ((fetched (turning none false)).atPhase 999).slotClash 7 5 0 = false ∧
      ((fetched (turning none false)).atPhase 999).slotFetch 7 5 0 = true) ∧
    ((turning (some 0) false).atPhase 999).slotDue 5 = false ∧ ((turning none false).core 5).wheel.cur = none ∧
    ((onTime 1499).slotDone 5 0 = false ∧ ((onTime 1499).core 5).wheel.cur = some 0) ∧
    0 < ((turning (some 0) false).atPhase 999).slotOver 7 5 0 ∧ (onTime 1500).slotOver 7 5 0 ≤ 0 ∧ (onTime 1500).slotDone 5 0 = true ∧
      ((onTime 1500).core 5).wheel.cur = some 0 := by decide +kernel

theorem test_slots : goesTo (exec (.slotStart 5 999) (turning none false)) (fun t => (t.core 5).wheel.cur == some 0 && (t.core 5).pc == 1) = true ∧
    refuses (exec (.slotStart 5 999) (fetched (turning none false))) "R261" = true := by decide +kernel

/-- A submission ring with one descriptor that is due for a sample. -/
def sampled (d : List Byte) : State :=
  let s := (((upAt 5).setF Reg.MGT_CQ_CFG_ENABLE 1).setF Reg.MGT_SQ_CFG_LOG2_SIZE 4).setF Reg.MGT_JD_VERSION_ALLOWED 0xC
  let s := ((s.setF Reg.MGT_SQ_CFG_ENABLE 1).setF Reg.MGT_SQ_BASE_ADDR 0x80000000000).setF Reg.MGT_SQ_IDX_HEAD 7
  ({ s with sq := 100 }.putBytes 0x80000000000 [8]).putBytes (0x80000000000 + 2048 + 7 * 128) d

/-- A turn that has not ended ten ticks after its nominal start. -/
def late : State := inSlot 5 7 (planned 0 ⟨true, true, 0, 0, 490, none⟩)

/-- The descriptor's polder has one in progress. -/
def busyJob : State := { sampled [1, 3, 7] with taken := [(7, some ⟨[9], 6⟩)] }

theorem witness_GuardsExpireAndTheRingIsSampled :
    ((late.wheel 7).runs = true ∧ (late.wheel 7).turnOpen = true ∧ (late.plan 7 0).guardT ≠ 0 ∧ (late.wheel 7).nextRep = 0 ∧ (late.wheel 7).guarded = none ∧ late.turnOver 7 = false ∧
      ((late.plan 7 0).guardT : Int) ≤ wrapDiff 48 late.now (late.wheel 7).nextStart) ∧
    ((sampled [1, 3, 7]).flag Reg.MGT_STATUS_MAIN_UP = true ∧ (sampled [1, 3, 7]).flag Reg.MGT_SQ_CFG_ENABLE = true ∧ 100 ≤ (sampled [1, 3, 7]).sq ∧
      (sampled [1, 3, 7]).owedCq = [] ∧ (sampled [1, 3, 7]).cqRoom = true ∧
      State.ringUsed ((sampled [1, 3, 7]).memNat ((sampled [1, 3, 7]).getF Reg.MGT_SQ_BASE_ADDR) 4) 7 = 1 ∧
      (sampled [1, 3, 7]).getF Reg.MGT_SQ_IDX_HEAD = 7 ∧ jdOk 0xC ((sampled [1, 3, 7]).descAt 7) = true ∧
      (sampled [1, 3, 7]).takenOf (jdPolder ((sampled [1, 3, 7]).descAt 7)) = none ∧ jdOk 0xC ((sampled [1, 3, 8]).descAt 7) = false ∧
      (busyJob.takenOf (jdPolder (busyJob.descAt 7))) = some ⟨[9], 6⟩ ∧ jdOk 0xC (busyJob.descAt 7) = true) := by decide +kernel

theorem test_guard_and_sample : goesTo (exec (.guardExpiry 7) late) (fun t => t.getF (Reg.PWR_RECOV_STATUS_CAUSE 7) == 5) = true ∧
    goesTo (exec .sqSample (sampled [1, 3, 7])) (fun t => (t.takenOf 7).isSome) = true ∧
    goesTo (exec .sqSample busyJob) (fun t => t.lined.length == 1) = true := by decide +kernel

theorem test_sample_refused : goesTo (exec .sqSample (sampled [1, 3, 8])) (fun t => t.getF Reg.MGT_CNT_REFUSED_COUNT == 1) = true := by decide +kernel

/-! ### A wiped tile is whole (R152, R158) -/

/-- The check of `n` bytes of zeros from a value on. -/
def zerosCheck (c : DWord) (n : Nat) : DWord := (List.replicate n (0 : Byte)).foldl crc64Byte c

/-- The check after each 64 bytes of a tile of zeros. -/
def zerosAt (k : Nat) : DWord := ([0xFFFFFFFFFFFFFFFF, 0xBFDBF3975AA1D584, 0x034AF5E948295E0C, 0x7897F76FF3A7E14A, 0xC48C17B8CDCB54F4, 0x9CF3A0D1660091CE, 0x8AC88AA4CB071FF4,
    0xAFFF3ED922254F05, 0xC9C025CABB28B669, 0xA6BEA80A6BB8589E, 0xAA12481A755AF83D, 0xCA01BA74A0799863, 0x2964868411E544B4, 0xBBCDD0FC88553024,
    0x26EFF4448BAAAA6B, 0x703B0FC2C7745792, 0xCF1B69FB1639E13C, 0xE896DC780A349B3E, 0xE7EEA37086E57137, 0xD1A67A9A9DEE0780, 0xC89B88851236CBB4,
    0x8C7BE28832A719FF, 0xE98277710A687BDE, 0xEB1A616242CC0BDD, 0xD8299D583F09982E, 0x1977808E27B38238, 0xB1074F29DB9C3397, 0xD3584409AB98640D,
    0xA6E37BE3D0C71255, 0xD1AB6019D9F52819, 0x707A209426EBC57F, 0x68FC7A7B647A15C4, 0x1D381BDBE7E920E3] : List DWord).getD k 0

theorem test_zeros_check : ∀ k < 32, zerosCheck (zerosAt k) 64 = zerosAt (k + 1) := by decide +kernel

theorem zerosCheck_add (c : DWord) (m n : Nat) : zerosCheck c (m + n) = zerosCheck (zerosCheck c m) n := by
  simp only [zerosCheck, ← List.replicate_append_replicate, List.foldl_append]

theorem zerosCheck_at : ∀ k ≤ 32, zerosCheck (zerosAt 0) (64 * k) = zerosAt k
  | 0, _ => rfl
  | k + 1, h => by rw [Nat.mul_succ, zerosCheck_add, zerosCheck_at k (Nat.le_of_succ_le h), test_zeros_check k h]

theorem test_wiped_glaze : glazeOf (List.replicate 2048 0) 0 = wipedGlaze := by
  have e : List.replicate 2048 (0 : Byte) ++ bytesLE 8 (0 : DWord).toNat = List.replicate (64 * 32 + 8) 0 := by
    rw [show bytesLE 8 (0 : DWord).toNat = List.replicate 8 (0 : Byte) by decide, List.replicate_append_replicate]
  have h : zerosCheck (zerosAt 0) (64 * 32 + 8) = wipedGlaze ^^^ 0xFFFFFFFFFFFFFFFF := by
    rw [zerosCheck_add, zerosCheck_at 32 (Nat.le_refl _)]; decide +kernel
  rw [glazeOf, crc64, e]
  exact (congrArg (· ^^^ 0xFFFFFFFFFFFFFFFF#64) h).trans (by decide)

/-- A tile whose data, tag and glaze are those of a wiped one, or go together, is whole. -/
theorem ok_of_zeros {t : Tile} (hd : t.data = List.replicate 2048 0) (ht : t.tag = 0) (hg : t.glaze = wipedGlaze) : t.ok = true := by
  unfold Tile.ok; rw [hd, ht, hg, test_wiped_glaze]; rfl

theorem ok_of_glaze {t : Tile} {d : List Byte} {g : DWord} (hd : t.data = d) (ht : t.tag = g) (hg : t.glaze = glazeOf d g) : t.ok = true := by
  unfold Tile.ok; rw [hd, ht, hg]; exact beq_self_eq_true _

theorem readN_nil : ∀ n a : Nat, Memory.readN [] a n = List.replicate n 0
  | 0, _ => rfl
  | n + 1, a => congrArg (0 :: ·) (readN_nil n (a + 1))

/-- Where memory lists nothing every byte is 0. -/
theorem bytes_of_empty (s : State) (a n : Nat) (h : s.mem = []) : s.bytes a n = List.replicate n 0 := by
  rw [State.bytes, h, readN_nil]

/-- A tile that neither memory nor metadata lists is whole; one whose glaze is another is not. -/
theorem unlisted_whole (s : State) (i k : Nat) (h : s.mem = []) (g : s.tags = []) : (s.spTile i k).ok = true :=
  ok_of_zeros (bytes_of_empty s _ _ h) (by simp [State.spTile, State.tile, State.metaAt, g, SMap.get, wipedMeta])
    (by simp [State.spTile, State.tile, State.metaAt, g, SMap.get, wipedMeta])

theorem tile_whole (s : State) (a : Nat) (h : s.mem = []) (g : s.tags = []) : (s.tile a).ok = true :=
  ok_of_zeros (bytes_of_empty s _ _ h) (by simp [State.tile, State.metaAt, g, SMap.get, wipedMeta])
    (by simp [State.tile, State.metaAt, g, SMap.get, wipedMeta])

theorem tile_broken (s : State) (a : Nat) (h : s.mem = []) (g : s.metaAt a = (0, 5)) : (s.tile a).ok = false := by
  unfold Tile.ok State.tile
  rw [g, bytes_of_empty s _ _ h, test_wiped_glaze]; decide

/-- No tile of a list fails where all are whole. -/
theorem firstBad_none (s : State) (i : Nat) (l : List (Nat × Bool)) (h : s.mem = []) (g : s.tags = []) (p : l.all (fun t => !t.2) = true) :
    s.firstBad i l = none := by
  induction l with
  | nil => rfl
  | cons t l ih =>
    simp only [List.all_cons, Bool.and_eq_true, Bool.not_eq_true'] at p
    have := ih p.2
    unfold State.firstBad at this ⊢
    rw [List.find?_cons, p.1]
    simpa [unlisted_whole s i t.1 h g] using this

theorem firstBad_first (s : State) (i k : Nat) (l : List (Nat × Bool)) (h : (s.spTile i k).ok = false) : s.firstBad i ((k, false) :: l) = some k := by
  simp [State.firstBad, h]

/-! ### The sequencer -/

/-- An instruction word: opcode, d, a, and bits 15 to 0 (R88). -/
def ins (op d a low : Nat) : Word := BitVec.ofNat 32 (op * 2 ^ 26 + d * 2 ^ 21 + a * 2 ^ 16 + low)

/-- Core 8,191 of polder 7 stands at an instruction, with X[1] = x and X[2] = y. -/
def seqAt (pc : Nat) (w : Word) (x y : DWord) (f : Core → Core := id) : State :=
  (upAt 500).modCore 8191 fun c => f (({ c with halted := false, wait := .none, pc := BitVec.ofNat 13 pc, istore := [(pc, w)], x := [(1, x), (2, y)] } : Core).setF
    Reg.CORE_IDENT_POLDER 7)

/-- The core of the tests after a command. -/
def after (o : Host.Outcome State Fault Refusal) (p : Core → Bool) : Bool := goesTo o fun t => p (t.core 8191)

theorem witness_ArithmeticInstructionsWriteTheirRegister :
    (StandsAt (seqAt 8190 (ins 1 31 1 0x1000) 5 7) 8191 1 ∧ ((seqAt 8190 (ins 1 31 1 0x1000) 5 7).core 8191).pc.toNat < 8191) ∧
    StandsAt (seqAt 8190 (ins 0x0B 0 1 0x1000) 5 7) 8191 0x0B ∧ StandsAt (seqAt 8190 (ins 0x15 31 1 63) 5 7) 8191 0x15 ∧
    StandsAt (seqAt 8190 (ins 0x16 31 0 0xFFFF) 5 7) 8191 0x16 ∧
    (StandsAt (seqAt 8191 (ins 1 31 1 0x1000) 5 7) 8191 1 ∧ ((seqAt 8191 (ins 1 31 1 0x1000) 5 7).core 8191).pc.toNat = 8191) := by unfold StandsAt; decide +kernel

theorem test_arithmetic :
    after (exec (.add 8191) (seqAt 9 (ins 0x01 31 1 0x1000) 0xFFFFFFFFFFFFFFFF 7)) (fun c => c.getX 31 == 6 && c.pc == 10) = true ∧
    after (exec (.sub 8191) (seqAt 9 (ins 0x02 31 1 0x1000) 5 7)) (fun c => c.getX 31 == 0xFFFFFFFFFFFFFFFE) = true ∧
    after (exec (.mul 8191) (seqAt 9 (ins 0x03 31 1 0x1000) 0x8000000000000001 2)) (fun c => c.getX 31 == 2) = true ∧
    after (exec (.andOp 8191) (seqAt 9 (ins 0x04 31 1 0x1000) 5 6)) (fun c => c.getX 31 == 4) = true ∧
    after (exec (.orOp 8191) (seqAt 9 (ins 0x05 31 1 0x1000) 5 6)) (fun c => c.getX 31 == 7) = true ∧
    after (exec (.xorOp 8191) (seqAt 9 (ins 0x06 31 1 0x1000) 5 6)) (fun c => c.getX 31 == 3) = true ∧
    after (exec (.shl 8191) (seqAt 9 (ins 0x07 31 1 0x1000) 1 65)) (fun c => c.getX 31 == 2) = true ∧
    after (exec (.shr 8191) (seqAt 9 (ins 0x08 31 1 0x1000) 0x8000000000000000 63)) (fun c => c.getX 31 == 1) = true ∧
    after (exec (.sra 8191) (seqAt 9 (ins 0x09 31 1 0x1000) 0x8000000000000000 63)) (fun c => c.getX 31 == 0xFFFFFFFFFFFFFFFF) = true := by decide +kernel

theorem test_immediates :
    after (exec (.slt 8191) (seqAt 9 (ins 0x0A 31 1 0x1000) 0xFFFFFFFFFFFFFFFF 1)) (fun c => c.getX 31 == 1) = true ∧
    after (exec (.sltu 8191) (seqAt 9 (ins 0x0B 31 1 0x1000) 0xFFFFFFFFFFFFFFFF 1)) (fun c => c.getX 31 == 0) = true ∧
    after (exec (.addi 8191) (seqAt 9 (ins 0x10 31 1 0xFFFF) 5 0)) (fun c => c.getX 31 == 4) = true ∧
    after (exec (.andi 8191) (seqAt 9 (ins 0x11 31 1 0xFFFF) 0x12345 0)) (fun c => c.getX 31 == 0x2345) = true ∧
    after (exec (.ori 8191) (seqAt 9 (ins 0x12 31 1 0x8000) 1 0)) (fun c => c.getX 31 == 0x8001) = true ∧
    after (exec (.xori 8191) (seqAt 9 (ins 0x13 31 1 3) 1 0)) (fun c => c.getX 31 == 2) = true ∧
    after (exec (.shli 8191) (seqAt 9 (ins 0x14 31 1 63) 3 0)) (fun c => c.getX 31 == 0x8000000000000000) = true ∧
    after (exec (.shri 8191) (seqAt 9 (ins 0x15 31 1 4) 0x50 0)) (fun c => c.getX 31 == 5) = true ∧
    after (exec (.lui 8191) (seqAt 9 (ins 0x16 31 0 0x8000) 0 0)) (fun c => c.getX 31 == 0xFFFFFFFF80000000) = true := by decide +kernel

theorem witness_LoadsAndStoresReachTheDataStore :
    (StandsAt (seqAt 8190 (ins 0 0 0 0) 0 0) 8191 0 ∧ StandsAt (seqAt 8190 (ins 0x18 31 1 0xFFF8) 0x4000 0) 8191 0x18 ∧
      StandsAt (seqAt 8190 (ins 0x1B 31 1 0xFFFC) 0x4000 0) 8191 0x1B) ∧
    (((0x4000 : DWord) + (insImm (ins 0x18 31 1 0xFFF8)).signExtend 64).toNat + 8 ≤ 0x4000 ∧ ((0x4000 : DWord) + (insImm (ins 0x1B 31 1 0xFFFC)).signExtend 64).toNat % 4 = 0) ∧
    ¬ (((0x4000 : DWord) + (insImm (ins 0x18 31 1 0xFFFC)).signExtend 64).toNat + 8 ≤ 0x4000) ∧
    (∀ w ∈ [(0, ins 0 0 0 0), (0x18, ins 0x18 31 1 0xFFF8), (0x19, ins 0x19 31 1 0xFFFC), (0x1A, ins 0x1A 2 1 0xFFF8)],
      StandsAt (seqAt 8191 w.2 0x4000 0) 8191 w.1 ∧ ((seqAt 8191 w.2 0x4000 0).core 8191).pc.toNat = 8191) := by unfold StandsAt; decide +kernel

theorem test_loads_and_stores :
    after (exec (.nop 8191) (seqAt 9 (ins 0 0 0 0) 0 0)) (fun c => c.pc == 10) = true ∧
    after (exec (.ld 8191) (seqAt 9 (ins 0x18 31 1 0xFFF8) 0x4000 0 fun c => { c with dstore := [(0x3FFB, 9), (0x3FFF, 0x80)] })) (fun c => c.getX 31 == 0x8000000009000000) = true ∧
    after (exec (.ldw 8191) (seqAt 9 (ins 0x19 31 1 0) 0x3FFC 0 fun c => { c with dstore := [(0x3FFF, 0x80)] })) (fun c => c.getX 31 == 0x80000000) = true ∧
    after (exec (.st 8191) (seqAt 9 (ins 0x1A 2 1 8) 0 0x0102030405060708)) (fun c => c.dread 8 8 == [8, 7, 6, 5, 4, 3, 2, 1]) = true ∧
    after (exec (.stw 8191) (seqAt 9 (ins 0x1B 2 1 4) 0 0x0102030405060708)) (fun c => c.dread 4 8 == [8, 7, 6, 5, 0, 0, 0, 0]) = true := by decide +kernel

/-- A halted core under CORE_CTL.HALT, X[1] beyond every store. -/
def under (w : Word) : State := seqAt 9 w 0x4000 5 fun c => { c.setF Reg.CORE_CTL_HALT 1 with halted := true }

theorem witness_BranchesHaltAndReservedOpcodesMoveThePc :
    (StandsAt (seqAt 9 (ins 0x20 1 2 0x1FF6) 5 5) 8191 0x20 ∧ ((seqAt 9 (ins 0x20 1 2 0x1FF6) 5 5).core 8191).pc.toNat + (insImm (ins 0x20 1 2 0x1FF6)).toInt = 8191) ∧
    (StandsAt (seqAt 9 (ins 0x23 1 2 0xFFF6) 5 5) 8191 0x23 ∧ ((seqAt 9 (ins 0x23 1 2 0xFFF6) 5 5).core 8191).pc.toNat + (insImm (ins 0x23 1 2 0xFFF6)).toInt = -1) ∧
    StandsAt (seqAt 9 (ins 0x24 31 0 0) 5 5) 8191 0x24 ∧ (StandsAt (seqAt 9 (ins 0x25 0 1 0) 8191 5) 8191 0x25 ∧ StandsAt (seqAt 9 (ins 0x25 0 1 0) 8192 5) 8191 0x25) ∧
    StandsAt (seqAt 8190 (ins 0x3F 0 0 0) 5 5) 8191 0x3F ∧ (StandsAt (seqAt 8191 (ins 0 0 0 0) 5 5) 8191 0 ∧ ((seqAt 8191 (ins 0 0 0 0) 5 5).core 8191).pc.toNat = 8191) ∧
    (((seqAt 9 (ins 0x3E 0 0 0) 5 5).core 8191).halted = false ∧ (seqAt 9 (ins 0x3E 0 0 0) 5 5).notHeld 8191 = true ∧
      insOp ((seqAt 9 (ins 0x3E 0 0 0) 5 5).insAt 8191) = 0x3E ∧ badField ((seqAt 9 (ins 1 1 1 1) 5 5).insAt 8191) = true ∧
      insOp ((seqAt 9 (ins 1 1 1 1) 5 5).insAt 8191) = 1) ∧
    (∀ x ∈ [0, 8191], StandsAt (seqAt x (ins 0x21 1 2 3) 5 5) 8191 0x21 ∧ ((seqAt x (ins 0x21 1 2 3) 5 5).core 8191).pc.toNat = x) ∧
    (StandsAt (seqAt 0 (ins 0x24 31 0 0xFFFF) 5 5) 8191 0x24 ∧ (insImm (ins 0x24 31 0 0xFFFF)).toInt = -1 ∧ StandsAt (seqAt 8191 (ins 0x3F 0 0 0) 5 5) 8191 0x3F) := by
  unfold StandsAt; decide +kernel

theorem witness_BranchesHaltAndReservedOpcodesMoveThePc_sstep :
    ([ins 1 1 1 0x1000, ins 0x3F 0 0 0, ins 0x18 3 1 4, ins 0x25 0 1 0].all fun w => ((under w).core 8191).flag Reg.CORE_CTL_HALT &&
      ((under w).core 8191).halted && !badField ((under w).insAt 8191) && (under w).insAt 8191 == w) = true ∧
    (insOp ((under (ins 0x3E 0 0 0)).insAt 8191) = 0x3E ∧ badField ((under (ins 1 1 1 1)).insAt 8191) = true ∧
      ¬ ((((under (ins 0x18 3 1 4)).core 8191).getX 1 + (insImm (ins 0x18 3 1 4)).signExtend 64).toNat + 8 ≤ 0x4000) ∧
      8191 < (((under (ins 0x25 0 1 0)).core 8191).getX 1).toNat) ∧
    ((seqAt 9 (ins 1 1 1 0x1000) 5 5).core 8191).flag Reg.CORE_CTL_HALT = false ∧
    goesTo (exec (.add 8191) ((under (ins 1 1 1 0x1000)).modCore 8191 fun c => { c with halted := false, wait := .none }))
      (fun u => (u.core 8191).halted == false) = true := by
  decide +kernel

theorem test_branches :
    after (exec (.beq 8191) (seqAt 9 (ins 0x20 1 2 0x1FF6) 5 5)) (fun c => c.pc == 8191) = true ∧
    after (exec (.bne 8191) (seqAt 9 (ins 0x21 1 2 3) 5 5)) (fun c => c.pc == 10) = true ∧
    after (exec (.blt 8191) (seqAt 9 (ins 0x22 1 2 3) 0xFFFFFFFFFFFFFFFF 5)) (fun c => c.pc == 12) = true ∧
    after (exec (.bge 8191) (seqAt 9 (ins 0x23 1 2 0xFFF7) 5 5)) (fun c => c.pc == 0) = true ∧
    after (exec (.jal 8191) (seqAt 9 (ins 0x24 31 0 0xFFFF) 5 5)) (fun c => c.pc == 8 && c.getX 31 == 10) = true ∧
    after (exec (.jr 8191) (seqAt 9 (ins 0x25 0 1 0) 77 5)) (fun c => c.pc == 77) = true ∧
    after (exec (.haltOp 8191) (seqAt 9 (ins 0x3F 0 0 0) 77 5)) (fun c => c.pc == 10 && c.halted) = true ∧
    after (exec (.sstep 8191) (seqAt 9 (ins 1 1 1 0x1000) 5 5 fun c => { c.setF Reg.CORE_CTL_HALT 1 with halted := true })) (fun c => c.getX 1 == 10 && c.halted) = true := by
  decide +kernel

/-- A command buffer: an opcode and bytes at their places. -/
def cmd (op : Nat) (l : List (Nat × Nat)) : CmdWord := BitVec.ofNat 512 (l.foldl (fun n x => setBits n (8 * x.1 + 7) (8 * x.1) x.2) op)

def listing : Option ListSt := some ⟨1, 1, 4, false, 9⟩

/-- A core at ISSUE, a command in its buffer. -/
def issueAt (w : Nat) (f : Core → Core := id) : State := seqAt 9 (ins 0x31 3 0 0) 9 0 fun c => f { c with cbuf := [(0, BitVec.ofNat 64 w)] }

def pushes (r : Core.PushRes) : Bool := match r with
  | .ok .. => true
  | _ => false

def pushUndef (r : Core.PushRes) : String := match r with
  | .ok .. => ""
  | .undef k => k

/-- An entry of a queue. -/
def qe (w : CmdWord) (n : BitVec 16) : QEntry := ⟨w, n, false, false, none, false⟩

theorem witness_CommandInstructionsQueueAndWait :
    (StandsAt (seqAt 8190 (ins 0x30 7 1 0) 9 0) 8191 0x30 ∧ ((seqAt 8190 (ins 0x30 7 1 0) 9 0).core 8191).pc.toNat < 8191) ∧
    (∀ w ∈ [0x12, 0x410, 0x20], StandsAt (issueAt w) 8191 0x31 ∧ ((issueAt w).core 8191).list = none ∧ ((issueAt w).core 8191).extWait = false ∧
      ((issueAt w).core 8191).queueFull ((issueAt w).core 8191).cmdBuffer = false ∧ opcodeOf ((issueAt w).core 8191).cmdBuffer = w % 256 ∧
      pushes (((issueAt w).core 8191).push false ((issueAt w).core 8191).cmdBuffer) = true ∧ Core.tagsOk ((issueAt w).core 8191).ftqTags = true) ∧
    ((issueAt 0x12 fun c => { c with list := listing }).core 8191).list.isSome = true ∧
    ((issueAt 0x12 fun c => { c with queued := List.replicate 16 (qe 0x10 1) }).core 8191).queueFull 0x12 = true ∧
    ((issueAt 0x10 fun c => { c with matwOpen := true }).core 8191).matwOpen = true ∧
    (((issueAt 0x410 fun c => { c with ftqTags := [0] }).core 8191).matwOpen = false ∧ cmdLast (BitVec.ofNat 512 0x410) = true ∧
      CmdWord.u8 (BitVec.ofNat 512 0x410) 4 ∈ [0] ∧ pushUndef (((issueAt 0x410 fun c => { c with ftqTags := [0] }).core 8191).push false (BitVec.ofNat 512 0x410)) = "R107") ∧
    (((issueAt 0x22 fun c => { c with extWait := true, queued := [qe 0x20 5] }).core 8191).lastVector = some (qe 0x20 5) ∧
      opcodeOf (BitVec.ofNat 512 0x22) = 0x22 ∧
      pushes (((issueAt 0x22 fun c => { c with extWait := true, queued := [qe 0x20 5] }).core 8191).push false (BitVec.ofNat 512 0x22)) = true) := by
  unfold StandsAt; decide +kernel

theorem witness_CommandInstructionsQueueAndWait_waits :
    StandsAt (seqAt 9 (ins 0x33 0 1 0) 9 0) 8191 0x33 ∧ StandsAt (seqAt 9 (ins 0x34 3 1 0) 9 0) 8191 0x34 ∧ StandsAt (seqAt 9 (ins 0x35 0 0 0) 9 0) 8191 0x35 ∧
    (StandsAt (seqAt 9 (ins 0x36 0 0 0) 9 0) 8191 0x36 ∧ insImm (ins 0x36 0 0 0) = 0 ∧ StandsAt (seqAt 9 (ins 0x36 0 0 1) 9 0) 8191 0x36 ∧ insImm (ins 0x36 0 0 1) = 1) ∧
    (StandsAt (seqAt 9 (ins 0x37 3 0 6) 9 0) 8191 0x37 ∧ insImm (ins 0x37 3 0 6) = 6#16) ∧
    (StandsAt (seqAt 9 (ins 0x37 3 0 1) 9 0) 8191 0x37 ∧ insImm (ins 0x37 3 0 1) = 1 ∧ ((seqAt 9 (ins 0x37 3 0 1) 9 0).core 8191).wheel.cur = none ∧
      ((seqAt 9 (ins 0x37 3 0 1) 9 0 fun c => { c with wheel := { c.wheel with cur := some 3 } }).core 8191).wheel.cur = some 3) := by
  unfold StandsAt; decide +kernel

/-- A core at LIST of tile 191, which holds a header of a version and a count, and a command after it; its glaze goes with it. -/
def listed (v n : Nat) (f : Core → Core := id) : State :=
  let s := (seqAt 9 (ins 0x32 3 1 0) 191 0 f).putBytes (tileAddr 8191 191) ([0x42, 0x51, 0x43, 0x4C] ++ bytesLE 2 v ++ bytesLE 2 n ++ [9])
  let s := s.putBytes (tileAddr 8191 191 + 64) [0x12]
  { s with tags := [(tileAddr 8191 191 / 2048, (0, glazeOf (s.bytes (tileAddr 8191 191) 2048) 0))] }

theorem listed_whole (v n : Nat) (f : Core → Core) : ((listed v n f).spTile 8191 191).ok = true :=
  ok_of_glaze (d := (listed v n f).bytes (tileAddr 8191 191) 2048) (g := 0) rfl rfl rfl

/-- The header's tile with a glaze that is not its own. -/
def unlisted : State := { seqAt 9 (ins 0x32 3 1 0) 191 0 with tags := [(tileAddr 8191 191 / 2048, (0, 5))] }

def dispatched (r : DispRes) : Bool := match r with
  | .ok _ none => true
  | _ => false

def listedAt (n : Nat) (l : Core) : Core := { l with list := some ⟨191, 1, n, true, 9⟩ }

theorem witness_CommandInstructionsQueueAndWait_lists :
    (∀ v ∈ [2, 3, 5], ∀ n ∈ [0, 1, 1023, 1024], ((listed v n).spTile 8191 191).ok = true) ∧ (unlisted.spTile 8191 191).ok = false ∧
    (StandsAt (listed 2 1) 8191 0x32 ∧ ((listed 2 1).core 8191).list = none ∧ ((listed 2 1).core 8191).ringFull = false ∧
      (listed 2 1).tilePending 8191 191 = false ∧ numAt ((listed 2 1).spTile 8191 191).data 0 4 = 0x4C435142 ∧ numAt ((listed 2 1).spTile 8191 191).data 6 2 = 1 ∧
      numAt ((listed 2 1).spTile 8191 191).data 4 1 = 2 ∧
      bitOf (((listed 2 1 (·.setF Reg.CORE_CL_VERSION_ALLOWED 0xC)).core 8191).getF Reg.CORE_CL_VERSION_ALLOWED) 2 = true ∧
      bitOf (((listed 2 1 (·.setF Reg.CORE_CL_VERSION_ALLOWED 8)).core 8191).getF Reg.CORE_CL_VERSION_ALLOWED) 2 = false ∧
      dispatched (Core.dispatchList ((listed 2 1).seqEnv 8191) 1024 (listedAt 1 ((listed 2 1).core 8191))) = true ∧
      pushes ((listedAt 1 ((listed 2 1).core 8191)).push true (listEntry ((listed 2 1).spTile 8191 191) 1)) = true ∧
      ((listed 2 1).core 8191).queueFull (listEntry ((listed 2 1).spTile 8191 191) 1) = false ∧
      ((listed 2 1 fun c => { c with queued := List.replicate 16 (qe 0x10 1) }).core 8191).queueFull (listEntry ((listed 2 1).spTile 8191 191) 1) = true) ∧
    (StandsAt unlisted 8191 0x32 ∧ unlisted.tilePending 8191 191 = false) ∧
    (StandsAt (seqAt 9 (ins 0x32 3 1 0) 192 0) 8191 0x32 ∧ ((seqAt 9 (ins 0x32 3 1 0) 192 0).core 8191).ringFull = false) ∧
    ((listed 2 1 fun c => { c with list := listing }).core 8191).list.isSome = true ∧
    (listed 2 1 fun c => { c with sb := [⟨qe (cmd 0x32 [(8, 191), (0x0A, 1)]) 1, some Flight.start⟩] }).tilePending 8191 191 = true := by
  refine ⟨fun v _ n _ => listed_whole v n id, ?_, ?_⟩
  · unfold Tile.ok
    rw [show (unlisted.spTile 8191 191).data = List.replicate 2048 0 from bytes_of_empty unlisted _ _ rfl, show (unlisted.spTile 8191 191).tag = 0 from rfl, test_wiped_glaze]
    decide
  · unfold StandsAt; decide +kernel

theorem test_command_instructions :
    after (exec (.cmdw 8191) (seqAt 9 (ins 0x30 7 1 0) 9 0)) (fun c => c.cbuf == [(7, 9)] && c.pc == 10) = true ∧
    after (exec (.issue 8191) (seqAt 9 (ins 0x31 3 0 0) 9 0 fun c => { c with cbuf := [(0, 0x12)] })) (fun c => c.queued.length == 1 && c.nextSeq == 1) = true ∧
    after (exec (.listCmd 8191) (seqAt 9 (ins 0x32 3 1 0) 192 0)) (fun c => c.getX 3 == BitVec.allOnes 64) = true ∧
    after (exec (.waitc 8191) (seqAt 9 (ins 0x33 0 1 0) 0xFFFF 0)) (fun c => c.pc == 10) = true ∧
    after (exec (.pollc 8191) (seqAt 9 (ins 0x34 3 1 0) 0xFFFF 0)) (fun c => c.getX 3 == 1) = true ∧
    after (exec (.fence 8191) (seqAt 9 (ins 0x35 0 0 0) 9 0 fun c => { c with list := listing })) (fun c => c.wait == .fence && c.pc == 9) = true ∧
    after (exec (.waits 8191) (seqAt 9 (ins 0x36 0 0 1) 9 0)) (fun c => c.wait == .turnStart && c.wheel.relAll) = true ∧
    after (exec (.rdt 8191) (seqAt 9 (ins 0x37 3 0 3) 9 0)) (fun c => c.getX 3 == 8191) = true := by decide +kernel

theorem test_sequencer_fault :
    after (exec (.reservedSequencerOpcode 8191) (seqAt 9 (ins 0x3E 0 0 0) 5 5)) (fun c => c.faultCode == 1 && c.halted) = true := by decide +kernel

/-! ### The scoreboard and the engines -/

/-- Core 8,191 of polder 7 in a slot that owns route 4, with a scoreboard and a change; stack 0 is the polder's. -/
def engine (sb : List SbEntry) (f : Core → Core := id) : State :=
  let s := ((tokens 0 (ownStack 0 7 (upAt 5))).setF (Reg.MEM_WAYS_WAYS 0 7) 0x8000).modCore 8191 fun c => f (({ c with sb := sb, nextSeq := 9, wheel := { c.wheel with cur := some 0, count := 2, next := 1, store := [(1, 1)] } } : Core).setF
    Reg.CORE_IDENT_POLDER 7)
  { s with sets := [(393224, 3), (393225, 1 + 3 * 65536)], routes := [(196612, 4 * 256), (196620, 4 * 256 + 65536), (196623, 2 * 16 + 3)] }

/-- A scoreboard entry with number 8, issued when it has a flight. -/
def ent (w : CmdWord) (f : Option Flight := none) : SbEntry := ⟨⟨w, 8, false, false, none, false⟩, f⟩

/-- A command that is next to issue. -/
def at8 (op : Nat) (l : List (Nat × Nat)) (f : Core → Core := id) : State := engine [ent (cmd op l)] f

/-- Operands of the products and chains of the tests. -/
def mm : List (Nat × Nat) := [(1, 4), (8, 3), (10, 4), (12, 1), (13, 0x11), (14, 4), (4, 9)]
def vs : List (Nat × Nat) := [(8, 3), (9, 4), (10, 6), (0x0B, 1), (0x10, 0x11), (0x11, 1), (0x13, 1), (0x33, 4), (0x32, 0xA0)]
def xm : List (Nat × Nat) := [(8, 3), (9, 1), (0x0A, 2), (0x0B, 1), (0x11, 0x10)]
def xa (op : Nat) : List (Nat × Nat) := [(8, 3), (9, 5), (0x0A, 1), (0x0C, op), (0x10, 4), (0x11, 0x10)]

/-- The answer is a next state whose command 8 has a flight. -/
def flies (o : Host.Outcome State Fault Refusal) (p : Flight → Bool) : Bool :=
  after o fun c => c.sb.any fun e => e.q.seq == 8 && (match e.flight with
    | some f => p f
    | none => false)

/-- A command whose work is done, with a finished tile to place and one tile to write. -/
def done (w : CmdWord) (f : Core → Core := id) : State :=
  engine [ent w (some { Flight.start with fin := true, ftq := [⟨7, [], 3, 0, false, false⟩], writes := [⟨191, ⟨List.replicate 2048 1, 5, 6⟩, true, none⟩] })] f

/-- A core whose list dispatcher has a command to put into its queue. -/
def dispatching (w : CmdWord) (f : Core → Core := id) : State :=
  let s := engine [] fun c => f { c with list := some ⟨191, 1, 1, false, 9⟩ }
  { s with mem := [(tileAddr 8191 191 + 64, BitVec.ofNat 8 w.toNat), (tileAddr 8191 191 + 65, BitVec.ofNat 8 (w.toNat / 256))] }

def dispatchUndef (r : DispRes) : String := match r with
  | .ok .. => ""
  | .undef k => k

theorem witness_CommandsAreAcceptedAndComplete :
    (((engine [] fun c => { c with queued := [qe (cmd 0x10 []) 9] }).core 8191).acceptable = some (qe (cmd 0x10 []) 9) ∧
      ((engine []).core 8191).sb.length < 64 ∧ ((engine []).core 8191).list = none) ∧
    ((engine []).core 8191).acceptable = none ∧ 64 ≤ ((engine (List.replicate 64 (ent (cmd 0x10 [])))).core 8191).sb.length ∧
    (dispatched (Core.dispatchList (((dispatching 0x12).modCore 8191 Core.accept).dispatchEnv 8191) 1024 (((dispatching 0x12).modCore 8191 Core.accept).core 8191)) = true ∧
      dispatchUndef (Core.dispatchList (((dispatching 0x410 fun c => { c with ftqTags := [0] }).modCore 8191 Core.accept).dispatchEnv 8191) 1024
        (((dispatching 0x410 fun c => { c with ftqTags := [0] }).modCore 8191 Core.accept).core 8191)) = "R107") ∧
    ((at8 0x1F []).nextIssue 8191 = some (ent (cmd 0x1F [])) ∧ opcodeListed false 0x1F = false) := by decide +kernel

/-- The flight of a command. -/
def flightAt (s : State) (n : Nat) : Option Flight := ((s.core 8191).sb.find? fun e => e.q.seq.toNat == n).bind (·.flight)

/-- A product of the matrix engine in flight, done or not, with a place in the order. -/
def inflight (n order : Nat) (fin : Bool) : SbEntry := ⟨qe (cmd 0x10 []) (BitVec.ofNat 16 n), some { Flight.start with fin := fin, order := order }⟩

theorem witness_CommandsAreAcceptedAndComplete_completion :
    ((flightAt (engine [inflight 8 1 false]) 8).map (·.fin) = some false ∧
      (flightAt (engine [inflight 7 1 true, inflight 8 2 true]) 8).map (·.fin) = some true ∧
      State.engineFirst ((engine [inflight 7 1 true, inflight 8 2 true]).core 8191) (inflight 8 2 true) = false ∧
      State.engineFirst ((engine [inflight 7 1 true, inflight 8 2 true]).core 8191) (inflight 7 1 true) = true ∧ engineOf (cmd 0x10 []) = .matrix) ∧
    ((flightAt (done (cmd 0x20 [])) 8).map (fun f => (f.fin, f.ftq.map (·.tag))) = some (true, [7]) ∧
      ((done (cmd 0x20 []) fun c => { c with ftq := [⟨7, [], 3, 0, false, false⟩] }).core 8191).ftq.map (·.tag) = [7] ∧
      ((done (cmd 0x20 [])).core 8191).ftq = [] ∧ needsRecord (cmd 0x20 []) 0 = false ∧ needsRecord (cmd 0x20 []) 0x1001 = true ∧
      needsRecord (cmd 0x20 [(1, 1)]) 0 = true ∧ ((done (cmd 0x20 [])).core 8191).ringFull = false ∧ ((done (cmd 0x20 [])).core 8191).tail < 256 ∧
      ((done (cmd 0x20 []) fun c => { c with tail := 255 }).core 8191).ringFull = true) ∧
    ([⟨7, [], 3, 0, false, false⟩] : List Finished).drop (8 - ((done (cmd 0x20 []) fun c =>
      { c with ftq := List.replicate 8 ⟨6, [], 3, 0, false, false⟩ }).core 8191).ftq.length) ≠ [] := by decide +kernel

theorem test_completion : after (exec (.commandCompletion 8191 8) (done (cmd 0x12 []))) (fun c => c.sb.isEmpty && c.ftq.length == 1 && (c.attr 191).isSealed) = true ∧
    after (exec (.scoreboardAccept 8191) (engine [] fun c => { c with queued := [⟨cmd 0x10 [], 9, false, false, none, false⟩] })) (fun c => c.sb.length == 1 && c.queued.isEmpty) = true ∧
    flies (exec (.reservedOpcode 8191 8) (at8 0x1F [])) (fun f => f.fin && f.status == 0x1001) = true := by decide +kernel

/-- A product with scale records at an address, SIGMA set by them. -/
def auto (a : Nat) : List (Nat × Nat) := mm ++ [(1, 20), (0x10, a)]

/-- A chain's later product, its bank open with a code. -/
def chained (failed : Nat) : State := at8 0x10 (mm ++ [(1, 2)]) fun c => { c with banks := [(0, ⟨true, List.replicate 1024 AccPair.zero, 0, 0, false, failed⟩)] }

theorem witness_MatrixCommandsMultiplyIntoTheirBanks :
    ([(0x10, mm), (0x11, mm ++ [(12, 16)])].all fun x =>
      (at8 x.1 x.2).issuing 8191 8 x.1 == some (ent (cmd x.1 x.2)) && !mmReserved false (cmd 0x10 mm) && !mwReserved (cmd x.1 (mm ++ [(12, 16)])) &&
      (at8 x.1 x.2).matrixHeld 8191 (ent (cmd x.1 x.2)) == none && (at8 x.1 x.2).matrixStatus 8191 (ent (cmd x.1 x.2)) == 0 &&
      !State.matrixBusy ((at8 x.1 x.2).core 8191) && !cmdChain (cmd x.1 x.2) && cmdLast (cmd x.1 x.2) && !cmdLast (cmd x.1 (x.2 ++ [(1, 0)]))) = true ∧
    ((at8 0x10 (mm ++ [(0x10, 5)])).issuing 8191 8 0x10 = some (ent (cmd 0x10 (mm ++ [(0x10, 5)]))) ∧
      (at8 0x10 (mm ++ [(0x10, 5)])).matrixHeld 8191 (ent (cmd 0x10 (mm ++ [(0x10, 5)]))) = none ∧
      (at8 0x10 (mm ++ [(0x10, 5)])).matrixStatus 8191 (ent (cmd 0x10 (mm ++ [(0x10, 5)]))) = 0x1007) ∧
    (({ at8 0x10 (auto 64) with wiping := [0] } : State).matrixHeld 8191 (ent (cmd 0x10 (auto 64))) = some 64 ∧
      ({ at8 0x10 (auto 64) with wiping := [0] } : State).issuing 8191 8 0x10 = some (ent (cmd 0x10 (auto 64)))) ∧
    ((engine [inflight 7 1 false, ent (cmd 0x10 mm)]).issuing 8191 8 0x10 = some (ent (cmd 0x10 mm)) ∧
      State.matrixBusy ((engine [inflight 7 1 false, ent (cmd 0x10 mm)]).core 8191) = true) ∧
    (∀ x ∈ [0, 0x1003], (chained x).issuing 8191 8 0x10 = some (ent (cmd 0x10 (mm ++ [(1, 2)]))) ∧ cmdChain (cmd 0x10 (mm ++ [(1, 2)])) = true ∧
      (((chained x).core 8191).bank 0).isOpen = true ∧ (((chained x).core 8191).bank 0).failed = x) ∧
    ((at8 0x10 [(13, 0x3F)]).issuing 8191 8 0x10 = some (ent (cmd 0x10 [(13, 0x3F)])) ∧ mmReserved false (cmd 0x10 [(13, 0x3F)]) = true) ∧
    ((at8 0x11 []).issuing 8191 8 0x11 = some (ent (cmd 0x11 [])) ∧ mwReserved (cmd 0x11 []) = true) := by decide +kernel

theorem witness_MatrixCommandsMultiplyIntoTheirBanks_mdump :
    ((at8 0x12 [(8, 191)]).issuing 8191 8 0x12 = some (ent (cmd 0x12 [(8, 191)])) ∧ (cmd 0x12 [(8, 191)]).u8 8 ≤ 191 ∧
      (at8 0x12 [(8, 191)]).tileRefusal 8191 (ent (cmd 0x12 [(8, 191)])) = 0 ∧ ((at8 0x12 [(8, 191)]).core 8191).flag Reg.CORE_CTL_DEBUG = false ∧
      ((at8 0x12 [(8, 191)] (·.setF Reg.CORE_CTL_DEBUG 1)).core 8191).flag Reg.CORE_CTL_DEBUG = true) := by decide +kernel

/-- The tiles of the product are whole, and in the second state the first is not. -/
theorem witness_MatrixCommandsMultiplyIntoTheirBanks_tiles :
    (∀ l : List Nat, (at8 0x10 mm).firstBad 8191 (l.flatMap ((at8 0x10 mm).verified 8191 1)) = none) ∧
    ({ at8 0x10 mm with tags := [(tileAddr 8191 3 / 2048, (0, 5))] } : State).firstBad 8191 [(3, false)] = some 3 := by
  constructor
  · intro l
    exact firstBad_none _ _ _ rfl rfl (by simp [State.verified, isMx, List.all_flatMap])
  · exact firstBad_first _ _ _ _ (tile_broken _ _ rfl rfl)

theorem test_matrix : flies (exec (.matmul 8191 8) (at8 0x10 (mm ++ [(0x10, 5)]))) (fun f => f.status == 0x1007) = true ∧
    flies (exec (.mdump 8191 8) (at8 0x12 [(8, 191)])) (fun f => f.status == 0x1006) = true := by decide +kernel

/-- The chain of the tests with a scale record for its output at an address. -/
def vsr (a : Nat) : List (Nat × Nat) := vs ++ [(0x18, a % 256), (0x19, a / 256)]

theorem witness_VectorCommandsRunTheirChains :
    ((at8 0x20 vs).issuing 8191 8 0x20 = some (ent (cmd 0x20 vs)) ∧ vsReserved false (cmd 0x20 vs) none = false ∧ (at8 0x20 vs).tileRefusal 8191 (ent (cmd 0x20 vs)) = 0 ∧
      vsSrec (cmd 0x20 vs) = 0 ∧ (at8 0x20 vs).srecStatus 8191 0 = 0 ∧ vsTail (vsStages (cmd 0x20 vs) none) = 0 ∧ isMx (vsFmtOut (cmd 0x20 vs)) = false ∧
      (at8 0x20 vs).srecHeld 8191 [0] = none) ∧
    vsReserved false (cmd 0x20 (vs ++ [(0x11, 0x0F)])) none = true ∧
    (engine [⟨⟨cmd 0x20 vs, 8, false, false, none, true⟩, none⟩]).issuing 8191 8 0x20 = some ⟨⟨cmd 0x20 vs, 8, false, false, none, true⟩, none⟩ ∧
    ((engine [] fun c => { c with queued := [⟨cmd 0x22 [], 8, false, true, none, false⟩] }).core 8191).queued.find? (fun q => q.isExt && q.seq.toNat == 8) =
      some ⟨cmd 0x22 [], 8, false, true, none, false⟩ ∧
    ((engine [⟨⟨cmd 0x22 [], 8, true, false, none, false⟩, none⟩]).issuing 8191 8 0x22).isSome = true ∧
    ((engine [⟨⟨cmd 0x21 [], 8, false, false, none, true⟩, none⟩]).issuing 8191 8 0x21).isSome = true ∧
    ((at8 0x21 [(0x10, 0xC0), (0x11, 0xFF), (0x12, 0xFF), (0x13, 0x5F), (8, 3)]).issuing 8191 8 0x21 = some (ent (cmd 0x21 [(0x10, 0xC0), (0x11, 0xFF), (0x12, 0xFF), (0x13, 0x5F), (8, 3)])) ∧
      (at8 0x21 [(0x10, 0xC0), (0x11, 0xFF), (0x12, 0xFF), (0x13, 0x5F), (8, 3)]).srecStatus 8191 0x5FFFFFC0 = 0 ∧
      (at8 0x21 []).weirPass 7 atomicAccess 0x5FFFFFC0 = true ∧ ({ at8 0x21 [] with wiping := [0] } : State).weirPass 7 atomicAccess 0x5FFFFFC0 = false) ∧
    ((at8 0x21 [(0x10, 0x41)]).issuing 8191 8 0x21 = some (ent (cmd 0x21 [(0x10, 0x41)])) ∧ (at8 0x21 [(0x10, 0x41)]).srecStatus 8191 0x41 = 0x1007) := by decide +kernel

theorem witness_VectorCommandsRunTheirChains_records :
    (vsSrec (cmd 0x20 (vsr 64)) = 64 ∧ (at8 0x20 (vsr 64)).issuing 8191 8 0x20 = some (ent (cmd 0x20 (vsr 64))) ∧ (at8 0x20 (vsr 64)).srecStatus 8191 64 = 0 ∧
      (at8 0x20 (vsr 64)).srecHeld 8191 [64] = none ∧ (({ at8 0x20 (vsr 64) with wiping := [0] } : State).srecHeld 8191 [64]).isSome = true ∧
      (at8 0x20 (vsr 65)).srecStatus 8191 65 = 0x1007 ∧ vsSrec (cmd 0x20 (vsr 65)) = 65) ∧
    ((at8 0x20 (vsr 64)).firstBad 8191 ((at8 0x20 (vsr 64)).vsVerified 8191 (cmd 0x20 (vsr 64)) (vsStages (cmd 0x20 (vsr 64)) none)) = none ∧
      (at8 0x20 (vsr 64)).tileOk 64 = true ∧ ({ at8 0x20 (vsr 64) with tags := [(0, (0, 5))] } : State).tileOk 64 = false) :=
  ⟨by decide +kernel, firstBad_none _ _ _ rfl rfl (by decide +kernel), tile_whole _ _ rfl rfl, tile_broken _ _ rfl rfl⟩

theorem test_vector : flies (exec (.vroll 8191 8) (at8 0x21 [(0x10, 0x41)])) (fun f => f.status == 0x1007) = true ∧
    flies (exec (.vstream 8191 8) (engine [⟨⟨cmd 0x20 vs, 8, false, false, none, true⟩, none⟩])) (fun f => f.status == 0x1001) = true := by decide +kernel

/-- An XMOVE under way. -/
def moving (n : Nat) (l : List (Nat × Nat)) : State := engine [ent (cmd 0x30 l) (some { Flight.start with count := n })]

/-- The operands of an XFILL of one tile of ones. -/
def xf : List (Nat × Nat) := [(8, 191), (0x0A, 1), (0x10, 1), (0x12, 1)]

/-- A channel that a core lends: its slot owns a kiln route of the stack and a route to the channel. -/
def lending (s : State) : State := { s with routes := [(196612, 2 * 256), (196620, 4 * 256 + 65536), (196623, 2 * 16 + 3)] }

theorem witness_TransferCommandsMoveTilesAndElements :
    ((at8 0x30 xm).going 8191 8 0x30 = none ∧ (at8 0x30 xm).issuing 8191 8 0x30 = some (ent (cmd 0x30 xm)) ∧ xmReserved (cmd 0x30 xm) = false ∧
      inScratchRange ((cmd 0x30 xm).u64 0x10 : Nat) = false ∧ (cmd 0x30 xm).u64 0x10 % 2048 = 0 ∧ (at8 0x30 xm).tileRefusal 8191 (ent (cmd 0x30 xm)) = 0 ∧
      (cmd 0x30 (xm ++ [(0x10, 1)])).u64 0x10 % 2048 ≠ 0 ∧ xmReserved (cmd 0x30 (xm ++ [(0x10, 1)])) = false ∧ xmReserved (cmd 0x30 []) = true) ∧
    ([(0x0B, 0), (0x0B, 1)].all fun x => (moving 0 (xm ++ [x])).going 8191 8 0x30 == some (ent (cmd 0x30 (xm ++ [x])) (some Flight.start), Flight.start) &&
      (moving 0 (xm ++ [x])).moveStatus 8191 Flight.start (farAddr (cmd 0x30 (xm ++ [x])) 0) == 0 && !(moving 0 (xm ++ [x])).lendsNow 8191 (farAddr (cmd 0x30 (xm ++ [x])) 0).toNat &&
      (moving 0 (xm ++ [x])).weirPass 7 (xmAccess (cmd 0x30 (xm ++ [x]))) (farAddr (cmd 0x30 (xm ++ [x])) 0).toNat && xmOut (cmd 0x30 (xm ++ [x])) == (x.2 == 1)) = true ∧
    (0 < (cmd 0x30 xm).u8 0x0A ∧ (cmd 0x30 (xm ++ [(0x0A, 1)])).u8 0x0A ≤ 0 + 1 ∧ (cmd 0x30 xm).u8 0x0A ≤ 2 ∧ ((moving 2 xm).going 8191 8 0x30).isSome = true) ∧
    (moving 0 (xm ++ [(0x13, 0x60)])).moveStatus 8191 Flight.start (farAddr (cmd 0x30 (xm ++ [(0x13, 0x60)])) 0) = 0x3001 ∧
    ({ moving 0 xm with wiping := [0] } : State).weirPass 7 (xmAccess (cmd 0x30 xm)) (farAddr (cmd 0x30 xm) 0).toNat = false ∧
    (region (farAddr (cmd 0x30 xm) 0).toNat = .dram 0 0 ∧ region (farAddr (cmd 0x30 (xm ++ [(0x15, 8)])) 0).toNat = .host ∧
      (moving 0 (xm ++ [(0x15, 8)])).moveStatus 8191 { Flight.start with stamp := 1 } (farAddr (cmd 0x30 (xm ++ [(0x15, 8)])) 0) = 0) := by decide +kernel

/-- A receive ring over tile 191. -/
def ringed (c : Core) : Core := { c with ctxs := [(0, { Ctx.empty with state := .isOpen, desc := 0x01BF0002 })] }

theorem witness_TransferCommandsMoveTilesAndElements_fill :
    ((at8 0x32 xf).issuing 8191 8 0x32 = some (ent (cmd 0x32 xf)) ∧ xfReserved false (cmd 0x32 xf) = false ∧ (at8 0x32 xf).tileRefusal 8191 (ent (cmd 0x32 xf)) = 0 ∧
      xfReserved false (cmd 0x32 []) = true ∧ (at8 0x32 []).issuing 8191 8 0x32 = some (ent (cmd 0x32 [])) ∧
      (at8 0x32 xf ringed).tileRefusal 8191 (ent (cmd 0x32 xf)) ≠ 0) ∧
    ((at8 0x31 (xa 5)).issuing 8191 8 0x31 = some (ent (cmd 0x31 (xa 5))) ∧ xaReserved (cmd 0x31 (xa 5)) = false ∧ xaReserved (cmd 0x31 (xa 9)) = true ∧
      (at8 0x31 (xa 5)).lendsNow 8191 (xaTarget (cmd 0x31 (xa 5))) = false ∧ (at8 0x31 (xa 5)).tileRefusal 8191 (ent (cmd 0x31 (xa 5))) = 0 ∧
      (at8 0x31 (xa 5)).atomStatus 8191 (cmd 0x31 (xa 5)) = 0 ∧ (at8 0x31 (xa 5 ++ [(0x13, 0x60)])).atomStatus 8191 (cmd 0x31 (xa 5 ++ [(0x13, 0x60)])) = 0x3001 ∧
      (at8 0x31 (xa 5)).weirPass 7 atomicAccess (xaTarget (cmd 0x31 (xa 5))) = true ∧
      ({ at8 0x31 (xa 5) with wiping := [0] } : State).weirPass 7 atomicAccess (xaTarget (cmd 0x31 (xa 5))) = false ∧
      (lending (at8 0x31 (xa 5))).lendsNow 8191 (xaTarget (cmd 0x31 (xa 5))) = true) := by decide +kernel

theorem witness_TransferCommandsMoveTilesAndElements_tiles :
    ((at8 0x31 (xa 5)).spTile 8191 (xaOpndTile (cmd 0x31 (xa 5)))).ok = true ∧
    (({ at8 0x31 (xa 5) with tags := [(tileAddr 8191 (xaOpndTile (cmd 0x31 (xa 5))) / 2048, (0, 5))] } : State).spTile 8191 (xaOpndTile (cmd 0x31 (xa 5)))).ok = false :=
  ⟨unlisted_whole _ _ _ rfl rfl, tile_broken _ _ rfl (by decide +kernel)⟩

theorem test_transfer : flies (exec (.xmove 8191 8 1) (moving 2 xm)) (fun f => f.fin) = true ∧
    flies (exec (.xmove 8191 8 1) (moving 0 (xm ++ [(0x13, 0x60)]))) (fun f => f.fin && f.status == 0x3001) = true ∧
    refuses (exec (.xfill 8191 8) (at8 0x32 [])) "R10" = true := by decide +kernel

/-- A context of a role in a state, two ring tiles at tile 10, whose peer is context 9 of core 6. -/
def ctx (role : Nat) (st : CtxState) : Ctx :=
  { Ctx.empty with desc := BitVec.ofNat 256 (role + 10 * 2 ^ 16 + 2 * 2 ^ 24 + (9 + 6 * 2 ^ 7) * 2 ^ 64), state := st, credits := 64, ringUnits := 64, epoch := 1 }

/-- Core 8,191 with context 127 and a scoreboard. -/
def withCtx (k : Ctx) (sb : List SbEntry) : State := engine sb fun c => ({ c with ctxs := [(127, k)] } : Core).setF Reg.CHN_CTX_SEL_CTX 127

/-! ### Core control -/

theorem witness_CoresAreAbandonedRestartedAndReset :
    ¬ RestartDue (engine []) 8191 ∧ RestartDue (engine [] fun c => { c with restart := true }) 8191 ∧
      ¬ RestartDue { engine [] (fun c => { c with restart := true }) with power := { (engine []).power with fixes := [(7, 5)] } } 8191 ∧
      RestartDue (polderRuns 7 (engine [] fun c => { c with restart := true, wheel := { c.wheel with fresh := true } })) 8191 ∧
      ((∀ st ∈ [CtxState.isOpen, .closed], ((withCtx (ctx 2 st) []).core 8191).ctx 127 = ctx 2 st) ∧ ctxRole (ctx 2 .isOpen) = 2 ∧ ctxRole (ctx 1 .isOpen) ≠ 2) := by
  unfold RestartDue; decide +kernel

theorem test_core_reset : after (exec (.coreReset 8191) (at8 0x10 mm)) (fun c => c.sb.isEmpty && c.halted && c.polder == 7) = true ∧
    after (exec (.stepEntryRestart 8191) (engine [] fun c => ({ c with restart := true } : Core).setF Reg.CORE_STEP_ENTRY_PC 8191)) (fun c => c.pc == 8191 && !c.restart) = true := by
  decide +kernel

theorem witness_CoresHaltResumeRunAndShowTheirState :
    ((engine [] (·.setF Reg.CORE_CTL_RUN 1)).core 8191).flag Reg.CORE_CTL_RUN = true ∧
    (((engine []).core 8191).flag Reg.CORE_CTL_RUN = false ∧ ((engine []).core 8191).wheel.outside = false) ∧
    (((engine [] fun c => { c with wheel := { c.wheel with outside := true } }).core 8191).wheel.outside = true ∧ ((engine []).core 8191).polder < 8) ∧
    ((engine []).core 8191).flag Reg.CORE_CTL_DEBUG = false ∧ ((engine []).core 8191).snapReq = none ∧ ((engine [] fun c => { c with snapReq := some (31, 3) }).core 8191).snapReq = some (31, 3) := by decide +kernel

theorem test_halt_and_run : after (exec (.haltRequest 8191) (seqAt 9 (ins 1 31 1 0) 5 7)) (fun c => c.halted && c.haltReq) = true ∧
    after (exec (.coreRun 8191) (engine [] (·.setF Reg.CORE_PC_START_PC 8191))) (fun c => c.pc == 8191 && !c.halted) = true ∧
    after (exec (.dbgAccSel 8191 0x7F) (engine [] (·.setF Reg.CORE_CTL_DEBUG 1))) (fun c => c.snapReq == some (31, 3)) = true := by decide +kernel

/-- A halted core in debug mode. -/
def debugging : State := engine [] fun c => ({ c with halted := true, x := [(31, 0x1111111122222222)] } : Core).setF Reg.CORE_CTL_DEBUG 1

theorem witness_DebugRegistersNeedDebugModeAndAHalt :
    ((debugging.core 8191).halted = true ∧ (debugging.core 8191).flag Reg.CORE_CTL_DEBUG = true ∧ (31 : Nat) ≠ 0) ∧
    ((engine []).core 8191).flag Reg.CORE_CTL_DEBUG = false ∧ ((seqAt 9 0 0 0).core 8191).halted = false := by decide +kernel

theorem test_debug_write : after (exec (.coreDbgXregWrite 8191 31 true 3) debugging) (fun c => c.getX 31 == 0x0000000322222222) = true ∧
    after (exec (.coreDbgXregWrite 8191 0 true 3) debugging) (fun c => c.getX 0 == 0) = true := by decide +kernel

/-! ### Channels -/

def msg (op : Nat) (l : List (Nat × Nat)) : CmdWord := cmd op ([(8, 127), (9, 20), (0x0A, 1)] ++ l)

/-- The MSEND of the tests under way in a context. -/
def sending (k : Ctx) (l : List (Nat × Nat) := []) : State := withCtx { k with waiting := [8] } [ent (msg 0x40 l) (some Flight.start)]

theorem witness_MessageCommandsSendReceiveAndFlush :
    (∀ op ∈ [0x40, 0x41, 0x42], (withCtx (ctx 1 .closed) [ent (msg op [(8, 128)])]).issuing 8191 8 op = some (ent (msg op [(8, 128)])) ∧ 127 < (msg op [(8, 128)]).u8 8 ∧
      (withCtx (ctx 1 .closed) [ent (msg op [(8, 128)])]).going 8191 8 op = none) ∧
    ((withCtx (ctx 1 .closed) [ent (msg 0x40 [])]).going 8191 8 0x40 = none ∧ (withCtx (ctx 1 .closed) [ent (msg 0x40 [])]).issuing 8191 8 0x40 = some (ent (msg 0x40 [])) ∧
      (msg 0x40 []).u8 8 = 127 ∧ (msg 0x40 []).u8 0x0A = 1 ∧ ctxRole (ctx 1 .closed) = 1 ∧ (withCtx (ctx 1 .closed) [ent (msg 0x40 [])]).tileRefusal 8191 (ent (msg 0x40 [])) = 0) ∧
    ((msg 0x40 [(0x0D, 9)]).u8 0x0A * 2048 < (msg 0x40 [(0x0D, 9)]).u32 0x0C ∧ (withCtx (ctx 1 .closed) [ent (msg 0x40 [(0x0D, 9)])]).issuing 8191 8 0x40 = some (ent (msg 0x40 [(0x0D, 9)]))) ∧
    ((withCtx (ctx 2 .isOpen) [ent (msg 0x40 [])]).issuing 8191 8 0x40 = some (ent (msg 0x40 [])) ∧ ctxRole (ctx 2 .isOpen) ≠ 1) ∧
    ((sending (ctx 1 .isOpen)).going 8191 8 0x40 = some (ent (msg 0x40 []) (some Flight.start), Flight.start) ∧
      (withCtx (ctx 1 .isOpen) [ent (msg 0x40 []) (some { Flight.start with sent := true })]).going 8191 8 0x40 =
        some (ent (msg 0x40 []) (some { Flight.start with sent := true }), { Flight.start with sent := true })) ∧
    ((withCtx (ctx 2 .isOpen) [ent (msg 0x41 [])]).going 8191 8 0x41 = none ∧ (withCtx (ctx 2 .isOpen) [ent (msg 0x41 [])]).issuing 8191 8 0x41 = some (ent (msg 0x41 [])) ∧
      (withCtx (ctx 1 .isOpen) [ent (msg 0x41 [])]).issuing 8191 8 0x41 = some (ent (msg 0x41 []))) ∧
    (withCtx (ctx 2 .closed) [ent (msg 0x41 []) (some Flight.start)]).going 8191 8 0x41 = some (ent (msg 0x41 []) (some Flight.start), Flight.start) ∧
    (∀ role ∈ [1, 2, 3], (withCtx (ctx role .isOpen) [ent (msg 0x42 [])]).issuing 8191 8 0x42 = some (ent (msg 0x42 [])) ∧ ctxRole (ctx role .isOpen) = role) := by decide +kernel

/-- What an MSEND under way may find: a closed or opening context, a place in the line, a ring too small, credits or none, room before the ring's end or not. -/
theorem witness_MessageCommandsSendReceiveAndFlush_send :
    ((sending (ctx 1 .isOpen)).routeStatus (State.dieOf 8191) (ctxRoute (ctx 1 .isOpen)) 1
        ((msgTiles (msg 0x40 [])).any fun t => (((sending (ctx 1 .isOpen)).core 8191).attr t).isSealed) = 0 ∧
      (msg 0x40 []).u32 0x0C = 0 ∧ tileUnits ((msg 0x40 []).u8 0x0A) = 34 ∧ (((sending (ctx 1 .isOpen)).core 8191).ctx 127).waiting.head? = some 8 ∧
      34 ≤ (ctx 1 .isOpen).ringUnits ∧ ctxReplyExpected (ctx 1 .isOpen) = false ∧ (ctxPeer (ctx 1 .isOpen)).pkg = (withCtx (ctx 1 .isOpen) []).pkgId) ∧
    (34 ≤ (ctx 1 .isOpen).ringUnits - (ctx 1 .isOpen).wr ∧ 34 ≤ (ctx 1 .isOpen).credits) ∧
    ((ctx 1 .closed).state = .closed ∧ (ctx 1 .opening).state = .opening ∧ { ctx 1 .isOpen with ringUnits := 33 }.ringUnits < 34 ∧
      { ctx 1 .isOpen with credits := 33 }.credits < min 34 64 ∧ 64 - { ctx 1 .isOpen with wr := 50 }.wr < 34 ∧
      64 - { ctx 1 .isOpen with wr := 50 }.wr ≤ { ctx 1 .isOpen with wr := 50 }.credits ∧ 34 ≤ 64 - (64 - { ctx 1 .isOpen with wr := 50 }.wr)) := by decide +kernel

/-- A byte message whose tile is whole, or not. -/
theorem witness_MessageCommandsSendReceiveAndFlush_bytes :
    (msg 0x40 [(0x0C, 5)]).u32 0x0C = 5 ∧ msgTiles (msg 0x40 [(0x0C, 5)]) = [20] ∧ ((sending (ctx 1 .isOpen) [(0x0C, 5)]).spTile 8191 20).ok = true ∧
      (({ sending (ctx 1 .isOpen) [(0x0C, 5)] with tags := [(tileAddr 8191 20 / 2048, (0, 5))] } : State).spTile 8191 20).ok = false :=
  ⟨by decide +kernel, by decide +kernel, unlisted_whole _ _ _ rfl rfl, tile_broken _ _ rfl (by decide +kernel)⟩

/-- A receive context with one whole record, of a type and so many tiles or bytes, at the start of its ring. -/
def received (typ n : Nat) (op : List (Nat × Nat)) (wait : List (BitVec 16)) : State :=
  let s := withCtx { ctx 2 .isOpen with waiting := wait, recs := [⟨0, 34, 2, true, false, false⟩] } [ent (msg 0x41 op) (some Flight.start)]
  { s with mem := [(tileAddr 8191 10, BitVec.ofNat 8 typ), (tileAddr 8191 10 + 6, BitVec.ofNat 8 n), (tileAddr 8191 10 + 8, BitVec.ofNat 8 n)] }

/-- The record at the front of the ring and what is taken. -/
def takes (s : State) : Option (Nat × Nat × Bool) :=
  (s.recvMessage 8191 (msg 0x41 []) ((s.core 8191).ctx 127)).map fun x => (x.1.status, x.1.count, x.2.2)

theorem witness_MessageCommandsSendReceiveAndFlush_receive :
    takes (received 2 1 [] [8]) = some (0, 2048, true) ∧ takes (received 2 2 [] [8]) = some (0x2005, 4096, false) ∧
    takes (received 1 5 [] [8]) = some (0x2004, 5, true) ∧ takes (received 1 0 [] [8]) = some (0, 0, true) ∧
    (((received 2 1 [] [8]).core 8191).ctx 127).waiting.head? = some 8 ∧
    (((received 2 1 [] [7, 8]).core 8191).ctx 127).waiting.head? ≠ some 8 ∧ takes (withCtx (ctx 2 .isOpen) []) = none ∧
    ((engine [] fun c => { c with ctxs := [(63, { ctx 1 .isOpen with timedOut := 1 }), (127, ctx 2 .isOpen)] }).core 8191 |>.ctx 63).timedOut = 1 := by decide +kernel

theorem test_messages : flies (exec (.msend 8191 8) (withCtx (ctx 1 .closed) [ent (msg 0x40 [])])) (fun f => f.status == 0x2002) = true ∧
    flies (exec (.mrecv 8191 8) (withCtx (ctx 2 .closed) [ent (msg 0x41 []) (some Flight.start)])) (fun f => f.status == 0x2002) = true ∧
    goesTo (exec (.msend 8191 8) (withCtx { ctx 1 .isOpen with waiting := [8] } [ent (msg 0x40 []) (some Flight.start)]))
      (fun t => t.net.length == 1 && ((t.core 8191).ctx 127).credits == 64 - tileUnits 1) = true := by decide +kernel

theorem witness_ContextsOpenCloseAndTimeOut :
    ((withCtx (ctx 1 .isOpen) []).selCtx 8191 = 127 ∧ ((withCtx (ctx 1 .isOpen) []).core 8191).ctx 127 = ctx 1 .isOpen) ∧
    ((ctx 1 .off).state = .off ∧ ctxRole (ctx 1 .off) = 1) ∧ ((ctx 2 .closed).state = .closed ∧ ctxRole (ctx 2 .closed) = 2) ∧
    (ctxPeer (ctx 2 .closed)).pkg = (withCtx (ctx 2 .closed) []).pkgId ∧
    (ctx 1 .opening).state = .opening ∧ (ctx 3 .closed).state = .closed ∧ ctxRole (ctx 3 .closed) ≠ 1 ∧ ctxRole (ctx 3 .closed) ≠ 2 ∧
    (((withCtx { ctx 1 .isOpen with outstanding := [(4, none), (0, some 0), (5, some 7)] } []).core 8191).ctx 127).outstanding =
      [(4, none)] ++ (0, some 0) :: [(5, some 7)] ∧ ((4, none) : BitVec 16 × Option Nat).2 ≠ some 0 ∧
    (((withCtx { ctx 1 .isOpen with outstanding := [(5, some 7)] } []).core 8191).ctx 127).outstanding.all (fun x => x.2 != some 0) = true := by decide +kernel

theorem test_contexts : after (exec (.ctxOpen 8191) (withCtx (ctx 2 .closed) [])) (fun c => (c.ctx 127).state == .isOpen) = true ∧
    after (exec (.ctxClose 8191) (withCtx (ctx 2 .isOpen) [])) (fun c => (c.ctx 127).state == .closed && (c.ctx 127).epoch == 2) = true ∧
    after (exec (.replyTimeout 8191 127) (withCtx { ctx 1 .isOpen with outstanding := [(0, some 0), (5, some 7)] } [])) (fun c => (c.ctx 127).timedOut == 1 && (c.ctx 127).outstanding == [(5, some 7)]) = true := by
  decide +kernel

/-- A record of 33 units from context 9 of core 6 to context 127 of core 8,191. -/
def rcd (epoch : Nat) : ChnRecord := ⟨⟨0, 8191, 127⟩, ⟨0, 6, 9⟩, 1, false, false, epoch, 33, 0, 2048, 7, 9, 11, [], List.replicate 2048 3, 0, false⟩

/-- Packets under way to that context; core 6 is of the same polder or not. -/
def chan (k : Ctx) (same : Bool) (net : List Pkt) : State :=
  let s := (withCtx k []).modCore 6 fun c => ({ c with ctxs := [(9, ctx 1 .isOpen)], wheel := { c.wheel with cur := some 0, count := 2, next := 1, store := [(1, 1)] } } : Core).setF
    Reg.CORE_IDENT_POLDER (if same then 7 else 6)
  { s with net := net }

/-- A packet of a type for that context at the head of VC 15 of port 15. -/
def lanePkt (ty : Nat) : LanePkt := ⟨ty, false, false, 0, 0, 127 + 8191 * 2 ^ 7, 9, 4095, List.replicate 64 5⟩
def laned (ty pol : Nat) : State := withHead 15 15 pol (lanePkt ty) (withCtx (ctx 1 .isOpen) [])

/-- A record of two packets, the second still to come. -/
def half (k : Ctx) : Ctx := { k with recs := [⟨0, 33, 1, false, false, false⟩] }

theorem witness_ChannelPacketsActOnTheirContext :
    (netTake recKey 0 (chan (ctx 2 .isOpen) true [.chn (rcd 1)]).net = some (.chn (rcd 1), []) ∧ (rcd 1).dst.pkg = (chan (ctx 2 .isOpen) true [.chn (rcd 1)]).pkgId) ∧
    (chan (ctx 2 .isOpen) false []).sameDike (rcd 1).dst (rcd 1).src = false ∧
    ((chan (ctx 2 .isOpen) true []).sameDike (rcd 2).dst (rcd 2).src = true ∧ (rcd 2).arrived = 0 ∧ State.takes (rcd 2) (ctx 2 .isOpen) = false ∧
      (rcd 2).src.pkg = (chan (ctx 2 .isOpen) true []).pkgId) ∧
    (State.takes (rcd 1) (ctx 2 .isOpen) = true ∧ (rcd 1).cut = false ∧ 0 + 1 < packetsOf (rcd 1) ∧ (rcd 1).typ ≠ 0x0F) ∧
    ({ rcd 1 with arrived := 1 }.arrived = 1 ∧ (half (ctx 2 .isOpen)).state = .isOpen ∧ (∃ y ∈ (half (ctx 2 .isOpen)).recs, y.isWhole = false) ∧
      (∀ y ∈ (half (ctx 2 .isOpen)).recs, y.isPad = false) ∧ (half (ctx 2 .isOpen)).epoch.toNat = { rcd 1 with arrived := 1 }.epoch ∧
      packetsOf { rcd 1 with arrived := 1 } ≤ 1 + 1) ∧ 64 ≤ 127 := by decide +kernel

theorem witness_ChannelPacketsActOnTheirContext_lanes :
    (∀ ty ∈ [1, 2, 3, 4], (laned ty 7).laneHead 15 15 = some (lanePkt ty) ∧ (lanePkt ty).ptype = ty ∧
      (laned ty 7).laneDike 15 15 (State.pktCore (lanePkt ty)) = true ∧
      (laned ty 7).ownsRoute (State.pktCore (lanePkt ty)) (ctxRoute (((laned ty 7).core (State.pktCore (lanePkt ty))).ctx (State.pktCtx (lanePkt ty)))) = true) ∧
    ((laned 2 6).laneHead 15 15 = some (lanePkt 2) ∧ (laned 2 6).laneDike 15 15 (State.pktCore (lanePkt 2)) = false) ∧
    bitsOf { lanePkt 4 with aux := 1 }.aux 1 0 = 1 ∧ bitsOf { lanePkt 4 with aux := 2 }.aux 1 0 = 2 := by decide +kernel

/-- Reverse items under way from core 8,191, whose slot owns route 0, to context 9 of core 6. -/
def back (p : Pkt) : State := chan (ctx 2 .isOpen) true [p]

/-- The item that may travel. -/
def travels (p : Pkt) : Bool := ((back p).revItem 0).map (·.1) == some p

theorem witness_ChannelPacketsActOnTheirContext_reverse :
    travels (.chnAck ⟨0, 6, 9⟩ ⟨0, 8191, 127⟩ 0 1 true 0) = true ∧ travels (.chnCredit ⟨0, 6, 9⟩ ⟨0, 8191, 127⟩ 30) = true ∧
    travels (.openNotice ⟨0, 6, 9⟩ ⟨0, 8191, 127⟩ 9 64) = true ∧ travels (.closedNotice ⟨0, 6, 9⟩ ⟨0, 8191, 127⟩ 9) = true ∧
    (chan (ctx 2 .isOpen) true []).sameDike ⟨0, 6, 9⟩ ⟨0, 8191, 127⟩ = true ∧ (chan (ctx 2 .isOpen) false []).sameDike ⟨0, 6, 9⟩ ⟨0, 8191, 127⟩ = false ∧
    ctxRole (((back (.chnCredit ⟨0, 6, 9⟩ ⟨0, 8191, 127⟩ 30)).core 6).ctx 9) = 1 ∧ (((back (.chnCredit ⟨0, 6, 9⟩ ⟨0, 8191, 127⟩ 30)).core 6).ctx 9).state = .isOpen ∧
    ((engine [ent (msg 0x40 []) (some { Flight.start with sent := true })]).sentFlight 8191 8) = true := by
  decide +kernel

theorem test_channel_packets :
    goesTo (exec (.chnData (.mesh 0)) (chan (ctx 2 .isOpen) true [.chn (rcd 2)])) (fun t => (t.core 8191).getF Reg.CHN_CNT_STALE_DROP_COUNT == 1) = true ∧
    goesTo (exec (.chnCredit (.mesh 0)) (back (.chnCredit ⟨0, 6, 9⟩ ⟨0, 8191, 127⟩ 4095))) (fun t => ((t.core 6).ctx 9).credits == 64) = true ∧
    goesTo (exec (.closedNotice (.mesh 0)) (back (.closedNotice ⟨0, 6, 9⟩ ⟨0, 8191, 127⟩ 9))) (fun t => ((t.core 6).ctx 9).state == .closed) = true := by decide +kernel

/-! ### Stage groups and links -/

/-- A link descriptor: role, peer end, peer package, backward; group 0, depth 4, slots of two tiles, two parts, one consumer, its queue at 0x10000. -/
def ldesc (role peer pkg : Nat) (bwd : Bool) : Nat :=
  role + (if bwd then 256 else 0) + 4 * 2 ^ 24 + 2 * 2 ^ 32 + 2 * 2 ^ 48 + 2 ^ 64 + peer * 2 ^ 80 + pkg * 2 ^ 96 + 0x10000 * 2 ^ 128

def setDesc (l d : Nat) (s : State) : State := (List.range 8).foldl (fun s w => s.setF (Reg.PIP_LINK_DESC_WORD l w) (d / 2 ^ (32 * w) % 2 ^ 32)) s

/-- Group 0 of polder 7 with the cluster of core 8,191, its version 4 CURRENT in slot 1; link ends 511 and 510 face each other, in a state. -/
def staged (role st pkg : Nat) (bwd : Bool) (s : State) : State :=
  let s := ((s.setF (Reg.PIP_GROUP_CFG_VALID 0) 1).setF (Reg.PIP_GROUP_CFG_POLDER 0) 7).setF (Reg.PIP_GROUP_CLUSTERS_MEMBERS 0 7) 0x80000000
  let s := (setDesc 510 (ldesc (3 - role) 511 0 bwd) (setDesc 511 (ldesc role 510 pkg bwd) s)).setF (Reg.PIP_LINK_STATE_STATE 511) st
  let s := ((s.setF (Reg.PIP_LINK_STATE_EPOCH 511) 6).setF (Reg.PIP_LINK_HEAD_HEAD 511) 20).setF (Reg.PIP_VER_STATE 0 1) 3
  ((s.setF (Reg.PIP_VER_NUMBER 0 1) 4).setF (Reg.PIP_VER_REFS 0 1) 2).setF (Reg.PIP_GROUP_MB_MB_PER_STEP 0) 7

/-- A stash entry of micro-batch 22 bound to version 4 in slot 1. -/
def bound (n : Nat) : StashEntry := ⟨22, 3, 1, 2, 4, 4, 1, 3, n⟩
def stashed (n : Nat) (s : State) : State := s.setStash 0 (State.stashIdx false 22) (some (bound n))
/-- A ready entry of micro-batch 22 under a version tag. -/
def readyEntry (vtag : Nat) (s : State) : State := s.modLink 511 fun x => { x with queue := [⟨22, 3, 1, 2, false, false, vtag, 6, [0, 1], some 4, 0⟩] }
/-- QPUSH or QPOP of micro-batch 22 on link 511, route 0. -/
def qcmd (op mode n : Nat) : CmdWord := cmd op [(8, 20), (9, 1), (0x0A, n), (0x0B, mode), (0x0C, 255), (0x0D, 1), (0x10, 22), (0x18, 3), (0x1C, 0x40), (0x1D, 0x20)]

def pushing (pkg : Nat) (f : Flight) : State := stashed 0 (staged 1 1 pkg false (engine [ent (qcmd 0x48 0 1) (some f)]))
def taking (mode n : Nat) : State := readyEntry 4 (staged 2 1 0 true (engine [ent (qcmd 0x49 mode n) (some Flight.start)]))

theorem witness_QueueCommandsPushTakeInjectAndRelease :
    ((staged 1 1 0 false (at8 0x48 [])).issuing 8191 8 0x48).isSome = true ∧
    ((pushing 0 Flight.start).going 8191 8 0x48 = some (ent (qcmd 0x48 0 1) (some Flight.start), Flight.start) ∧ (pushing 0 Flight.start).pushStatus 8191 (qcmd 0x48 0 1) = 0 ∧
      qLink (qcmd 0x48 0 1) = 511 ∧ ((pushing 0 Flight.start).linkEnd 511).paused = false ∧ seqOlder 22 ((pushing 0 Flight.start).linkHead 511 + 4) = true ∧
      seqOlder 24 ((pushing 0 Flight.start).linkHead 511 + 4) = false ∧ (pushing 0 Flight.start).stashOf 0 false 22 = some (bound 0)) ∧
    (staged 1 2 0 false (engine [ent (qcmd 0x48 0 1) (some Flight.start)])).pushStatus 8191 (qcmd 0x48 0 1) = 0x5002 ∧
    ((taking 0 0).going 8191 8 0x49 = some (ent (qcmd 0x49 0 0) (some Flight.start), Flight.start) ∧ qMode (qcmd 0x49 0 0) = 0 ∧ (taking 0 0).takeStatus 8191 (qcmd 0x49 0 0) = 0 ∧
      ((taking 0 0).linkEnd 511).queue.find? (fun q => q.mbSeq == (qcmd 0x49 0 0).u32 0x10 && q.ready.isSome) = ((taking 0 0).linkEnd 511).queue.head? ∧
      ldBwd ((taking 0 0).linkDesc 511) = true ∧ (taking 0 0).stashOf 0 false 22 = none ∧ (stashed 0 (taking 0 0)).stashOf 0 false 22 = some (bound 0) ∧
      (qcmd 0x49 0 1).u8 0x0A = 1 ∧ (stashed 0 (taking 0 1)).weirPass 7 readTile (ldSlot ((taking 0 1).linkDesc 511) 22 + 2048) = true) ∧
    (staged 2 0 0 true (taking 0 0)).takeStatus 8191 (qcmd 0x49 0 0) = 0x5002 ∧
    (qMode (qcmd 0x49 1 0) = 1 ∧ (taking 1 0).groupOf 8191 = some 0 ∧ (taking 1 0).verIn 0 3 = some 1 ∧ (taking 1 0).stashAt 0 (State.stashIdx false 22) = none ∧
      (taking 1 0).getF (Reg.PIP_GROUP_CFG_BIND 0) = 0) := by decide +kernel

/-- A queue command about to issue on link 511, over a route from its cluster to the queue's channel; tile 20 may lie in a receive ring. -/
def queued (w : CmdWord) (role : Nat) (bwd : Bool) (f : Core → Core := id) : State :=
  { staged role 1 0 bwd (engine [ent w] f) with routes := [(196608, 63), (196612, 4 * 256), (196620, 4 * 256 + 65536), (196623, 2 * 16 + 3)] }

def ring20 (c : Core) : Core := { c with ctxs := [(0, { Ctx.empty with state := .isOpen, desc := 0x01140002 })] }

/-- A QPOP of a mode whose binding record would not be aligned. -/
def qbad (m : Nat) : CmdWord := cmd 0x49 [(8, 20), (0x0A, 1), (0x0B, m), (0x0C, 255), (0x0D, 1), (0x10, 22), (0x1C, 1)]

theorem witness_QueueCommandsPushTakeInjectAndRelease_issue :
    ((queued (cmd 0x48 []) 1 false).issuing 8191 8 0x48 = some (ent (cmd 0x48 [])) ∧ (queued (cmd 0x48 []) 1 false).going 8191 8 0x48 = none ∧
      qpReserved (cmd 0x48 []) = true) ∧
    ((queued (qcmd 0x48 0 1) 1 false).issuing 8191 8 0x48 = some (ent (qcmd 0x48 0 1)) ∧ qpReserved (qcmd 0x48 0 1) = false ∧
      (queued (qcmd 0x48 0 1) 1 false).tileRefusal 8191 (ent (qcmd 0x48 0 1)) = 0 ∧
      (queued (qcmd 0x48 0 1) 1 false ring20).issuing 8191 8 0x48 = some (ent (qcmd 0x48 0 1)) ∧
      (queued (qcmd 0x48 0 1) 1 false ring20).tileRefusal 8191 (ent (qcmd 0x48 0 1)) ≠ 0) ∧
    (pushing 0 { Flight.start with sent := true }).going 8191 8 0x48 = some (ent (qcmd 0x48 0 1) (some { Flight.start with sent := true }), { Flight.start with sent := true }) ∧
    (∀ m ∈ [0, 1, 2], (queued (qcmd 0x49 m 1) 2 false).issuing 8191 8 0x49 = some (ent (qcmd 0x49 m 1)) ∧ qMode (qcmd 0x49 m 1) = m ∧
      qoReserved (qcmd 0x49 m 1) = false ∧ (queued (qcmd 0x49 m 1) 2 false).tileRefusal 8191 (ent (qcmd 0x49 m 1)) = 0) ∧
    (∀ m ∈ [0, 1], qoReserved (qbad m) = true ∧ qMode (qbad m) = m) ∧
    (queued (qcmd 0x49 0 1) 2 false ring20).tileRefusal 8191 (ent (qcmd 0x49 0 1)) ≠ 0 ∧
    ((engine [ent (qcmd 0x49 2 0)]).issuing 8191 8 0x49 = some (ent (qcmd 0x49 2 0)) ∧ (engine [ent (qcmd 0x49 2 0)]).groupOf 8191 = none) := by decide +kernel

theorem witness_QueueCommandsPushTakeInjectAndRelease_push :
    (((pushing 0 Flight.start).modLink 511 fun x => { x with due := 1 }).linkEnd 511).paused = true ∧
    seqOlder ((qcmd 0x48 0 1).u32 0x10) (((pushing 0 Flight.start).setF (Reg.PIP_LINK_HEAD_HEAD 511) 18).linkHead 511 + ldDepth ((pushing 0 Flight.start).linkDesc 511)) = false ∧
    (ldPeerPkg ((pushing 55 Flight.start).linkDesc 511) = 55 ∧ (pushing 55 Flight.start).pkgId ≠ 55 ∧
      (pushing 55 Flight.start).routeLane (State.dieOf 8191) (qRoute (qcmd 0x48 0 1)) = none ∧
      (pushing 55 Flight.start).routeLane (State.dieOf 8191) 3 = some (2, 3)) := by decide +kernel

/-- The entry of micro-batch 22 waits for a TAKE on a forward link. -/
def forward (n : Nat) : State := readyEntry 4 (staged 2 1 0 false (engine [ent (qcmd 0x49 0 n) (some Flight.start)]))

theorem witness_QueueCommandsPushTakeInjectAndRelease_take :
    ((taking 0 1).weirPass 7 readTile (ldSlot ((taking 0 1).linkDesc 511) 22 + 2048) = true ∧
      ({ taking 0 1 with wiping := [0] } : State).weirPass 7 readTile (ldSlot ((taking 0 1).linkDesc 511) 22 + 2048) = false) ∧
    ((stashed 0 (taking 0 0)).stashOf 0 false 22 = some (bound 0) ∧ (bound 0).vtag = 4) ∧
    ((forward 0).takeStatus 8191 (qcmd 0x49 0 0) = 0 ∧ ldBwd ((forward 0).linkDesc 511) = false ∧ (forward 0).stashAt 0 (State.stashIdx false 22) = none ∧
      (stashed 0 (forward 0)).stashAt 0 (State.stashIdx false 22) = some (bound 0) ∧
      ((forward 0).setStash 0 (State.stashIdx false 22) (some { bound 0 with mbSeq := 22 + 64 })).stashAt 0 (State.stashIdx false 22) = some { bound 0 with mbSeq := 86 }) ∧
    ((forward 0).bindTo 0 4 = .slot 1 ∧ ((forward 0).setF (Reg.PIP_GROUP_CFG_BIND 0) 1).bindTo 0 5 = .wait ∧
      ((forward 0).setF (Reg.PIP_GROUP_CFG_BIND 0) 1).bindTo 0 3 = .refuse) ∧
    (ldSlotTiles ((forward 3).linkDesc 511) < (qcmd 0x49 0 3).u16 0x14 + 3 ∧ (qcmd 0x49 0 1).u16 0x14 + 1 ≤ ldSlotTiles ((forward 1).linkDesc 511)) ∧
    ((staged 2 1 0 true (engine [ent (qcmd 0x49 0 0) (some Flight.start)])).linkEnd 511).queue = [] ∧
    (∃ g, (taking 1 0).groupOf 8191 = some g) := by
  refine ⟨by decide +kernel, by decide +kernel, by decide +kernel, by decide +kernel, by decide +kernel, by decide +kernel, 0, by decide +kernel⟩

theorem test_push_and_take : flies (exec (.qpush 8191 8) (pushing 0 Flight.start)) (fun f => f.sent && f.stamp == 6) = true ∧
    flies (exec (.take 8191 8) (taking 0 0)) (fun f => f.fin && f.status == 0x5005) = true ∧
    flies (exec (.inject 8191 8) (taking 1 0)) (fun f => f.fin && f.status == 0) = true := by decide +kernel

/-- A part of micro-batch 22 for link 511. -/
def part (n epoch : Nat) : PipPart := ⟨22, 3, 1, 2, false, false, 4, epoch, n, 0, [(List.replicate 2048 5, 3, 4)]⟩
def parting (p : Pkt) : State := { staged 2 1 0 true (engine []) with net := [p] }
def stagePkt (ty : Nat) : LanePkt := ⟨ty, false, false, 0, 0, 511, 8 + 55 * 2 ^ 22, 1, List.replicate 32 5⟩
def stageLane (ty pol : Nat) : State := withHead 15 15 pol (stagePkt ty) ((staged 2 2 55 true (engine [])).setF (Reg.PIP_LINK_STATE_OPEN_WAIT 511) 1)

theorem witness_PartsAnswersAndHeadsArrive :
    ((parting (.pipPart 511 (part 1 6))).partPass 511 (part 1 6) = true ∧ (parting (.pipPart 511 (part 1 6))).partStatus 511 (part 1 6) = 0) ∧
    (parting (.pipPart 511 (part 1 5))).partStatus 511 (part 1 5) = 0x5007 ∧ (parting (.pipPart 511 (part 2 6))).partStatus 511 (part 2 6) = 0x5004 ∧
    ((stageLane 0x10 6).laneHead 15 15 = some (stagePkt 0x10) ∧ (stageLane 0x10 6).linkDike 15 15 511 = false) ∧
    ((stageLane 0x10 7).linkDike 15 15 511 = true ∧ (stageLane 0x10 7).groupOwns 0 (ldRxRoute ((stageLane 0x10 7).linkDesc 511)) = true) ∧
    (netTake State.answerKey 0 (parting (.pipAck 511 22 0 0 6)).net = some (.pipAck 511 22 0 0 6, []) ∧ (parting (.pipAck 511 22 0 0 6)).pushOf 511 22 0 (some 6) = none) ∧
    (pushing 0 { Flight.start with sent := true, stamp := 6 }).pushOf 511 22 0 (some 6) = some (8191, 8) ∧
    netTake State.answerKey 0 (parting (.pipHead 511 23 9)).net = some (.pipHead 511 23 9, []) := by decide +kernel

/-- A part that the weirs hold, since its channel is being wiped; one to a slot in another polder's channel. -/
theorem witness_PartsAnswersAndHeadsArrive_stops :
    ({ parting (.pipPart 511 (part 1 6)) with wiping := [0] } : State).partPass 511 (part 1 6) = false ∧
    (((parting (.pipPart 511 (part 1 6))).setF (Reg.MEM_CHAN_OWNER_OWNER 0 0) 0).partStatus 511 (part 1 6) = 0x3002 ∧
      ((parting (.pipPart 511 (part 1 6))).setF (Reg.MEM_CHAN_OWNER_OWNER 0 0) 0).partPass 511 (part 1 6) = true) ∧
    (∀ ty ∈ [0x10, 0x11, 0x12], (stageLane ty 7).laneHead 15 15 = some (stagePkt ty) ∧ (stagePkt ty).ptype = ty ∧ (stageLane ty 7).linkDike 15 15 511 = true ∧
      (stageLane ty 6).laneHead 15 15 = some (stagePkt ty) ∧ (stageLane ty 6).linkDike 15 15 511 = false) ∧
    ((({ stageLane 0x10 7 with routes := [] } : State).modCore 8191 fun c => { c with wheel := { c.wheel with cur := none } }).groupOwns 0
      (ldRxRoute ((stageLane 0x10 7).linkDesc 511)) = false) := by decide +kernel

/-- The far end of a link says that it is OPEN no longer. -/
def gone : State :=
  withHead 15 15 7 { stagePkt 0x11 with aux := 22 + 0x5002 * 2 ^ 48 } (staged 1 1 55 false (engine []))

theorem witness_PartsAnswersAndHeadsArrive_peer :
    (bitsOf { stagePkt 0x11 with aux := 22 + 0x5002 * 2 ^ 48 }.aux 63 48 = 0x5002 ∧ bitsOf (stagePkt 0x11).aux 63 48 = 0) ∧ gone.linkDike 15 15 511 = true ∧
    ((gone.laneTake 15 15).ackPush 511 22 0 0x5002 none).linkOpen 511 = true ∧ ldPeerPkg (((gone.laneTake 15 15).ackPush 511 22 0 0x5002 none).linkDesc 511) = 55 ∧
    ((gone.laneTake 15 15).ackPush 511 22 0 0x5002 none).pkgId ≠ 55 := by decide +kernel

theorem test_peer_gone : goesTo (exec (.pipAck (.lane 15 15)) gone) (fun t => t.getF (Reg.PIP_LINK_STATE_STATE 511) == 2) = true := by decide +kernel

theorem test_heads : goesTo (exec (.pipHead (.mesh 0)) (parting (.pipHead 511 23 9))) (fun t => t.linkHead 511 == 23 && t.linkEpoch 511 == 9) = true := by decide +kernel

theorem witness_LinksOpenCloseAndAbandon :
    ((staged 2 1 0 true (engine [])).getF (Reg.PIP_LINK_STATE_STATE 511) = 1) ∧
    ((staged 2 0 0 true (engine [])).getF (Reg.PIP_LINK_STATE_STATE 511) ≠ 1 ∧ ldPeerPkg ((staged 2 0 0 true (engine [])).linkDesc 511) = (engine []).pkgId) ∧
    ((stageLane 0x13 7).getF (Reg.PIP_LINK_STATE_STATE 511) = 2 ∧ ldPeerPkg ((stageLane 0x13 7).linkDesc 511) ≠ (stageLane 0x13 7).pkgId ∧
      (stageLane 0x13 7).stagePath 511 = none ∧ (stageLane 0x13 7).flag (Reg.PIP_LINK_STATE_OPEN_WAIT 511) = true ∧
      (stageLane 0x13 7).now < ((stageLane 0x13 7).linkEnd 511).asked + 100) ∧
    ((stageLane 0x13 7).laneHead 15 15 = some (stagePkt 0x13) ∧ (stagePkt 0x13).ptype = 0x13 ∧ (stageLane 0x13 7).linkDike 15 15 511 = true ∧ bitOf (stagePkt 0x13).aux 0 = true ∧
      ((stageLane 0x13 7).laneTake 15 15).flag (Reg.PIP_LINK_STATE_OPEN_WAIT 511) = true) ∧
    (stageLane 0x13 6).linkDike 15 15 511 = false := by decide +kernel

/-- A peer to ask over port 15. -/
def asking : State := let s := portIn 15 6 1 (((stageLane 0x13 7).setF (Reg.LNK_PEER_PKG_ID 15) 55).setF (Reg.LNK_VC_CFG_POLDER 15 15) 7)
  { s with tide := { s.tide with count := 200 } }

theorem witness_AskOfR292 : asking.stagePath 511 = some (15, 15) ∧ (asking.linkEnd 511).asked + 100 ≤ asking.now ∧
    asking.flag (Reg.PIP_LINK_STATE_OPEN_WAIT 511) = true := by decide +kernel

theorem witness_LinksOpenCloseAndAbandon_more :
    ((staged 2 0 55 true (engine [])).getF (Reg.PIP_LINK_STATE_STATE 511) ≠ 1 ∧ ldPeerPkg ((staged 2 0 55 true (engine [])).linkDesc 511) ≠ (engine []).pkgId ∧
      (staged 2 0 55 true (engine [])).stagePath 511 = none) ∧
    (asking.getF (Reg.PIP_LINK_STATE_STATE 511) ≠ 1 ∧ ldPeerPkg (asking.linkDesc 511) ≠ asking.pkgId ∧
      100 ≤ (asking.now + 2 ^ 48 - (asking.linkEnd 511).asked) % 2 ^ 48) ∧
    ((asking.setPortState 15 0).stagePath 511 = none ∧ (asking.setPortState 15 0).flag (Reg.PIP_LINK_STATE_OPEN_WAIT 511) = true) ∧
    ((staged 2 2 0 true (engine [])).getF (Reg.PIP_LINK_STATE_STATE 511) = 2 ∧ (staged 2 0 0 true (engine [])).getF (Reg.PIP_LINK_STATE_STATE 511) ∉ [1, 2]) ∧
    (bitOf { stagePkt 0x13 with aux := 0 }.aux 0 = false ∧
      (((stageLane 0x13 7).setF (Reg.PIP_LINK_STATE_OPEN_WAIT 511) 0).laneTake 15 15).flag (Reg.PIP_LINK_STATE_OPEN_WAIT 511) = false) := by decide +kernel

theorem witness_LinksOpenCloseAndAbandon_abandon :
    0 ∈ (staged 2 1 0 true (engine [])).groupsOf 7 ∧ (511 ∈ (staged 2 1 0 true (engine [])).linksOf 7 ∧ 510 ∈ (staged 2 1 0 true (engine [])).linksOf 7) ∧
    (ldInfer ((staged 2 1 0 true (engine [])).linkDesc 511) = false ∧ ldRole ((staged 2 1 0 true (engine [])).linkDesc 511) = 2 ∧
      ldInfer ((staged 2 1 0 true (engine [])).linkDesc 510) = false ∧ ldRole ((staged 2 1 0 true (engine [])).linkDesc 510) ≠ 2) :=
  ⟨by decide +kernel, ⟨List.mem_filter.2 ⟨List.mem_range.2 (by decide), by decide +kernel⟩, List.mem_filter.2 ⟨List.mem_range.2 (by decide), by decide +kernel⟩⟩,
    by decide +kernel⟩

theorem test_links : goesTo (exec (.linkOpen 511) (staged 2 0 0 true (engine []))) (fun t => t.getF (Reg.PIP_LINK_STATE_STATE 511) == 1) = true ∧
    goesTo (exec (.linkClose 511) (staged 2 2 0 true (engine []))) (fun t => t.getF (Reg.PIP_LINK_STATE_STATE 511) == 0) = true ∧
    goesTo (exec (.groupInit 255 9) (engine [])) (fun t => t.verState 255 0 == 3 && t.verNumber 255 0 == 9) = true := by decide +kernel

theorem witness_ScaleRecordAddressesAreChecked :
    (0x5FFFFFC1 % 64 ≠ 0 ∧ region 0x60000000 = .unmapped ∧ region 0x5FFFFFC0 = .dram 0 0 ∧ region 0x1000000000 = .dram 1 0 ∧ (engine []).chanOwner 1 0 ≠ 7 ∧
      (0x10000000000 : Nat) ≤ 0x10000000000 ∧ 0x10000000000 < 0x10100000000) ∧
    ((at8 0x10 (mm ++ [(0x13, 0x60)])).issuing 8191 8 0x10 = some (ent (cmd 0x10 (mm ++ [(0x13, 0x60)]))) ∧ (cmd 0x10 (mm ++ [(0x13, 0x60)])).u64 0x10 = 0x60000000 ∧
      mmReserved false (cmd 0x10 (mm ++ [(0x13, 0x60)])) = false ∧ mmFormatOk (cmd 0x10 (mm ++ [(0x13, 0x60)])) = true) ∧
    ((at8 0x20 (vs ++ [(0x18, 3)])).issuing 8191 8 0x20 = some (ent (cmd 0x20 (vs ++ [(0x18, 3)]))) ∧ vsReserved false (cmd 0x20 (vs ++ [(0x18, 3)])) none = false ∧
      vsSrec (cmd 0x20 (vs ++ [(0x18, 3)])) = 3) ∧
    ((at8 0x21 [(0x10, 0x41)]).issuing 8191 8 0x21 = some (ent (cmd 0x21 [(0x10, 0x41)])) ∧ (cmd 0x21 [(0x10, 0x41)]).u64 0x10 = 0x41) := by decide +kernel

theorem witness_ScaleRecordAddressesAreChecked_engine :
    State.matrixBusy ((engine [inflight 7 1 false, ent (cmd 0x10 (mm ++ [(0x13, 0x60)]))]).core 8191) = true ∧
    (engine [inflight 7 1 false, ent (cmd 0x10 (mm ++ [(0x13, 0x60)]))]).issuing 8191 8 0x10 = some (ent (cmd 0x10 (mm ++ [(0x13, 0x60)]))) ∧
    (at8 0x10 (mm ++ [(0x13, 0x60)])).tileRefusal 8191 (ent (cmd 0x10 (mm ++ [(0x13, 0x60)]))) = 0 ∧
    (∀ b < 4, (((at8 0x10 (mm ++ [(0x13, 0x60)])).core 8191).bank b).isOpen = false) := by decide +kernel

theorem test_scale_address : flies (exec (.matmul 8191 8) (at8 0x10 (mm ++ [(0x13, 0x60)]))) (fun f => f.status == 0x3001) = true ∧
    flies (exec (.vstream 8191 8) (at8 0x20 (vs ++ [(0x18, 3)]))) (fun f => f.status == 0x1007) = true := by decide +kernel

/-- RELEASE of micro-batch 22. -/
def releasing : State := staged 2 1 0 true (engine [ent (qcmd 0x49 2 0)])

theorem witness_ReleasesCountAndFreeTheStashEntry :
    (releasing.issuing 8191 8 0x49 = some (ent (qcmd 0x49 2 0)) ∧ qMode (qcmd 0x49 2 0) = 2 ∧ releasing.groupOf 8191 = some 0) ∧ releasing.stashOf 0 false 22 = none ∧
    ((stashed 0 releasing).stashOf 0 false 22 = some (bound 0) ∧ (bound 0).count + 1 < ((stashed 0 releasing).setF (Reg.PIP_GROUP_MB_RELEASERS 0) 1).getF (Reg.PIP_GROUP_MB_RELEASERS 0) + 1) ∧
    ((stashed 0 releasing).getF (Reg.PIP_GROUP_MB_RELEASERS 0) + 1 ≤ (bound 0).count + 1 ∧ (bound 0).vslot < 4) := by decide +kernel

theorem test_release : goesTo (exec (.release 8191 8) (stashed 0 releasing)) (fun t => t.stashOf 0 false 22 == none && t.getF (Reg.PIP_VER_REFS 0 1) == 1) = true ∧
    flies (exec (.release 8191 8) releasing) (fun f => f.status == 0x5005) = true := by decide +kernel

/-! ### Media front-ends -/

/-- Media front-end 3 with polder 7 in every slice, its ring of one descriptor at the start of the host window with TAIL, a text sample in it, and its sets. -/
def media (run tail : Nat) (f : Mfe) : State :=
  let s := (((engine []).setF (Reg.MFE_PCTL_RUN 3 7) run).setF (Reg.MFE_RING_BASE_ADDR 3 7) 0x80000000000).setF (Reg.MFE_SHARE_SLICE 3) 0x7777777777777777
  (s.putBytes 0x80000000000 (bytesLE 4 tail ++ List.replicate 60 0 ++ [9])).modMfe 3 7 fun _ => f

/-- A text class with positions of one tile, at tile 20 of core 8,191 over a route, and its record tile. -/
def textClass (route pos : Nat) : MfeClass :=
  ⟨63, 512, 0, List.replicate 0x28 0 ++ [1] ++ List.replicate 23 0, 0, pos, 1, 1, 0, 0, [8191 + 5 * 2 ^ 13 + route * 2 ^ 29],
    List.replicate pos (8191 + 20 * 2 ^ 13 + 2 ^ 21 + route * 2 ^ 29)⟩

/-- A sample of it, with the tiles landed. -/
def sample (whole : Bool) (landed : List (Nat × Nat)) : Sample := ⟨9, [9] ++ List.replicate 31 0, [], whole, 63, 0, 0, landed, false⟩
def landing (route pos : Nat) (f : Sample) : State := media 1 1 ⟨[textClass route pos], [f], [⟨63, 0, .filling, [], 1, false, 0⟩], none⟩

def polling (f : Mfe) : State := (media 1 1 f).mfeFetch 3 7 0x80000000000 64 |>.modMfe 3 7 fun x => { x with polled := some (media 1 1 f).now }

theorem witness_SamplesAreTakenAndLand :
    (media 0 1 Mfe.empty).flag (Reg.MFE_PCTL_RUN 3 7) = false ∧ ((media 1 1 ⟨[], [], [], some 5⟩).mfe 3 7).polled = some (media 1 1 ⟨[], [], [], some 5⟩).now ∧
    ((media 1 1 Mfe.empty).flag (Reg.MFE_PCTL_RUN 3 7) = true ∧ ((media 1 1 Mfe.empty).mfe 3 7).polled ≠ some (media 1 1 Mfe.empty).now ∧
      (media 1 1 Mfe.empty).getF (Reg.MFE_RING_BASE_ADDR 3 7) = 0x80000000000 ∧ ((media 1 1 Mfe.empty).mfeBytes 3 7 0x80000000000 64).length = 64 ∧
      (polling Mfe.empty).nextIdx 3 7 = 0 ∧ numAt ((media 1 1 Mfe.empty).mfeBytes 3 7 0x80000000000 64) 0 4 = 1 ∧
      ((polling Mfe.empty).mfeBytes 3 7 ((polling Mfe.empty).descAddr 3 7 0) 32) = [9] ++ List.replicate 31 0) ∧
    numAt ((media 1 0 Mfe.empty).mfeBytes 3 7 0x80000000000 64) 0 4 = 0 ∧
    ((media 1 1 Mfe.empty).mfe 3 7).classes.find? (State.classTakes ([9] ++ List.replicate 31 0) []) = none ∧
    (State.classTakes ([9] ++ List.replicate 31 0) [] (textClass 0 1) = true ∧ State.givePosition (textClass 0 1) false [] = some ([⟨63, 0, .filling, [], 1, false, 0⟩], 0, 0) ∧
      State.givePosition (textClass 0 1) false [⟨63, 0, .ready, [], 1, false, 0⟩] = none) := by decide +kernel

theorem witness_SamplesAreTakenAndLand_part2 :
    (media 1 1 Mfe.empty).flowOf 3 7 9 = none ∧ (landing 1 1 (sample true [])).flowOf 3 7 9 = some (sample true [], textClass 1 1) ∧
    ((landing 1 1 (sample true [])).mfeWorks 3 7 = true ∧ (landing 1 1 (sample true [])).inShaper 3 7 (sample true []) = true ∧
      State.landsAt (sample true []) (textClass 1 1) 0 0 = true ∧ (0, 0) ∉ (sample true []).landed) ∧
    (landing 1 1 (sample true [])).ownsRoute (meCore ((textClass 1 1).entry 0 0 0)) (meRoute ((textClass 1 1).entry 0 0 0)) = true ∧
    (landing 4 1 (sample true [])).ownsRoute (meCore ((textClass 4 1).entry 0 0 0)) (meRoute ((textClass 4 1).entry 0 0 0)) = false ∧
    ((landing 1 1 (sample true [])).setF (Reg.MFE_SHARE_SLICE 3) 6).mfeWorks 3 7 = false ∧ State.landsAt (sample true []) (textClass 1 1) 0 1 = false ∧
    (0, 0) ∈ (sample true [(0, 0)]).landed ∧ (sample false []).whole = false := by decide +kernel

theorem witness_SamplesAreTakenAndLand_part3 :
    (landing 1 1 (sample true [])).inEngine 3 7 (sample true []) = true ∧ State.flowStatus (sample true []) (textClass 1 1) = 0 ∧
    State.allLanded (sample true []) (textClass 1 1) = false ∧
    (State.allLanded (sample true [(0, 0)]) (textClass 1 1) = true ∧ (landing 1 1 (sample true [(0, 0)])).setOf' 3 7 (sample true [(0, 0)]) = some ⟨63, 0, .filling, [], 1, false, 0⟩ ∧
      (0 : Nat) + 1 ≠ (textClass 1 2).positions ∧ (0 : Nat) + 1 = (textClass 1 1).positions) ∧
    (State.flowStatus (sample false []) (textClass 1 1) = 0x7006 ∧ (landing 1 2 (sample false [])).flag (Reg.MFE_ERR_LAST_VALID 3 7) = false) ∧
    (landing 1 1 (sample true [])).ownsRoute (meCore ((textClass 1 1).recs.getD 0 0)) (meRoute ((textClass 1 1).recs.getD 0 0)) = true ∧
    (landing 4 1 (sample true [])).ownsRoute (meCore ((textClass 4 1).recs.getD 0 0)) (meRoute ((textClass 4 1).recs.getD 0 0)) = false ∧
    meTile ((textClass 1 1).recs.getD 0 0) < 192 := by decide +kernel

theorem test_media : goesTo (exec (.ringPoll 3 7) (media 1 1 Mfe.empty)) (fun t => t.getF (Reg.MFE_ERR_LAST_CODE 3 7) == 0x7007 && t.nextIdx 3 7 == 1) = true ∧
    goesTo (exec (.ringPoll 3 7) (media 1 1 ⟨[textClass 1 1], [], [], none⟩)) (fun t => ((t.mfe 3 7).flows.map fun f => f.cls) == [63] && t.nextIdx 3 7 == 1) = true ∧
    goesTo (exec (.mfeSliceEnd 3) { media 1 1 Mfe.empty with mfSlice := [(3, 15)] }) (fun t => SMap.get (fun _ => 0) t.mfSlice 3 == 15) = true ∧
    goesTo (exec (.positionFilled 3 7 9) (landing 1 2 (sample false []))) (fun t => t.getF (Reg.MFE_ERR_LAST_CODE 3 7) == 0x7006 && (t.mfe 3 7).flows == []) = true := by decide +kernel

/-- Front-end 3 with a tokenizer table of one merge, of an ID with itself, in the host window at an address; VOCAB 257. -/
def vocab (merges id : Nat) (a : Nat) : State :=
  ((media 0 1 Mfe.empty).setF (Reg.MFE_TOK_BASE_ADDR 3) a).putBytes 0x80000000800
    (bytesLE 4 0x4B4F5442 ++ bytesLE 4 1 ++ bytesLE 4 257 ++ bytesLE 4 merges ++ List.replicate 48 0 ++ bytesLE 8 (id * (1 + 2 ^ 18)))

theorem witness_MediaFrontEndsLoadRunMarkAndRewind :
    (polderRuns 7 (media 0 1 Mfe.empty)).mfeBusy 3 = true ∧ (media 0 1 Mfe.empty).mfeBusy 3 = false ∧
    ((vocab 1 255 0x60000000).getF (Reg.MFE_TOK_BASE_ADDR 3) = 0x60000000 ∧ ((vocab 1 255 0).tokBytes 3 0x60000000 64).length < 64) ∧
    (64 ≤ ((vocab 2 255 0).tokBytes 3 0x80000000800 64).length ∧ tokHeaderOk ((vocab 2 255 0).tokBytes 3 0x80000000800 64) = false) ∧
    (tokHeaderOk ((vocab 1 256 0).tokBytes 3 0x80000000800 64) = true ∧ 64 + 8 ≤ ((vocab 1 256 0).tokBytes 3 0x80000000800 72).length ∧
      tokMergesOk ((vocab 1 256 0).tokBytes 3 0x80000000800 72) = false) ∧
    tokMergesOk ((vocab 1 255 0).tokBytes 3 0x80000000800 72) = true := by decide +kernel

/-- A table whose merges lie past the channel's last tile. -/
theorem witness_MediaFrontEndsLoadRunMarkAndRewind_part2 :
    let s := (((media 0 1 Mfe.empty).setF (Reg.MEM_CHAN_OWNER_OWNER 12 0) 7).setF (Reg.MFE_FETCH_CHANS_CHANS 3 7 0) 1).putBytes 0xC05FFFFFC0
      (bytesLE 4 0x4B4F5442 ++ bytesLE 4 1 ++ bytesLE 4 257 ++ bytesLE 4 1)
    tokHeaderOk (s.tokBytes 3 0xC05FFFFFC0 64) = true ∧ (s.tokBytes 3 0xC05FFFFFC0 72).length < 72 := by decide +kernel

/-- A class table at an address; a class that is VALID names a map that cannot be read. -/
def classes (a flags : Nat) : State := ((media 0 1 Mfe.empty).setF (Reg.MFE_CLASS_BASE_ADDR 3 7) a).putBytes 0x80000001FC0 [BitVec.ofNat 8 flags]

theorem witness_MediaFrontEndsLoadRunMarkAndRewind_part3 :
    (media 1 1 Mfe.empty).flag (Reg.MFE_PCTL_RUN 3 7) = true ∧ (media 0 1 Mfe.empty).flag (Reg.MFE_PCTL_RUN 3 7) = false ∧
    (match (classes 0x80000001000 1).readTables 3 7 with | .error k => k == 63 | .ok _ => false) = true ∧
    (match (classes 0x80000001000 0).readTables 3 7 with | .error _ => false | .ok l => l == []) = true ∧
    (media 1 1 Mfe.empty).mfeReach 3 7 ((media 1 1 Mfe.empty).getF (Reg.MFE_RING_BASE_ADDR 3 7) + 4) = true ∧
    ((media 1 1 Mfe.empty).setF (Reg.MFE_RING_BASE_ADDR 3 7) 0).mfeReach 3 7 4 = false := by decide +kernel

theorem test_mark_and_rewind : goesTo (exec (.mark 3 7) (media 1 1 ⟨[], [], [], none⟩)) (fun t => t.memNat 0x80000000004 4 == 0) = true ∧
    goesTo (exec (.rewind 3 7) (landing 1 1 (sample true []))) (fun t => (t.mfe 3 7).flows == [] && (t.mfe 3 7).sets == []) = true ∧
    goesTo (exec (.mfeRun 3 7) (classes 0x80000001000 1)) (fun t => t.getF (Reg.MFE_PCTL_ERR_DETAIL 3 7) == 63 && !t.flag (Reg.MFE_PCTL_RUN 3 7)) = true ∧
    goesTo (exec (.tokLoad 3) (vocab 1 255 0x80000000800)) (fun t => SMap.get (fun _ => []) t.toks 3 == [(255, 255)] && t.getF (Reg.MFE_TOK_CTL_VOCAB 3) == 257) = true := by
  decide +kernel

/-! ### Kilns -/

/-- A REDUCE operation of polder 7 in collective engine 1: two members, this one 0, two bucket tiles from core 8,191's tile 0 for kiln 7. -/
def colop (kind : Nat) : ColOp :=
  { kind := kind, algo := 0, owner := false, digest := false, group := 0, vc := 15, m := 2, self := 0, run := 1, postMul := 0x3F80, postExp := 0, tiles := 2, inTiles := 2
    src := 0x100000, dest := 0x100000, members := [(0, 0xFF), (55, 128)], pulls := [⟨8191, 0, 2, 0, 0, 7, 0, 7⟩], runs := [⟨0x100000, 0x200000, 55, 2⟩], active := true, step := 5
    code := 0, started := [0], pos := [], glazed := [], contrib := [], results := [(0, some ⟨⟨List.replicate 2048 0, 0, wipedGlaze⟩, false, 0⟩)], again := [], done := []
    owing := [(5, 1)], digests := [5], recs := [], repairs := [], fixing := 0, sent := 1, acked := 0, came := 0 }

/-- The package with that operation, tokens at stack 15, a lane packet of a type at the head of VC 15 of port 15, and service over route 0. -/
def col (o : Option ColOp) (ty : Nat) (dst aux : Nat) : State :=
  let s := ((engine []).setOp 1 7 1023 o).setF (Reg.COL_SERVICE_SET 1 7) 1
  let s := ((s.setF (Reg.COL_SHARE_CONTRIB 1 7) 4).setF (Reg.COL_SHARE_RESULT 1 7) 4)
  withHead 15 15 7 ⟨ty, false, false, 0, 0, dst, 7, aux, List.replicate 2064 0⟩ (tokens 15 s)

/-- The descriptor of layer 7 of kiln 15: VALID, two tiles, at a step. -/
def layerDesc (step : Nat) : List Byte := [0, 1] ++ List.replicate 6 0 ++ bytesLE 4 2 ++ bytesLE 4 step ++ List.replicate 48 0

/-- That operation, and the slot of core 8,191 lending kiln 15 its stack's channel `31`; the layer under way with the tiles seen. -/
def kilning (chan step : Nat) (seen : List Nat) (l : ColOp := colop 1) : State :=
  let s := (col (some l) 0x26 0 0).setF (Reg.KLN_LDESC_BASE_ADDR 15) 0xFF80000000
  let n := NormAcc.start 0
  { s.putBytes (0xFF80000000 + 64 * 7) (layerDesc step) with
    routes := [(196612, 2 * 256), (196615, 15), (196623, 480 + chan)], ktables := [(0, [1])]
    kilns := [(15, { Kiln.empty with layers := [(7, some ⟨layerDesc step, 0, false, seen, [], 0, n, n, n, false, [], []⟩)] })] }

/-- The kiln's stack once it has let the tile pass. -/
def passed (s : State) : State := s.weirSpend 15 7 1 8

theorem witness_KilnsTakeTilesFetchesAndTables :
    DeliveryDue (kilning 31 5 []) 1 7 1023 0 (colop 1) ⟨⟨List.replicate 2048 0, 0, wipedGlaze⟩, false, 0⟩ ⟨8191, 0, 2, 0, 0, 7, 0, 7⟩ 0 ∧
    (8 ≤ (kilning 31 5 []).weirLevel 15 7 1 ∧ { kilning 31 5 [] with weirs := [((15 * 9 + 7) * 3 + 1, 93)] }.weirLevel 15 7 1 < 8) ∧
    (0 ∉ (colop 1).again ∧ 0 ∈ ({ colop 1 with again := [0] } : ColOp).again) ∧
    (passed (kilning 30 5 [])).lent 15 7 ((passed (kilning 30 5 [])).getF (Reg.KLN_LDESC_BASE_ADDR 15) + 64 * 7) = false ∧
    (passed (kilning 31 5 [])).lent 15 7 ((passed (kilning 31 5 [])).getF (Reg.KLN_LDESC_BASE_ADDR 15) + 64 * 7) = true ∧
    ((passed (kilning 31 5 [])).klayer 15 7).any (fun l => kdValid l.desc && decide (0 + 0 < kdTiles l.desc) && !ktUnused ((passed (kilning 31 5 [])).ktable l.table)) = true ∧
    (5 < kdStep ((passed (kilning 31 6 [])).ldesc 15 7) ∧ kdStep ((passed (kilning 31 3 [])).ldesc 15 7) < 5 ∧ 5 ≠ kdStep ((passed (kilning 31 3 [])).ldesc 15 7) + 1 ∧
      5 = kdStep ((passed (kilning 31 5 [0])).ldesc 15 7) ∧ ((passed (kilning 31 5 [0])).klayer 15 7).any (fun l => l.seen.contains (0 + 0)) = true) ∧
    (col none 0x26 0 0).colOp 1 7 1023 = none := by
  refine ⟨?_, ?_⟩
  · unfold DeliveryDue; decide +kernel
  · decide +kernel

theorem witness_KilnsTakeTilesFetchesAndTables_part2 :
    Tile.ok ⟨List.replicate 2048 0, 0, wipedGlaze⟩ = true ∧ Tile.ok ⟨List.replicate 2048 0, 0, 5⟩ = false ∧ tagKind 0 = 0 ∧ tagFmt 0 ≤ 2 :=
  ⟨ok_of_zeros rfl rfl rfl, by unfold Tile.ok; rw [test_wiped_glaze]; decide, by decide, by decide⟩

/-- A saggar region over the whole of channel 0 of stack 0. -/
def guarded (s : State) : State :=
  (((s.setF (Reg.SEC_SAGGAR_VALID 0) 1).setF (Reg.SEC_SAGGAR_STACKS 0) 1).setF (Reg.SEC_SAGGAR_CHANS 0) 1).setF (Reg.SEC_SAGGAR_TILES 0) 0xC0000

theorem test_no_saggar : (col none 0x26 0 0).inSaggar 0x100000 = false := by decide +kernel

theorem witness_KilnsTakeTilesFetchesAndTables_part3 :
    (((col none 0x26 0x100000 (64 * 2 ^ 16)).headOf 15 15 0x26).any fun q => q.dst == 0x100000 && bitsOf q.aux 22 16 == 64) = true ∧ (col none 0x26 0 0).vcPolder 15 15 = 7 ∧
    (col none 0x26 0 0).serveStatus 7 0x100000 64 = 0 ∧ (col none 0x26 0 0).serveStatus 7 0x5FFFF800 2 = 0x3001 ∧
    (col none 0x26 0 0).serviceOk 1 7 0x80100000 = false ∧ (∀ j < 64, (col none 0x26 0 0).serviceOk 1 7 (0x100000 + 2048 * j) = true) ∧
    ((col none 0x26 0 0).weirPass 7 readTile 0x100000 = true ∧ (col none 0x28 0 0).weirPass 7 writeTile 0x100000 = true) ∧
    ({ col none 0x26 0 0 with weirs := [(21, 93)] }.weirPass 7 readTile 0x100000 = false ∧ { col none 0x28 0 0 with weirs := [(21, 93)] }.weirPass 7 writeTile 0x100000 = false) ∧
    ((guarded (col none 0x26 0 0)).inSaggar 0x100000 = true ∧ (col none 0x26 0 0).vcKey 15 15 = []) ∧
    ((col none 0x28 0x100000 0).headOf 15 15 0x28).isSome = true ∧
    (∀ ty ∈ [0x26, 0x27, 0x28, 0x29], (col none 0x25 0 0).headOf 15 15 ty = none) ∧ (col none 0x26 0 0).inSaggar 0x100000 = false := by
  refine ⟨?_, ?_, ?_, ?_, ?_, ?_, ?_, ?_, ?_, ?_, ?_, test_no_saggar⟩ <;> decide +kernel

/-- A fetch, or a write-back of a tile, of kiln 15 for a parked entry, in the host window or on VC 15 of port 15. -/
def fetching (data : Option Tile) (lane : Option (Nat × Nat)) (failed : Bool) (wbs : Nat) (ty status : Nat) : State :=
  { col none ty 3 status with
    fetches := [⟨3, 15, 7, 4, 0, data, if lane.isSome then 55 else 0, 0x80000000800, 0, failed, lane⟩]
    kilns := if wbs = 0 then [] else [(15, { Kiln.empty with parked := [⟨4, 7, 1023, 7, 0, ⟨[], 0, 0⟩, 1, false, .fetch, [], wbs, none, []⟩] })] }

def aTile : Tile := ⟨[], 2, 3⟩

theorem witness_KilnsTakeTilesFetchesAndTables_part4 :
    ((fetching none none true 0 0x26 0).fetches.find? fun f => f.id == 3 && f.lane.isNone && f.data.isNone) = (fetching none none true 0 0x26 0).fetches.head? ∧
    ((((fetching none (some (15, 15)) true 0 0x27 0).headOf 15 15 0x27).any fun q => q.dst % 65536 == 3 && q.aux % 65536 == 0) = true ∧
      ((fetching none (some (15, 15)) true 0 0x27 0).laneTake 15 15).fetchOf 3 15 15 false = (fetching none (some (15, 15)) true 0 0x27 0).fetches.head?) ∧
    (((fetching none none true 0 0x26 0).kiln 15).parked.find? (fun x => x.id == 4) = none ∧
      ((((fetching none none true 2 0x26 0).kiln 15).parked.find? (fun x => x.id == 4)).map fun x => x.wbs) = some 2) ∧
    (((fetching none (some (15, 15)) false 1 0x27 0x3001).headOf 15 15 0x27).any fun q => q.aux % 65536 != 0) = true ∧
    ((fetching none none true 0 0x26 0).fetches.find? fun f => f.id == 3 && f.left == 0) = (fetching none none true 0 0x26 0).fetches.head? ∧
    ((fetching none none true 0 0x26 0).fetches.find? fun f => f.id == 4 && f.left == 0) = none ∧
    ((fetching none none true 0 0x26 0).fetches.find? fun f => f.id == 4 && f.lane.isNone && f.data.isNone) = none := by decide +kernel

theorem witness_KilnsTakeTilesFetchesAndTables_part5 :
    ((fetching (some aTile) none true 0 0x26 0).fetches.find? fun f => f.id == 3 && f.lane.isNone && f.data.isSome) = (fetching (some aTile) none true 0 0x26 0).fetches.head? ∧
    region 0x80000000800 = .host ∧
    ((fetching (some aTile) (some (15, 15)) true 0 0x29 0).laneTake 15 15).fetchOf 3 15 15 true = (fetching (some aTile) (some (15, 15)) true 0 0x29 0).fetches.head? ∧
    ((fetching none (some (15, 15)) true 0 0x29 0).laneTake 15 15).fetchOf 3 15 15 true = none ∧
    ((((fetching (some aTile) none true 2 0x26 0).kiln 15).parked.find? (fun x => x.id == 4)).any fun x => decide (1 < x.wbs)) = true ∧
    ((((fetching (some aTile) none true 1 0x26 0).kiln 15).parked.find? (fun x => x.id == 4)).any fun x => decide (x.wbs ≤ 1)) = true ∧
    (((fetching (some aTile) (some (15, 15)) true 0 0x29 0x3001).headOf 15 15 0x29).any fun q => q.aux % 65536 != 0) = true := by decide +kernel

theorem padTo_nil (n : Nat) : padTo n [] = List.replicate n 0 := by simp [padTo]

theorem witness_KilnsTakeTilesFetchesAndTables_part5_written :
    (fetching (some aTile) none true 0 0x26 0).bytes 0x80000000800 2048 = padTo 2048 aTile.data :=
  (bytes_of_empty _ _ _ (by decide +kernel)).trans (padTo_nil 2048).symm

/-- A root computation of block 0 of layer 7 of kiln 15, whose work area begins the channel lent. -/
def rooting : State :=
  let s := (({ kilning 31 5 [] with ops := [] } : State).setF (Reg.KLN_WORK_BASE_ADDR 15) 0xFF80000000).setF (Reg.PIP_GROUP_CFG_POLDER 0) 7
  s.modKiln 15 fun k => { k with roots := [⟨7, 0, none, none, .pending⟩] }

theorem test_lent_channel (k : Nat) (h : k < 6144) : rooting.lent 15 7 (0xFF80000000 + 2048 * k) = true := by
  have r : region (0xFF80000000 + 2048 * k) = .dram 15 31 := by
    unfold region
    rw [if_pos (by omega), if_pos (by omega), show (0xFF80000000 + 2048 * k) / 0x1000000000 = 15 by omega, show (0xFF80000000 + 2048 * k) / 0x80000000 % 32 = 31 by omega]
  unfold State.lent
  rw [r]; decide +kernel

theorem witness_KilnsTakeTilesFetchesAndTables_part6 :
    ((rooting.kiln 15).roots.find? (fun r => r.layer == 7 && r.block == 0 && r.res == .pending) = some ⟨7, 0, none, none, .pending⟩ ∧
      rooting.groupPolder (kdGroup (rooting.ldesc 15 7)) = 7 ∧ rooting.lenders 15 7 ≠ [] ∧ rooting.opsOf 7 = []) ∧
    rooting.lentAll 15 7 (rooting.workTiles 15) = true ∧ ((rooting.setF (Reg.KLN_WORK_BASE_ADDR 15) 0).lent 15 7 0 = false) ∧
    ({ rooting with routes := [] } : State).lenders 15 7 = [] ∧ ((col none 0 0 0).kiln 15).roots.find? (fun r => r.layer == 7 && r.block == 0 && r.res == .pending) = none := by
  refine ⟨by decide +kernel, ?_, by decide +kernel, by decide +kernel, by decide +kernel⟩
  rw [State.lentAll, List.all_eq_true]
  intro a h
  obtain ⟨k, hk, rfl⟩ := List.mem_map.1 h
  rw [show rooting.getF (Reg.KLN_WORK_BASE_ADDR 15) = 0xFF80000000 by decide +kernel]
  exact test_lent_channel k (List.mem_range.1 hk)

/-- Coefficient tables in the host window, the last with a byte. -/
def tabled (a b : Nat) : State := ((engine []).setF Reg.KLN_TBL_BASE_ADDR a).putBytes (0x80000000000 + 64 * 63) [BitVec.ofNat 8 b]

theorem witness_KilnsTakeTilesFetchesAndTables_part7 :
    (polderRuns 7 (engine [])).anyRuns = true ∧ (tabled 0 0).anyRuns = false ∧
    (region ((tabled 0x60000000 0).getF Reg.KLN_TBL_BASE_ADDR) = .unmapped ∧ region ((tabled 0x20003FFFFFF 0).getF Reg.KLN_TBL_BASE_ADDR) = .control) ∧
    region ((tabled 0x80000000000 0).getF Reg.KLN_TBL_BASE_ADDR) = .host ∧
    (ktBad ((tabled 0x80000000000 7).getF Reg.KLN_TBL_VERSION_ALLOWED) (tabled 0x80000000000 7).tablesAt ((tabled 0x80000000000 7).tablesAt.getD 63 []) = true ∧
      ∀ j < 63, ktBad ((tabled 0x80000000000 7).getF Reg.KLN_TBL_VERSION_ALLOWED) (tabled 0x80000000000 7).tablesAt ((tabled 0x80000000000 7).tablesAt.getD j []) = false) ∧
    (∀ j < 64, ktBad ((tabled 0x80000000000 0).getF Reg.KLN_TBL_VERSION_ALLOWED) (tabled 0x80000000000 0).tablesAt ((tabled 0x80000000000 0).tablesAt.getD j []) = false) := by
  decide +kernel

theorem test_kilns : goesTo (exec (.fetchTimeout 3) (fetching none none true 0 0x26 0)) (fun t => t.fetches == [] && t.getF (Reg.KLN_CNT_FETCH_FAIL_COUNT 15) == 1) = true ∧
    goesTo (exec .tblLoad (polderRuns 7 (engine []))) (fun t => t.getF Reg.KLN_TBL_CTL_ERR == 2) = true := by decide +kernel

/-! ### Stacks and the registry -/

/-- Domain 255 throttled for heat with so many calm ticks; a bucket short of tokens, channels under test and being wiped. -/
def hot (on calm : Nat) : State :=
  let s := ((upAt 5).setF (Reg.PWR_DOM_ON 255) on).setF (Reg.PWR_DOM_POINT 255) 7
  { s with weirs := [(431, 5)], testing := [480, 3], wiping := [511], power := { s.power with doms := [(255, ⟨1, 0, 0, calm⟩)] } }

/-- An entry for a soft repair of stack 15. -/
def repairing (e : Nat) : State := (hot 1 9).setF (Reg.MEM_REPAIR_ENTRY_ENTRY 15) e
def margin (on : Nat) : State := (hot 1 9).setF (Reg.MEM_STACK_STATUS_MARGIN 15) on

theorem witness_StacksAreRefilledThrottledRepairedTestedAndWiped :
    ((hot 1 10).domOn 255 = true ∧ 10 ≤ ((hot 1 10).dom 255).calm ∧ 0 < ((hot 1 10).dom 255).therm) ∧ (hot 0 10).domOn 255 = false ∧ ((hot 1 9).dom 255).calm < 10 ∧
    ((hot 1 10).dom 0).therm = 0 ∧ ((431, 5) ∈ (hot 1 9).weirs ∧ (hot 1 9).getF (Reg.MEM_WEIR_RATE (431 / 27) (431 / 3 % 9) (431 % 3)) < 5) ∧
    ((repairing 0xFFFFFFFF).repairErr 15 = 3 ∧ (repairing 0x3FFE7F).repairErr 15 ≠ 3 ∧ { repairing 31 with soft := [(15, 31)] }.repairErr 15 = 1) ∧
    ((repairing 31).repairErr 15 = 0 ∧ (repairing 31).getF (Reg.MEM_REPAIR_ENTRY_ENTRY 15) = 31 ∧ State.repKind 31 = 0) ∧
    ((repairing 0x40001F).repairErr 15 = 0 ∧ (repairing 0x40001F).getF (Reg.MEM_REPAIR_ENTRY_ENTRY 15) = 0x40001F ∧ State.repKind 0x40001F = 1) ∧
    ((margin 1).flag (Reg.MEM_STACK_STATUS_MARGIN 15) = true ∧ (margin 0).flag (Reg.MEM_STACK_STATUS_MARGIN 15) = false ∧ (margin 0).marginBad 15 = false ∧
      ((margin 0).setF (Reg.MEM_MARGIN_CTL_TIMING 15) 49).marginBad 15 = true ∧ ((margin 0).setF (Reg.MEM_MARGIN_CTL_TIMING 15) 48).marginBad 15 = false) ∧
    (bitOf 128 7 = true ∧ ((polderRuns 7 (hot 1 9)).wheel 7).runs = true ∧ ((hot 1 9).wheel 7).runs = false ∧ (511 ∈ (hot 1 9).wiping)) := by decide +kernel

theorem test_throttle : goesTo (exec (.throttleRise 255) (hot 1 10)) (fun t => t.getF (Reg.PWR_DOM_POINT 255) == 6) = true ∧
    goesTo (exec (.marginDone 15 (2 ^ 32)) (margin 1)) (fun t => t.getF (Reg.MEM_MARGIN_RESULT_BIT_ERRORS 15) == 0xFFFFFFFF && t.wiping.contains 480) = true ∧
    goesTo (exec .weirRefill (hot 1 9)) (fun t => t.weirs == [(431, 5)]) = true ∧
    goesTo (exec (.wipe 128) (polderRuns 7 (ownStack 15 7 (hot 1 9)))) (fun t => t.getF Reg.MEM_WIPE_STATUS_REFUSED == 128 && t.wiping == [511]) = true := by decide +kernel

/-- Registry entry 255: its state, its flags, its scratchpad tiles a core, its users; no model tile, its home the start of the host window. -/
def registry (st flags sp users : Nat) : State :=
  (upAt 5).putBytes (64 * 255) ((List.replicate 8 0) ++ [BitVec.ofNat 8 st, BitVec.ofNat 8 flags, 0, BitVec.ofNat 8 sp] ++ List.replicate 16 0 ++ bytesLE 4 users ++
    bytesLE 8 0x80000000000)

theorem witness_RegistryEntriesArePinnedEvictedAndLoaded :
    (registry 0 0 0 0).getF Reg.MEM_REG_BASE_ADDR = 0 ∧ reState ((registry 0 0 0 0).entry 255) = 0 ∧ reState ((registry 3 0 0 0).entry 255) = 3 ∧
    reUsers ((registry 3 0 0 1).entry 255) ≠ 0 ∧ (reUsers ((registry 3 1 0 0).entry 255) = 0 ∧ rePinned ((registry 3 1 0 0).entry 255) = true) ∧
    (rePinned ((registry 3 0 0 0).entry 255) = false ∧ reLive ((registry 3 0 0 0).entry 255) = true ∧ (registry 3 0 0 0).flag Reg.MGT_TRACE_CTL_ENABLE = false ∧
      (registry 3 0 0 0).saggars 0 (fun k => (registry 3 0 0 0).getF (Reg.SEC_SAGGAR_ENTRY k) == 255) = []) ∧ reLive ((registry 1 0 0 0).entry 255) = false ∧
    (reState ((registry 1 0 0 0).entry 255) = 1 ∧ (registry 1 0 0 0).waitsKey ((registry 1 0 0 0).entry 255) = false ∧
      (registry 1 2 0 0).waitsKey ((registry 1 2 0 0).entry 255) = true) ∧
    (reState ((registry 2 0 0 0).entry 255) = 2 ∧ reSealed ((registry 2 0 0 0).entry 255) = false ∧ (∀ p < 8, ((registry 2 0 0 0).job p).active = false) ∧
      (registry 2 0 0 0).homeTiles ((registry 2 0 0 0).entry 255) .host = some [] ∧
      (State.writeModel ((registry 2 0 0 0).entry 255) [] (registry 2 0 0 0)).isSome = true) := by decide +kernel

theorem witness_RegistryEntriesArePinnedEvictedAndLoaded_part2 : ((registry 1 0 0 0).startLoad 255).isSome = true ∧ (registry 1 0 1 0).startLoad 255 = none := by decide +kernel

theorem test_registry : goesTo (exec (.pinEntry 255) (registry 3 0 0 0)) (fun t => rePinned (t.entry 255)) = true ∧
    goesTo (exec (.evictEntry 255) (registry 3 0 0 1)) (fun t => t.getF Reg.MEM_REG_STATUS_ERR == 1 && reState (t.entry 255) == 3) = true ∧
    goesTo (exec (.unpinEntry 255) (registry 0 0 0 0)) (fun t => t.getF Reg.MEM_REG_STATUS_ERR == 5) = true := by decide +kernel

/-! ### Collectives -/

/-- Core 8,191's route into the collective engine crosses culvert 7, in a state. -/
def crossing (st : Nat) : State :=
  { (col (some (colop 1)) 0x20 0 0).setF (Reg.LNK_CULV_STATUS_STATE 7) st with routes := [(196608, 63 + 3 * 64 + 65536), (196609, 2)] }

theorem witness_CollectivesPullCombineGatherAndPermute :
    (col none 0x26 0 0).colOp 1 7 1023 = none ∧ (∀ ty ∈ [0x20, 0x21, 0x22, 0x23, 0x24, 0x25], (col none 0x26 0 0).headOf 15 15 ty = none) ∧
    (col (some (colop 1)) 0x20 0 0).colOp 1 7 1023 = some (colop 1) ∧ ((colop 1).pulls[0]? = some ⟨8191, 0, 2, 0, 0, 7, 0, 7⟩ ∧ (colop 1).pulls[1]? = none) ∧
    (0 ∈ (colop 1).started ∧ (2 : Nat) ≤ SMap.get (fun _ => 0) ({ colop 1 with pos := [(0, 2)] } : ColOp).pos 0 ∧ SMap.get (fun _ => 0) (colop 1).pos 0 < 2) ∧
    ((col (some (colop 1)) 0x20 0 0).ownsRoute 8191 0 = true ∧ (col (some (colop 1)) 0x20 0 0).tilePending 8191 0 = false) ∧
    ((crossing 4).routeQuarantined ((crossing 4).route (State.dieOf 8191) 0) = true ∧ (crossing 2).routeQuarantined ((crossing 2).route (State.dieOf 8191) 0) = false) ∧
    ((col (some (colop 1)) 0x20 0 0).contribUsed 1 7 < (col (some (colop 1)) 0x20 0 0).getF (Reg.COL_SHARE_CONTRIB 1 7) ∧
      ((col (some (colop 1)) 0x20 0 0).setF (Reg.COL_SHARE_CONTRIB 1 7) 0).getF (Reg.COL_SHARE_CONTRIB 1 7) ≤ ((col (some (colop 1)) 0x20 0 0).setF (Reg.COL_SHARE_CONTRIB 1 7) 0).contribUsed 1 7) ∧
    (1 < (colop 1).m ∧ (col (some (colop 1)) 0x20 0 0).resultRoom 1 7 = true ∧ ((col (some (colop 1)) 0x20 0 0).setF (Reg.COL_SHARE_RESULT 1 7) 0).resultRoom 1 7 = false) ∧
    ((colop 1).partials 0 ≠ 0 ∧ ((colop 1).partials 1 = 0 ∧ (colop 1).ownerOf 1 ≠ (colop 1).self) ∧
      ({ colop 1 with m := 1 } : ColOp).partials 1 = 0 ∧ ({ colop 1 with m := 1 } : ColOp).ownerOf 1 = (colop 1).self) := by decide +kernel

/-- The tile pulled is whole, or its glaze fails. -/
theorem witness_CollectivesPullCombineGatherAndPermute_part2 :
    ((col (some (colop 1)) 0x20 0 0).spTile 8191 0).ok = true ∧ (({ col (some (colop 1)) 0x20 0 0 with tags := [(tileAddr 8191 0 / 2048, (0, 5))] } : State).spTile 8191 0).ok = false ∧
    0 ∉ (colop 1).glazed ∧ 0 ∈ ({ colop 1 with glazed := [0] } : ColOp).glazed :=
  ⟨unlisted_whole _ _ _ rfl rfl, tile_broken _ _ rfl (by decide +kernel), by decide, by decide⟩

/-- What the check of a packet of tile 0 of the operation answers. -/
def checked (o : ColOp) (kind step : Nat) : State.StepCheck := (col (some o) 0x20 1023 step).stepCheck 1 7 1023 kind 15 step
def isDrop (b : Bool) : State.StepCheck → Bool
  | .drop c => b == c
  | _ => false
def isWait : State.StepCheck → Bool
  | .wait => true
  | _ => false
def isTake (o : ColOp) : State.StepCheck → Bool
  | .take p => o == p
  | _ => false

/-- A contribution that waits for partials, of which some have come. -/
def waitingFor (algo self got : Nat) : ColOp := { colop 1 with algo := algo, m := 3, self := self, contrib := [(0, some ⟨⟨[], 2, 3⟩, false, got⟩)] }

theorem witness_CollectivesPullCombineGatherAndPermute_part3 :
    (∀ ty ∈ [0x20, 0x21, 0x22, 0x23, 0x24, 0x25], ((col (some (colop 1)) ty 1023 5).headOf 15 15 ty).isSome = true) ∧ (1023 % 2048 = 1023 ∧ 1023 / 2048 % 16384 = 0) ∧
    (isDrop false (checked (colop 2) 1 5) = true ∧ isDrop true (checked (colop 1) 1 4) = true ∧ isWait (checked (colop 1) 1 6) = true ∧
      isTake (colop 1) (checked (colop 1) 1 5) = true ∧ isTake (colop 2) (checked (colop 2) 2 5) = true) ∧
    (SMap.get (fun _ => none) (colop 1).contrib 0 = none ∧ SMap.get (fun _ => none) (waitingFor 2 0 0).contrib 0 = some ⟨⟨[], 2, 3⟩, false, 0⟩) ∧
    ((waitingFor 2 0 0).ownerOf 0 = (waitingFor 2 0 0).self ∧ 0 + 1 < (waitingFor 2 0 0).partials 0 ∧ (waitingFor 2 0 1).partials 0 ≤ 1 + 1) ∧
    ((waitingFor 0 2 0).ownerOf 0 ≠ (waitingFor 0 2 0).self ∧ (waitingFor 0 2 0).partials 0 ≤ 0 + 1) ∧
    (({ colop 1 with owner := true } : ColOp).owner = true ∧ (colop 1).owner = false) := by decide +kernel

/-- A packet's tile of zeros with the glaze of a wiped tile is whole; one without it is not. -/
theorem witness_CollectivesPullCombineGatherAndPermute_part4 :
    (State.payloadTile (List.replicate 8 0 ++ bytesLE 8 wipedGlaze.toNat)).ok = true ∧ (State.payloadTile (List.replicate 16 0)).ok = false := by
  have d (l : List Byte) (h : l.drop 16 = []) : (State.payloadTile l).data = List.replicate 2048 0 := by
    rw [State.payloadTile, h]; exact padTo_nil 2048
  refine ⟨ok_of_zeros (d _ (by decide)) (by decide) (by decide), ?_⟩
  have e := d (List.replicate 16 0) (by decide)
  unfold Tile.ok
  rw [e, show (State.payloadTile (List.replicate 16 0)).tag = 0 by decide, test_wiped_glaze]; decide

theorem witness_CollectivesPullCombineGatherAndPermute_part5 :
    ((col none 0 0 0).colAccess 7 0x100000 = 0 ∧ (col none 0 0 0).colAccess 7 0x1000000000 = 0x3002 ∧ (col none 0 0 0).colAccess 7 0x60000000 = 0x3001) ∧
    ((col none 0 0 0).serviceNow 1 7 readTile 0x100000 = true ∧ (col none 0 0 0).serviceNow 1 7 writeTile 0x100800 = true ∧
      { col none 0 0 0 with weirs := [(21, 93)] }.serviceNow 1 7 readTile 0x100000 = false ∧ { col none 0 0 0 with weirs := [(21, 93)] }.serviceNow 1 7 writeTile 0x100800 = false) ∧
    ((guarded (col none 0 0 0)).inSaggar 0x100000 = true ∧ (colop 2).dest + 2048 * 0 = 0x100000) ∧
    (State.wantsDigest (colop 1) 4 = false ∧ State.wantsDigest (colop 1) 5 = true ∧ (colop 1).vc = 15 ∧ ({ colop 1 with vc := 14 } : ColOp).vc ≠ 15) ∧
    (({ colop 1 with digests := [] } : ColOp).digests = [] ∧ (colop 1).digests = 5 :: [] ∧ SMap.get (fun _ => 0) (colop 1).owing 5 ≠ 0 ∧
      SMap.get (fun _ => 0) ({ colop 1 with owing := [] } : ColOp).owing 5 = 0) ∧
    ((colop 1).ahead 1 ≠ 0 ∧ (colop 1).ahead 1 = 1) ∧ (col none 0x26 0 0).inSaggar 0x100000 = false := by
  refine ⟨?_, ?_, ?_, ?_, ?_, ?_, test_no_saggar⟩ <;> decide +kernel

theorem witness_CollectivesPullCombineGatherAndPermute_part6 :
    ((colop 2).kind = 2 ∧ (colop 2).code = 0 ∧ 0 < (colop 2).tiles ∧ (colop 2).ownerOf 0 = (colop 2).self ∧ 0 ∉ (colop 2).done) ∧ (colop 2).tiles ≤ 2 ∧
    ((colop 3).repairs = [] ∧ (colop 3).kind = 3 ∧ (colop 3).active = true ∧ State.permTile (colop 3).runs (colop 3).sent = some (⟨0x100000, 0x200000, 55, 2⟩, 1) ∧
      State.permTile (colop 3).runs 2 = none ∧ State.permPort (colop 3) 1 55 = some 15 ∧ State.permPort (colop 3) 1 54 = none) ∧
    ({ colop 1 with repairs := [(0x100000, 1)] } : ColOp).repairs = (0x100000, 1) :: [] ∧
    (bitsOf (1023 + 0xFF * 2 ^ 11) 18 11 = 0xFF ∧ (1023 + 0xFF * 2 ^ 11) % 2048 = 1023 ∧ bitsOf 1023 18 11 = (colop 1).self ∧ bitsOf (1023 + 2 ^ 11) 18 11 ≠ (colop 1).self) := by
  decide +kernel

theorem test_collectives : goesTo (exec (.permAck 15 15) (col (some (colop 3)) 0x25 1023 1)) (fun t => (t.colOp 1 7 1023).any fun o => o.acked == 1) = true ∧
    goesTo (exec (.digestRec (.own 1 7 1023 0)) (col (some { colop 1 with owing := [] }) 0 0 0)) (fun t => (t.colOp 1 7 1023).any fun o => o.digests == [] && o.recs.length == 1) = true ∧
    goesTo (exec (.redPart 15 15) (col (some (colop 1)) 0x20 1023 4)) (fun t => t.getF (Reg.COL_CNT_STALE_COUNT 1) == 1) = true := by decide +kernel

/-! ### Jobs and keys -/

/-- A job image without sections, or with one that has no form. -/
def image (sections : Nat) : List Byte :=
  bytesLE 4 0x424F4A51 ++ [1, 0] ++ bytesLE 2 sections ++ bytesLE 4 (64 + 32 * sections) ++ List.replicate (52 + 32 * sections) 0

/-- A descriptor of a kind for polder 7, its bytes at the start of the host window. -/
def descr (k len : Nat) : List Byte := [BitVec.ofNat 8 k, 3, 7, 0] ++ List.replicate 12 0 ++ bytesLE 8 0x80000000000 ++ bytesLE 4 len ++ List.replicate 100 0

/-- That descriptor in progress over some bytes, and the polder's job. -/
def working (k : Nat) (l : List Byte) (j : Job) (s : State := upAt 5) : State :=
  ({ s with taken := [(7, some ⟨descr k l.length, 4⟩)] }.putBytes 0x80000000000 l).setJob 7 j

/-- A job under way, its sections being written or at a stage of a re-shard. -/
def aJob (writing : Bool) (reshard : Nat) : Job := { Job.none with active := true, writing := writing, reshard := reshard, last := 4, next := image 0 }

/-- What the checks of an installation of an image answer. -/
def installing (s : State) (l : List Byte) : Option (Nat × Nat) :=
  let s := working 1 l Job.none s
  let d := descr 1 l.length
  s.installErr d (s.jobBytes d) (s.after 7 (s.jobBytes d)) ((s.raiseUsers (jdModels d)).nameEntries 7 (State.namedBy (jdModels d)))

/-- An image of one REGS section that writes a ROLE. -/
def roleImage (role : Nat) : List Byte :=
  bytesLE 4 0x424F4A51 ++ [1, 0] ++ bytesLE 2 1 ++ bytesLE 4 112 ++ List.replicate 52 0 ++ [2, 0, 0, 0] ++ bytesLE 4 16 ++ bytesLE 8 96 ++ List.replicate 16 0 ++
    bytesLE 8 (0x610000 + 0x40 * 511) ++ bytesLE 8 role

theorem witness_JobsAreInstalledRetiredAndResharded :
    ((upAt 5).takenKind 7 1 = none ∧ (working 1 (image 0) Job.none).takenKind 7 1 = some ⟨descr 1 64, 4⟩ ∧ (working 1 (image 0) Job.none).flag Reg.MGT_STATUS_MAIN_UP = true ∧
      ((working 1 (image 0) Job.none).setF Reg.MGT_STATUS_MAIN_UP 0).flag Reg.MGT_STATUS_MAIN_UP = false) ∧
    (((working 1 (image 0) Job.none).job 7).writing = false ∧ jdPolder (descr 1 64) = 7 ∧ ((working 1 (image 0) (aJob false 0)).job 7).active = true ∧
      installing (upAt 5) (image 0) = some (0xA009, 3 * 2 ^ 28) ∧ installing (upAt 5) (image 1) = some (0xA001, 0) ∧ installing (planned 0 stopped) (image 0) = none) ∧
    (((working 1 (image 0) Job.none).job 7).active && ((working 1 (image 0) Job.none).job 7).writing) = false ∧
    (((working 1 (roleImage 2) (aJob true 0)).job 7).active = true ∧ ((working 1 (roleImage 2) (aJob true 0)).job 7).writing = true) ∧
    ((match (upAt 5).writeSecs 7 (roleImage 2) (jiSecs (roleImage 2)) with | .next _ => true | _ => false) = true ∧
      (match (upAt 5).writeSecs 7 (roleImage 3) (jiSecs (roleImage 3)) with | .refused _ => true | _ => false) = true) ∧
    ((jiSecs (image 0)).all fun e => e.2.typ != 2) = true := by decide +kernel

/-- A retirement or a re-shard while polder 7's wheel is as given, core 5 its core. -/
def planning (k : Nat) (w : Wheel) (j : Job) : State := working k (image 0) j ((planned 0 w).modCore 5 fun c => { c.setF Reg.CORE_IDENT_POLDER 7 with wheel := { c.wheel with outside := false, ended := false } })
def openTurn : Wheel := ⟨true, true, 0, 0, 500, none⟩

theorem witness_JobsAreInstalledRetiredAndResharded_part2 :
    (planning 2 stopped Job.none).takenKind 7 2 = some ⟨descr 2 64, 4⟩ ∧ ((planning 2 stopped Job.none).job 7).active = false ∧
    (((planning 2 openTurn (aJob false 0)).wheel 7).runs = true ∧ ((planning 2 openTurn (aJob false 0)).wheel 7).turnOpen = true ∧ (planning 2 openTurn (aJob false 0)).turnOver 7 = false) ∧
    (((planning 2 openTurn (aJob false 0)).haltWheel 7).wheel 7).runs = true ∧ (((planning 2 { openTurn with turnOpen := false } (aJob false 0)).haltWheel 7).wheel 7).runs = false ∧
    (planning 3 stopped (aJob false 1)).takenKind 7 3 = some ⟨descr 3 64, 4⟩ ∧
    (imageOk (image 0) = true ∧ badSec (image 0) = none ∧ imageOk (image 1) = true ∧ badSec (image 1) = some 0 ∧ imageOk [] = false ∧
      (planning 3 stopped (aJob false 0)).jobBytes (descr 3 64) = image 0) ∧
    ((planning 3 stopped (aJob false 1)).stepDone 7 4 = true ∧
      (((planning 3 stopped (aJob false 1)).setF (Reg.PIP_GROUP_CFG_VALID 0) 1 |>.setF (Reg.PIP_GROUP_CFG_POLDER 0) 7 |>.setF (Reg.PIP_GROUP_SHERDS_SHERD_MASK 0) 1).stepDone 7 4) = false) ∧
    (planning 3 stopped (aJob false 3)).permutesDone 7 = true ∧ ((planning 3 stopped (aJob false 3)).setOp 1 7 1023 (some (colop 3))).permutesDone 7 = false := by decide +kernel

/-- The last stage of a re-shard starts the new plan, or its plan is refused. -/
def resharded (s : State) : State :=
  let t := working 3 (image 0) (aJob false 3) s
  (((t.after 7 (image 0)).setJob 7 { aJob false 3 with reshard := 0, image := image 0, digest := [], next := [] }).loadOps 7 5).runWheel 7

theorem witness_JobsAreInstalledRetiredAndResharded_part3 : ((resharded (planned 0 stopped)).wheel 7).runs = true ∧ ((resharded (upAt 5)).wheel 7).runs = false := by decide +kernel

theorem test_jobs : goesTo (exec (.reshard 7) (planning 3 stopped (aJob false 2))) (fun t => (t.job 7).reshard == 3) = true := by decide +kernel

/-- A key blob of one entry. -/
def blob : List Byte := bytesLE 4 0x4C45524B ++ [1, 1] ++ List.replicate (0x6D0 + 80 - 6) 0

/-- A request of polder 7 with its pair and the digest of its report, in a state of the life cycle. -/
def keyed (k : Nat) (l : List Byte) (lc : Nat) (report : Byte) : State :=
  let s := (working k l Job.none).setF Reg.SEC_STATUS_LC_STATE lc
  { s with keys := [(7 * 17 + 16, [1])], rtp := { s.rtp with pairs := [(7, some 9)], reports := [(7, List.replicate 48 report)] } }

theorem witness_KeysAreMadeImportedAndDestroyed :
    ((keyed 4 [] 1 0).takenKind 7 4 = some ⟨descr 4 0, 4⟩ ∧ (upAt 5).takenKind 7 4 = none ∧ (keyed 4 [] 1 0).flag Reg.MGT_STATUS_MAIN_UP = true) ∧
    (jdLen (descr 4 0) < 16864 + 64 * ((keyed 4 [] 1 0).reportEntries (some 7)).length + 1665 ∧
      16864 + 64 * ((keyed 4 [] 1 0).reportEntries (some 7)).length + 1665 ≤ jdLen (descr 4 0x100000)) ∧
    ((keyed 5 [] 3 0).takenKind 7 5 = some ⟨descr 5 0, 4⟩ ∧ (keyed 5 [] 3 0).getF Reg.SEC_STATUS_LC_STATE = 3 ∧ (keyed 5 [] 1 0).getF Reg.SEC_STATUS_LC_STATE ≠ 3) ∧
    (State.blobOk [] = false ∧ State.blobOk blob = true ∧ SMap.get (fun _ => none) (upAt 5).rtp.pairs 7 = none ∧ SMap.get (fun _ => none) (keyed 5 [] 1 0).rtp.pairs 7 = some 9) ∧
    ((blob.drop 8).take 48 = SMap.get (fun _ => []) (keyed 5 [] 1 0).rtp.reports 7 ∧ (blob.drop 8).take 48 ≠ SMap.get (fun _ => []) (keyed 5 [] 1 1).rtp.reports 7) ∧
    (keyed 6 [] 1 0).takenKind 7 6 = some ⟨descr 6 0, 4⟩ := by decide +kernel

theorem test_keys : goesTo (exec (.keyClear 7) (keyed 6 [] 1 0)) (fun t => t.keys == [] && t.takenOf 7 == none) = true ∧
    goesTo (exec (.keyImport 7) (keyed 5 [] 1 0)) (fun t => t.keys == [(135, [1])] && SMap.get (fun _ => none) t.rtp.pairs 7 == none) = true := by decide +kernel

/-! ### The root of trust and the lands -/

/-- A request to the root of trust, by polder 7 or the side band, with the presence latch set or not. -/
def requested (l : List Byte) (presence : Option Nat) : State :=
  let s := working 7 l Job.none
  { s with rtp := { s.rtp with presence := presence }, power := { s.power with up := 10000 } }

theorem witness_TheRootOfTrustServesItsRequests :
    ((requested [] none).sideBandUp = true ∧ ((requested [] none).setF Reg.SEC_STATUS_RECOVERY 1).sideBandUp = false ∧ State.reset.sideBandUp = false) ∧
    ((upAt 5).takenKind 7 7 = none ∧ (requested [] none).takenKind 7 7 = some ⟨descr 7 0, 4⟩ ∧ (requested [] none).flag Reg.MGT_STATUS_MAIN_UP = true) ∧
    ((requested [] none).commandOf ((requested [] none).jobBytes (descr 7 0)) = 1 ∧ (requested [] none).commandOf [] = 1) ∧ (requested [] none).rtp.presence = none ∧
    ((requested [] none).requestErr 1 [] = 0x9001 ∧ (requested [] (some 5)).requestErr 1 [] = 0x9002) ∧
    ((upAt 5).flag Reg.SEC_STATUS_ROLLBACK = false ∧ (upAt 5).power.vaux = true ∧ State.reset.power.vaux = false ∧ (upAt 5).updateErr [] ≠ 0) ∧
    (10000 ≤ (requested [] none).power.up ∧ (upAt 5).power.up < 10000) ∧ ((requested [] (some 6000000)).rtp.presence = some 6000000 ∧ (requested [] (some 5999999)).rtp.presence = some 5999999) ∧
    ((upAt 5).flag Reg.SEC_STATUS_RECOVERY = false ∧ ((requested [] none).setF Reg.SEC_STATUS_RECOVERY 1).flag Reg.SEC_STATUS_RECOVERY = true) := by decide +kernel

theorem test_root_of_trust : goesTo (exec .presenceLatch (requested [] none)) (fun t => t.rtp.presence == some 0 && t.flag Reg.SEC_STATUS_PRESENCE) = true ∧
    goesTo (exec .presenceExpiry (requested [] (some 6000000))) (fun t => t.rtp.presence == none) = true := by decide +kernel

/-- The endpoint with PERST# low or not, an operator's read in a deferred queue. -/
def lands (low sel : Bool) (i3c : Option Nat) : State :=
  let s := upAt 5
  { s with power := { s.power with perstLow := low }, lands := { s.lands with sel := sel, i3c := i3c }, deferred := [(3, [.opRead 1 2 3, .victim 5])], behind := [.read 1 2 3] }

theorem witness_TheLandsAnswerTheirRequests :
    ((lands false false none).sideBandUp = true ∧ State.reset.sideBandUp = false ∧ (lands false false none).flag (Reg.PWR_DOM_ON 286) = false) ∧
    ((lands false false none).endpointUp = true ∧ (lands true false none).endpointUp = false ∧ (lands false false none).rtp.mgc = true ∧
      ({ lands false false none with rtp := Rtp.blank } : State).rtp.mgc = false) ∧
    ((lands true false none).power.perstLow = true ∧ (lands false false none).power.perstLow = false) ∧
    ((Reg.MGT_STATUS_MAIN_UP : FieldRef).off + 4 * (Reg.MGT_STATUS_MAIN_UP : FieldRef).words ≤ 0x8000 ∧ 0x10000 ≤ (Reg.PWR_STATUS_CURR_LIMIT : FieldRef).off) ∧
    (windowOpen (upAt 5) 0x200000 = true ∧ windowOpen State.reset 0x200000 = false ∧ 0x200000 % 4 = 0 ∧ 0x200001 % 4 ≠ 0) ∧
    ((lands false false none).power.vaux = true ∧ (lands false false none).lands.sel = false ∧ (lands false false none).lands.i3c = none ∧
      (lands false true none).lands.sel = true ∧ (lands false false (some 9)).lands.i3c ≠ none) := by decide +kernel

theorem test_lands : goesTo (exec .perst (lands false false none)) (fun t => t.deferred == [(3, [.victim 5])] && t.behind == []) = true ∧
    goesTo (exec .jtagIdcode (upAt 5)) (fun t => t.out == [.jtag [0x6B, 0x05, 0x96, 0x10]]) = true ∧
    goesTo (exec (.setdasa 0x30 8) (lands false false none)) (fun t => t.lands.i3c == some 8) = true := by decide +kernel

/-! ### Registers and the aperture -/

/-- The number of operations of polder 0 is a register whose write does nothing but set its field. -/
theorem test_plain_offset : PlainOffset 0x300408 :=
  ⟨fun _ _ _ => rfl, by decide, by decide, by decide, by decide, by decide⟩

theorem witness_RegistersAndMemoryAreReadAndWritten :
    ((windowOpen (upAt 5) 0xA00008 = true ∧ windowOpen State.reset 0xA00008 = false ∧ 0xA00009 % 4 ≠ 0) ∧ (upAt 5).writesReserved 0xA00008 0 = true ∧
      (upAt 5).reservedRole (0x610000 + 0x40 * 511) 3 = true ∧ (upAt 5).reservedRole (0x610000 + 0x40 * 511) 2 = false) ∧
    (windowOpen (upAt 5) 0x300408 = true ∧ 0x300408 % 4 = 0 ∧ (upAt 5).writesReserved 0x300408 1024 = false ∧ (upAt 5).writesReserved 0x300408 1025 = true ∧
      (upAt 5).reservedRole 0x300408 1024 = false ∧ (regAt 0x300408).isSome = true) ∧
    (∀ off ∈ [0x10000C, 0x80000C, 0x901000, 0x410010, 0x209004 + 0x40 * 7, 0x620000 + 0x40 * 7, 0x300020, 0x400014],
      windowOpen (upAt 5) off = true ∧ (upAt 5).writesReserved off 1 = false) ∧
    (windowOpen (upAt 5) (0xA00040 + 16 * 7) = true ∧ (upAt 5).writesReserved (0xA00040 + 16 * 7) 0x11 = false) ∧
    windowOpen (upAt 5) 0x1000000 = true := by decide +kernel

/-- The aperture's window at a place, channel 0 of stack 0 polder 7's, tokens for the operator, and a line of the slice. -/
def window (base : Nat) (lines : List Line) (queue : List Deferred) (runs : Bool) : State :=
  let s := (ownStack 0 7 (upAt 5)).setF Reg.MGT_APERTURE_BASE_BASE base
  let s := [0, 2].foldl (fun (s : State) k => (s.setF (Reg.MEM_WEIR_RATE 0 8 k) 1).setF (Reg.MEM_WEIR_BURST 0 8 k) 100) s
  let s := { s with slices := [(State.setOf 0x1000, lines)], deferred := [(0, queue)] }
  if runs then polderRuns 7 s else s

def oneLine : List Line := [⟨0, 0x1000, false, [], []⟩]

theorem witness_RegistersAndMemoryAreReadAndWritten_part2 :
    ((window 0 [] [] false).claims2 0 4 = true ∧ (window 0 [] [] false).claims2 (2 ^ 36 - 3) 4 = false ∧ (lands true false none).claims2 0 4 = false) ∧
    ((window 2048 [] [] false).getF Reg.MGT_APERTURE_BASE_BASE * 2 ^ 30 = 0x20000000000 ∧ windowOpen (window 2048 [] [] false) 0x3FFFFFC = true ∧
      windowOpen State.reset 0x100000 = false ∧ windowOpen ((upAt 5).setF Reg.MGT_STATUS_MAIN_UP 0) 0x100000 = false) ∧
    ((lands false false none).behind ≠ [] ∧ (window 0 [] [] false).behind = [] ∧ 0x1000 % 2048 + 2048 ≤ 2048 ∧ region 0x1000 ≠ .control) ∧
    ((window 0 [] [] false).apertureOk 0x60000000 = false ∧ (window 1024 [] [] false).apertureOk 0x100FFF80000 = true ∧ region 0x100FFF80000 = .scratch 8191 ∧
      (window 0 [] [] false).apertureOk 0x1000 = true ∧ region 0x1000 = .dram 0 0) ∧
    ((((window 1024 [] [] false).modCore 8191 fun c => c.setAttr 0 ⟨true, none⟩).core 8191).attr (0x100FFF80000 % 0x80000 / 2048)).isSealed = true ∧
    (((window 1024 [] [] false).core 8191).attr (0x100FFF80000 % 0x80000 / 2048)).isSealed = false ∧
    (State.ringSealed { Core.empty with ctxs := [(0, { Ctx.empty with state := .isOpen, desc := 0x01BF0002, recs := [⟨0, 1, 1, true, false, true⟩] })] } 191 = true ∧
      State.ringSealed ((window 1024 [] [] false).core 8191) 0 = false ∧ ((window 1024 [] [] false).core 8191).sb = []) ∧
    ((engine [ent (cmd 0x10 [])]).core 8191).sb ≠ [] := by decide +kernel

theorem witness_RegistersAndMemoryAreReadAndWritten_part3 :
    (0 * 32 + 0 ∈ ({ window 0 [] [] false with wiping := [0] } : State).wiping ∧ 0 * 32 + 0 ∉ (window 0 [] [] false).wiping) ∧
    ((window 0 [] [] false).weirPass 8 readTile 0x1000 = true ∧ (window 0 [] [] false).weirPass 8 readShort 0x1000 = true) ∧
    (((window 0 oneLine [] false).lineOf 0 0x1000).isSome = true ∧ ((window 0 [] [] false).lineOf 0 0x1000).isSome = false) ∧
    ((window 0 [] [] true).chanRuns 0 0 = true ∧ (window 0 [] [] false).chanRuns 0 0 = false) ∧
    (16 ≤ ((window 0 [] (List.replicate 16 (.victim 5)) true).queueOf 0 0).length ∧ ((window 0 [] (List.replicate 15 (.victim 5)) true).queueOf 0 0).length < 16) := by decide +kernel

theorem test_registers : goesTo (exec (.ringEnable 2) (upAt 5)) (fun t => t.getF Reg.MGT_TRACE_CTL_ENABLE == 1) = true ∧
    goesTo (exec (.registerWrite 0x300408 1024 []) (upAt 5)) (fun t => t.getF (Reg.COL_OP_COUNT_COUNT 0 0) == 1024) = true ∧
    refuses (exec (.registerWrite 0xA00008 0 []) (upAt 5)) "R10" = true ∧
    goesTo (exec (.apertureWrite 0 [1, 2, 3, 4] []) (window 1024 [] [] false)) (fun t => t.memNat 0x10000000000 4 == 0x04030201) = true := by decide +kernel

end Sys2Proof.Tests
end

section
/-! The decoding of device addresses (R29). `region` is described once per row of R29's table, for any address of that row's range, and once for the gaps between
the rows; the obligation then follows by splitting a window's address into its number and its offset. -/

namespace Sys2Proof.Proofs.AddressDecode

open Sys2Proof.Machine

/-! ### One rule per row of the table -/

theorem region_of_dramRange {a : Nat} (hi : a < 0x10000000000) :
    region a = if a % 0x80000000 < 0x60000000 then .dram (a / 0x1000000000) (a / 0x80000000 % 32) else .unmapped :=
  if_pos hi

theorem region_of_scratchRange {a : Nat} (lo : 0x10000000000 ≤ a) (hi : a < 0x10100000000) :
    region a = if a % 0x80000 < 0x60000 then .scratch (a / 0x80000 % 8192) else .unmapped :=
  (if_neg lo.not_gt).trans (if_pos hi)

/-- Above the scratchpads only the control window and the host window remain. -/
theorem region_above_scratchRange {a : Nat} (lo : 0x10100000000 ≤ a) :
    region a = if 0x20000000000 ≤ a ∧ a < 0x20004000000 then .control
      else if 0x80000000000 ≤ a ∧ a < 0x100000000000 then .host else .unmapped :=
  (if_neg (by omega)).trans (if_neg lo.not_gt)

theorem region_of_controlRange {a : Nat} (lo : 0x20000000000 ≤ a) (hi : a < 0x20004000000) : region a = .control :=
  (region_above_scratchRange (by omega)).trans (if_pos ⟨lo, hi⟩)

theorem region_of_hostRange {a : Nat} (lo : 0x80000000000 ≤ a) (hi : a < 0x100000000000) : region a = .host := by
  rw [region_above_scratchRange (by omega), if_neg (by omega), if_pos ⟨lo, hi⟩]

theorem region_between_ranges {a : Nat} (lo : 0x10100000000 ≤ a)
    (gap : a < 0x20000000000 ∨ (0x20004000000 ≤ a ∧ a < 0x80000000000)) : region a = .unmapped := by
  rw [region_above_scratchRange lo, if_neg (by omega), if_neg (by omega)]

/-! ### Windows by number and offset -/

/-- A channel window: the decoder's divisions give back the stack, the channel and the offset. -/
theorem region_channelWindow {st ch o : Nat} (hst : st < 16) (hch : ch < 32) (ho : o < 0x80000000) :
    region (st * 0x1000000000 + ch * 0x80000000 + o) = if o < 0x60000000 then .dram st ch else .unmapped := by
  have offset : (st * 0x1000000000 + ch * 0x80000000 + o) % 0x80000000 = o := by omega
  have stack : (st * 0x1000000000 + ch * 0x80000000 + o) / 0x1000000000 = st := by omega
  have channel : (st * 0x1000000000 + ch * 0x80000000 + o) / 0x80000000 % 32 = ch := by omega
  rw [region_of_dramRange (by omega), offset, stack, channel]

/-- A core window: the decoder's divisions give back the core and the offset. -/
theorem region_coreWindow {i o : Nat} (hi : i < 8192) (ho : o < 0x80000) :
    region (0x10000000000 + i * 0x80000 + o) = if o < 0x60000 then .scratch i else .unmapped := by
  have offset : (0x10000000000 + i * 0x80000 + o) % 0x80000 = o := by omega
  have core : (0x10000000000 + i * 0x80000 + o) / 0x80000 % 8192 = i := by omega
  rw [region_of_scratchRange (by omega) (by omega), offset, core]

/-- Settles O11: each row of R29's table by its own rule, and the gaps between the rows by `region_between_ranges`. -/
theorem deviceAddressesDecodeAsTheTableSays : Obligations.DeviceAddressesDecodeAsTheTableSays :=
  ⟨fun _ _ _ => region_channelWindow,
   fun _ _ => region_coreWindow,
   fun _ ho => region_of_controlRange (by omega) (by omega),
   fun _ hh => region_of_hostRange (by omega) (by omega),
   fun _ => region_between_ranges⟩

end Sys2Proof.Proofs.AddressDecode
end

section
/-! Debug mode (R138, R139). What a write of a scalar register does to a core, what a write of half of one leaves in the word, what the command does under its
conditions and otherwise, and what the two debug arrays read outside debug mode. -/

namespace Sys2Proof.Proofs.DebugRegisters

open Sys2Proof.Machine Sys2Proof.Laws

/-! ### Scalar registers and their halves -/

theorem getX_setX (c : Core) {n : Nat} (hn : n ≠ 0) (v : DWord) (m : Nat) :
    (c.setX n v).getX m = if m = n then v else c.getX m := by
  unfold Core.setX Core.getX
  rw [if_neg hn]
  by_cases hm : m = 0
  · rw [if_pos hm, if_pos hm, if_neg (by omega)]
  · rw [if_neg hm, if_neg hm]
    exact get_set _ _ _ _ _

theorem setX_zero (c : Core) (v : DWord) : c.setX 0 v = c := rfl

theorem setX_only (c : Core) (n : Nat) (v : DWord) : c.setX n v = { c with x := (c.setX n v).x } := by
  unfold Core.setX
  split <;> rfl

/-- The field [63:32] replaced is the high word replaced. -/
theorem ofNat_setBits_high (v : DWord) (w : Word) :
    BitVec.ofNat 64 (setBits v.toNat 63 32 w.toNat) = w ++ v.extractLsb' 0 32 := by
  have kept : v.toNat / 2 ^ 64 = 0 := Nat.div_eq_of_lt v.isLt
  apply BitVec.eq_of_toNat_eq
  rw [setBits_eq _ _ _ _ (by decide), BitVec.toNat_append, ← Nat.shiftLeft_add_eq_or_of_lt (BitVec.isLt _)]
  simp only [BitVec.toNat_ofNat, BitVec.extractLsb'_toNat, Nat.shiftLeft_eq, Nat.shiftRight_zero]
  omega

/-- The field [31:0] replaced is the low word replaced. -/
theorem ofNat_setBits_low (v : DWord) (w : Word) :
    BitVec.ofNat 64 (setBits v.toNat 31 0 w.toNat) = v.extractLsb' 32 32 ++ w := by
  apply BitVec.eq_of_toNat_eq
  rw [setBits_eq _ _ _ _ (by decide), BitVec.toNat_append, ← Nat.shiftLeft_add_eq_or_of_lt (BitVec.isLt _)]
  simp only [BitVec.toNat_ofNat, BitVec.extractLsb'_toNat, Nat.shiftLeft_eq, Nat.shiftRight_eq_div_pow]
  omega

theorem ofNat_setBits_half (high : Bool) (v : DWord) (w : Word) :
    BitVec.ofNat 64 (if high then setBits v.toNat 63 32 w.toNat else setBits v.toNat 31 0 w.toNat) =
      if high then w ++ v.extractLsb' 0 32 else v.extractLsb' 32 32 ++ w := by
  cases high
  · exact ofNat_setBits_low v w
  · exact ofNat_setBits_high v w

/-! ### The command -/

theorem oneCore_setCore (s : State) (i : Nat) (c : Core) : OneCore i c s (s.setCore i c) :=
  ⟨rfl, by simp, fun j hj => by simp [hj]⟩

/-- The write takes effect: the sequencer is halted in debug mode. -/
theorem exec_coreDbgXregWrite_halted {i n : Nat} {s : State} (hn : n < 32) (halted : (s.core i).halted = true)
    (debug : (s.core i).flag Reg.CORE_CTL_DEBUG = true) (high : Bool) (v : Word) :
    exec (.coreDbgXregWrite i n high v) s = .next (s.setCore i ((s.core i).setX n
      (if high then v ++ ((s.core i).getX n).extractLsb' 0 32 else ((s.core i).getX n).extractLsb' 32 32 ++ v))) := by
  change execCoreDbgXregWrite i n high v s = _
  rw [execCoreDbgXregWrite, State.modCore, halted, debug, Nat.mod_eq_of_lt hn, ← ofNat_setBits_half]
  rfl

/-- The write has no effect: the sequencer runs, the core is not in debug mode, or the register is X[0]. -/
theorem exec_coreDbgXregWrite_noEffect {i n : Nat} {s : State}
    (h : (s.core i).halted = false ∨ (s.core i).flag Reg.CORE_CTL_DEBUG = false ∨ n = 0) (high : Bool) (v : Word) :
    exec (.coreDbgXregWrite i n high v) s = .next (s.setCore i (s.core i)) := by
  change execCoreDbgXregWrite i n high v s = _
  rw [execCoreDbgXregWrite, State.modCore]
  obtain halted | debug | rfl := h
  · simp [halted]
  · simp [debug]
  · simp [setX_zero]

/-! ### Reading the debug arrays -/

/-- CORE_DBG_XREG lies at 0x300 to 0x3FF of a core's page, CORE_DBG_ACC_DATA at 0x400 to 0x47F. -/
theorem pageWord_debugArrays {s : State} {i o : Nat} (debug : (s.core i).flag Reg.CORE_CTL_DEBUG = false)
    (lo : 0x300 ≤ o) (hi : o < 0x480) : s.pageWord i o = 0 := by
  unfold State.pageWord
  dsimp only
  rw [if_neg (by omega), if_neg (by omega), if_neg (by omega), if_neg (by omega), if_neg (by omega), if_neg (by omega)]
  by_cases xreg : o < 0x400
  · rw [if_pos ⟨lo, xreg⟩, debug, if_neg Bool.false_ne_true]
  · rw [if_neg (by omega), if_pos ⟨by omega, hi, debug⟩]

theorem viewWord_page {i o : Nat} (s : State) (hi : i < 8192) (ho : o < 0x1000) :
    s.viewWord (0x1000000 + 0x1000 * i + o) = BitVec.ofNat 32 (s.pageWord i o) := by
  have core : (0x1000000 + 0x1000 * i + o - 0x1000000) / 0x1000 = i := by omega
  have offset : (0x1000000 + 0x1000 * i + o) % 0x1000 = o := by omega
  rw [State.viewWord, if_pos (by omega), if_pos (by omega), core, offset]

/-- Settles O41: the command by its two cases, the arrays through the core's page. -/
theorem debugRegistersNeedDebugModeAndAHalt : Obligations.DebugRegistersNeedDebugModeAndAHalt := by
  rintro i s _ hi rfl
  refine ⟨fun n high v hn => ⟨fun halted debug n0 => ⟨_, exec_coreDbgXregWrite_halted hn halted debug high v, ?_⟩,
    fun h => ⟨_, exec_coreDbgXregWrite_noEffect h high v, oneCore_setCore s i _⟩⟩, fun debug o lo ho => ?_⟩
  · simp only [setCore_core, if_true, getX_setX _ n0]
    refine ⟨trivial, fun m hm => if_neg hm, ?_⟩
    rw [← setX_only]
    exact oneCore_setCore s i _
  · exact (viewWord_page s hi (by omega)).trans (congrArg _ (pageWord_debugArrays debug lo ho))

end Sys2Proof.Proofs.DebugRegisters
end

section
/-! RELEASE (R308). Which command issues, what a command that ends at once leaves, what the stash holds after an entry is written or freed, and which registers the
freeing moves; the obligation is then one equation of `State.runRelease` for each of its outcomes. -/

namespace Sys2Proof.Proofs.Release

open Sys2Proof.Machine Sys2Proof.Laws

/-! ### The command that issues (R103) -/

theorem firstReady_some {s : State} {i : Nat} {e : SbEntry} {l : List SbEntry} :
    ∀ {earlier : List SbEntry}, s.firstReady i earlier l = some e → e ∈ l ∧ ∃ before, s.canIssue i before e = true := by
  induction l with
  | nil => exact fun h => nomatch h
  | cons x l ih =>
    intro earlier h
    rw [State.firstReady] at h
    split at h
    · next ready =>
      obtain rfl := Option.some.inj h
      exact ⟨List.mem_cons_self, earlier, ready⟩
    · obtain ⟨mem, ready⟩ := ih h
      exact ⟨List.mem_cons_of_mem x mem, ready⟩

theorem nextIssue_of_issuing {s : State} {i seq op : Nat} {e : SbEntry} (h : s.issuing i seq op = some e) : s.nextIssue i = some e := by
  rw [State.issuing] at h
  split at h
  · next next =>
    split at h
    · exact next.trans h
    · cases h
  · cases h

theorem mem_sb_of_issuing {s : State} {i seq op : Nat} {e : SbEntry} (h : s.issuing i seq op = some e) : e ∈ (s.core i).sb :=
  (firstReady_some (nextIssue_of_issuing h)).1

/-- A command issues only once its slot's resources are its own. -/
theorem owned_of_issuing {s : State} {i seq op : Nat} {e : SbEntry} (h : s.issuing i seq op = some e) : s.owned i e.q = true := by
  obtain ⟨-, before, ready⟩ := firstReady_some (nextIssue_of_issuing h)
  rw [State.canIssue, Bool.and_eq_true] at ready
  exact ready.2

/-! ### A command that ends at once -/

/-- The place of issue that `State.setFlight` gives to an entry whose flight it records. -/
def placeOf (x : SbEntry) (f : Flight) : Nat := (x.flight.map (·.order)).getD f.order

theorem setFlight_sb (s : State) (i : Nat) (q : BitVec 16) (f : Flight) :
    ((s.setFlight i q f).core i).sb =
      (s.core i).sb.map fun x => if x.q.seq == q then { x with flight := some { f with order := placeOf x f } } else x := by
  simp only [State.setFlight, modCore_core, if_true, placeOf]

theorem inFlight_setFlight {s : State} {i : Nat} {e : SbEntry} (mem : e ∈ (s.core i).sb) (f : Flight) :
    InFlight (s.setFlight i e.q.seq f) i e.q.seq f := by
  rw [InFlight, setFlight_sb]
  refine ⟨⟨_, List.mem_map_of_mem mem, by simp⟩, fun y hy hseq => ?_⟩
  obtain ⟨x, -, rfl⟩ := List.mem_map.mp hy
  by_cases same : x.q.seq = e.q.seq
  · exact ⟨placeOf x f, by simp [same]⟩
  · simp [same] at hseq

theorem inFlight_launchError {s : State} {i : Nat} {e : SbEntry} (mem : e ∈ (s.core i).sb) (status : Nat) :
    InFlight (s.launchError i e status) i e.q.seq (Ended status) := by
  have counted : e ∈ ((s.modCore i fun c => c.bump Reg.CORE_CNT_ISSUED_COUNT 1).core i).sb := by
    rw [modCore_core, if_pos rfl]
    exact mem
  exact inFlight_setFlight counted _

theorem onlyCore_launchError (s : State) (i : Nat) (e : SbEntry) (status : Nat) : OnlyCore i s (s.launchError i e status) := by
  refine ⟨rfl, rfl, fun j other => ?_⟩
  simp [State.launchError, State.launch, State.setFlight, other]

@[simp] theorem launchError_stashOf (s : State) (i : Nat) (e : SbEntry) (status g : Nat) (infer : Bool) (mb : Nat) :
    (s.launchError i e status).stashOf g infer mb = s.stashOf g infer mb := rfl

/-! ### The stash (R312, R315) -/

theorem stashOf_eq_some_iff {s : State} {g mb : Nat} {infer : Bool} {b : StashEntry} :
    s.stashOf g infer mb = some b ↔ s.stashAt g (State.stashIdx infer mb) = some b ∧ b.mbSeq = mb := by
  simp [State.stashOf, Option.filter_eq_some_iff]

theorem stashAt_setStash_same (s : State) (g k : Nat) (o : Option StashEntry) : (s.setStash g k o).stashAt g k = o :=
  (get_set _ _ _ _ _).trans (if_pos rfl)

/-- An OLD version's retirement moves its STATE and RETIRE_COUNT alone (R320). -/
theorem onlyRegs_retireVer (s : State) (g j : Nat) :
    OnlyRegs [Reg.PIP_VER_STATE g j, Reg.PIP_CNT_RETIRE_COUNT g] s (s.retireVer g j) := by
  rw [State.retireVer]
  split
  · exact onlyRegs_trans (onlyRegs_setF _ _ _) (onlyRegs_bump _ _ _)
  · exact ⟨rfl, regsBut_refl _ s⟩

/-- The state in which an entry has left the stash and its version's reference is given up; the version has yet to retire. -/
def unreferenced (g k : Nat) (b : StashEntry) (s : State) : State :=
  (s.setStash g k none).setF (Reg.PIP_VER_REFS g b.vslot) (s.getF (Reg.PIP_VER_REFS g b.vslot) - 1)

section
variable {s : State} {g k : Nat} {b : StashEntry} (held : s.stashAt g k = some b)
include held

theorem freeStash_eq : s.freeStash g k = (unreferenced g k b s).retireVer g b.vslot := by
  rw [State.freeStash, held]
  rfl

/-- Freeing an entry moves register words and the stash alone. -/
theorem freeStash_only : s.freeStash g k = { s with regs := (s.freeStash g k).regs, stash := (s.freeStash g k).stash } := by
  rw [freeStash_eq held, (onlyRegs_retireVer _ g b.vslot).1]
  rfl

theorem stashAt_freeStash : (s.freeStash g k).stashAt g k = none := by
  rw [freeStash_eq held, (onlyRegs_retireVer _ g b.vslot).1]
  exact stashAt_setStash_same s g k none

/-- Of the registers, freeing an entry moves its version's REFS and STATE, and RETIRE_COUNT. -/
theorem regsBut_freeStash :
    RegsBut [Reg.PIP_VER_REFS g b.vslot, Reg.PIP_VER_STATE g b.vslot, Reg.PIP_CNT_RETIRE_COUNT g] s (s.freeStash g k) := by
  intro f apart
  rw [freeStash_eq held, (onlyRegs_retireVer _ g b.vslot).2 f fun r hr => apart r (List.mem_cons_of_mem _ hr)]
  exact getF_setF_apart _ f _ _ (apart _ List.mem_cons_self)

end

/-! ### REFS and the counter of releases -/

theorem getF_lt (s : State) (f : FieldRef) : s.getF f < 2 ^ (f.hi + 1 - f.lo) := Nat.mod_lt _ (Nat.two_pow_pos _)

theorem placed_refs (g j : Nat) : Placed (Reg.PIP_VER_REFS g j) := ⟨by simp [Reg.PIP_VER_REFS], by simp [Reg.PIP_VER_REFS]⟩

theorem placed_releaseCount (g : Nat) : Placed (Reg.PIP_CNT_RELEASE_COUNT g) :=
  ⟨by simp [Reg.PIP_CNT_RELEASE_COUNT], by simp [Reg.PIP_CNT_RELEASE_COUNT]⟩

/-- REFS and STATE are two fields of one register. -/
theorem apart_refs_state (g j : Nat) : Apart (Reg.PIP_VER_REFS g j) (Reg.PIP_VER_STATE g j) := by
  simp [Apart, Reg.PIP_VER_REFS, Reg.PIP_VER_STATE]

section
variable {g j : Nat} (slot : j < 4)
include slot

theorem apart_refs_retireCount : Apart (Reg.PIP_VER_REFS g j) (Reg.PIP_CNT_RETIRE_COUNT g) := by
  simp only [Apart, Reg.PIP_VER_REFS, Reg.PIP_CNT_RETIRE_COUNT]
  omega

theorem apart_refs_releaseCount : Apart (Reg.PIP_VER_REFS g j) (Reg.PIP_CNT_RELEASE_COUNT g) := by
  simp only [Apart, Reg.PIP_VER_REFS, Reg.PIP_CNT_RELEASE_COUNT]
  omega

theorem apart_releaseCount_freed :
    ∀ r ∈ [Reg.PIP_VER_REFS g j, Reg.PIP_VER_STATE g j, Reg.PIP_CNT_RETIRE_COUNT g], Apart (Reg.PIP_CNT_RELEASE_COUNT g) r := by
  simp only [List.forall_mem_cons, Apart, Reg.PIP_CNT_RELEASE_COUNT, Reg.PIP_VER_REFS, Reg.PIP_VER_STATE, Reg.PIP_CNT_RETIRE_COUNT]
  exact ⟨by omega, by omega, by omega, List.forall_mem_nil _⟩

end

/-- The version's REFS falls by one; its retirement leaves REFS alone. -/
theorem getF_refs_freeStash {s : State} {g k : Nat} {b : StashEntry} (held : s.stashAt g k = some b) (slot : b.vslot < 4) :
    (s.freeStash g k).getF (Reg.PIP_VER_REFS g b.vslot) = s.getF (Reg.PIP_VER_REFS g b.vslot) - 1 := by
  have apart : ∀ r ∈ [Reg.PIP_VER_STATE g b.vslot, Reg.PIP_CNT_RETIRE_COUNT g], Apart (Reg.PIP_VER_REFS g b.vslot) r :=
    List.forall_mem_cons.mpr ⟨apart_refs_state g _, List.forall_mem_singleton.mpr (apart_refs_retireCount slot)⟩
  rw [freeStash_eq held, (onlyRegs_retireVer _ g b.vslot).2 _ apart, unreferenced, getF_setF _ _ _ (placed_refs _ _)]
  exact Nat.mod_eq_of_lt (Nat.sub_lt_of_lt (getF_lt s _))

/-! ### The outcomes of a RELEASE -/

/-- A RELEASE that issues does its work and ends at once with the status of it. -/
theorem exec_release_of_issuing {s t : State} {i m status : Nat} {e : SbEntry} (issues : s.issuing i m 0x49 = some e)
    (mode : qMode e.q.cmd = 2) (runs : s.runRelease i e.q.cmd = (t, status)) :
    exec (.release i m) s = .next (t.launchError i e status) := by
  change execRelease i m s = _
  rw [execRelease, issues]
  simp only [mode, runs, ne_eq, not_true_eq_false, if_false]

section
variable {s : State} {i g : Nat} {c : CmdWord} (group : s.groupOf i = some g)
include group

theorem runRelease_not_in_stash (none_there : s.stashOf g (qInfer c) (c.u32 0x10) = none) :
    s.runRelease i c = (s, pipENostash) := by
  simp only [State.runRelease, group, none_there]

variable {b : StashEntry} (held : s.stashOf g (qInfer c) (c.u32 0x10) = some b)
include held

theorem runRelease_counts (more : b.count + 1 < s.getF (Reg.PIP_GROUP_MB_RELEASERS g) + 1) :
    s.runRelease i c = (s.setStash g (State.stashIdx (qInfer c) (c.u32 0x10)) (some { b with count := b.count + 1 }), 0) := by
  simp only [State.runRelease, group, held]
  exact if_pos more

theorem runRelease_frees (last : s.getF (Reg.PIP_GROUP_MB_RELEASERS g) + 1 ≤ b.count + 1) :
    s.runRelease i c =
      (((s.freeStash g (State.stashIdx (qInfer c) (c.u32 0x10))).bump (Reg.PIP_CNT_RELEASE_COUNT g) 1).allKilnWork (s.groupPolder g), 0) := by
  simp only [State.runRelease, group, held]
  exact if_neg last.not_gt

end

/-- Settles O49: the outcomes of `State.runRelease`, by whether the stash holds the micro-batch and whether this is its last releaser. -/
theorem releasesCountAndFreeTheStashEntry : Obligations.ReleasesCountAndFreeTheStashEntry := by
  rintro i m g s e _ rfl issues mode group
  have mem := mem_sb_of_issuing issues
  refine ⟨owned_of_issuing issues, fun none_there => ?_, fun b held more => ?_, fun b held last slot => ?_⟩
  · have run := exec_release_of_issuing issues mode (runRelease_not_in_stash group none_there)
    exact ⟨_, run, inFlight_launchError mem _, onlyCore_launchError s i e _⟩
  · have run := exec_release_of_issuing issues mode (runRelease_counts group held more)
    have micro := (stashOf_eq_some_iff.mp held).2
    refine ⟨_, run, inFlight_launchError mem 0, ?_, rfl⟩
    rw [launchError_stashOf]
    exact stashOf_eq_some_iff.mpr ⟨stashAt_setStash_same s g _ _, micro⟩
  · have run := exec_release_of_issuing issues mode (runRelease_frees group held last)
    have there := (stashOf_eq_some_iff.mp held).1
    refine ⟨_, run, congrArg (Option.filter _) (stashAt_freeStash there), ?_, ?_, ?_⟩
    · rw [getF_bump_apart _ _ _ _ (apart_refs_releaseCount slot), getF_refs_freeStash there slot]
    · rw [getF_bump _ _ _ (placed_releaseCount g), regsBut_freeStash there _ (apart_releaseCount_freed slot)]
      rfl
    · rw [freeStash_only there]
      rfl

end Sys2Proof.Proofs.Release
end
